-- ==== Sys2Proof/Word.lean ====
section
/-! DEFINITION. The words of the machine and the plainest arithmetic on them (spec 00 R4, R9). -/

namespace Sys2Proof

/-- One byte of memory. -/
abbrev Byte := BitVec 8

/-- A 32-bit register (04 R90). -/
abbrev Word := BitVec 32

/-- A 64-bit value: an address, a pair, a literal. -/
abbrev DWord := BitVec 64

end Sys2Proof
end

