-- ==== Sys2Proof/Config.lean ====
section
/-! DEFINITION. What an implementation fixes and what the spec leaves open: free values without a body (DESIGN CHOICE, log 8), so that
no proof can rest on one of them. A free value is applied to a counter of State, `free`, or to the operands it depends
on. -/

namespace Sys2Proof

/-- Noise of the spinner's cells under PHYS (17 R328): the k-th value drawn. DESIGN CHOICE, log 8. -/
opaque Config.noise : Nat → BitVec 16

/-- The bytes that a granule written as one data unit reads as another (09 R220): the units as key and tweak PA[47:6], none for plain
bytes, and the plain bytes that were written. DESIGN CHOICE, log 8. -/
opaque Config.garble : Option (BitVec 512 × Nat) → Option (BitVec 512 × Nat) → BitVec 512 → BitVec 512

/-- The signature over the bytes of an attestation report, under a private key that nothing reads (19 R355). DESIGN CHOICE, log 8. -/
opaque Config.reportSignature : List Byte → BitVec 512

/-- SHA-256 of a list of bytes (19 R355), whose definition the spec takes from outside. DESIGN CHOICE, log 8. -/
opaque Config.sha256 : List Byte → BitVec 256

/-- The device's serial number (19 R355). DESIGN CHOICE, log 8. -/
opaque Config.serial : BitVec 128

/-- Size in bytes of the save record of a block with so many register blocks, crews, threads, scratchpad bytes, tasks and
matrix units (10 R255 names what it holds, not its size): below 4 GiB, of a core whose store has 2 MiB. DESIGN CHOICE, log 12. -/
opaque Config.saveSize : Nat → Nat → Nat → Nat → Nat → Nat → BitVec 32

/-- Which of a quadrant's two stations stands at stop 32 of its rings, the other at 33: whether the one of the quadrant's own index (09 R214 gives the
two stops and not their order). DESIGN CHOICE, log 37. -/
opaque Config.stationFirst : Nat → Bool

/-- The set of a line in an L1 share of so many sets (09 R201 names the sets and ways and no index), taken modulo their number. DESIGN
CHOICE, log 10. -/
opaque Config.l1Set : Nat → Nat → Nat

/-- Spare rows of a storage unit beyond the one to which the first test moves a row (19 R351). DESIGN CHOICE, log 8. -/
opaque Config.moreSpares : Nat

/-- The k-th value drawn where an effect needs a word that the spec does not state: fields of a record that no thread caused, a booking
that an edit moves or not, the rounding of a fractional number of bytes, a delay of a row's move. DESIGN CHOICE, log 8. -/
opaque Config.freeWord : Nat → Word

end Sys2Proof
end

