-- ==== Sys2Proof/Syntax.lean ====
section
/-! DEFINITION. The instructions and the device's happenings, one constructor per row of spec/opcode_table.json.
S-forms hold the fields of 03 R61 and R62, X-forms those of 03 R65 and R66; the opcode is the constructor.
The rows after the instructions are the device's own steps and the messages it receives (95_what_each_step_holds). -/

namespace Sys2Proof

/-- The guard of an instruction: predicate G and its negation GN (03 R61, R66). -/
structure Guard where
  neg : Bool
  p : BitVec 3
  deriving DecidableEq, Repr

/-- An S-form with destination D and sources A and B; with L = 01 the literal replaces B (03 R61, R69). -/
structure SBin where
  g : Guard
  hold : Bool
  a : BitVec 6
  b : BitVec 6
  d : BitVec 6
  lit : Option (BitVec 64)
  deriving DecidableEq, Repr

/-- An S-form of one source A (03 R62). -/
structure SUn where
  g : Guard
  hold : Bool
  a : BitVec 6
  d : BitVec 6
  deriving DecidableEq, Repr

/-- The S-form of MOV: source B or the literal (03 R62). -/
structure SMov where
  g : Guard
  b : BitVec 6
  d : BitVec 6
  lit : Option (BitVec 64)
  deriving DecidableEq, Repr

/-- An S-form compare: condition D[5:3] and destination predicate D[2:0] (03 R62, R63). -/
structure SCmp where
  g : Guard
  hold : Bool
  a : BitVec 6
  b : BitVec 6
  cond : BitVec 3
  pd : BitVec 3
  deriving DecidableEq, Repr

/-- The S-form of PLOP (03 R62). -/
structure SPlop where
  g : Guard
  pd : BitVec 3
  fn : BitVec 3
  pa : BitVec 3
  pb : BitVec 3
  deriving DecidableEq, Repr

/-- An S-form branch with its word offset (03 R62). -/
structure SBr where
  g : Guard
  off : BitVec 18
  deriving DecidableEq, Repr

/-- An S-form branch to a register pair: v(2a) and v(2a+1) (03 R62: A is even). -/
structure SPair where
  g : Guard
  hold : Bool
  a : BitVec 5
  deriving DecidableEq, Repr

/-- An S-form that names a join mask or a time register (03 R62). -/
structure SNum where
  g : Guard
  n : BitVec 3
  deriving DecidableEq, Repr

/-- The S-form of TRAP with its code (03 R62). -/
structure STrap where
  g : Guard
  code : BitVec 8
  deriving DecidableEq, Repr

/-- The fields of an X-form: base word and extension word, and the literal with L = 11 (03 R65, R66). -/
structure XOps where
  g : Guard
  a : BitVec 8
  b : BitVec 8
  c : BitVec 8
  d : BitVec 8
  sub : BitVec 6
  imm : BitVec 32
  te : Bool
  t : BitVec 3
  hold : BitVec 2
  la : BitVec 4
  lit : Option (BitVec 64)
  deriving DecidableEq, Repr

/-- The kinds of an abort completion: fault kinds 6 to 9 (10 R234). -/
inductive AbortKind where
  | unmappedPa
  | integrity
  | uncorrectable
  | revoked
  deriving DecidableEq, Repr

/-- The engines of a core (15 R305). -/
inductive Engine where
  | matrix
  | copy
  | gather
  deriving DecidableEq, Repr

/-- Who sent a fabric message: the port it arrived at, its owner tag and the sender's endpoint (19 R338, R341). -/
structure Sender where
  port : Nat
  tag : BitVec 16
  endpoint : BitVec 16
  deriving DecidableEq, Repr

/-- An outstanding load of a core. -/
structure LoadRef where
  core : Nat
  load : Nat
  deriving DecidableEq, Repr

/-- A booked arrival converted again at a new island ratio (05 R137). -/
structure Rebook where
  core : Nat
  load : Nat
  cycle : BitVec 29
  deriving DecidableEq, Repr

/-- Where an uncorrectable error is met (10 R248, R249, 19 R351): a 32-byte sector of memory by physical address, in DRAM or in the L2 slice that
holds it, four bytes of a core store, or a unit that the holder's engine task reads. -/
inductive ErrSite where
  | memory (pa : Nat)
  | slice (pa : Nat)
  | store (core off : Nat)
  | task (core task : Nat)
  | regroup (core : Nat)
  deriving DecidableEq, Repr

/-- A storage row under test (19 R351). -/
inductive Row where
  | dram (stack row : Nat) (spare : Bool)
  | sram (core row : Nat) (spare : Bool)
  | slice (slice row : Nat) (spare : Bool)
  deriving DecidableEq, Repr

/-- An RDMA access of a queue pair (19 R349, R350). -/
inductive RdmaOp where
  | read (n : Nat)
  | write (data : List (BitVec 8))
  deriving DecidableEq, Repr

/-- A management firmware image: its version, its SHA-256, and whether its signature verifies (19 R354, R355). -/
structure FwImage where
  version : BitVec 64
  sha : BitVec 256
  verifies : Bool
  deriving DecidableEq, Repr

/-- What the firmware adds to the lifetime records (19 R352). -/
inductive LifeItem where
  | temperature (die bin seconds : Nat)
  | voltage (island bin seconds : Nat)
  | error (die kind cls count : Nat)
  | broken (die cause count : Nat)
  | repair (spares frames : Nat)
  deriving DecidableEq, Repr

/-- The steps of the part (spec/opcode_table.json), each whole and indivisible. -/
inductive Instr where
  /-- NOP (R431): S-form NOP changes nothing but the PC. -/
  | nop (o : Guard)
  /-- NOP_X (R431): X-form NOP changes nothing but the PC. -/
  | nopX (o : XOps)
  /-- MOV (R430): S-form MOV copies source B into D bit for bit. -/
  | mov (o : SMov)
  /-- MOV_X (R430): X-form MOV copies a 32- or 64-bit source into D. -/
  | movX (o : XOps)
  /-- IADD (R405): S-form 32-bit integer addition. -/
  | iadd (o : SBin)
  /-- IADD_X (R405): X-form integer addition with width, unsigned and saturation options. -/
  | iaddX (o : XOps)
  /-- ISUB (R405): S-form 32-bit integer subtraction. -/
  | isub (o : SBin)
  /-- ISUB_X (R405): X-form integer subtraction with width, unsigned and saturation options. -/
  | isubX (o : XOps)
  /-- IMUL (R411): S-form low product of two integers. -/
  | imul (o : SBin)
  /-- IMUL_X (R411): X-form low product per element of the width. -/
  | imulX (o : XOps)
  /-- IMULH (R411): S-form high half of the signed product. -/
  | imulh (o : SBin)
  /-- IMULH_X (R411): X-form high half of the signed product. -/
  | imulhX (o : XOps)
  /-- IMULHU (R411): S-form high half of the unsigned product. -/
  | imulhu (o : SBin)
  /-- IMULHU_X (R411): X-form high half of the unsigned product. -/
  | imulhuX (o : XOps)
  /-- IMIN (R410): S-form signed minimum. -/
  | imin (o : SBin)
  /-- IMIN_X (R410): X-form signed minimum per element. -/
  | iminX (o : XOps)
  /-- IMAX (R410): S-form signed maximum. -/
  | imax (o : SBin)
  /-- IMAX_X (R410): X-form signed maximum per element. -/
  | imaxX (o : XOps)
  /-- IMINU (R410): S-form unsigned minimum. -/
  | iminu (o : SBin)
  /-- IMINU_X (R410): X-form unsigned minimum per element. -/
  | iminuX (o : XOps)
  /-- IMAXU (R410): S-form unsigned maximum. -/
  | imaxu (o : SBin)
  /-- IMAXU_X (R410): X-form unsigned maximum per element. -/
  | imaxuX (o : XOps)
  /-- AND (R364): S-form bitwise AND. -/
  | andS (o : SBin)
  /-- AND_X (R364): X-form bitwise AND. -/
  | andX (o : XOps)
  /-- OR (R432): S-form bitwise OR. -/
  | orS (o : SBin)
  /-- OR_X (R432): X-form bitwise OR. -/
  | orX (o : XOps)
  /-- XOR (R432): S-form bitwise XOR. -/
  | xorS (o : SBin)
  /-- XOR_X (R432): X-form bitwise XOR. -/
  | xorX (o : XOps)
  /-- ANDN (R364): S-form A AND NOT B. -/
  | andn (o : SBin)
  /-- ANDN_X (R364): X-form A AND NOT B. -/
  | andnX (o : XOps)
  /-- SHL (R451): S-form left shift by count modulo width. -/
  | shl (o : SBin)
  /-- SHL_X (R451): X-form left shift per element. -/
  | shlX (o : XOps)
  /-- SHR (R451): S-form logical right shift. -/
  | shr (o : SBin)
  /-- SHR_X (R451): X-form logical right shift per element. -/
  | shrX (o : XOps)
  /-- SAR (R451): S-form arithmetic right shift. -/
  | sar (o : SBin)
  /-- SAR_X (R451): X-form arithmetic right shift per element. -/
  | sarX (o : XOps)
  /-- ROTL (R451): S-form rotate left. -/
  | rotl (o : SBin)
  /-- ROTL_X (R451): X-form rotate left per element. -/
  | rotlX (o : XOps)
  /-- POPC (R438): S-form population count. -/
  | popc (o : SUn)
  /-- POPC_X (R438): X-form population count per element. -/
  | popcX (o : XOps)
  /-- CLZ (R376): S-form count of leading zeros. -/
  | clz (o : SUn)
  /-- CLZ_X (R376): X-form count of leading zeros per element. -/
  | clzX (o : XOps)
  /-- CTZ (R376): S-form count of trailing zeros. -/
  | ctz (o : SUn)
  /-- CTZ_X (R376): X-form count of trailing zeros per element. -/
  | ctzX (o : XOps)
  /-- BREV (R376): S-form bit reversal. -/
  | brev (o : SUn)
  /-- BREV_X (R376): X-form bit reversal per element. -/
  | brevX (o : XOps)
  /-- IABS (R403): S-form integer absolute value modulo the width. -/
  | iabs (o : SUn)
  /-- IABS_X (R403): X-form integer absolute value per element. -/
  | iabsX (o : XOps)
  /-- FADD (R388): S-form FP32 addition rounded to nearest even. -/
  | fadd (o : SBin)
  /-- FADD_X (R388): X-form float addition with type, rounding, flush and sign modifiers. -/
  | faddX (o : XOps)
  /-- FMUL (R388): S-form FP32 multiplication. -/
  | fmul (o : SBin)
  /-- FMUL_X (R388): X-form float multiplication with modifiers. -/
  | fmulX (o : XOps)
  /-- FMIN (R391): S-form FP32 minimum. -/
  | fmin (o : SBin)
  /-- FMIN_X (R391): X-form float minimum. -/
  | fminX (o : XOps)
  /-- FMAX (R391): S-form FP32 maximum. -/
  | fmax (o : SBin)
  /-- FMAX_X (R391): X-form float maximum. -/
  | fmaxX (o : XOps)
  /-- ISETP (R412): S-form integer compare writing a predicate. -/
  | isetp (o : SCmp)
  /-- ISETP_X (R412): X-form integer compare, with any operand code or literal. -/
  | isetpX (o : XOps)
  /-- FSETP (R392): S-form FP32 compare writing a predicate. -/
  | fsetp (o : SCmp)
  /-- FSETP_X (R392): X-form FP32 compare with flush, abs and negate. -/
  | fsetpX (o : XOps)
  /-- PLOP (R437): S-form predicate logic operation. -/
  | plop (o : SPlop)
  /-- PLOP_X (R437): X-form predicate logic operation. -/
  | plopX (o : XOps)
  /-- BRA (R148): S-form relative branch by an 18-bit word offset. -/
  | bra (o : SBr)
  /-- BRA_X (R148): X-form relative branch by a 32-bit byte offset. -/
  | braX (o : XOps)
  /-- CALL (R148): S-form relative call pushing the return address. -/
  | call (o : SBr)
  /-- CALL_X (R148): X-form relative call with a byte offset. -/
  | callX (o : XOps)
  /-- BRX (R148): S-form branch to a 64-bit register target. -/
  | brx (o : SPair)
  /-- BRX_X (R148): X-form branch to a v or k pair target. -/
  | brxX (o : XOps)
  /-- CALLX (R148): S-form call to a 64-bit register target. -/
  | callx (o : SPair)
  /-- CALLX_X (R148): X-form call to a v or k pair target. -/
  | callxX (o : XOps)
  /-- RET (R148): S-form return popping the call stack. -/
  | ret (o : Guard)
  /-- RET_X (R374): X-form return. -/
  | retX (o : XOps)
  /-- EXIT (R387): S-form EXIT commits or aborts the region and frees the thread. -/
  | exit (o : Guard)
  /-- EXIT_X (R387): X-form EXIT. -/
  | exitX (o : XOps)
  /-- YIELD (R471): S-form YIELD makes the thread not ready until other ready groups issue. -/
  | yield (o : Guard)
  /-- YIELD_X (R471): X-form YIELD. -/
  | yieldX (o : XOps)
  /-- JOIN (R153): S-form arrival at a join mask, releasing all when arrivals equal the mask. -/
  | joinS (o : SNum)
  /-- JOIN_X (R153): X-form JOIN. -/
  | joinX (o : XOps)
  /-- JLEAVE (R154): S-form clearing of the thread's bit in a join mask. -/
  | jleave (o : SNum)
  /-- JLEAVE_X (R154): X-form JLEAVE. -/
  | jleaveX (o : XOps)
  /-- TWAIT (R467): S-form wait until a time register resolves. -/
  | twait (o : SNum)
  /-- TWAIT_X (R141): X-form TWAIT. -/
  | twaitX (o : XOps)
  /-- TCLR (R467): S-form wait for resolution then clear a time register to IDLE. -/
  | tclr (o : SNum)
  /-- TCLR_X (R141): X-form TCLR. -/
  | tclrX (o : XOps)
  /-- BRK (R377): S-form breakpoint trap with cause 0x11. -/
  | brk (o : Guard)
  /-- BRK_X (R377): X-form breakpoint trap. -/
  | brkX (o : XOps)
  /-- TRAP (R465): S-form trap with an 8-bit code, cause 0x12. -/
  | trap (o : STrap)
  /-- TRAP_X (R465): X-form trap with the code in IMM[7:0]. -/
  | trapX (o : XOps)
  /-- BSYNC (R379): S-form block barrier arrival, releasing when all live threads arrive. -/
  | bsync (o : Guard)
  /-- BSYNC_X (R379): X-form BSYNC. -/
  | bsyncX (o : XOps)
  /-- IMAD (R409): Integer multiply-add with optional saturation. -/
  | imad (o : XOps)
  /-- IDIV (R408): Integer division truncated toward zero, all-ones on zero divisor. -/
  | idiv (o : XOps)
  /-- IREM (R408): Integer remainder with the dividend's sign, dividend on zero divisor. -/
  | irem (o : XOps)
  /-- LEA (R422): Address computation A + B shifted left. -/
  | lea (o : XOps)
  /-- SEL (R454): Selects A or B by a predicate. -/
  | sel (o : XOps)
  /-- BFX (R371): Extracts a bit field, signed or unsigned. -/
  | bfx (o : XOps)
  /-- BFI (R371): Inserts a bit field of A into B. -/
  | bfi (o : XOps)
  /-- FFMA (R388): Fused multiply-add rounded once. -/
  | ffma (o : XOps)
  /-- FRCP (R394): Correctly rounded reciprocal. -/
  | frcp (o : XOps)
  /-- FRSQ (R394): Correctly rounded reciprocal square root. -/
  | frsq (o : XOps)
  /-- FSQRT (R394): Correctly rounded square root. -/
  | fsqrt (o : XOps)
  /-- FEX2 (R394): Correctly rounded base-2 exponential. -/
  | fex2 (o : XOps)
  /-- FLG2 (R394): Correctly rounded base-2 logarithm. -/
  | flg2 (o : XOps)
  /-- FSIN (R394): Correctly rounded sine. -/
  | fsin (o : XOps)
  /-- FCOS (R394): Correctly rounded cosine. -/
  | fcos (o : XOps)
  /-- FTANH (R394): Correctly rounded hyperbolic tangent. -/
  | ftanh (o : XOps)
  /-- FCVT (R282): Converts between float and integer types with rounding and optional saturation. -/
  | fcvt (o : XOps)
  /-- VOTE (R470): Cross-lane vote ALL, ANY, EQ or BALLOT over a mask's participants. -/
  | vote (o : XOps)
  /-- SHFL (R457): Cross-lane shuffle of a value among participants. -/
  | shfl (o : XOps)
  /-- PRFX (R441): Cross-lane prefix or total count of true predicates. -/
  | prfx (o : XOps)
  /-- CRED (R162): Cross-lane reduction over active participants. -/
  | cred (o : XOps)
  /-- JINIT (R152): Loads a join mask with live lanes and clears its arrival set. -/
  | jinit (o : XOps)
  /-- TYIELD (R142): Parks until a promise plus slack, or resolution. -/
  | tyield (o : XOps)
  /-- TBR (R145): Branches on a time register's state or promise. -/
  | tbr (o : XOps)
  /-- TGET (R145): Reads a time register raw or as promise minus now. -/
  | tget (o : XOps)
  /-- TSETP (R145): Compares two time registers into a predicate. -/
  | tsetp (o : XOps)
  /-- LD (R416): Load on the LS path with optional time register. -/
  | ld (o : XOps)
  /-- ST (R461): Store on the LS path, buffered in a region or committed at issue. -/
  | st (o : XOps)
  /-- LDK (R421): Load on the KR path through the constant cache. -/
  | ldk (o : XOps)
  /-- ATOM (R366): Atomic read-modify-write at the point of coherence returning the old value. -/
  | atom (o : XOps)
  /-- RED (R446): Reduction without result, merged in update-only lines or performed at coherence. -/
  | red (o : XOps)
  /-- STCP (R165): Compress-store rendezvous storing selected participants' values contiguously. -/
  | stcp (o : XOps)
  /-- PREF (R440): Prefetches a 128-byte line with optional time register. -/
  | pref (o : XOps)
  /-- PHASE (R181): Commits the region and publishes and/or refreshes the core's view at a scope. -/
  | phase (o : XOps)
  /-- PFENCE (R174): Orders writes on source paths before reads on destination paths. -/
  | pfence (o : XOps)
  /-- REGION (R184): Commits any open region and opens a new one at the next instruction. -/
  | regionI (o : XOps)
  /-- REGION_END (R184): Commits the open region and leaves none open. -/
  | regionEnd (o : XOps)
  /-- BOINIT (R193): Initialises a barrier object with an expected count. -/
  | boinit (o : XOps)
  /-- BOARV (R193): Arrives at a barrier object, optionally adding bytes. -/
  | boarv (o : XOps)
  /-- BOWAIT (R193): Parks until a barrier object's phase parity changes. -/
  | bowait (o : XOps)
  /-- BOTX (R193): Adds a signed byte count to a barrier object's PEND. -/
  | botx (o : XOps)
  /-- FEGET (R107): Waits for a full slot, takes its value and empties it. -/
  | feget (o : XOps)
  /-- FEPUT (R107): Waits for an empty slot, writes it and marks it full. -/
  | feput (o : XOps)
  /-- SHMAP (R105): Maps register entries onto a partner crew's blocks. -/
  | shmap (o : XOps)
  /-- RBACQ (R443): Requests more mapped register blocks for the crew. -/
  | rbacq (o : XOps)
  /-- RBREL (R443): Unmaps register entries above a count and frees their blocks. -/
  | rbrel (o : XOps)
  /-- CPY (R315): Issues a copy-engine task between record-described boxes. -/
  | cpy (o : XOps)
  /-- GATH (R397): Issues a gather-engine task fetching indexed elements. -/
  | gath (o : XOps)
  /-- SCAT (R453): Issues a gather-engine task scattering elements to indices. -/
  | scat (o : XOps)
  /-- SRINV (R302): Drops shape-record cache entries of the context. -/
  | srinv (o : XOps)
  /-- MBLD (R308): Issues a task loading a B tile into a slot. -/
  | mbld (o : XOps)
  /-- MMA (R309): Issues a task multiplying an A box by a slot into an accumulator set. -/
  | mma (o : XOps)
  /-- MLUT (R310): Issues a task writing a lookup table of A into a slot. -/
  | mlut (o : XOps)
  /-- MLMA (R311): Issues a task accumulating NQ2 weights through the slot's table. -/
  | mlma (o : XOps)
  /-- MDRAIN (R312): Issues a task converting and writing an accumulator set. -/
  | mdrain (o : XOps)
  /-- MCLS (R313): Sets the block's matrix class for later tasks. -/
  | mcls (o : XOps)
  /-- GBCFG (R330): Configures the block's spinner from a configuration record. -/
  | gbcfg (o : XOps)
  /-- GBSET (R330): Sets unclamped spinner states from a scratchpad object. -/
  | gbset (o : XOps)
  /-- GBCLAMP (R330): Loads the spinner clamp mask and values. -/
  | gbclamp (o : XOps)
  /-- GBSWEEP (R327): Issues a matrix-unit task of Gibbs sweeps. -/
  | gbsweep (o : XOps)
  /-- GBREAD (R330): Writes spinner states or counts to the scratchpad. -/
  | gbread (o : XOps)
  /-- GBSTAT (R330): Resets counts and sets the statistics enable. -/
  | gbstat (o : XOps)
  /-- GBSEED (R330): Sets the spinner's random source and clears the sweep counter. -/
  | gbseed (o : XOps)
  /-- RGRP (R262): Arrives at a regroup rendezvous offering a key. -/
  | rgrp (o : XOps)
  /-- GETS (R402): Reads a system register. -/
  | gets (o : XOps)
  /-- SETS (R456): Writes a system register. -/
  | sets (o : XOps)
  /-- CCTL (R382): Cache write-back, invalidate or L2 write-back over a range or the share. -/
  | cctl (o : XOps)
  /-- ICINV (R254): Empties I-caches and loop buffers in a scope. -/
  | icinv (o : XOps)
  /-- TLBINV (R232): Drops matching TLB entries throughout the package. -/
  | tlbinv (o : XOps)
  /-- ERET (R246): Returns from handler mode to s.epc. -/
  | eret (o : XOps)
  /-- SVC (R246): Supervisor call trap with a 16-bit code. -/
  | svc (o : XOps)
  /-- BOUND (R294): Writes a block bound register. -/
  | bound (o : XOps)
  /-- TKPASS (R198): Passes the marble after the crew's marble operations are performed. -/
  | tkpass (o : XOps)
  /-- LNCH (R424): Publishes at PKG scope and sends a launch request. -/
  | lnch (o : XOps)
  /-- KALEIDOSCOPE_MAPS_SWITCH (R270): Relocation finishes and the crew maps switch in one cycle. -/
  | kaleidoscopeMapsSwitch (core : Nat)
  /-- LAUNCH (R38): Fabric LAUNCH message requesting a launch of a record. -/
  | launch (m : Sender) (die : Nat) (va : BitVec 64) (ctx : Nat)
  /-- ACCEPTANCE_TOKEN (R40): A controller receiving the token decides its waiting requests and passes it on. -/
  | acceptanceToken
  /-- BLOCK_PLACEMENT (R48): A block is placed on a core once its resources are free. -/
  | blockPlacement
  /-- PREEMPTION (R51): A block is saved at instruction boundaries to the save area. -/
  | preemption (lid block : Nat)
  /-- LAUNCH_FAILURE (R46): Resident blocks stop at their next boundary and the launch writes STATE 3. -/
  | launchFailure (lid : Nat)
  /-- BLOCK_COMPLETION (R59): The block's tracker entry empties and its resources are freed. -/
  | blockCompletion (lid block : Nat)
  /-- LAUNCH_COMPLETION (R47): Writes are made visible at SYS, then STATUS and the completion are sent. -/
  | launchCompletion (lid : Nat)
  /-- RBACQ_GRANT (R57): Register blocks become free and a held crew's entries are mapped. -/
  | rbacqGrant (core : Nat)
  /-- L2_PROMISE_REQUEST (R119): The slice books a return slot, pins the line and answers the promise. -/
  | l2PromiseRequest (core load : Nat)
  /-- DRAM_BOOKING (R120): The memory controller grants a request into its bank calendar. -/
  | dramBooking (core load : Nat)
  /-- PROMISE_DELIVERED (R121): The converted promise reaches the time register, which becomes PROMISED. -/
  | promiseDelivered (core load : Nat) (cycle : BitVec 29)
  /-- LOAD_ARRIVAL (R125): Load data enters the write-back queue; register becomes ARRIVED or LATE. -/
  | loadArrival (core load : Nat)
  /-- PROMISE_BROKEN (R128): Promised cycle ends without data; register becomes BROKEN and is counted. -/
  | promiseBroken (core load : Nat) (estimate : Option (BitVec 29))
  /-- BROKEN_REESTIMATE (R128): An estimate ends without data and the register takes a new estimate. -/
  | brokenReestimate (core load : Nat) (estimate : Option (BitVec 29))
  /-- ABORT_COMPLETION (R125): An abort completion makes a pending time register ABORT. -/
  | abortCompletion (core load : Nat) (kind : AbortKind)
  /-- TIMED_WAKE (R143): A wake-wheel bucket is reached and parked threads wake. -/
  | timedWake (core : Nat)
  /-- WAKE_OVERFLOW_REINSERT (R143): An overflow wake enters the wheel once within range. -/
  | wakeOverflowReinsert (core : Nat)
  /-- ISLAND_CLOCK_STOP (R136): An island clock stops; counters and time registers freeze. -/
  | islandClockStop (island : Nat)
  /-- ISLAND_CLOCK_RESTART (R136): At restart, promised registers become LATE or BROKEN with cause HALT. -/
  | islandClockRestart (island : Nat)
  /-- ISLAND_RATIO_CHANGE (R137): The island ratio switches and promises are reconverted. -/
  | islandRatioChange (island : Nat) (again : List Rebook)
  /-- STACK_CACHE_SPILL_FILL (R110): The stack cache spills or fills return addresses ahead of need. -/
  | stackCacheSpillFill (core crew lane : Nat) (fill : Bool)
  /-- WALK_AHEAD (R231): The walk-ahead TLB walks pages ahead of an engine task. -/
  | walkAhead (core task : Nat)
  /-- FURES_RESOLVE (R241): FURES OP 00 restarts parked threads and resumes tasks on a page. -/
  | furesResolve (die ctx page : Nat)
  /-- FURES_FAIL (R241): FURES OP 01 makes parked threads trap and ends tasks on a page. -/
  | furesFail (die ctx page : Nat)
  /-- TASK_DISPATCH (R305): An engine dispatches its highest-class earliest eligible task. -/
  | taskDispatch (core : Nat) (engine : Engine)
  /-- ENGINE_BYTE_LANDS (R194): A copied or gathered byte lands and decrements the receiver's PEND. -/
  | engineByteLands (core task elem : Nat)
  /-- ENGINE_TASK_FAULT (R242): A task meets a fault at a page and is suspended or ended. -/
  | engineTaskFault (core task : Nat)
  /-- MATRIX_TASK_SUSPEND (R314): A lower-class matrix task is suspended at a step boundary for a higher one. -/
  | matrixTaskSuspend (core steps : Nat)
  /-- TASK_COMPLETION (R307): A task's writes are performed; its signal barrier receives one arrival. -/
  | taskCompletion (core task : Nat)
  /-- UPDATE_ONLY_PACKET (R189): An update-only line arrives at the slice and is applied indivisibly. -/
  | updateOnlyPacket (core lid line : Nat)
  /-- L1_WRITEBACK (R202): A dirty line write-back arrives at its slice and allocates sectors. -/
  | l1Writeback (core lid line : Nat)
  /-- STORE_ABORT (R462): A store meets an abort at its point of coherence and is dropped with a record. -/
  | storeAbort (core lid line : Nat) (kind : AbortKind)
  /-- SLICE_REQUEST_RETURN (R212): A slice returns a request it does not own and the core resends it. -/
  | sliceRequestReturn (core load : Nat)
  /-- UNCORRECTABLE_ERROR (R248): An uncorrectable error raises an interrupt, record and abort or rollback. -/
  | uncorrectableError (site : ErrSite)
  /-- ROW_SELF_TEST (R351): A storage row with an error is spared and tested with March C-. -/
  | rowSelfTest (row : Row) (passes : Bool)
  /-- AMCTL_GO (R211): Writing GO starts the checks of a pending address-map commit. -/
  | amctlGo (die region : Nat) (value : BitVec 32)
  /-- ADDRESS_MAP_COMMIT (R212): Checks pass and cores, then slices adopt the map and drop moved lines. -/
  | addressMapCommit
  /-- L2QUOTA_WRITE (R204): Writing quotas evicts lines above a lowered quota. -/
  | l2quotaWrite (die : Nat) (value : BitVec 32)
  /-- SACTL_APPLY (R217): Writing SACTL[0] requests the allocator to apply pending slot tables. -/
  | sactlApply (die : Nat)
  /-- SLOT_EDIT_APPLIED (R218): At the frame boundary the edit is applied or refused and bookings move. -/
  | slotEditApplied (die : Nat)
  /-- CTXCTL_SUSPEND (R256): Writing SUSP = 1 pre-empts every resident block of the context. -/
  | ctxctlSuspend (ctx : Nat)
  /-- CTXCTL_RESUME (R256): Writing SUSP = 0 lets the context's blocks be placed again. -/
  | ctxctlResume (ctx : Nat)
  /-- KILL_CONTEXT (R347): KILL MODE 01 stops one context and fails its launches. -/
  | killContext (ctx : Nat)
  /-- KILL_OWNER (R347): KILL MODE 10 stops every context of an owner. -/
  | killOwner (owner : BitVec 16)
  /-- FWREV_REVOKE (R346): Revokes an export entry and aborts its requests. -/
  | fwrevRevoke (ctx idx : Nat)
  /-- PKDROP_CLEAR (R340): A write to PKDROP sets the drop count to 0. -/
  | pkdropClear (port : Nat)
  /-- CONTROL_REGISTER_WRITE (R358): A write to a control-window register without behaviour of its own. -/
  | controlRegisterWrite (die off size : Nat) (value : BitVec 64)
  /-- ISLOP_WRITE (R357): The management port requests a new island operating point. -/
  | islopWrite (island : Nat) (opp : BitVec 4)
  /-- FABRIC_REQUEST_TIMEOUT (R342): A fabric request expires after FABTMO; abort and kind-9 record. -/
  | fabricRequestTimeout (req : Nat)
  /-- LINK_REPLAY (R342): A flit fails its CRC and the link replays from its buffer. -/
  | linkReplay (port : Nat) (delayed : List LoadRef)
  /-- LINK_DOWN (R342): After 16 failed replays the link goes down. -/
  | linkDown (port : Nat)
  /-- MRD (R339): Host memory read request performed at the point of coherence. -/
  | mrd (m : Sender) (ctx : Nat) (va : BitVec 64) (n : Nat)
  /-- MWR (R339): Host memory write request performed whole or not at all. -/
  | mwr (m : Sender) (ctx : Nat) (va : BitVec 64) (data : List (BitVec 8))
  /-- CRD (R338): Host control-window read with tag 0. -/
  | crd (m : Sender) (die off n : Nat)
  /-- CWR (R358): Host control-window write answered after it takes effect. -/
  | cwr (m : Sender) (die off n : Nat) (value : BitVec 64)
  /-- WRD (R345): Inbound window read checked against an export entry. -/
  | wrd (m : Sender) (ctx xidx off n : Nat)
  /-- WWR (R345): Inbound window write checked and performed whole or not at all. -/
  | wwr (m : Sender) (ctx xidx off : Nat) (data : List (BitVec 8))
  /-- RSP (R338): A response arrives with data, acknowledgement or abort. -/
  | rsp (m : Sender) (req : Nat) (data : Option (List (BitVec 8)))
  /-- FABRIC_PROTOCOL_VIOLATION (R348): A protocol-violating request is dropped and its owner's contexts killed. -/
  | fabricProtocolViolation (m : Sender)
  /-- RDMA_ACCESS (R350): Inbound RoCEv2 access on a queue pair checked through QPBIND. -/
  | rdmaAccess (port qp : Nat) (va : BitVec 64) (op : RdmaOp)
  /-- ATTESTATION_REQUEST (R355): A nonce request answered with a signed 184-byte report. -/
  | attestationRequest (m : Sender) (nonce : BitVec 256)
  /-- FREEZE (R353): A freeze request stops every clock of the package. -/
  | freeze
  /-- RESET (R354): Boot ROM verifies firmware, which trains links and loads reset values. -/
  | reset
  /-- FIRMWARE_IMAGE_LOAD (R354): A new firmware image is accepted over I3C after failed verification. -/
  | firmwareImageLoad (image : FwImage)
  /-- LIFETIME_RECORD_UPDATE (R352): Firmware updates lifetime records at least once a minute. -/
  | lifetimeRecordUpdate (items : List LifeItem)
  /-- LIFETIME_RECORD_READ (R352): The management port reads the lifetime records. -/
  | lifetimeRecordRead
  /-- POWER_LIMIT_LOWER (R357): Firmware lowers an island's operating point to respect the power limit. -/
  | powerLimitLower (island : Nat) (opp : BitVec 4)
  /-- DEBUG_HALT (R219): A debugger halts a core's threads while it keeps sinking replies. -/
  | debugHalt (core : Nat)
  /-- CONTEXT_KEY_LOAD (R220): The management firmware loads a context's AES-256-XTS key. -/
  | contextKeyLoad (ctx : Nat) (key : BitVec 512)
  /-- DEBUG_RESUME (R219): A debugger releases a core whose threads it halted, and they issue again. -/
  | debugResume (core : Nat)
  /-- CXL_WRITE_COMPLETION (R182): A CXL device returns the write completion that PHASE.SYS and CCTL operation 5 wait for. -/
  | cxlWriteCompletion (port : Nat)
  /-- REFRESH_PULLED_IN (R129): The memory controller pulls in a refresh for temperature, or a postponed refresh falls due, over a granted slot. -/
  | refreshPulledIn (delayed : List LoadRef)
  /-- ROUTER_FAILURE (R348): A router or station fails, raising an error interrupt to the host and management controller. -/
  | routerFailure (unit : Nat)
  deriving DecidableEq, Repr

end Sys2Proof
end

