-- ==== Sys2Proof/Machine/State.lean ====
section
/-! DEFINITION. The state of the package as plain data (INVENTORY.md lists every piece with its rule), the outcomes a step
can have besides a next state, and the state after reset. -/

namespace Sys2Proof.Machine

/-- Cells in canonical form: addresses strictly rising from `lo`, no entry equal to the 0 an unlisted byte reads as. -/
def wfCellsFrom (lo : Nat) : List Host.Cell → Bool
  | [] => true
  | (a, b) :: rest => decide (lo ≤ a) && b != 0 && wfCellsFrom (a + 1) rest

/-- A sparse memory in its one canonical form. -/
structure Memory where
  /-- the listed bytes: address and value -/
  cells : List Host.Cell
  /-- the canonical form holds -/
  canon : wfCellsFrom 0 cells = true
  deriving DecidableEq, Repr

/-- The memory with nothing listed. -/
def Memory.empty : Memory := { cells := [], canon := rfl }

/-- The canonical form, as a check (log 2: an unlisted byte reads 0). -/
def Memory.wf (m : Memory) : Bool := wfCellsFrom 0 m.cells

/-- The mode of a thread (10 R244). -/
inductive Mode where
  | user
  | handler
  deriving DecidableEq, Repr

/-- The paths of 08 R170, in the order of their bits. -/
inductive Path where
  | ls | kr | tl | cp | ga | gb | ifetch
  deriving DecidableEq, Repr

/-- The fault kinds of 10 R234, in the order of their codes. -/
inductive FaultKind where
  | absent | migrating | malformed | permission | bounds | unmappedPa | integrity | uncorrectable | revoked | completion
  deriving DecidableEq, Repr

/-- A block bound register (14 R293). -/
structure Bound where
  /-- the action of a violated bound, 0 for none -/
  act : BitVec 2
  /-- the upper bound, FP32 -/
  hi : BitVec 32
  /-- the lower bound, FP32 -/
  lo : BitVec 32
  deriving DecidableEq, Repr

/-- The descriptor and contents of a B slot (15 R297, R308, R310). -/
inductive SlotDesc where
  | empty
  /-- a tile: format, K, zero point, block length, N -/
  | tile (fmt k : Nat) (zp : Int) (blen n : Nat)
  /-- a lookup table: M, K, block length, zero point -/
  | table (m k blen : Nat) (za : Int)
  deriving DecidableEq, Repr

/-- A group of a B slot's column or row: sixteen aligned elements of a float tile with the group's exponent (14 R289), one scale
block of an NQ tile less its zero point, or the table entries of one scale block, sixteen for four elements of A (15 R310). -/
structure Grp where
  /-- significands, or integer elements -/
  vals : List Int
  /-- classes of float elements: 1 NaN, 2 +Inf, 3 -Inf, else 0; none for NQ -/
  marks : List Nat
  /-- the exponent of a float group -/
  exp : Int
  /-- block scale as FP32 bits -/
  scale : BitVec 32
  deriving DecidableEq, Repr

/-- The contents of a B slot: the groups of each column of a tile below N, or of each row of a table (15 R297, R308, R310). -/
structure Slot where
  /-- what the slot holds -/
  desc : SlotDesc
  /-- its columns or rows, in groups of sixteen -/
  cols : List (List Grp)
  deriving DecidableEq, Repr

/-- Spinner configuration (17 R323, R324). -/
structure SpinCfg where
  /-- number of spins -/
  n : Nat
  /-- number of colours -/
  c : Nat
  /-- shift of the weight sums -/
  wsh : Nat
  /-- the colour of each spin -/
  cmap : List Nat
  /-- the bias of each spin -/
  bias : List Int
  /-- tile pointer, target chunk, source chunk -/
  tiles : List (BitVec 64 × Nat × Nat)
  deriving DecidableEq, Repr

/-- Spinner source (17 R328). -/
inductive SpinSrc where
  | phys
  | ctr (seed : BitVec 64)
  | fix (r : BitVec 16)
  deriving DecidableEq, Repr

/-- The spinner state of a block (17 R321). -/
structure Spin where
  /-- CFG: what GBCFG has read; none while unconfigured -/
  cfg : Option SpinCfg
  /-- the spins -/
  x : BitVec 4096
  /-- the clamp mask -/
  clm : BitVec 4096
  /-- the clamped values -/
  clv : BitVec 4096
  /-- statistics counters that are not 0, by spin -/
  cnt : List (Nat × BitVec 16)
  /-- whether statistics are counted -/
  ste : Bool
  /-- where random numbers come from -/
  src : SpinSrc
  /-- the sweep counter -/
  swc : BitVec 32
  /-- a GBSWEEP ended by an abort: what a read of its result consumes (10 R249, R250) -/
  lost : Option FaultKind
  deriving DecidableEq, Repr

/-- A shape record as an engine task copies it (15 R299). -/
structure Shape where
  /-- BASE -/
  base : BitVec 64
  /-- SCPAD: the box lies in the scratchpad -/
  scpad : Bool
  /-- WRAP -/
  wrap : Bool
  /-- RANK -/
  rank : Nat
  /-- BLK -/
  blk : Nat
  /-- PLANES -/
  planes : Nat
  /-- FMT -/
  fmt : Nat
  /-- extents -/
  ext : List Nat
  /-- strides -/
  str : List Int
  /-- sizes of the box -/
  box : List Nat
  /-- origin of the box -/
  org : List Int
  /-- the scale pointer -/
  sva : BitVec 64
  /-- the zero point -/
  zp : Int
  /-- SFMT -/
  sfmt : Nat
  /-- the clamp of a drain -/
  clamp : BitVec 32
  /-- whether a drain checks a bound -/
  chk : Bool
  /-- which bound register -/
  bidx : Nat
  /-- OOBV, what an element out of bounds holds -/
  oobv : BitVec 32
  /-- the retain hint -/
  ret : Nat
  /-- ORD, the order of the dimensions -/
  ord : List Nat
  deriving DecidableEq, Repr

/-- What a task does (15 R304, 17 R332). -/
inductive TaskOp where
  | cpy (src dst : Shape) (dstRec : BitVec 64) (recv : Option Nat) (mask : BitVec 16)
  | gath (dst table index : BitVec 64) (n s : Nat)
  | scat (table src index : BitVec 64) (n s : Nat)
  | mbld (slot : Nat) (b : Shape)
  | mma (slot set : Nat) (zero : Bool) (planes : Nat) (a : Shape)
  | mlut (slot planes : Nat) (a : Shape)
  | mlma (slot set : Nat) (zero : Bool) (planes : Nat) (w : Shape)
  | mdrain (set : Nat) (zero : Bool) (d : Shape) (bound : Bound)
  | gbsweep (slot count : Nat) (beta : BitVec 32)
  deriving DecidableEq, Repr

/-- Where a task stands (15 R305, R314, 10 R242). -/
inductive TaskState where
  | waiting
  | running
  /-- suspended at a step boundary for a higher class -/
  | yielded
  /-- suspended at a faulting page -/
  | faulted (page : Nat)
  /-- resumed by FURES, waiting for its engine -/
  | resumed
  deriving DecidableEq, Repr

/-- An entry of the task table (15 R303). -/
structure Task where
  /-- its number -/
  id : Nat
  /-- what it does -/
  op : TaskOp
  /-- the launch -/
  lid : Nat
  /-- the block -/
  block : Nat
  /-- issuing thread: lvid0, lvid1 -/
  tid : Nat × Nat
  /-- the PC of the instruction that issued it -/
  pc : BitVec 64
  /-- signal and wait object offsets; the phase sampled -/
  signal : Option Nat
  wait : Option (Nat × Bool)
  /-- its matrix class when it was issued (15 R313) -/
  cls : Nat
  /-- where it stands -/
  state : TaskState
  /-- steps, or units of a copy, gather or drain, done in order; colour steps done of the sweep under way -/
  steps : Nat
  /-- units of a copy or gather that have landed ahead of that order (15 R316) -/
  done : List Nat
  /-- sweeps done of a GBSWEEP -/
  sweeps : Nat
  /-- a violated bound with action trap: element and address (14 R295) -/
  viol : Option (BitVec 32 × BitVec 64)
  /-- indices of a gather or scatter that have been read (21 R397) -/
  idx : List Int
  /-- bytes that arrived through a fabric window, by VA -/
  got : List (Nat × BitVec 8)
  /-- copies that the read and stream buffers of its path hold while it runs, by 64-byte piece (08 R170, 15 R306) -/
  copies : List (Nat × BitVec 512)
  /-- bits landed at a receiver that do not fill a byte yet (15 R316) -/
  part : Nat
  /-- a named core had no receiver: the task ends with ERR (15 R316) -/
  err : Bool
  deriving DecidableEq, Repr

/-- A translation held in a TLB (10 R230): context, first VA, size, leaf, and the bounds entry checked with it. -/
structure Tlb where
  /-- context -/
  ctx : Nat
  /-- first VA of the page -/
  va : Nat
  /-- bytes of the page -/
  size : Nat
  /-- the leaf entry -/
  leaf : BitVec 64
  /-- the bounds entry of the pointer's region ID -/
  bound : BitVec 64 × BitVec 64
  /-- the window entry of a TIER 2 page -/
  window : BitVec 64 × BitVec 64
  deriving DecidableEq, Repr

/-- What a thread waits for. Its PC stays at the instruction that parked it (02 R55: it is ready when the condition holds,
and the instruction then goes on); `len` is that instruction's length. -/
inductive Park where
  /-- data registers of pending loads, by load number (05 R140) -/
  | loads (ids : List Nat)
  /-- a pending time register: TWAIT, TCLR and TE = 1 (05 R126, R141) -/
  | time (n : BitVec 3)
  /-- TYIELD on a register with a slack (05 R142); `probing`: it waits for a change of PROBING -/
  | tyield (n : BitVec 3) (slack : BitVec 16) (probing : Bool) (len : Nat)
  | join (n : BitVec 3) (len : Nat)
  | bsync (len : Nat)
  /-- BSYNC or PHASE of an RBK launch at the block rendezvous (10 R251); a PHASE with its scope, publish and refresh -/
  | checkpoint (phase : Option (Nat × Bool × Bool)) (len : Nat)
  /-- BOWAIT on the object at a scratchpad offset, until PH differs from the parity (08 R193) -/
  | bowait (off : Nat) (parity : Bool) (len : Nat)
  /-- FEGET or FEPUT on the slot at a store offset, since arrival `order` (04 R107, R108) -/
  | slot (off : Nat) (full : Bool) (order : Nat)
  /-- a cross-lane rendezvous, with what the thread read at its issue (06 R160) -/
  | cross (i : Instr) (mask : BitVec 64) (active : Bool) (a b : BitVec 64) (q : Bool) (len : Nat)
  /-- RGRP whose loads have not all resolved (12 R262) -/
  | settling (ids : List Nat)
  /-- RGRP (12 R262): scope, live registers, key -/
  | rgrp (core : Bool) (n : Nat) (key : BitVec 8) (d : BitVec 8) (len : Nat)
  /-- a region abort on a page (10 R239): the faulting access with its kind and level, restarted by FURES or a walk -/
  | page (va : BitVec 64) (write : Bool) (path : Path) (at_ : BitVec 64) (kind : FaultKind) (level : Nat)
  | marble
  /-- engine tasks by number: PFENCE's source wait, or a spinner instruction's sweeps (08 R174, 17 R331) -/
  | tasks (ids : List Nat)
  /-- room in the save area for the spinner's holder (17 R322) -/
  | spinner
  /-- a free task-table entry (15 R303): the task whose checks have passed, with the phase sampled -/
  | entry (k : Task) (len : Nat)
  /-- a retirement-tracker entry (02 R59) -/
  | tracker
  /-- the answer to a launch request (21 R424) -/
  | lnch (req : Nat) (pd : BitVec 3) (len : Nat)
  /-- completions of CXL or fabric writes and of revocations, by number (08 R182, R383) -/
  | writes (ids : List Nat)
  /-- the end of the accesses that used translations which a TLBINV has dropped: window requests by number, and the translations (10 R232) -/
  | flushed (ids : List Nat) (gone : List Tlb)
  /-- a piece that the instruction itself reads through a fabric window, by its request (19 R344) -/
  | fill (req : Nat)
  /-- YIELD: the PCs with their launches whose groups were ready (02 R55) -/
  | yield (groups : List (Nat × Nat))
  deriving DecidableEq, Repr

/-- One store buffered in a region or deferred to a checkpoint, in the order made (08 R185, 10 R251). -/
structure Buffered where
  /-- pointer -/
  va : BitVec 64
  /-- bytes -/
  size : Nat
  /-- the value -/
  data : BitVec 128
  /-- the hint of 03 R78 -/
  hint : Nat
  /-- PC of the store -/
  pc : BitVec 64
  /-- the thread that made it -/
  slot : Nat
  /-- its launch -/
  lid : Nat
  /-- its block -/
  block : Nat
  /-- its thread index -/
  tid : Nat
  /-- the translation made at issue (10 R237): leaf, first VA of the page, and the window entry of a TIER 2 page -/
  leaf : BitVec 64
  page : Nat
  window : BitVec 64 × BitVec 64
  deriving DecidableEq, Repr

/-- An open idempotent region: its start and the thread's stores (08 R184, R185). -/
structure Region where
  /-- the address of its REGION -/
  start : BitVec 64
  /-- its stores, in order -/
  stores : List Buffered
  /-- the RGRP that reopened it behind itself: it has not begun while the PC stands there (12 R262) -/
  behind : Option (BitVec 64) := none
  deriving DecidableEq, Repr

/-- A load of an open region that faulted, or a load or task result that aborted (10 R238, R250). -/
structure Taint where
  /-- the place of its load among all loads -/
  order : Nat
  /-- the codes of its data registers that nothing has written since -/
  regs : List (BitVec 8)
  /-- the time register that its load named -/
  treg : Option (BitVec 3)
  /-- the address of the access -/
  va : BitVec 64
  /-- why it faulted or aborted -/
  kind : FaultKind
  /-- whether it wrote -/
  write : Bool
  /-- the path it took -/
  path : Path
  /-- the level at which its walk stopped (10 R235) -/
  level : Nat
  deriving DecidableEq, Repr

/-- A thread (02 R26, 04 R90, R102, R110, R113). Its v registers lie in the core store. -/
structure Thread where
  /-- the launch -/
  lid : Nat
  /-- the block -/
  block : Nat
  /-- `s.lvid0` -/
  lvid0 : Nat
  /-- `s.lvid1`, the index of its crew in the block -/
  lvid1 : Nat
  /-- the PC: the next instruction -/
  pc : BitVec 64
  /-- the mode bit -/
  mode : Mode
  /-- p0 to p6 -/
  preds : BitVec 7
  /-- t0 to t7 -/
  tregs : Vector (BitVec 32) 8
  /-- depth of the call stack -/
  depth : Nat
  /-- the top return addresses held in the stack cache, newest first -/
  cache : List (BitVec 64)
  /-- `s.cyclehi` -/
  cyclehi : BitVec 32
  /-- `s.fstat` -/
  fstat : BitVec 32
  /-- `s.faddr` and its upper half -/
  faddr : BitVec 64
  /-- `s.fidx` -/
  fidx : BitVec 32
  /-- `s.trapc` -/
  trapc : BitVec 32
  /-- `s.epc` and `s.epchi` -/
  epc : BitVec 64
  /-- `s.rgflags` -/
  rgflags : BitVec 32
  /-- `s.bndcnt` -/
  bndcnt : BitVec 32
  /-- `s.stacklim` -/
  stacklim : BitVec 32
  /-- its open region -/
  region : Option Region
  /-- what it waits for; none while it runs -/
  park : Option Park
  /-- registers of loads that faulted or aborted -/
  taints : List Taint
  /-- a VALUE_BOUND trap that waits for the next boundary: element index and address (14 R295) -/
  boundTrap : Option (BitVec 32 × BitVec 64)
  deriving DecidableEq, Repr

/-- A crew (02 R27, 12 R265). -/
structure Crew where
  /-- the launch -/
  lid : Nat
  /-- crew order: logical crew and ordinal -/
  order : Nat × Nat
  /-- stamp of its creation: lower is older (02 R54) -/
  created : Nat
  /-- physical block of each map entry -/
  rbm : Vector (Option Nat) 28
  /-- k0 to k15 -/
  k : Vector (BitVec 32) 16
  /-- join masks and arrival sets -/
  j : Vector (BitVec 64 × BitVec 64) 8
  /-- an RBACQ that holds the crew: blocks wanted in all and the order of the request (22 R443) -/
  held : Option (Nat × Nat)
  deriving DecidableEq, Repr

/-- An accumulator set: EX48 values that are not +0, keyed m*256 + n (15 R297). -/
abbrev AccSet := List (Nat × BitVec 48)

/-- A block resident on a core (02 R28, 14 R293, 15 R298, R308, R313, 17 R321). -/
structure Block where
  /-- the launch -/
  lid : Nat
  /-- `s.block` -/
  index : Nat
  /-- `s.spbase`: the store offset of its scratchpad -/
  spbase : Nat
  /-- stamp of its placement -/
  placed : Nat
  /-- its crews hold the parameter block: its threads run (02 R475) -/
  started : Bool
  /-- a parameter-block read that waits for its page (02 R475) -/
  paramPage : Option Nat
  /-- a piece of its parameter block asked for through a fabric window, by its request (02 R475, 19 R344) -/
  paramFill : Option Nat
  /-- threads that have arrived at its barrier (20 R379) -/
  arrivals : Nat
  /-- its matrix class (15 R313) -/
  cls : BitVec 2
  /-- bound registers that do not hold their reset value, by number -/
  bounds : List (Nat × Bound)
  /-- contents of slots 0 and 1 and sets 0 and 1, as the block sees them -/
  slots : Slot × Slot
  /-- descriptors that the last issued tasks will leave -/
  issued : SlotDesc × SlotDesc
  /-- accumulator sets 0 and 1 -/
  acc : AccSet × AccSet
  /-- its spinner state -/
  spin : Spin
  /-- units the block last issued a task on: slots 0, 1, sets 0, 1, spinner -/
  used : BitVec 5
  /-- RBK: stores held for the next checkpoint, and a kind-8 consumption since it (10 R250, R251) -/
  deferred : List Buffered
  consumed : Bool
  /-- all threads exited: the block drains under the tracker (02 R59) -/
  retiring : Bool
  /-- a rollback waits for the block's dispatched tasks (10 R252) -/
  rolling : Bool
  deriving DecidableEq, Repr

/-- A copy of the state of blocks: a checkpoint of one in the shadow area (10 R251), or the pre-emption record of a block or of
a cohort (10 R255, 12 R275) (DESIGN CHOICE, log 68). -/
structure Saved where
  /-- the blocks with the contents of their scratchpads -/
  blocks : List (Block × Memory)
  /-- crews by their crew slot, with the register blocks they mapped -/
  crews : List (Nat × Crew)
  /-- threads by their slot -/
  threads : List (Nat × Thread)
  /-- the v registers of every lane of the crews, those of another block's threads apart, keyed slot * 1,024 + 4 * number -/
  regs : Memory
  /-- their engine tasks -/
  tasks : List Task
  /-- shared register blocks among those, and the store offsets of their full slots (04 R105) -/
  shared : List Nat
  full : List Nat
  /-- words of the scratchpads and registers that hold no value, by block and offset / 4, and by slot * 256 + number (10 R249, R250) -/
  badSpad : List (Nat × Nat × FaultKind)
  badRegs : List (Nat × FaultKind)
  /-- bytes of the context's save area the record takes -/
  size : Nat
  deriving DecidableEq, Repr

/-- A line of an L1 share (09 R201). -/
structure Line where
  /-- the launch whose share holds it -/
  lid : Nat
  /-- PA[47:7] -/
  addr : Nat
  /-- its 128 bytes -/
  data : BitVec 1024
  /-- valid sectors -/
  valid : BitVec 4
  /-- dirty bytes -/
  dirty : BitVec 128
  /-- update-only: operation, size, and operands by element offset (08 R189) -/
  upd : Option (Nat × Nat × List (Nat × BitVec 64))
  /-- the retain mark -/
  retain : Bool
  /-- bytes of which a bypass-hinted read has returned another value since: a read finds them at the point of coherence (08 R178) (DEDUCED, log 93) -/
  newer : BitVec 128
  /-- the leaf of the page of its latest access: its class and MAC bit (09 R202, R222) -/
  leaf : BitVec 64
  /-- the latest store or RED merged: pointer, PC, tid, block and context (22 R462) -/
  last : BitVec 64 × BitVec 64 × Nat × Nat × Nat
  deriving DecidableEq, Repr

/-- The kinds of instruction that carry a time register (05 R116). -/
inductive LoadKind where
  | ld | ldk | atom | pref
  deriving DecidableEq, Repr

/-- How a load ends (05 R125). -/
inductive Ending where
  | data (d : BitVec 128)
  | fault (kind : FaultKind) (level : Nat)
  | abort (kind : FaultKind) (level : Nat)
  deriving DecidableEq, Repr

/-- A load that has not resolved (05 R116 to R139). -/
structure Load where
  /-- its number: loads are numbered in the order of issue -/
  id : Nat
  /-- the thread: crew * 64 + lane -/
  slot : Nat
  /-- the instruction -/
  kind : LoadKind
  /-- its time register; none with TE = 0 -/
  treg : Option (BitVec 3)
  /-- the time register of a load with TE = 0 -/
  hidden : BitVec 32
  /-- destination codes still to be written, with the word of the data each takes -/
  dests : List (BitVec 8 × Nat)
  /-- the value; none while a fabric window has not answered -/
  data : Option (BitVec 128)
  /-- pointer -/
  va : BitVec 64
  /-- PC of the load -/
  pc : BitVec 64
  /-- instructions left of the lookahead window -/
  la : Nat
  /-- the cycle of issue, and who promises it: 0 the core (an L1 hit), 1 LDBCXL, 2 LDBFAB, 3 a slice, 5 the control window, 8 + c the ring stop
  of another core c (05 R118 to R122, 21 R418); 4, a PREF that has nothing to fetch arrives at issue + 2 (22 R440) -/
  issued : BitVec 29
  source : Nat
  /-- the coalesced request that serves it: the step of its issue, the PA and the size of its block (05 R116, 09 R205) -/
  req : Option (Nat × Nat × Nat)
  /-- the cache hint (03 R78) -/
  hint : Nat
  /-- the cycle that the core itself promises, computed at the probe (05 R118, R122) -/
  own : Option (BitVec 29)
  /-- the return slots booked for its request: the table by the key of its first entries, and the slot (05 R119, 09 R215, R218) -/
  slots : List (Nat × Nat)
  /-- it was PROMISED: the promised cycle; and the cause recorded for a delay (05 R129) -/
  promised : Option (BitVec 29)
  cause : Option Nat
  /-- the arrival of a booking made since: the estimate of a promise that breaks (05 R128, R137) -/
  booked : Option (BitVec 29)
  /-- the island's clock stopped with the data, or an abort completion with its level and PA, held at the core (05 R136) -/
  heldData : Bool
  heldAbort : Option (FaultKind × Nat × Nat)
  /-- how it ended, with the cycle, while its broken-promise report is still being written behind a window (05 R135) -/
  ending : Option (BitVec 29 × Ending)
  /-- its translation faulted in an open region: the fault is still to be recorded (05 R117, R125, 10 R237) -/
  fault : Option (FaultKind × Nat)
  /-- the page's leaf at issue, the bytes it reads, whether a window's answer is sign-extended, and the bytes of the thread's own stores that lie
  over it -/
  leaf : BitVec 64
  size : Nat
  signed : Bool
  overlaid : List (Nat × BitVec 8)
  deriving DecidableEq, Repr

/-- The broken-promise registers of a context on a core (04 R113, R115). -/
structure BpRegs where
  /-- `s.bpcount` -/
  count : BitVec 32
  /-- `s.bphead` -/
  head : BitVec 32
  /-- `s.bpbase` -/
  base : BitVec 32
  /-- `s.bplost` -/
  lost : BitVec 32
  deriving DecidableEq, Repr

/-- A regroup between its rendezvous and the switch of the crew maps (12 R267 to R270). -/
structure Regroup where
  /-- the launch -/
  lid : Nat
  /-- old slot, ordinal of the new crew and new lane of every thread of the set, in sorted order -/
  moves : List (Nat × Nat × Nat)
  /-- live registers -/
  n : Nat
  /-- map entries of a new crew -/
  entries : Nat
  /-- the crews differed in their k registers (12 R268) -/
  nonuniform : Bool
  /-- a marble that no crew outside the set can take (12 R274) -/
  keepMarble : Bool
  deriving DecidableEq, Repr

/-- A core (01 R14). Threads are keyed crew*64 + lane. -/
structure Core where
  /-- the core store: registers, scratchpads, store buffers (04 R87) -/
  store : Memory
  /-- resident blocks -/
  blocks : List Block
  /-- resident crews by crew index -/
  crews : List (Nat × Crew)
  /-- live threads -/
  threads : List (Nat × Thread)
  /-- L1 shares: launch and size in KiB (04 R87) -/
  shares : List (Nat × Nat)
  /-- lines of the L1 shares, most recent first (09 R201) -/
  lines : List Line
  /-- 64-byte pieces in the constant cache (08 R170) -/
  constant : List (Nat × BitVec 1024)
  /-- 64-byte pieces in the I-cache (08 R170) -/
  icache : List (Nat × BitVec 1024)
  /-- 64-byte pieces in the spinner's configuration buffers (08 R170) -/
  gbuffers : List (Nat × BitVec 512)
  /-- the core TLB (10 R230) -/
  tlb : List Tlb
  /-- the walk-ahead TLB (10 R230) -/
  walkAhead : List Tlb
  /-- shape records by context and address, most recent first (15 R302) -/
  records : List (Nat × BitVec 64 × BitVec 1536)
  /-- the engine-task table (15 R303) -/
  tasks : List Task
  /-- holders of slots 0, 1, sets 0, 1 and the spinner: launch and block (15 R298) -/
  holders : List (Nat × Nat × Nat)
  /-- loads that have not resolved, in the order of issue -/
  loads : List Load
  /-- registers held in the operand latches of its lanes, newest first: the thread's slot, the code and the instructions left (03 R72, 04 R98) -/
  latch : List (Nat × BitVec 8 × Nat)
  /-- timed wakes waiting beyond the wheel: time and slot; and the farthest ones of a full list, in the bucket 1,023 cycles ahead (05 R143) -/
  overflow : List (Nat × Nat)
  far : List (Nat × Nat)
  /-- broken-promise registers of the contexts that have used the core (04 R115) -/
  bp : List (Nat × BpRegs)
  /-- blocks in the retirement tracker (02 R59) -/
  tracker : List (Nat × Nat)
  /-- slots of shared registers that are full, by store offset (04 R105) -/
  full : List Nat
  /-- physical blocks that are shared -/
  shared : List Nat
  /-- regroups whose rendezvous completed and whose maps have not switched yet (12 R270) -/
  regroups : List Regroup
  /-- the shadow area: the latest checkpoint of each RBK block (10 R251) -/
  checkpoints : List Saved
  /-- words of the core store that were lost to an uncorrectable error, or that an engine task ended by an abort did not
  deliver, with the kind a read of them consumes (10 R249, R250): store offset / 4 -/
  bad : List (Nat × FaultKind)
  /-- the issue slot served next: arithmetic first -/
  arithNext : Bool
  /-- which of several free places the next crews, register blocks, scratchpads and translations take, digit by digit (DESIGN CHOICE,
  log 11): the model's own field -/
  place : Nat
  /-- which reads of an engine are served from a copy that its buffers hold, bit by bit (DESIGN CHOICE, log 18): the model's own field -/
  reuse : Nat
  deriving DecidableEq, Repr

/-- An island (01 R18, 19 R357). -/
structure Island where
  /-- the cycle counter (01 R18) -/
  cycle : BitVec 64
  /-- whether its clock runs -/
  running : Bool
  /-- a write of its operating point that waits (19 R357) -/
  held : Option (BitVec 4)
  deriving DecidableEq, Repr

/-- A launch record as the controller copies it (02 R35). -/
structure LaunchRec where
  /-- ENTRY -/
  entry : BitVec 64
  /-- TRAPH -/
  traph : BitVec 64
  /-- PARAM -/
  param : BitVec 64
  /-- TOP -/
  top : Nat
  /-- MCLS -/
  mcls : BitVec 2
  /-- CLS -/
  cls : Nat
  /-- REG -/
  reg : Bool
  /-- RBK -/
  rbk : Bool
  /-- DET -/
  det : Bool
  /-- NLOG -/
  nlog : Nat
  /-- size, domain and scope of levels 0 to 7 -/
  levels : List (Nat × Nat × Nat)
  /-- RESV -/
  resv : Nat
  /-- RBMAX -/
  rbmax : Nat
  /-- RBINIT -/
  rbinit : Nat
  /-- SPAD in bytes -/
  spad : Nat
  /-- L1 share in KiB -/
  l1kib : Nat
  /-- SBUF in bytes -/
  sbuf : Nat
  /-- PRED0 to PRED3 -/
  preds : List Nat
  /-- LID -/
  lid : Nat
  /-- OWNER -/
  owner : BitVec 16
  /-- CTX -/
  ctx : Nat
  /-- STACK -/
  stack : BitVec 64
  /-- STKB -/
  stkb : BitVec 32
  /-- TKIND -/
  tkind : Nat
  /-- TGT -/
  tgt : BitVec 64
  /-- CVAL -/
  cval : BitVec 64
  deriving DecidableEq, Repr

/-- A launch in a launch table (02 R37, R39). -/
structure Launch where
  /-- the record as it was copied -/
  rcd : LaunchRec
  /-- the record's VA -/
  va : BitVec 64
  /-- the context whose tables translate the record's address -/
  home : Nat
  /-- the die of its controller -/
  die : Nat
  /-- its place in acceptance order -/
  order : Nat
  /-- the next block to dispatch -/
  next : Nat
  /-- blocks completed -/
  done : Nat
  /-- failure or cancellation: state, code and block -/
  ended : Option (Nat × Nat × Nat)
  /-- writes that its completion waits for, once its shares are published (02 R47) -/
  await : Option (List Nat)
  /-- TIMEDEP (05 R146) -/
  timedep : Bool
  /-- crew order of the marble's holder in a DET launch -/
  marble : Option (Nat × Nat)
  /-- crews that have passed the marble in the BSYNC at which they stand (08 R199) -/
  passed : List (Nat × Nat)
  /-- physical core of each logical core of a DET launch, once dispatched -/
  logical : List Nat
  /-- pre-empted blocks and cohorts (10 R255, 12 R275) -/
  saved : List Saved
  /-- LIDs accepted from each block since its checkpoint, and whether a rollback since has still to repeat the LNCH (10 R252) -/
  lnch : List (Nat × Nat × Bool)
  deriving DecidableEq, Repr

/-- Who asked for a launch (02 R38). -/
inductive Requester where
  | host (m : Sender)
  | thread (core slot : Nat)
  deriving DecidableEq, Repr

/-- A launch request waiting at a controller (02 R40). -/
structure Request where
  /-- its number -/
  id : Nat
  /-- the die whose controller it waits at -/
  die : Nat
  /-- the record's VA -/
  va : BitVec 64
  /-- the context that names it -/
  ctx : Nat
  /-- who asked -/
  from_ : Requester
  deriving DecidableEq, Repr

/-- Who waits for a fabric request (19 R342, R344). -/
inductive FabFor where
  /-- a load, PREF or ATOM by its number, with the request that its group shares (09 R205): its thread, with its tid and PC at issue -/
  | load (core load : Nat) (kind : LoadKind) (share : Option (Nat × Nat × Nat)) (lid block slot tid : Nat) (pc : BitVec 64)
  /-- a store or RED: its thread, with its tid and PC at issue -/
  | write (core lid block slot tid : Nat) (pc : BitVec 64)
  | task (core task : Nat)
  /-- a 64-byte piece for the I-cache (`kr` false) or the constant cache of a core, under a key; the PC of the fetch -/
  | line (core : Nat) (kr : Bool) (key : Nat) (pc : BitVec 64)
  /-- an inbound message or RDMA access that named a page behind a window, with the export entry that admitted it: context and number
  (19 R339, R345, R346, R350) -/
  | host (m : Sender) (entry : Option (Nat × Nat))
  | rdma (port qp : Nat)
  /-- a broken-promise report for an area behind a window: the thread's slot, lid and block, the load, and the report; first VALID is read
  (05 R133, R134) -/
  | report (core slot lid block load : Nat) (words : List Nat)
  /-- the completion store of a launch whose controller is on a die (02 R47) -/
  | completion (die : Nat)
  deriving DecidableEq, Repr

/-- A fabric request sent and not answered (19 R342). -/
structure FabReq where
  /-- its number -/
  id : Nat
  /-- who waits -/
  for_ : FabFor
  /-- the pointer -/
  va : BitVec 64
  /-- the context -/
  ctx : Nat
  /-- bytes -/
  size : Nat
  /-- whether it writes -/
  write : Bool
  /-- the time at which it expires -/
  expires : Nat
  deriving DecidableEq, Repr

/-- A message the package sends (19 R338), or a signal to the management controller (10 R248, 19 R348). -/
inductive Msg where
  | refuse (to_ : Sender) (reason : Nat)
  | complete (tag endpoint queue : BitVec 16) (lid : Nat) (status cval : BitVec 64)
  | rsp (to_ : Sender) (data : Option (List (BitVec 8)))
  | ack (to_ : Sender)
  | notify (tag endpoint queue : BitVec 16) (slot : Nat)
  | notifyError (tag : BitVec 16) (what unit : Nat)
  | notifyPower (tag : BitVec 16) (island : Nat) (opp : BitVec 4)
  | notifyRevoked (tag : BitVec 16) (ctx idx : Nat)
  /-- a window read; an ATOM's carries its operation and operands (DESIGN CHOICE, log 16) -/
  | wrd (tag : BitVec 16) (req : Nat) (peer : BitVec 16) (rctx xidx off n : Nat) (op : Option (Nat × BitVec 64 × BitVec 64))
  /-- a window write; a RED's carries its operation (DESIGN CHOICE, log 16) -/
  | wwr (tag : BitVec 16) (req : Nat) (peer : BitVec 16) (rctx xidx off : Nat) (data : List (BitVec 8)) (op : Option Nat)
  | report (to_ : Sender) (bytes : List (BitVec 8))
  | management (what : Nat) (bytes : List (BitVec 8))
  | rdma (port qp : Nat) (data : Option (List (BitVec 8)))
  | lifetime (items : List LifeItem)
  deriving DecidableEq, Repr

/-- An address-map region (09 R210). -/
structure AmRegion where
  /-- AMBASE -/
  base : Nat
  /-- AMLIM -/
  lim : Nat
  /-- AMOFS -/
  ofs : BitVec 42
  /-- TYPE: a CXL region -/
  cxl : Bool
  /-- EN -/
  en : Bool
  /-- AMROW0 to AMROW41 -/
  rows : List (BitVec 42)
  deriving DecidableEq, Repr

/-- A line of an L2 slice (09 R202); its data are those of the point of coherence (DEDUCED, log 69). -/
structure L2Line where
  /-- the slice -/
  slice : Nat
  /-- PA[47:7] -/
  addr : Nat
  /-- valid sectors -/
  valid : BitVec 4
  /-- dirty sectors -/
  dirty : BitVec 4
  /-- retain class -/
  cls : Nat
  /-- brought in by a stream-hinted access -/
  stream : Bool
  /-- loads booked on it (05 R119) -/
  pins : List LoadRef
  deriving DecidableEq, Repr

/-- An access that waits at a slice for a way of a set whose every way is pinned (09 R203): the line and sectors it brings, with class and marks. -/
structure SliceWait where
  /-- the slice and PA[47:7] -/
  slice : Nat
  addr : Nat
  /-- sectors to hold, and those of them that are dirty -/
  sectors : BitVec 4
  dirty : BitVec 4
  /-- whether it sets class and stream mark on a hit, and those -/
  mark : Bool
  cls : Nat
  stream : Bool
  deriving DecidableEq, Repr

/-- Metadata of a 64-byte granule (09 R220, R222). -/
structure Gran where
  /-- the data unit it was encrypted as: key and tweak PA[47:6]; none for plain bytes -/
  unit : Option (BitVec 512 × Nat)
  /-- its MAC: the key and PA[47:6] it was made with, over the ciphertext of the same write; none where the field is zero -/
  mac : Option (BitVec 512 × Nat)
  deriving DecidableEq, Repr

/-- Boot state (19 R354). -/
inductive Boot where
  | rom
  | refused
  | running
  deriving DecidableEq, Repr

/-- The group the step has selected: core, launch, PC, members crew*64 + lane in ascending lane order (02 R53). -/
structure Group where
  /-- the core -/
  core : Nat
  /-- the launch -/
  lid : Nat
  /-- the PC -/
  pc : BitVec 64
  /-- its threads: crew * 64 + lane, by lane -/
  slots : List Nat
  deriving DecidableEq, Repr

/-- What moves next (DESIGN CHOICE, log 1): a happening of the device, or the issue of a group of a core's arithmetic or other slot. -/
inductive Turn where
  | happen (i : Instr)
  /-- one byte of memory becomes erroneous, by its PA (09 R221) (DESIGN CHOICE, log 77) -/
  | upset (pa : Nat)
  /-- a correctable error in a storage row of a core or a slice (19 R351) (DESIGN CHOICE, log 77) -/
  | corrected (row : Row)
  | issue (core : Nat) (arith : Bool)
  deriving DecidableEq, Repr

/-- The package. -/
structure State where
  /-- the point of coherence: bytes by their DRAM location or CXL address (09 R177, R208, R209) -/
  mem : Memory
  /-- metadata of 64-byte granules that are not as after reset (09 R220, R222) -/
  gran : List (Nat × Gran)
  /-- bytes lost to an uncorrectable error, or that an engine task ended by an abort did not deliver, with the kind that a read of them meets
  (10 R248, R250) -/
  bad : List (Nat × FaultKind)
  /-- erroneous bytes that the symbol code of their granule corrects at the next read of their sector (09 R221) -/
  soft : List Nat
  /-- control-window registers that do not hold their reset value, by offset / 8; dies follow each other (19 R358) -/
  cw : List (Nat × BitVec 64)
  /-- the active address map: regions that are not disabled (09 R210) -/
  am : List (Nat × AmRegion)
  /-- commits of regions that are in progress, with the copy they check (09 R211, R212) -/
  amBusy : List (Nat × AmRegion)
  /-- slot-table entries in force that are not as after reset (09 R216, R217) -/
  slotActive : List (Nat × BitVec 64)
  /-- dies whose slot allocator has an edit to apply (09 R217) -/
  slotPending : List Nat
  /-- the tags of the L2 slices, most recent first (09 R202, R203) -/
  l2 : List L2Line
  /-- accesses that wait at a slice for a way, oldest first (09 R203) -/
  sliceWait : List SliceWait
  /-- memory keys of the contexts (09 R220) -/
  keys : List (Nat × BitVec 512)
  /-- the launch tables, in the order of acceptance (02 R39) -/
  launches : List Launch
  /-- launch requests at the controllers (02 R40) -/
  waiting : List Request
  /-- the die that holds the acceptance token (02 R40) -/
  token : Nat
  /-- recorded faults that are unresolved: context, page, die (10 R240) -/
  unresolved : List (Nat × Nat × Nat)
  /-- fabric requests without an answer (19 R342) -/
  fabric : List FabReq
  /-- messages and signals that the package has sent, oldest first (19 R338) -/
  outbox : List Msg
  /-- window revocations in progress: context and entry (19 R346) -/
  revoking : List (Nat × Nat)
  /-- contexts under a KILL (19 R347) -/
  killing : List Nat
  /-- how far the boot has come (19 R354) -/
  boot : Boot
  /-- the firmware image in non-volatile storage (19 R354) -/
  fwImage : FwImage
  /-- a freeze has stopped every clock (19 R353) -/
  frozen : Bool
  /-- the lifetime records, and the counts made since their last update (19 R352) -/
  life : List LifeItem
  tally : List LifeItem
  /-- rows with an error whose test is still to come (19 R351) -/
  tests : List Row
  /-- flits that have failed their replay in a row, by port (19 R342) -/
  replays : List (Nat × Nat)
  /-- rows that have been moved to a spare for good (19 R351) -/
  spares : List Row
  /-- cores that take no new block (19 R351) -/
  retired : List Nat
  /-- cores that a debugger has halted (09 R219) -/
  halted : List Nat
  /-- CXL writes whose device has not completed them: number and port (08 R182) -/
  cxlAwait : List (Nat × Nat)
  /-- islands that are listed; another one has run since reset (01 R18, log 9) -/
  islands : List (Nat × Island)
  /-- cores that have left their state of reset (01 R14) -/
  cores : List (Nat × Core)
  /-- what the outside world or a choice of the hardware has fixed to move next (DESIGN CHOICE, log 1): the model's own field -/
  agenda : List Turn
  /-- whether the device's own happenings are asked before groups (DESIGN CHOICE, log 1): the model's own field -/
  flip : Bool
  /-- the group that the step has selected (DESIGN CHOICE, log 1): the model's own field -/
  cur : Option Group
  /-- how many free values have been drawn (DESIGN CHOICE, log 8): the model's own field -/
  free : Nat
  /-- steps taken: one core cycle each of every running island (DESIGN CHOICE, log 9): the model's own field -/
  time : Nat
  /-- which physical cores the next DET launch is assigned, digit by digit (DESIGN CHOICE, log 11): the model's own field -/
  assign : Nat
  /-- the next number of a load, task, crew or request (DESIGN CHOICE, log 1): the model's own field -/
  seq : Nat
  deriving DecidableEq, Repr

/-- A core after reset: nothing resident. -/
def Core.reset : Core where
  store := Memory.empty
  blocks := []
  crews := []
  threads := []
  shares := []
  lines := []
  constant := []
  icache := []
  gbuffers := []
  tlb := []
  walkAhead := []
  records := []
  tasks := []
  holders := []
  loads := []
  latch := []
  overflow := []
  far := []
  bp := []
  tracker := []
  full := []
  shared := []
  regroups := []
  checkpoints := []
  bad := []
  arithNext := true
  place := 0
  reuse := 0

/-- An island after reset (01 R18). -/
def Island.reset : Island := { cycle := 0, running := true, held := none }

/-- Why a step stops the machine. -/
inductive Fault where
  /-- Raised by the step of a frozen package (19 R353: every clock stands still and only a reset restarts the device).
  Safe: nothing happens in the hardware either. -/
  | frozen
  deriving DecidableEq, Repr

/-- Why an instruction has no meaning. -/
inductive Refusal where
  /-- Raised by an arm of `exec` whose instruction has no meaning yet. Safe: nothing is claimed of the instruction. -/
  | notModelled (mnemonic : String)
  deriving DecidableEq, Repr

/-- The package right after reset (19 R354, and the reset columns of the register tables; DESIGN CHOICE, log 1 to 7 for what they leave
open): nothing placed, every control register at its table's value, memory with nothing listed. -/
def State.reset : State where
  mem := Memory.empty
  gran := []
  bad := []
  soft := []
  cw := []
  am := []
  amBusy := []
  slotActive := []
  slotPending := []
  l2 := []
  sliceWait := []
  keys := []
  launches := []
  waiting := []
  token := 0
  unresolved := []
  fabric := []
  outbox := []
  revoking := []
  killing := []
  boot := .rom
  fwImage := { version := 0, sha := 0, verifies := true }
  frozen := false
  life := []
  tally := []
  tests := []
  replays := []
  spares := []
  retired := []
  halted := []
  cxlAwait := []
  islands := []
  cores := []
  agenda := []
  flip := false
  cur := none
  free := 0
  time := 0
  assign := 0
  seq := 0

end Sys2Proof.Machine
end

