-- ==== Sys2Proof/Machine/Memory.lean ====
section
/-! DEFINITION. Sparse tables and the sparse memory: the only operations that read or write them. -/

namespace Sys2Proof.Machine

/-- The entry of a key. -/
def tget {α : Type} (t : List (Nat × α)) (k : Nat) : Option α :=
  match t with
  | [] => none
  | (k', v) :: r => if k' = k then some v else tget r k

/-- Sets the entry of a key: in its place, or at the end. -/
def tset {α : Type} (t : List (Nat × α)) (k : Nat) (v : α) : List (Nat × α) :=
  match t with
  | [] => [(k, v)]
  | (k', v') :: r => if k' = k then (k, v) :: r else (k', v') :: tset r k v

/-- Drops the entries of a key. -/
def tdel {α : Type} (t : List (Nat × α)) (k : Nat) : List (Nat × α) := t.filter (fun e => e.1 != k)

/-- The byte an address reads as among cells. -/
def cellsGet : List Host.Cell → Nat → Byte
  | [], _ => 0
  | (x, y) :: r, a => if x = a then y else cellsGet r a

/-- Writes a byte into cells whose addresses rise, dropping the entry when the byte is 0. -/
def cellsPut : List Host.Cell → Nat → Byte → List Host.Cell
  | [], a, v => if v = 0 then [] else [(a, v)]
  | (x, y) :: r, a, v =>
    if a < x then (if v = 0 then (x, y) :: r else (a, v) :: (x, y) :: r)
    else if a = x then (if v = 0 then r else (a, v) :: r)
    else (x, y) :: cellsPut r a v

theorem wfCellsFrom_mono {lo lo' : Nat} (h : lo' ≤ lo) (l : List Host.Cell) (w : wfCellsFrom lo l = true) :
    wfCellsFrom lo' l = true := by
  cases l with
  | nil => rfl
  | cons c r =>
    obtain ⟨x, y⟩ := c
    simp only [wfCellsFrom, Bool.and_eq_true, decide_eq_true_eq] at w ⊢
    exact ⟨⟨Nat.le_trans h w.1.1, w.1.2⟩, w.2⟩

theorem wfCellsFrom_put (l : List Host.Cell) : ∀ (lo a : Nat) (v : Byte), lo ≤ a → wfCellsFrom lo l = true →
    wfCellsFrom lo (cellsPut l a v) = true := by
  induction l with
  | nil =>
    intro lo a v h _
    unfold cellsPut
    split
    · rfl
    · simp [wfCellsFrom, h]; assumption
  | cons c r ih =>
    obtain ⟨x, y⟩ := c
    intro lo a v h w
    simp only [wfCellsFrom, Bool.and_eq_true, decide_eq_true_eq] at w
    obtain ⟨⟨w1, w2⟩, w3⟩ := w
    unfold cellsPut
    split
    · split
      · simp [wfCellsFrom, w1, w3]; simpa using w2
      · rename_i hax hv
        simp only [wfCellsFrom, Bool.and_eq_true, decide_eq_true_eq, bne_iff_ne, ne_eq]
        exact ⟨⟨h, hv⟩, ⟨hax, by simpa using w2⟩, w3⟩
    · split
      · rename_i hax
        subst hax
        split
        · exact wfCellsFrom_mono (by omega) r w3
        · rename_i hv
          simp only [wfCellsFrom, Bool.and_eq_true, decide_eq_true_eq, bne_iff_ne, ne_eq]
          exact ⟨⟨h, hv⟩, w3⟩
      · simp only [wfCellsFrom, Bool.and_eq_true, decide_eq_true_eq]
        exact ⟨⟨w1, w2⟩, ih (x + 1) a v (by omega) w3⟩

/-- Reads one byte. -/
def Memory.get (m : Memory) (a : Nat) : Byte := cellsGet m.cells a

/-- Writes one byte. -/
def Memory.put (m : Memory) (a : Nat) (v : Byte) : Memory :=
  { cells := cellsPut m.cells a v, canon := wfCellsFrom_put m.cells 0 a v (Nat.zero_le a) m.canon }

/-- Reads n bytes, the lowest address least significant (00 R4). -/
def Memory.getN (m : Memory) (a : Nat) : Nat → Nat
  | 0 => 0
  | n + 1 => (m.get a).toNat + 256 * Memory.getN m (a + 1) n

/-- Writes the low n bytes of a number, least significant first. -/
def Memory.putN (m : Memory) (a : Nat) (n : Nat) (v : Nat) : Memory :=
  match n with
  | 0 => m
  | n + 1 => Memory.putN (m.put a (BitVec.ofNat 8 v)) (a + 1) n (v / 256)

/-- Reads a word. -/
def Memory.get32 (m : Memory) (a : Nat) : Word := BitVec.ofNat 32 (m.getN a 4)

/-- Writes a word. -/
def Memory.put32 (m : Memory) (a : Nat) (v : Word) : Memory := m.putN a 4 v.toNat

/-- Writes a list of bytes from an address upward. -/
def Memory.putBytes (m : Memory) (a : Nat) : List Byte → Memory
  | [] => m
  | b :: r => Memory.putBytes (m.put a b) (a + 1) r

/-- The n bytes from an address upward. -/
def Memory.bytes (m : Memory) (a : Nat) : Nat → List Byte
  | 0 => []
  | n + 1 => m.get a :: Memory.bytes m (a + 1) n

/-- Zero in n bytes from an address upward: the cells of the range are dropped. -/
def Memory.clear (m : Memory) (a n : Nat) : Memory :=
  (m.cells.filter (fun c => a ≤ c.1 && c.1 < a + n)).foldl (fun m c => m.put c.1 0) m

/-- Copies the bytes of `src` at a to a + n - 1 to `m` at b. -/
def Memory.copy (m src : Memory) (a n b : Nat) : Memory :=
  (src.cells.filter (fun c => a ≤ c.1 && c.1 < a + n)).foldl (fun m c => m.put (c.1 - a + b) c.2) (m.clear b n)

end Sys2Proof.Machine
end

