-- ==== Sys2Proof/Machine/Access.lean ====
section
/-! DEFINITION. Accessors: cores, islands, threads, crews, blocks, launches, registers, predicates and time registers. Every
read and write of these goes through here. -/

namespace Sys2Proof.Machine

/-- Core n. -/
def State.core (s : State) (n : Nat) : Core := (tget s.cores n).getD Core.reset

/-- Sets core n. -/
def State.setCore (s : State) (n : Nat) (c : Core) : State := { s with cores := tset s.cores n c }

/-- Changes core n. -/
def State.modCore (s : State) (n : Nat) (f : Core → Core) : State := s.setCore n (f (s.core n))

/-- Island n: cores 2n and 2n + 1 (01 R13). One that is not listed has run since reset (DESIGN CHOICE, log 9). -/
def State.island (s : State) (n : Nat) : Island :=
  (tget s.islands n).getD { Island.reset with cycle := BitVec.ofNat 64 s.time }

/-- Sets island n. -/
def State.setIsland (s : State) (n : Nat) (i : Island) : State := { s with islands := tset s.islands n i }

/-- The cycle counter that a core reads (01 R18). -/
def State.cycle (s : State) (core : Nat) : BitVec 64 := (s.island (core / 2)).cycle

/-- The counter's low 29 bits, as time registers hold them (04 R102). -/
def State.now29 (s : State) (core : Nat) : BitVec 29 := (s.cycle core).setWidth 29

/-- A fresh number. -/
def State.fresh (s : State) : Nat × State := (s.seq, { s with seq := s.seq + 1 })

/-- The next free value's index (DESIGN CHOICE, log 8). -/
def State.draw (s : State) : Nat × State := (s.free, { s with free := s.free + 1 })

/-- The launch held under an ID in a launch table. -/
def State.launch? (s : State) (lid : Nat) : Option Launch := s.launches.find? (fun l => l.rcd.lid == lid)

/-- Changes a launch. -/
def State.modLaunch (s : State) (lid : Nat) (f : Launch → Launch) : State :=
  { s with launches := s.launches.map (fun l => if l.rcd.lid = lid then f l else l) }

/-- A record of zeros, read where no launch is held. -/
def LaunchRec.none : LaunchRec where
  entry := 0
  traph := 0
  param := 0
  top := 2
  mcls := 0
  cls := 0
  reg := false
  rbk := false
  det := false
  nlog := 0
  levels := []
  resv := 0
  rbmax := 0
  rbinit := 0
  spad := 0
  l1kib := 0
  sbuf := 0
  preds := []
  lid := 0
  owner := 0
  ctx := 0
  stack := 0
  stkb := 0
  tkind := 0
  tgt := 0
  cval := 0

/-- The record of a launch. -/
def State.rcd (s : State) (lid : Nat) : LaunchRec := ((s.launch? lid).map (·.rcd)).getD LaunchRec.none

/-- The size of level i (02 R32). -/
def LaunchRec.size (r : LaunchRec) (i : Nat) : Nat := ((r.levels[i]?).map (·.1)).getD 0

/-- The thread in a slot (crew * 64 + lane). -/
def Core.thread? (c : Core) (slot : Nat) : Option Thread := tget c.threads slot

/-- Puts a thread into a slot. -/
def Core.setThread (c : Core) (slot : Nat) (t : Thread) : Core := { c with threads := tset c.threads slot t }

/-- Changes the thread in a slot, if there is one. -/
def Core.modThread (c : Core) (slot : Nat) (f : Thread → Thread) : Core :=
  match c.thread? slot with
  | some t => c.setThread slot (f t)
  | none => c

/-- The threads that see the register of a code as the thread in a slot sees it: itself for a v register, its crew for a k register (04 R90,
R100). -/
def Core.modSeeing (c : Core) (slot : Nat) (code : BitVec 8) (f : Thread → Thread) : Core :=
  if code.toNat < 0xE0 then c.modThread slot f
  else { c with threads := c.threads.map (fun (e : Nat × Thread) => if e.1 / 64 = slot / 64 then (e.1, f e.2) else e) }

/-- A crew by its index. -/
def Core.crew? (c : Core) (i : Nat) : Option Crew := tget c.crews i

/-- Puts a crew. -/
def Core.setCrew (c : Core) (i : Nat) (x : Crew) : Core := { c with crews := tset c.crews i x }

/-- Changes a crew, if there is one. -/
def Core.modCrew (c : Core) (i : Nat) (f : Crew → Crew) : Core :=
  match c.crew? i with
  | some x => c.setCrew i (f x)
  | none => c

/-- The thread in a slot of a core. -/
def State.thread? (s : State) (core slot : Nat) : Option Thread := (s.core core).thread? slot

/-- Changes a thread. -/
def State.modThread (s : State) (core slot : Nat) (f : Thread → Thread) : State :=
  s.modCore core (·.modThread slot f)

/-- Changes a crew. -/
def State.modCrew (s : State) (core i : Nat) (f : Crew → Crew) : State := s.modCore core (·.modCrew i f)

/-- A resident block. -/
def Core.block? (c : Core) (lid index : Nat) : Option Block := c.blocks.find? (fun b => b.lid == lid && b.index == index)

/-- Changes a resident block. -/
def Core.modBlock (c : Core) (lid index : Nat) (f : Block → Block) : Core :=
  { c with blocks := c.blocks.map (fun b => if b.lid = lid ∧ b.index = index then f b else b) }

/-- The slots of the live threads of a block, as the table lists them. -/
def Core.slotsOf (c : Core) (lid index : Nat) : List Nat :=
  (c.threads.filter (fun e => e.2.lid == lid && e.2.block == index)).map (·.1)

/-- The slots of the live threads of a crew. -/
def Core.slotsIn (c : Core) (crew : Nat) : List Nat := (c.threads.filter (fun e => e.1 / 64 == crew)).map (·.1)

/-- `s.tid` (02 R34). -/
def Thread.tid (t : Thread) : Nat := t.lvid1 * 64 + t.lvid0

/-- The global thread number (02 R26). -/
def Thread.global (t : Thread) (r : LaunchRec) : Nat := t.block * (r.size 2) * (r.size 1) + t.lvid1 * (r.size 1) + t.lvid0

/-- Predicate n: p7 reads true (04 R99). -/
def Thread.pred (t : Thread) (n : BitVec 3) : Bool := n == 7 || t.preds.getLsbD n.toNat

/-- Writes predicate n: a write to p7 is discarded (04 R99). -/
def Thread.setPred (t : Thread) (n : BitVec 3) (b : Bool) : Thread :=
  if n = 7 then t
  else { t with preds := if b then t.preds ||| (1#7 <<< n.toNat) else t.preds &&& ~~~(1#7 <<< n.toNat) }

/-- Time register n (04 R102). -/
def Thread.treg (t : Thread) (n : BitVec 3) : Word := t.tregs.get n.toFin

/-- Writes time register n. -/
def Thread.setTreg (t : Thread) (n : BitVec 3) (w : Word) : Thread := { t with tregs := t.tregs.set n.toNat w n.isLt }

/-- Whether the guard holds for a thread (03 R70). -/
def Thread.guard (t : Thread) (g : Guard) : Bool := t.pred g.p != g.neg

/-- The states of a time register (04 R102). -/
inductive TState where
  | idle | probing | promised | arrived | broken | late | fault | abort
  deriving DecidableEq, Repr

/-- The code of a state. -/
def TState.code : TState → BitVec 3
  | .idle => 0
  | .probing => 1
  | .promised => 2
  | .arrived => 3
  | .broken => 4
  | .late => 5
  | .fault => 6
  | .abort => 7

/-- A time register's raw contents (04 R102). -/
def mkTreg (st : TState) (cycle : BitVec 29) : Word := st.code ++ cycle

/-- STATE of raw contents. -/
def tstate (w : Word) : BitVec 3 := w.extractLsb' 29 3

/-- CYCLE of raw contents. -/
def tcycle (w : Word) : BitVec 29 := w.extractLsb' 0 29

/-- PROBING, PROMISED or BROKEN (05 R124). -/
def tpending (w : Word) : Bool := tstate w == 1 || tstate w == 2 || tstate w == 4

/-- Whether cycle value a lies after b (05 R124). -/
def later (a b : BitVec 29) : Bool := decide (0 < (a - b).toInt)

/-- Store offset of vN of the thread in a slot; none when its map entry is unmapped (04 R91). -/
def Core.vOff (c : Core) (slot n : Nat) : Option Nat :=
  match c.crew? (slot / 64) with
  | none => none
  | some x =>
    match x.rbm.toList[n / 8]? with
    | some (some b) => some (b * 2048 + n % 8 * 256 + slot % 64 * 4)
    | _ => none

/-- Reads vN. -/
def Core.readV (c : Core) (slot n : Nat) : Option Word := (c.vOff slot n).map c.store.get32

/-- Writes vN; nothing happens where the entry is unmapped (the instruction has trapped before). -/
def Core.writeV (c : Core) (slot n : Nat) (w : Word) : Core :=
  match c.vOff slot n with
  | some a => { c with store := c.store.put32 a w, bad := if c.bad.isEmpty then [] else tdel c.bad (a / 4) }
  | none => c

/-- Reads kN of a crew (04 R100). -/
def Core.readK (c : Core) (crew : Nat) (n : BitVec 4) : Word :=
  match c.crew? crew with
  | some x => x.k.get n.toFin
  | none => 0

/-- Writes kN of a crew. -/
def Core.writeK (c : Core) (crew : Nat) (n : BitVec 4) (w : Word) : Core :=
  c.modCrew crew (fun x => { x with k := x.k.set n.toNat w n.isLt })

/-- Join mask and arrival set jN of a crew (06 R151). -/
def Core.readJ (c : Core) (crew : Nat) (n : BitVec 3) : DWord × DWord :=
  match c.crew? crew with
  | some x => x.j.get n.toFin
  | none => (0, 0)

/-- Writes a join mask with its arrival set. -/
def Core.writeJ (c : Core) (crew : Nat) (n : BitVec 3) (m : DWord × DWord) : Core :=
  c.modCrew crew (fun x => { x with j := x.j.set n.toNat m n.isLt })

/-- The lanes of a crew that hold a live thread, as a mask (06 R152). -/
def Core.live (c : Core) (crew : Nat) : DWord :=
  (c.slotsIn crew).foldl (fun m slot => m ||| (1#64 <<< (slot % 64))) 0

/-- The crew indices in use. -/
def Core.crewIds (c : Core) : List Nat := c.crews.map (·.1)

/-- Physical blocks mapped by any crew. -/
def Core.mapped (c : Core) : List Nat := c.crews.flatMap (fun e => e.2.rbm.toList.filterMap id)

/-- The die of a core (01 R13). -/
def dieOf (core : Nat) : Nat := core / 64

/-- The quadrant of a core. -/
def quadOf (core : Nat) : Nat := core / 16

/-- Whether cores a and b lie in one instance of a domain (02 R31): 2 the core, 3 the island, 4 the quadrant, 5 the die. -/
def sameDomain (scope a b : Nat) : Bool :=
  match scope with
  | 0 | 1 | 2 => a == b
  | 3 => a / 2 == b / 2
  | 4 => a / 16 == b / 16
  | 5 => a / 64 == b / 64
  | _ => true

/-- The cores of the domain instance of a core. -/
def domain (scope core : Nat) : List Nat := (List.range 256).filter (sameDomain scope core)

end Sys2Proof.Machine
end

