-- ==== Sys2Proof/Machine/Flags.lean ====
section
/-! DEFINITION. The predicate computations: conditions of compares and functions of PLOP (03 R63). The float classes they
need are given as Booleans. -/

namespace Sys2Proof.Machine

/-- The condition of an ISETP on operands of any width (03 R63). -/
def intCond {w : Nat} (c : BitVec 3) (a b : BitVec w) : Bool :=
  match c.toNat with
  | 0 => a == b
  | 1 => a != b
  | 2 => a.slt b
  | 3 => a.sle b
  | 4 => b.slt a
  | 5 => b.sle a
  | 6 => a.ult b
  | _ => b.ule a

/-- The condition of an FSETP: `nan`, either operand is NaN; `lt`, `eq`, the exact comparison (03 R63). -/
def floatCond (c : BitVec 3) (nan lt eq : Bool) : Bool :=
  match c.toNat with
  | 0 => !nan && eq
  | 1 => nan || !eq
  | 2 => !nan && lt
  | 3 => !nan && (lt || eq)
  | 4 => !nan && !lt && !eq
  | 5 => !nan && !lt
  | 6 => !nan
  | _ => nan

/-- The function of a PLOP (03 R63). -/
def predFn (f : BitVec 3) (a b : Bool) : Bool :=
  match f.toNat with
  | 0 => a && b
  | 1 => a || b
  | 2 => a != b
  | 3 => a && !b
  | 4 => a || !b
  | 5 => !(a && b)
  | 6 => !(a || b)
  | _ => a == b

end Sys2Proof.Machine
end

