-- ==== Sys2Proof/Machine/Operands.lean ====
section
/-! DEFINITION. Operand forms: what every source code reads (03 R67, R68, R69), what every destination code writes
(04 R99 to R104), and S-forms as the X-forms they stand for (03 R64). -/

namespace Sys2Proof.Machine
open Sys2Proof

/-- What a thread's fault registers and a fault record say of a fault (10 R235, R240). -/
structure FaultInfo where
  kind : FaultKind
  va : DWord
  write : Bool
  path : Path
  level : Nat
  /-- the physical address that no region maps (kind 6) -/
  pa : Nat := 0
  deriving DecidableEq, Repr

/-- ADDR of a fault record: the faulting pointer, or the PA for kind 6 (10 R240) (DEDUCED, log 25). -/
def FaultInfo.addr (f : FaultInfo) : DWord := if f.kind = .unmappedPa then BitVec.ofNat 64 f.pa else f.va

/-- Why a thread's instruction does not take effect now. -/
inductive Stop where
  /-- the thread takes a trap; with a fault, its registers describe it (10 R235, R244) -/
  | trap (cause : Nat) (fault : Option FaultInfo)
  /-- the thread parks and its instruction goes on when the condition holds (02 R55) -/
  | park (p : Park)
  /-- it consumes a faulted or aborted load (10 R238, R250) -/
  | taint (t : Taint)
  /-- it meets a word of the core store that holds no value: an uncorrectable error, or the result of an aborted engine
  task (10 R249, R250) -/
  | ecc (off : Nat) (kind : FaultKind)
  /-- an access of the thread meets such a word: its pointer (10 R235, R249) -/
  | eccAt (va : DWord) (write : Bool) (kind : FaultKind)
  /-- a store finds no free granule (08 R185, 10 R251) -/
  | overflow (va : DWord)
  /-- an access or a record pointer whose address is not aligned: `s.faddr` takes the address, `s.fstat` stays, since the
  fault kinds have no number for it (10 R233 to R235, R243) -/
  | misaligned (va : DWord)
  /-- a repairable fault in an open region aborts it (10 R237) -/
  | abortRegion (fault : FaultInfo)
  /-- a read that the instruction itself makes meets an abort completion, which it consumes at once (10 R248, R250) -/
  | abort (fault : FaultInfo)
  deriving DecidableEq, Repr

/-- Trap causes (10 R243). -/
def causeIllegalInstruction : Nat := 0x01
/-- Trap cause ILLEGAL_OPERAND. -/
def causeIllegalOperand : Nat := 0x02
/-- Trap cause UNMAPPED_REGISTER. -/
def causeUnmapped : Nat := 0x03
/-- Trap cause MISALIGNED. -/
def causeMisaligned : Nat := 0x04
/-- Trap cause PAGE_FAULT. -/
def causePageFault : Nat := 0x05
/-- Trap cause PROTECTION. -/
def causeProtection : Nat := 0x06
/-- Trap cause BOUNDS. -/
def causeBounds : Nat := 0x07
/-- Trap cause RECORD. -/
def causeRecord : Nat := 0x08
/-- Trap cause REGION_OVERFLOW. -/
def causeRegionOverflow : Nat := 0x09
/-- Trap cause STACK_LIMIT. -/
def causeStackLimit : Nat := 0x0A
/-- Trap cause VALUE_BOUND. -/
def causeValueBound : Nat := 0x0B
/-- Trap cause ECC_ABORT. -/
def causeEccAbort : Nat := 0x0C
/-- Trap cause REGROUP. -/
def causeRegroup : Nat := 0x0D
/-- Trap cause JOIN. -/
def causeJoin : Nat := 0x0E
/-- Trap cause BARRIER. -/
def causeBarrier : Nat := 0x0F
/-- Trap cause SVC. -/
def causeSvc : Nat := 0x10
/-- Trap cause BRK. -/
def causeBrk : Nat := 0x11
/-- Trap cause TRAP. -/
def causeTrap : Nat := 0x12
/-- Trap cause PRIVILEGE. -/
def causePrivilege : Nat := 0x13

/-- A trap without a fault. -/
def trap {α : Type} (cause : Nat) : Except Stop α := .error (.trap cause none)

/-- The trap of a cause unless a check holds. -/
def need (ok : Bool) (cause : Nat) : Except Stop Unit := if ok then .ok () else trap cause

/-- The alignment check of an access or a record: the first check of all (10 R233). -/
def needAligned (va : DWord) (n : Nat) : Except Stop Unit := if va.toNat % n = 0 then .ok () else .error (.misaligned va)

/-- Whether a load still has to write a code that the thread in a slot sees: its own v registers, its crew's k registers. -/
def Load.writes (l : Load) (slot : Nat) (code : BitVec 8) : Bool :=
  (if code.toNat < 0xE0 then l.slot == slot else l.slot / 64 == slot / 64) && l.dests.any (·.1 == code)

/-- The pending loads that a read of a code waits for: lookahead relaxes the thread's own (03 R71, 05 R140). -/
def Core.blocking (c : Core) (slot : Nat) (code : BitVec 8) : List Nat :=
  (c.loads.filter (fun l => l.writes slot code && (l.la == 0 || l.slot != slot))).map (·.id)

/-- The taint that covers a code of a thread (DEDUCED, log 34). -/
def Thread.taintOf (t : Thread) (code : BitVec 8) : Option Taint := t.taints.find? (fun x => x.regs.contains code)

/-- A register read of a v or k code, with its unmapped entry, error, taint and scoreboard checks (02 R56, 10 R249, R250,
R238, 05 R140). It waits first: a load issued after the one that faulted or aborted brings a value of its own (21 R417). -/
def Core.readVK (c : Core) (slot : Nat) (t : Thread) (code : BitVec 8) : Except Stop Word :=
  match c.blocking slot code with
  | [] =>
    match t.taintOf code with
    | some x => .error (.taint x)
    | none =>
      if code.toNat < 0xE0 then
        match c.vOff slot code.toNat with
        | none => trap causeUnmapped
        | some a =>
          match tget c.bad (a / 4) with
          | some k => .error (.ecc a k)
          | none => .ok (c.store.get32 a)
      else .ok (c.readK (slot / 64) (code.setWidth 4))
  | ids => .error (.park (.loads ids))

/-- A 32-bit source (03 R67, R69). -/
def State.src32 (s : State) (core slot : Nat) (t : Thread) (lit : Option DWord) (code : BitVec 8) : Except Stop Word :=
  if code.toNat < 0xF0 then (s.core core).readVK slot t code
  else if code.toNat < 0xF8 then .ok (t.treg (code.setWidth 3))
  else match code.toNat with
    | 0xF9 => .ok (BitVec.ofNat 32 (slot % 64))
    | 0xFA => .ok (BitVec.ofNat 32 t.tid)
    | 0xFB => .ok ((s.cycle core).setWidth 32)
    | 0xFE => .ok ((lit.getD 0).setWidth 32)
    | _ => .ok 0

/-- A 64-bit source: a pair, a zero-extended special, or the whole literal (03 R68, R69). -/
def State.src64 (s : State) (core slot : Nat) (t : Thread) (lit : Option DWord) (code : BitVec 8) : Except Stop DWord :=
  if code.toNat < 0xF0 then do
    let lo ← (s.core core).readVK slot t code
    let hi ← (s.core core).readVK slot t (code + 1)
    .ok (hi ++ lo)
  else if code = 0xFE then .ok (lit.getD 0)
  else do
    let w ← s.src32 core slot t lit code
    .ok (w.setWidth 64)

/-- A source of n bytes: 1, 2 or 4 from a register, 8 from a pair, 16 from a quad (03 R78). -/
def State.srcN (s : State) (core slot : Nat) (t : Thread) (lit : Option DWord) (code : BitVec 8) (n : Nat) :
    Except Stop (BitVec 128) :=
  if n ≤ 4 then do
    let w ← s.src32 core slot t lit code
    .ok ((w.setWidth 128) &&& (BitVec.ofNat 128 (256 ^ n - 1)))
  else if n ≤ 8 ∨ ¬code.toNat < 0xE0 then do
    let w ← s.src64 core slot t lit code
    .ok (w.setWidth 128)
  else do
    let lo ← s.src64 core slot t lit code
    let hi ← s.src64 core slot t lit (code + 2)
    .ok (hi ++ lo)

/-- A write of an instruction's result. -/
inductive Write where
  | reg (code : BitVec 8) (w : Word)
  | pred (n : BitVec 3) (b : Bool)
  | treg (n : BitVec 3) (w : Word)
  | jump (pc : DWord)
  | cyclehi (w : Word)
  deriving DecidableEq, Repr

/-- The writes of a 32-bit result. -/
def wr32 (code : BitVec 8) (w : Word) : List Write := [.reg code w]

/-- The writes of a 64-bit result: both registers of the pair (04 R104); 0xF8 discards. -/
def wr64 (code : BitVec 8) (w : DWord) : List Write :=
  if code = 0xF8 then [] else [.reg code (w.extractLsb' 0 32), .reg (code + 1) (w.extractLsb' 32 32)]

/-- The operand-latch entry of a v register of the thread in a slot goes (03 R72). -/
def Core.dropHeld (c : Core) (slot : Nat) (code : BitVec 8) : Core := { c with latch := c.latch.filter (fun e => !(e.1 == slot && e.2.1 == code)) }

/-- A register write supersedes what pending loads and taints have for the register (21 R417, 10 R250) (DEDUCED, log 35). -/
def Core.supersede (c : Core) (slot : Nat) (code : BitVec 8) : Core :=
  let c := if c.loads.any (·.writes slot code) then
      { c with loads := c.loads.map (fun l => if l.writes slot code then { l with dests := l.dests.filter (·.1 != code) } else l) }
    else c
  (c.modSeeing slot code (fun t => { t with taints := t.taints.map (fun x => { x with regs := x.regs.filter (· != code) }) })).dropHeld slot code

/-- The latch entries of registers that lie in some bytes of the core store are invalid once those are written (03 R72). -/
def Core.unlatch (c : Core) (off n : Nat) : Core :=
  { c with latch := c.latch.filter (fun x => match c.vOff x.1 x.2.1.toNat with
      | some a => !(decide (a < off + n) && decide (off < a + 4))
      | none => true) }

/-- A write of a v register; one in a shared block is the same register of the crews that share it (04 R105). -/
def Core.putV (c : Core) (slot n : Nat) (w : Word) : Core :=
  let c := c.writeV slot n w
  if c.shared.isEmpty then c
  else match c.vOff slot n with
    | some a => c.unlatch a 4
    | none => c

/-- Writes one register by its destination code; 0xF8 discards (03 R67, 04 R100). -/
def Core.writeReg (c : Core) (slot : Nat) (code : BitVec 8) (w : Word) : Core :=
  if code.toNat < 0xE0 then (c.supersede slot code).putV slot code.toNat w
  else if code.toNat < 0xF0 then (c.supersede slot code).writeK (slot / 64) (code.setWidth 4) w
  else c

/-- Applies a write for the thread in a slot. -/
def Core.apply (c : Core) (slot : Nat) : Write → Core
  | .reg code w => c.writeReg slot code w
  | .pred n b => c.modThread slot (·.setPred n b)
  | .treg n w => c.modThread slot (·.setTreg n w)
  | .jump pc => c.modThread slot (fun t => { t with pc := pc })
  | .cyclehi w => c.modThread slot (fun t => { t with cyclehi := w })

/-- Whether a destination or source code names a v register in an unmapped entry (02 R56). -/
def Core.unmapped (c : Core) (slot : Nat) (code : BitVec 8) : Bool :=
  code.toNat < 0xE0 && (c.vOff slot code.toNat).isNone

/-- Every code named has its entry mapped. -/
def Core.checkMapped (c : Core) (slot : Nat) (codes : List (BitVec 8)) : Except Stop Unit :=
  need (!codes.any (c.unmapped slot)) causeUnmapped

/-- The codes of a pair. -/
def pairOf (code : BitVec 8) : List (BitVec 8) := if code.toNat < 0xF0 then [code, code + 1] else [code]

/-- The codes of an n-byte register operand (03 R78). -/
def codesOf (code : BitVec 8) (n : Nat) : List (BitVec 8) :=
  if n ≤ 4 ∨ ¬code.toNat < 0xF0 then [code]
  else if n ≤ 8 then [code, code + 1]
  else [code, code + 1, code + 2, code + 3]

end Sys2Proof.Machine

namespace Sys2Proof

/-- An S-form of two sources as its X-form (03 R64). -/
def SBin.toX (o : SBin) : XOps where
  g := o.g
  a := o.a.setWidth 8
  b := if o.lit.isSome then 0xFE else o.b.setWidth 8
  c := 0
  d := o.d.setWidth 8
  sub := 0
  imm := 0
  te := false
  t := 0
  hold := if o.hold then 1 else 0
  la := 0
  lit := o.lit

/-- An S-form of one source as its X-form. -/
def SUn.toX (o : SUn) : XOps :=
  { SBin.toX { g := o.g, hold := o.hold, a := o.a, b := 0, d := o.d, lit := none } with b := 0 }

/-- The S-form of MOV as its X-form. -/
def SMov.toX (o : SMov) : XOps :=
  { SBin.toX { g := o.g, hold := false, a := 0, b := o.b, d := o.d, lit := o.lit } with a := 0 }

/-- An S-form compare as its X-form. -/
def SCmp.toX (o : SCmp) : XOps :=
  { SBin.toX { g := o.g, hold := o.hold, a := o.a, b := o.b, d := 0, lit := none } with d := 0#2 ++ o.cond ++ o.pd }

/-- The S-form of PLOP as its X-form. -/
def SPlop.toX (o : SPlop) : XOps :=
  { SBin.toX { g := o.g, hold := false, a := 0, b := 0, d := 0, lit := none } with
    a := 0#2 ++ o.fn ++ o.pa
    b := 0#5 ++ o.pb
    d := 0#5 ++ o.pd }

/-- A guard alone as an X-form. -/
def Guard.toX (g : Guard) : XOps :=
  { SBin.toX { g := g, hold := false, a := 0, b := 0, d := 0, lit := none } with b := 0 }

/-- The length of an S-form in bytes (03 R60). -/
def sLen (lit : Option DWord) : Nat := if lit.isSome then 12 else 4

/-- The length of an X-form in bytes. -/
def XOps.len (x : XOps) : Nat := if x.lit.isSome then 20 else 12

end Sys2Proof
end

