-- ==== Sys2Proof/Machine/Translate.lean ====
section
/-! DEFINITION. The control-window registers with their reset values (19 R358), address maps (09 R208 to R210), memory at the
point of coherence with keys and MACs (09 R220 to R222). -/

namespace Sys2Proof.Machine

/-- The base die of a fabric port (01 R19). -/
def portDie (p : Nat) : Nat := if p < 5 then 0 else if p < 9 then 1 else if p < 14 then 2 else 3

/-- Registers held as one copy for the package are kept under die 0 (19 R359) (DEDUCED, log 26). -/
def replicated (off : Nat) : Bool :=
  (0x30000 ≤ off && off < 0x31000) || (0x50000 ≤ off && off < 0x51000) || (0x51000 ≤ off && off < 0x51200)

/-- The value a slot-table entry has at reset (09 R216). -/
def slotReset (off : Nat) : BitVec 32 :=
  let s := off % 0x100 / 4
  BitVec.ofNat 32 (0xC000 + (if off < 0x41000 then s % 34 else s % 2))

/-- The reset value of the 8-byte slot of the control window at an offset that is a multiple of 8 (19 R358); SACTL has none and reads 0 (DESIGN
CHOICE, log 21). -/
def cwReset (off : Nat) : DWord :=
  if off = 0x20000 then 0x00001CE800000C80
  else if off = 0x20100 then 0x10101010
  else if (0x40000 ≤ off && off < 0x41000) || (0x41000 ≤ off && off < 0x41400) || (0x41800 ≤ off && off < 0x41C00) then
    slotReset (off + 4) ++ slotReset off
  else if 0x70000 ≤ off && off < 0x70480 && off % 0x40 == 0 then 0x80000000
  else if off = 0x71010 then 8000000
  else if 0x72000 ≤ off && off < 0x72100 then 0x000D000D
  else 0

/-- The link tables of a die's high end are those of the low end (09 R216). -/
def linkHome (die off : Nat) : Nat :=
  if 0x41800 ≤ off && off < 0x41C00 then
    let i := (off - 0x41800) / 0x100
    min die (if i % 2 = 0 then die ^^^ 1 else die ^^^ 2)
  else die

/-- The key of an 8-byte slot of a die's window: its number in the window and the die that holds it. -/
def cwKey (die off : Nat) : Nat := off / 8 * 4 + (if replicated off then 0 else linkHome die off) % 4

/-- The 8-byte slot of a die's control window that holds an offset. -/
def State.cw8 (s : State) (die off : Nat) : DWord := (tget s.cw (cwKey die off)).getD (cwReset (off / 8 * 8))

/-- Sets an 8-byte slot. -/
def State.setCw8 (s : State) (die off : Nat) (v : DWord) : State := { s with cw := tset s.cw (cwKey die off) v }

/-- A 32-bit register of the window. -/
def State.cw4 (s : State) (die off : Nat) : Word :=
  if off % 8 = 4 then (s.cw8 die off).extractLsb' 32 32 else (s.cw8 die off).extractLsb' 0 32

/-- Sets a 32-bit register of the window. -/
def State.setCw4 (s : State) (die off : Nat) (v : Word) : State :=
  let w := s.cw8 die off
  s.setCw8 die off (if off % 8 = 4 then v ++ w.extractLsb' 0 32 else w.extractLsb' 32 32 ++ v)

/-- CTXCTL of a context (10 R229). -/
def State.ctxctl (s : State) (ctx : Nat) : Word := s.cw4 0 (0x50030 + ctx * 0x40)

/-- CTXCTL.OWNER. -/
def State.owner (s : State) (ctx : Nat) : BitVec 16 := (s.ctxctl ctx).extractLsb' 16 16

/-- The key a context reads and writes memory with; none when its encryption is off (09 R220). -/
def State.ctxKey (s : State) (ctx : Nat) : Option (BitVec 512) :=
  if (s.ctxctl ctx).getLsbD 1 then some ((tget s.keys ctx).getD 0) else none

/-- The active copy of address-map region r (09 R210). -/
def State.amRegion (s : State) (r : Nat) : AmRegion :=
  (tget s.am r).getD { base := 0, lim := 0, ofs := 0, cxl := false, en := false, rows := [] }

/-- Parity of the set bits. -/
def parity42 (x : BitVec 42) : Bool :=
  let a := x.toNat
  let a := a ^^^ (a >>> 32)
  let a := a ^^^ (a >>> 16)
  let a := a ^^^ (a >>> 8)
  let a := a ^^^ (a >>> 4)
  let a := a ^^^ (a >>> 2)
  (a ^^^ (a >>> 1)) % 2 == 1

/-- y of 09 R208 from the rows upward, before AMOFS. -/
def amDot (x : BitVec 42) : List (BitVec 42) → Nat
  | [] => 0
  | r :: rs => (if parity42 (r &&& x) then 1 else 0) + 2 * amDot x rs

/-- y of 09 R208. -/
def AmRegion.y (r : AmRegion) (pa : Nat) : Nat := (amDot (BitVec.ofNat 42 (pa / 64)) r.rows) ^^^ r.ofs.toNat

/-- Where a physical address lies (09 R209): the key of its byte in `mem`, and its home slice. -/
structure Loc where
  key : Nat
  slice : Nat
  cxl : Bool
  deriving DecidableEq, Repr

/-- Rows of a stack: the whole rows of 4 MiB that its 96 GB hold (01 R15, R21, 09 R209; DEDUCED, log 13). -/
def hbmRows : Nat := 22888

/-- The location of a physical address; an unmapped one has kind UNMAPPED_PA (09 R208, R209) (DEDUCED, log 62). Every offset of a CXL
region below its limit holds bytes, whatever memory is attached (DESIGN CHOICE, log 73). -/
def State.locate (s : State) (pa : Nat) : Except FaultKind Loc :=
  match (List.range 8).find? (fun r => (s.amRegion r).en && decide ((s.amRegion r).base ≤ pa) && decide (pa < (s.amRegion r).lim)) with
  | none => .error .unmappedPa
  | some r =>
    let m := s.amRegion r
    let y := m.y pa
    let slice := y % 16 * 16 + y / 16 % 16
    if m.cxl then .ok { key := 2 ^ 52 * (1 + slice / 64) + (pa - m.base), slice, cxl := true }
    else if y / 2 ^ 24 < hbmRows then .ok { key := (y / 256 * 16 + y % 16) * 64 + pa % 64, slice, cxl := false }
    else .error .unmappedPa

/-- The data unit as which a context reads and writes the granule of a PA (09 R220): its key and the tweak, none without encryption. -/
def State.dataUnit (s : State) (ctx pa : Nat) : Option (BitVec 512 × Nat) := (s.ctxKey ctx).map (fun k => (k, pa / 64))

/-- The MAC that a context makes and expects for the granule of a PA (09 R222). -/
def State.macOf (s : State) (ctx pa : Nat) : BitVec 512 × Nat := ((tget s.keys ctx).getD 0, pa / 64)

/-- The metadata of a granule. -/
def State.granule (s : State) (g : Nat) : Gran := (tget s.gran g).getD { unit := none, mac := none }

/-- The bytes of a granule as a data unit reads them (09 R220). -/
def State.granBytes (s : State) (g : Nat) (unit : Option (BitVec 512 × Nat)) : BitVec 512 :=
  let plain := BitVec.ofNat 512 (s.mem.getN (g * 64) 64)
  if (s.granule g).unit = unit then plain else Config.garble (s.granule g).unit unit plain

/-- Reads n bytes of one granule at the point of coherence in a context (09 R220 to R222, 10 R248). -/
def State.readPa (s : State) (ctx : Nat) (mac : Bool) (pa n : Nat) : Except FaultKind Nat :=
  match s.locate pa with
  | .error e => .error e
  | .ok l =>
    match s.bad.find? (fun b => l.key ≤ b.1 && b.1 < l.key + n) with
    | some b => .error b.2
    | none =>
      let g := l.key / 64
      if mac && (s.granule g).mac != some (s.macOf ctx pa) then .error .integrity
      else if (s.granule g).unit = s.dataUnit ctx pa then .ok (s.mem.getN l.key n)
      else .ok ((s.granBytes g (s.dataUnit ctx pa)).toNat / 256 ^ (l.key % 64) % 256 ^ n)

/-- Puts n bytes of one granule at the point of coherence in a context: the granule is encrypted anew as one data unit, and its MAC
field is made anew or written as zero (09 R220, R222). -/
def State.putPa (s : State) (ctx : Nat) (mac : Bool) (pa n v : Nat) : Except FaultKind State :=
  match s.locate pa with
  | .error e => .error e
  | .ok l =>
    let g := l.key / 64
    let unit := s.dataUnit ctx pa
    let mem := if (s.granule g).unit = unit then s.mem else s.mem.putN (g * 64) 64 (s.granBytes g unit).toNat
    let gran := if unit.isNone && !mac then tdel s.gran g
      else tset s.gran g { unit, mac := if mac then some (s.macOf ctx pa) else none }
    .ok { s with
      mem := mem.putN l.key n v
      gran := gran
      bad := s.bad.filter (fun b => !(l.key ≤ b.1 && b.1 < l.key + n)) }

/-- Whether n bytes at a physical address leave a part of a 32-byte sector as it is. -/
def partSector (pa n : Nat) : Bool := pa % 32 != 0 || n % 32 != 0

/-- Whether the MAC of the granule of a PA does not hold on a page with MACs (09 R222). -/
def State.macFails (s : State) (ctx : Nat) (mac : Bool) (pa : Nat) : Bool :=
  mac && (match s.locate pa with
    | .ok l => (s.granule (l.key / 64)).mac != some (s.macOf ctx pa)
    | .error _ => false)

/-- Writes n bytes of one granule at the point of coherence in a context. A sector that the write covers in part is read first, and the MAC of its
granule is checked then (09 R202, R206, R222); bytes that a whole sector's write keeps beside it are not read (DEDUCED, log 74). -/
def State.writePa (s : State) (ctx : Nat) (mac : Bool) (pa n v : Nat) : Except FaultKind State :=
  if partSector pa n && s.macFails ctx mac pa then .error .integrity else s.putPa ctx mac pa n v

/-- FMT of a leaf (10 R225). -/
def leafFmt (e : DWord) : Nat := (e.extractLsb' 8 4).toNat
/-- TIER of a leaf. -/
def leafTier (e : DWord) : Nat := (e.extractLsb' 14 2).toNat
/-- MIG of a leaf. -/
def leafMig (e : DWord) : Nat := (e.extractLsb' 60 2).toNat
/-- RID of a leaf. -/
def leafRid (e : DWord) : Nat := (e.extractLsb' 16 8).toNat
/-- BLK of a leaf, as the block length in elements. -/
def leafBlen (e : DWord) : Nat := 16 * 2 ^ (e.extractLsb' 12 2).toNat
/-- DS of a leaf (08 R197). -/
def leafDs (e : DWord) : Bool := e.getLsbD 5
/-- MAC of a leaf (09 R222). -/
def leafMac (e : DWord) : Bool := e.getLsbD 6
/-- RET of a leaf (09 R202). -/
def leafRet (e : DWord) : Nat := (e.extractLsb' 56 4).toNat
/-- FRAME as the frame's PA (TIER 0 and 1). -/
def leafFrame (e : DWord) : Nat := (e.extractLsb' 24 32).toNat * 2 ^ 14
/-- A page of NQ elements: FMT 1 to 3. -/
def leafNq (e : DWord) : Bool := 1 ≤ leafFmt e && leafFmt e ≤ 3
/-- Planes of an NQ format code (10 R225). -/
def nqPlanes (fmt : Nat) : Nat := 2 ^ fmt

end Sys2Proof.Machine
end

