-- ==== Sys2Proof/Machine/Cache.lean ====
section
/-! DEFINITION. The L2 tags (09 R202 to R204), fault records and notifications (10 R240), and the L1 shares (09 R201, 08
R171, R179, R188, R189). L2 holds no data apart from `mem`: what a slice holds is what the point of coherence reads. -/

namespace Sys2Proof.Machine

/-- The set of a line within its slice (09 R202). -/
def l2Set (addr : Nat) : Nat :=
  (addr % 1024) ^^^ (addr / 1024 % 1024) ^^^ (addr / 2 ^ 20 % 1024) ^^^ (addr / 2 ^ 30 % 1024)

/-- The quota of a class on a die; a value above 16 counts as 16 (09 R204). -/
def State.l2Quota (s : State) (die cls : Nat) : Nat := min 16 (((s.cw4 die 0x20100).toNat / 256 ^ cls) % 32)

/-- The line replaced among the lines of a full set, most recent first (09 R203); none when every way is pinned. -/
def l2Victim (quota : Nat → Nat) (ways : List L2Line) : Option L2Line :=
  let free := ways.reverse.filter (fun l => l.pins.isEmpty)
  match free.find? (·.stream) with
  | some l => some l
  | none =>
    let overlaid := [0, 1, 2, 3].find? (fun c => decide (quota c < (ways.filter (·.cls == c)).length) && free.any (·.cls == c))
    match overlaid with
    | some c => free.find? (·.cls == c)
    | none => ([0, 1, 2, 3].filterMap (fun c => free.find? (·.cls == c))).head?

/-- Brings sectors of a line into its slice: a request sets class and stream mark (`mark`), other traffic leaves those of a
line that is held (09 R202, R203). The touched line becomes the most recently used. Where every way of the set is pinned the access waits at the
slice for one; its data are those of now all the same (DESIGN CHOICE, log 72). -/
def State.l2Touch (s : State) (slice addr : Nat) (sectors dirty : BitVec 4) (mark : Bool) (cls : Nat) (stream : Bool)
    (pin : List LoadRef) : State :=
  match s.l2.find? (fun l => l.slice == slice && l.addr == addr) with
  | some l =>
    let l' := { l with
      valid := l.valid ||| sectors
      dirty := l.dirty ||| dirty
      cls := if mark then cls else l.cls
      stream := if mark then stream else l.stream
      pins := pin ++ l.pins }
    { s with l2 := l' :: s.l2.filter (fun x => !(x.slice == slice && x.addr == addr)) }
  | none =>
    let ways := s.l2.filter (fun l => l.slice == slice && l2Set l.addr == l2Set addr)
    let l' : L2Line := { slice, addr, valid := sectors, dirty, cls, stream, pins := pin }
    if ways.length < 16 then { s with l2 := l' :: s.l2 }
    else match l2Victim (s.l2Quota (slice / 64)) ways with
      | some v => { s with l2 := l' :: s.l2.filter (fun x => !(x.slice == slice && x.addr == v.addr)) }
      | none => { s with sliceWait := s.sliceWait ++ [{ slice, addr, sectors, dirty, mark, cls, stream }] }

/-- The accesses that wait for a way come to their sets again, in their order (09 R203). -/
def State.serveWaits (s : State) : State :=
  if s.sliceWait.isEmpty then s
  else s.sliceWait.foldl (fun s w => s.l2Touch w.slice w.addr w.sectors w.dirty w.mark w.cls w.stream []) { s with sliceWait := [] }

/-- The sector mask of n bytes at an address within a line. -/
def sectorMask (pa n : Nat) : BitVec 4 :=
  (List.range 4).foldl (fun m k => if k * 32 < pa % 128 + n ∧ pa % 128 < k * 32 + 32 then m ||| (1#4 <<< k) else m) 0

/-- How an access stands to its slice (09 R202): the class and stream mark it brings, whether it is a request and so sets them on a hit, and
the MAC bit of its page, with which a fetch covers whole granules (09 R206). -/
structure L2Req where
  cls : Nat
  stream : Bool
  mark : Bool
  mac : Bool
  deriving DecidableEq, Repr

/-- An LS or KR request with a hint (09 R202); one with a bypass hint, which the table does not list, counts as normal (DESIGN CHOICE,
log 75). -/
def lsReq (leaf : DWord) (hint : Nat) : L2Req :=
  { cls := if hint = 2 then 3 else leafRet leaf, stream := hint == 1, mark := true, mac := leafMac leaf }

/-- An ATOM: it allocates as a read with its hint does, and changes nothing on a hit (09 R202). -/
def atomReq (leaf : DWord) (hint : Nat) : L2Req := { lsReq leaf hint with mark := false }

/-- A read of a path other than LS and KR, with the class of its page or of its record (09 R202). -/
def pathReq (leaf : DWord) (cls : Nat) : L2Req := { cls := cls, stream := false, mark := true, mac := leafMac leaf }

/-- A write-back, packet, bypass-hinted store or engine write: no request (09 R202). -/
def writeReq (leaf : DWord) (cls : Nat) : L2Req := { cls := cls, stream := false, mark := false, mac := leafMac leaf }

/-- The sectors that a fetch brings for those wanted: both of a granule on a page with MACs (09 R206). -/
def fetched (mac : Bool) (m : BitVec 4) : BitVec 4 :=
  if mac then m ||| ((m &&& 5) <<< 1) ||| ((m &&& 10) >>> 1) else m

/-- The sectors that n bytes written at an address cover whole. -/
def wholeSectors (pa n : Nat) : BitVec 4 :=
  (List.range 4).foldl (fun m k => if pa % 128 ≤ k * 32 ∧ k * 32 + 32 ≤ pa % 128 + n then m ||| (1#4 <<< k) else m) 0

/-- A count for the lifetime records (19 R352). -/
def State.count (s : State) (i : LifeItem) : State := { s with tally := s.tally ++ [i] }

/-- The row of a DRAM location (09 R209, 19 R351). -/
def keyRow (key : Nat) : Row := .dram (key / 64 % 16) (key / 2 ^ 26) false

/-- The erroneous bytes of the sectors in a mask of a line (09 R221). -/
def State.softIn (s : State) (addr : Nat) (m : BitVec 4) : List Nat :=
  if s.soft.isEmpty then []
  else (List.range 4).flatMap (fun k =>
    if m.getLsbD k then
      match s.locate (addr * 128 + 32 * k) with
      | .ok l => s.soft.filter (fun b => decide (l.key ≤ b) && decide (b < l.key + 32))
      | .error _ => []
    else [])

/-- A controller that reads sectors with an erroneous byte re-reads its granule, corrects it, and has the row tested (09 R221, 19 R351). -/
def State.correct (s : State) (found : List Nat) : State :=
  found.foldl (fun s b =>
    { s.count (.error (b / 64 % 16 / 4) 0 0 1) with
      soft := s.soft.filter (· != b)
      tests := if s.tests.contains (keyRow b) then s.tests else s.tests ++ [keyRow b] }) s

/-- The sectors of a line that its slice does not hold. -/
def State.absent (s : State) (slice addr : Nat) : BitVec 4 :=
  ~~~(((s.l2.find? (fun l => l.slice == slice && l.addr == addr)).map (·.valid)).getD 0)

/-- The erroneous bytes that a read of n bytes at a physical address meets in DRAM (09 R206, R221). -/
def State.meets (s : State) (pa n : Nat) (mac : Bool) : List Nat :=
  if s.soft.isEmpty then []
  else match s.locate pa with
    | .ok l =>
      let absent := s.absent l.slice (pa / 128)
      s.softIn (pa / 128) (fetched mac (sectorMask pa n &&& absent) &&& absent)
    | .error _ => []

/-- L2 traffic of an access to a line: it reads the sectors `rd` and writes in the sectors `wr`, of which it covers `whole` whole. What it reads, or
writes in part, and the slice does not hold is fetched (09 R202, R206); a sector that it covers whole loses its erroneous bytes. A write to CXL
memory is awaited by PHASE.SYS and CCTL operation 5 until the device completes it (08 R182): its number and port are kept. -/
def State.l2Sectors (s : State) (addr : Nat) (rd wr whole : BitVec 4) (r : L2Req) : State :=
  match s.locate (addr * 128) with
  | .ok l =>
    let absent := s.absent l.slice addr
    let get := fetched r.mac ((rd ||| (wr &&& ~~~whole)) &&& absent) &&& absent
    let s := s.correct (s.softIn addr get)
    let s := if s.soft.isEmpty then s else { s with soft := s.soft.filter (fun b => !(s.softIn addr (wr &&& whole)).contains b) }
    let s := s.l2Touch l.slice addr (rd ||| wr ||| get) wr r.mark r.cls r.stream []
    if wr ≠ 0 && l.cxl then { s with cxlAwait := s.cxlAwait ++ [(s.seq, l.slice / 64)], seq := s.seq + 1 } else s
  | .error _ => s

/-- L2 traffic of an access of n bytes at a physical address, within one line. -/
def State.l2Access (s : State) (pa n : Nat) (write : Bool) (r : L2Req) : State :=
  if write then s.l2Sectors (pa / 128) 0 (sectorMask pa n) (wholeSectors pa n) r else s.l2Sectors (pa / 128) (sectorMask pa n) 0 0 r

/-- L2 traffic of a write that is no request (09 R202). -/
def State.l2Write (s : State) (pa n : Nat) (leaf : DWord) (cls : Nat) : State := s.l2Access pa n true (writeReq leaf cls)

/-- The fields of a fault record (10 R240). -/
structure FaultRec where
  addr : DWord
  pc : DWord
  block : Nat
  kind : FaultKind
  core : Nat
  path : Path
  write : Bool
  eng : Bool
  tid : Nat
  ctx : Nat
  deriving DecidableEq, Repr

/-- The code of a fault kind (10 R234). -/
def FaultKind.code : FaultKind → Nat
  | .absent => 1
  | .migrating => 2
  | .malformed => 3
  | .permission => 4
  | .bounds => 5
  | .unmappedPa => 6
  | .integrity => 7
  | .uncorrectable => 8
  | .revoked => 9
  | .completion => 10

/-- The path's bit number (08 R170). -/
def Path.code : Path → Nat
  | .ls => 0
  | .kr => 1
  | .tl => 2
  | .cp => 3
  | .ga => 4
  | .gb => 5
  | .ifetch => 6

/-- Kinds 1 to 3 (10 R234). -/
def FaultKind.repairable (k : FaultKind) : Bool := decide (k.code ≤ 3)

/-- Kinds 6 to 9: an abort completion (10 R234). -/
def FaultKind.aborts (k : FaultKind) : Bool := decide (6 ≤ k.code) && decide (k.code ≤ 9)

/-- The trap that names a fault of kinds 1 to 5 (10 R234). -/
def FaultKind.cause (k : FaultKind) : Nat :=
  match k with
  | .permission => causeProtection
  | .bounds => causeBounds
  | _ => causePageFault

/-- Sends a message of a context: it leaves on a port that is up and admits the tag; else it is dropped and counted on the
lowest port that is up (19 R341). -/
def State.admits (s : State) (p : Nat) (tag : BitVec 16) : Bool :=
  (List.range 8).any (fun e =>
    let k := s.cw4 (portDie p) (0x70000 + p * 0x40 + e * 4)
    k.getLsbD 31 && k.extractLsb' 0 16 == tag)

/-- PKSTAT.UP of a port (19 R340). -/
def State.portUp (s : State) (p : Nat) : Bool := (s.cw4 (portDie p) (0x70000 + p * 0x40 + 0x24)).getLsbD 0

/-- Counts a dropped flit, saturating (19 R340). -/
def State.countDrop (s : State) (p : Nat) : State :=
  let off := 0x70000 + p * 0x40 + 0x20
  let v := s.cw4 (portDie p) off
  s.setCw4 (portDie p) off (if v = 0xFFFFFFFF then v else v + 1)

/-- Sends a message that answers no request (19 R341) (DESIGN CHOICE, log 71). -/
def State.send (s : State) (tag : BitVec 16) (m : Msg) : State :=
  match (List.range 18).find? (fun p => s.portUp p && s.admits p tag) with
  | some _ => { s with outbox := s.outbox ++ [m] }
  | none =>
    match (List.range 18).find? s.portUp with
    | some p => s.countDrop p
    | none => s

/-- Whether fabric messages leave on a port: an answer uses the port and tag of its request (19 R341). -/
def State.answer (s : State) (to_ : Sender) (m : Msg) : State :=
  if s.portUp to_.port && s.admits to_.port to_.tag then { s with outbox := s.outbox ++ [m] } else s.countDrop to_.port

/-- The 32 bytes of a fault record as eight words (10 R240). -/
def FaultRec.words (r : FaultRec) (cycle : DWord) : List Nat :=
  [r.addr.toNat % 2 ^ 32, r.addr.toNat / 2 ^ 32, r.pc.toNat % 2 ^ 32, r.pc.toNat / 2 ^ 32, r.block,
   2 ^ 31 + r.kind.code * 2 ^ 24 + r.core * 2 ^ 16 + r.path.code * 2 ^ 13 + (if r.write then 2 ^ 12 else 0)
     + (if r.eng then 2 ^ 11 else 0) + (if r.eng then 0 else r.tid),
   cycle.toNat % 2 ^ 32, r.ctx]

/-- Writes 32-bit words of one context from a physical address upward; none when one meets an abort. -/
def State.writeWords (s : State) (ctx : Nat) (mac : Bool) (pa : Nat) : List Nat → Option State
  | [] => some s
  | w :: r =>
    match s.writePa ctx mac pa 4 w with
    | .ok s' => State.writeWords s' ctx mac (pa + 4) r
    | .error _ => none

/-- What an error interrupt names (10 R248, 19 R348): an uncorrectable error, or a failed router, station or link. -/
def errUncorrectable : Nat := 0
/-- A failed unit. -/
def errUnit : Nat := 1
/-- A frame to be retired (19 R351). -/
def errRetire : Nat := 2
/-- A MAC that does not hold (09 R222). -/
def errIntegrity : Nat := 3

/-- An error interrupt to the host and the management controller (09 R222, 10 R248, 19 R348). One that concerns a single context leaves with
its owner's tag (19 R341). -/
def State.errorInterrupt (s : State) (what unit : Nat) (tag : BitVec 16 := 0) : State :=
  let s := s.send tag (.notifyError tag what unit)
  { s with outbox := s.outbox ++ [.management what ((List.range 8).map (fun i => BitVec.ofNat 8 (unit / 256 ^ i)))] }

/-- How the accesses of records and of walks stand to a slice: no page names a class, and 0 is taken (DESIGN CHOICE, log 75). -/
def recordReq : L2Req := { cls := 0, stream := false, mark := false, mac := false }

/-- Writes a fault record into the context's fault area, or counts it as lost, and notifies (10 R240); an integrity fault also raises
an error interrupt (09 R222). The Boolean says whether it was written. -/
def State.recordAt (s : State) (r : FaultRec) : State × Bool :=
  let s := if r.kind = .integrity then s.errorInterrupt errIntegrity r.ctx (s.owner r.ctx) else s
  let base := 0x50000 + r.ctx * 0x40
  let hd := s.cw4 0 (base + 0x18)
  let head := (hd.extractLsb' 0 7).toNat
  let pa := (s.cw8 0 (base + 0x10)).toNat + head * 32
  let lost := hd.extractLsb' 16 16
  let s := s.l2Access (pa + 0x14) 4 false recordReq
  let lose := (s.setCw4 0 (base + 0x18) ((if lost = 0xFFFF then lost else lost + 1) ++ hd.extractLsb' 0 16), false)
  match s.readPa r.ctx false (pa + 0x14) 4 with
  | .error _ => lose
  | .ok v =>
    if v / 2 ^ 31 % 2 = 1 then lose
    else match s.writeWords r.ctx false pa (r.words (s.cycle r.core)) with
      | none => lose
      | some s =>
        let s := (s.l2Access pa 32 true recordReq).setCw4 0 (base + 0x18) (lost ++ 0#9 ++ (hd.extractLsb' 0 7 + 1))
        let ntf := s.cw4 0 (base + 0x38)
        (s.send (s.owner r.ctx) (.notify (s.owner r.ctx) (ntf.extractLsb' 0 16) (ntf.extractLsb' 16 16) head), true)

/-- The physical address of the next slot of a context's fault area (10 R240). -/
def State.recordSlot (s : State) (ctx : Nat) : Nat :=
  (s.cw8 0 (0x50010 + ctx * 0x40)).toNat + (s.cw4 0 (0x50018 + ctx * 0x40)).toNat % 128 * 32

/-- The n bytes at an offset of a line's data. -/
def lineBytes (d : BitVec 1024) (off n : Nat) : Nat := d.toNat / 256 ^ off % 256 ^ n

/-- A line's data with n bytes at an offset replaced. -/
def lineSet (d : BitVec 1024) (off n v : Nat) : BitVec 1024 :=
  (d &&& ~~~(BitVec.ofNat 1024 ((256 ^ n - 1) * 256 ^ off))) ||| BitVec.ofNat 1024 (v % 256 ^ n * 256 ^ off)

/-- The mask of n bytes at an offset of a line. -/
def byteMask (off n : Nat) : BitVec 128 := BitVec.ofNat 128 ((2 ^ n - 1) * 2 ^ off)

/-- A line that holds nothing yet. -/
def Line.new (lid addr ctx : Nat) : Line where
  lid := lid
  addr := addr
  data := 0
  valid := 0
  dirty := 0
  upd := none
  retain := false
  newer := 0
  leaf := 0
  last := (0, 0, 0, 0, ctx)

/-- The sectors of a line all of whose bytes it holds (09 R201). -/
def Line.cleanSectors (l : Line) : BitVec 4 :=
  (List.range 4).foldl (fun m k => if l.dirty.extractLsb' (32 * k) 32 = BitVec.allOnes 32 then m ||| (1#4 <<< k) else m) l.valid

/-- A launch's line of an L1 share. -/
def Core.line? (c : Core) (lid addr : Nat) : Option Line := c.lines.find? (fun l => l.lid == lid && l.addr == addr)

/-- Drops a line. -/
def Core.dropLine (c : Core) (lid addr : Nat) : Core :=
  { c with lines := c.lines.filter (fun l => !(l.lid == lid && l.addr == addr)) }

/-- Puts a line, as the most recently used. -/
def Core.putLine (c : Core) (l : Line) : Core := { (c.dropLine l.lid l.addr) with lines := l :: (c.dropLine l.lid l.addr).lines }

/-- The record of a line whose write-back or packet met an abort (22 R462, R447): for kind 6, ADDR holds the line's PA. -/
def Line.abortRec (l : Line) (core : Nat) (k : FaultKind) : FaultRec :=
  let (va, pc, tid, block, ctx) := l.last
  { addr := if k = .unmappedPa then BitVec.ofNat 64 (l.addr * 128) else va
    pc := pc, block := block, kind := k, core := core, path := .ls, write := true, eng := false, tid := tid, ctx := ctx }

/-- Puts the listed bytes of a line at the point of coherence; the first abort drops them all. -/
def State.writeBytes (s : State) (ctx : Nat) (mac : Bool) (addr : Nat) (d : BitVec 1024) : List Nat → Except FaultKind State
  | [] => .ok s
  | o :: r =>
    match s.putPa ctx mac (addr * 128 + o) 1 (lineBytes d o 1) with
    | .error k => .error k
    | .ok s' => State.writeBytes s' ctx mac addr d r

/-- Sectors a byte mask touches. -/
def dirtySectors (d : BitVec 128) : BitVec 4 :=
  (List.range 4).foldl (fun m k => if d.extractLsb' (32 * k) 32 != 0 then m ||| (1#4 <<< k) else m) 0

/-- The sectors of which a byte mask holds every byte. -/
def fullSectors (d : BitVec 128) : BitVec 4 :=
  (List.range 4).foldl (fun m k => if d.extractLsb' (32 * k) 32 = BitVec.allOnes 32 then m ||| (1#4 <<< k) else m) 0

/-- The write of some bytes of a line at its slice (09 R202): a sector covered in part is read first, and the MAC of its granule is checked
then (09 R222). -/
def State.writeLine (s : State) (ctx : Nat) (leaf : BitVec 64) (addr : Nat) (d : BitVec 1024) (m : BitVec 128) : Except FaultKind State :=
  let wr := dirtySectors m
  let part := wr &&& ~~~(fullSectors m)
  if (List.range 4).any (fun k => part.getLsbD k && s.macFails ctx (leafMac leaf) (addr * 128 + 32 * k)) then .error .integrity
  else match s.writeBytes ctx (leafMac leaf) addr d ((List.range 128).filter (fun o => m.getLsbD o)) with
    | .error k => .error k
    | .ok s => .ok (s.l2Sectors addr 0 wr (fullSectors m) (writeReq leaf (leafRet leaf)))

end Sys2Proof.Machine
end

