-- ==== Sys2Proof/Machine/Float.lean ====
section
/-! DEFINITION. The vector float formats and their one rounding (14 R278 to R282): exact integers until a result is packed. -/

namespace Sys2Proof.Machine
open Sys2Proof

/-- A binary format: exponent and fraction widths. -/
structure Fmt where
  e : Nat
  f : Nat
  deriving DecidableEq, Repr

/-- IEEE binary32. -/
def fp32 : Fmt := { e := 8, f := 23 }
/-- BF16. -/
def bf16 : Fmt := { e := 8, f := 7 }
/-- IEEE binary16. -/
def fp16 : Fmt := { e := 5, f := 10 }

/-- Exponent bias. -/
def Fmt.bias (t : Fmt) : Nat := 2 ^ (t.e - 1) - 1
/-- All-ones exponent field. -/
def Fmt.emax (t : Fmt) : Nat := 2 ^ t.e - 1
/-- Exponent of the last place of subnormals. -/
def Fmt.qmin (t : Fmt) : Int := 1 - (t.bias : Int) - (t.f : Int)
/-- Bits of the format. -/
def Fmt.width (t : Fmt) : Nat := 1 + t.e + t.f

/-- The default NaN (14 R281). -/
def Fmt.nan (t : Fmt) : Nat := t.emax * 2 ^ t.f + 2 ^ (t.f - 1)
/-- An infinity. -/
def Fmt.inf (t : Fmt) (neg : Bool) : Nat := t.emax * 2 ^ t.f + (if neg then 2 ^ (t.e + t.f) else 0)
/-- The largest finite value. -/
def Fmt.maxFinite (t : Fmt) (neg : Bool) : Nat := t.inf neg - 1
/-- A zero. -/
def Fmt.zero (t : Fmt) (neg : Bool) : Nat := if neg then 2 ^ (t.e + t.f) else 0

/-- A decoded value: NaN, an infinity, or (-1)^neg * m * 2^e. -/
inductive FVal where
  | nan
  | inf (neg : Bool)
  | fin (neg : Bool) (m : Nat) (e : Int)
  deriving DecidableEq, Repr

/-- The value of a bit pattern. -/
def Fmt.decode (t : Fmt) (b : Nat) : FVal :=
  let neg := b / 2 ^ (t.e + t.f) % 2 == 1
  let x := b / 2 ^ t.f % 2 ^ t.e
  let f := b % 2 ^ t.f
  if x = t.emax then (if f = 0 then .inf neg else .nan)
  else if x = 0 then .fin neg f t.qmin
  else .fin neg (2 ^ t.f + f) ((x : Int) - 1 + t.qmin)

/-- The rounding modes of SUB[4:3] (03 R77). -/
inductive Rnd where
  | rne | rtz | rdn | rup
  deriving DecidableEq, Repr

/-- The rounding mode of a field. -/
def rndOf (b : BitVec 2) : Rnd :=
  match b.toNat with
  | 0 => .rne
  | 1 => .rtz
  | 2 => .rdn
  | _ => .rup

/-- Bits of a number: 0 for 0. -/
def bitLen (n : Nat) : Nat := if n = 0 then 0 else Nat.log2 n + 1

/-- Whether a magnitude with quotient q, remainder r of 2^sh and further bits `more` is rounded away from zero. -/
def roundsUp (mode : Rnd) (neg : Bool) (q r sh : Nat) (more : Bool) : Bool :=
  match mode with
  | .rtz => false
  | .rdn => neg && (r != 0 || more)
  | .rup => !neg && (r != 0 || more)
  | .rne =>
    if sh = 0 then false
    else
      let half := 2 ^ (sh - 1)
      if r < half then false
      else if half < r then true
      else more || q % 2 == 1

/-- Overflow as the rounding attribute prescribes (14 R279). -/
def Fmt.overflow (t : Fmt) (mode : Rnd) (neg : Bool) : Nat :=
  match mode with
  | .rne => t.inf neg
  | .rtz => t.maxFinite neg
  | .rdn => if neg then t.inf neg else t.maxFinite neg
  | .rup => if neg then t.maxFinite neg else t.inf neg

/-- Rounds (-1)^neg * x to the format, where x = m * 2^e, or a value between that and (m + 1) * 2^e when `more` holds; then
m has at least two bits more than the result keeps. -/
def Fmt.round (t : Fmt) (mode : Rnd) (neg : Bool) (m : Nat) (e : Int) (more : Bool := false) : Nat :=
  if m = 0 ∧ !more then t.zero neg
  else
    let q := max (e + bitLen m - 1 - t.f) t.qmin
    let sh := (q - e).toNat
    let up := (e - q).toNat
    let k := m * 2 ^ up / 2 ^ sh
    let r := m * 2 ^ up % 2 ^ sh
    let k := if roundsUp mode neg k r sh more then k + 1 else k
    let (k, q) := if 2 ^ (t.f + 1) ≤ k then (k / 2, q + 1) else (k, q)
    let sign := if neg then 2 ^ (t.e + t.f) else 0
    if k < 2 ^ t.f then sign + k
    else
      let x := (q - t.qmin + 1).toNat
      if t.emax ≤ x then t.overflow mode neg else sign + x * 2 ^ t.f + (k - 2 ^ t.f)

/-- Sum of two finite values; a zero sum of opposite signs is -0 only under RDN (20 R388). -/
def exactAdd (mode : Rnd) (n1 : Bool) (m1 : Nat) (e1 : Int) (n2 : Bool) (m2 : Nat) (e2 : Int) : Bool × Nat × Int :=
  let e := min e1 e2
  let a : Int := (m1 * 2 ^ (e1 - e).toNat : Nat)
  let b : Int := (m2 * 2 ^ (e2 - e).toNat : Nat)
  let x : Int := (if n1 then -a else a) + (if n2 then -b else b)
  let neg := if x = 0 then (if n1 = n2 then n1 else mode == .rdn) else x < 0
  (neg, x.natAbs, e)

/-- A + B (20 R388). -/
def Fmt.add (t : Fmt) (mode : Rnd) (a b : Nat) : Nat :=
  match t.decode a, t.decode b with
  | .nan, _ => t.nan
  | _, .nan => t.nan
  | .inf x, .inf y => if x = y then t.inf x else t.nan
  | .inf x, _ => t.inf x
  | _, .inf y => t.inf y
  | .fin n1 m1 e1, .fin n2 m2 e2 =>
    let (n, m, e) := exactAdd mode n1 m1 e1 n2 m2 e2
    t.round mode n m e

/-- A x B (20 R388). -/
def Fmt.mul (t : Fmt) (mode : Rnd) (a b : Nat) : Nat :=
  match t.decode a, t.decode b with
  | .nan, _ => t.nan
  | _, .nan => t.nan
  | .inf x, .inf y => t.inf (x != y)
  | .inf x, .fin y m _ => if m = 0 then t.nan else t.inf (x != y)
  | .fin x m _, .inf y => if m = 0 then t.nan else t.inf (x != y)
  | .fin n1 m1 e1, .fin n2 m2 e2 => t.round mode (n1 != n2) (m1 * m2) (e1 + e2)

/-- A x B + C rounded once (20 R388). -/
def Fmt.fma (t : Fmt) (mode : Rnd) (a b c : Nat) : Nat :=
  let addInf (n : Bool) : Nat :=
    match t.decode c with
    | .nan => t.nan
    | .inf y => if n = y then t.inf n else t.nan
    | .fin _ _ _ => t.inf n
  match t.decode a, t.decode b with
  | .nan, _ => t.nan
  | _, .nan => t.nan
  | .inf x, .inf y => addInf (x != y)
  | .inf x, .fin y m _ => if m = 0 then t.nan else addInf (x != y)
  | .fin x m _, .inf y => if m = 0 then t.nan else addInf (x != y)
  | .fin n1 m1 e1, .fin n2 m2 e2 =>
    match t.decode c with
    | .nan => t.nan
    | .inf y => t.inf y
    | .fin n3 m3 e3 =>
      let (n, m, e) := exactAdd mode (n1 != n2) (m1 * m2) (e1 + e2) n3 m3 e3
      t.round mode n m e

/-- Whether a pattern is NaN. -/
def Fmt.isNan (t : Fmt) (b : Nat) : Bool := decide (t.emax * 2 ^ t.f < b % 2 ^ (t.e + t.f))

/-- A key that orders patterns other than NaN, -0 below +0 (14 R279). -/
def Fmt.key (t : Fmt) (b : Nat) : Int :=
  let mag : Int := (b % 2 ^ (t.e + t.f) : Nat)
  if b / 2 ^ (t.e + t.f) % 2 = 1 then -mag - 1 else mag

/-- Minimum (20 R391). -/
def Fmt.min (t : Fmt) (a b : Nat) : Nat :=
  if t.isNan a then (if t.isNan b then t.nan else b)
  else if t.isNan b then a
  else if t.key b < t.key a then b else a

/-- Maximum (20 R391). -/
def Fmt.max (t : Fmt) (a b : Nat) : Nat :=
  if t.isNan a then (if t.isNan b then t.nan else b)
  else if t.isNan b then a
  else if t.key a < t.key b then b else a

/-- Whether both patterns are zeros, of whatever signs. -/
def Fmt.bothZero (t : Fmt) (a b : Nat) : Bool := a % 2 ^ (t.e + t.f) == 0 && b % 2 ^ (t.e + t.f) == 0

/-- The exact comparison A < B, with -0 = +0 (20 R392). -/
def Fmt.lt (t : Fmt) (a b : Nat) : Bool := !t.bothZero a b && decide (t.key a < t.key b)

/-- The exact comparison A = B, with -0 = +0. -/
def Fmt.eq (t : Fmt) (a b : Nat) : Bool := t.bothZero a b || t.key a == t.key b

/-- Flush of a subnormal to the zero of its sign (14 R280). -/
def Fmt.flush (t : Fmt) (b : Nat) : Nat :=
  if b / 2 ^ t.f % 2 ^ t.e = 0 then b / 2 ^ (t.e + t.f) * 2 ^ (t.e + t.f) else b

/-- |x|. -/
def Fmt.abs (t : Fmt) (b : Nat) : Nat := b % 2 ^ (t.e + t.f)

/-- -x. -/
def Fmt.neg (t : Fmt) (b : Nat) : Nat :=
  if b / 2 ^ (t.e + t.f) % 2 = 1 then b - 2 ^ (t.e + t.f) else b + 2 ^ (t.e + t.f)

/-- A source prepared by the float mould: flush, absolute value, negation (20 R362). -/
def Fmt.prepare (t : Fmt) (flush abs neg : Bool) (b : Nat) : Nat :=
  let b := if flush then t.flush b else b
  let b := if abs then t.abs b else b
  if neg then t.neg b else b

/-- The result step of the float mould: default NaN and flush (20 R362). -/
def Fmt.finish (t : Fmt) (flush : Bool) (r : Nat) : Nat :=
  let r := if t.isNan r then t.nan else r
  if flush then t.flush r else r

/-- The format of a float type field (03 R77). -/
def fmtOf (ty : Nat) : Fmt := if ty = 0 then fp32 else if ty = 1 then bf16 else fp16

/-- Rounds a finite value to an integer (14 R282). -/
def toInt (mode : Rnd) (neg : Bool) (m : Nat) (e : Int) : Int :=
  if 0 ≤ e then (if neg then -((m * 2 ^ e.toNat : Nat) : Int) else ((m * 2 ^ e.toNat : Nat) : Int))
  else
    let sh := (-e).toNat
    let q := m / 2 ^ sh
    let q := if roundsUp mode neg q (m % 2 ^ sh) sh false then q + 1 else q
    if neg then -(q : Int) else (q : Int)

/-- Clamps an integer into a range. -/
def clampInt (lo hi x : Int) : Int := if x < lo then lo else if hi < x then hi else x

end Sys2Proof.Machine
end

