-- ==== Sys2Proof/Machine/Lines.lean ====
section
/-! DEFINITION. Lines of the L1 shares against the point of coherence: atomic combination (20 R366), update-only packets (08 R188,
R189), replacement (09 R201), delays of promised loads (05 R129), and fault records (10 R240). -/

namespace Sys2Proof.Machine

/-- The new value of an atomic operation on n bytes (20 R366); none when nothing is written. -/
def combine (op n old b c : Nat) : Option Nat :=
  let w := 8 * n
  let o := BitVec.ofNat w old
  let x := BitVec.ofNat w b
  match op with
  | 0 => some ((old + b) % 256 ^ n)
  | 1 => some (if x.slt o then b else old)
  | 2 => some (if o.slt x then b else old)
  | 3 => some (min old b)
  | 4 => some (max old b)
  | 5 => some (old &&& b)
  | 6 => some (old ||| b)
  | 7 => some (old ^^^ b)
  | 8 => some b
  | 9 => if old = c then some b else none
  | 10 => some (fp32.add .rne old b)
  | 11 => some (fp32.min old b)
  | _ => some (fp32.max old b)

/-- Applies the elements of a packet at the point of coherence (08 R189). -/
def State.applyPacket (s : State) (ctx : Nat) (mac : Bool) (addr op n : Nat) : List (Nat × DWord) → Except FaultKind State
  | [] => .ok s
  | (off, b) :: r =>
    let pa := addr * 128 + off
    match s.readPa ctx mac pa n with
    | .error k => .error k
    | .ok old =>
      match combine op n old b.toNat 0 with
      | none => State.applyPacket s ctx mac addr op n r
      | some v =>
        match s.writePa ctx mac pa n v with
        | .error k => .error k
        | .ok s' => State.applyPacket s' ctx mac addr op n r


/-- A load of a core by its number. -/
def Core.load? (c : Core) (id : Nat) : Option Load := c.loads.find? (fun l => l.id == id)

/-- Changes a load. -/
def Core.modLoad (c : Core) (id : Nat) (f : Load → Load) : Core :=
  { c with loads := c.loads.map (fun l => if l.id = id then f l else l) }

/-- Records a cause of delay of a load; a report carries the lowest code (05 R129, R130). -/
def State.delay (s : State) (r : LoadRef) (cause : Nat) : State :=
  s.modCore r.core (·.modLoad r.load (fun l => { l with cause := some (min cause (l.cause.getD cause)) }))

/-- The loads pinned on a line are delayed by a cause: the slice fetches the line again for them (05 R119, R129). -/
def State.delayPins (s : State) (addr cause : Nat) : State :=
  ((s.l2.filter (fun l => l.addr == addr)).flatMap (·.pins)).foldl (fun s p => s.delay p cause) s

/-- The update-only copies of lines that the cores hold, each with its core. -/
def State.updates (s : State) (p : Line → Bool) : List (Nat × Line) :=
  s.cores.flatMap (fun e => (e.2.lines.filter (fun l => l.upd.isSome && p l)).map (fun l => (e.1, l)))

/-- The bytes that the elements of a packet lie in. -/
def elemMask (n : Nat) (elems : List (Nat × DWord)) : BitVec 128 := elems.foldl (fun m e => m ||| byteMask e.1 n) 0

/-- Sends an update-only line: it leaves the share as one packet (08 R189); an abort loses it with one record (22 R447), for which the
copies of the record's own line are sent first. Each send takes a copy away: `fuel` bounds them. -/
def State.sendFrom (core : Nat) (l : Line) (fuel : Nat) (s : State) : State :=
  match l.upd with
  | none => s
  | some (op, n, elems) =>
    let drop := fun s : State => s.modCore core (·.dropLine l.lid l.addr)
    match s.applyPacket l.last.2.2.2.2 (leafMac l.leaf) l.addr op n elems with
    | .ok s => drop (s.l2Sectors l.addr 0 (dirtySectors (elemMask n elems)) (fullSectors (elemMask n elems)) (writeReq l.leaf (leafRet l.leaf)))
    | .error k =>
      let s := drop s
      let slot := s.recordSlot l.last.2.2.2.2 / 128
      let held := s.updates (fun x => x.addr == slot)
      let s := match fuel with
        | 0 => s
        | f + 1 => if held.isEmpty then s else held.foldl (fun s (e : Nat × Line) => State.sendFrom e.1 e.2 f s) (s.delayPins slot 1)
      (s.recordAt (l.abortRec core k)).1

/-- Sends an update-only line (08 R189). -/
def State.sendLine (s : State) (core : Nat) (l : Line) : State := State.sendFrom core l (s.updates (fun _ => true)).length s

/-- Pulls every pending update-only copy of a line (08 R188, R189); a read booked on the line is delayed with cause EVICT (05 R129). -/
def State.pull (s : State) (addr : Nat) : State :=
  let held := s.updates (fun l => l.addr == addr)
  if held.isEmpty then s else held.foldl (fun s e => s.sendLine e.1 e.2) (s.delayPins addr 1)

/-- Writes a fault record, once the update-only copies of its slot's line are pulled (08 R189, 10 R240). -/
def State.recordPulled (s : State) (r : FaultRec) : State × Bool := (s.pull (s.recordSlot r.ctx / 128)).recordAt r

/-- Writes a line's dirty bytes back (08 R179); the line stays, clean. An abort drops the stores with one record (22 R462). -/
def State.writeBack (s : State) (core : Nat) (l : Line) : State :=
  if l.dirty = 0 then s
  else
    match s.writeLine l.last.2.2.2.2 l.leaf l.addr l.data l.dirty with
    | .ok s => s.modCore core
        (fun c => { c with lines := c.lines.map (fun x => if x.lid = l.lid ∧ x.addr = l.addr then { l with dirty := 0, valid := l.cleanSectors } else x) })
    | .error k => ((s.modCore core (·.dropLine l.lid l.addr)).recordPulled (l.abortRec core k)).1

/-- The pull of the lines that n bytes from a PA lie in. -/
def State.pullRange (s : State) (pa n : Nat) : State :=
  (List.range ((pa + n - 1) / 128 + 1 - pa / 128)).foldl (fun s i => s.pull (pa / 128 + i)) s

/-- A launch's own line before an access at the point of coherence: its dirty bytes are written back, an update-only line is
sent, and with `drop` the line is dropped (08 R188, 09 R201). -/
def State.flushLine (s : State) (core lid addr : Nat) (drop : Bool) : State :=
  match (s.core core).line? lid addr with
  | none => s
  | some l =>
    let s := if l.upd.isSome then s.sendLine core l else s.writeBack core l
    if drop then s.modCore core (·.dropLine lid addr) else s

/-- Sets of a launch's L1 share: eight ways of 128-byte lines (09 R201). -/
def Core.l1Sets (c : Core) (lid : Nat) : Nat := max 1 ((tget c.shares lid).getD 0)

/-- Whether two lines share a set of a launch's share (DESIGN CHOICE, log 10: the index is a free value). -/
def Core.sameSet (c : Core) (lid a b : Nat) : Bool :=
  a == b || Config.l1Set (c.l1Sets lid) a % c.l1Sets lid == Config.l1Set (c.l1Sets lid) b % c.l1Sets lid

/-- The line replaced among the ways of a set, most recent first: the least recently used one without a retain mark, where there is one
(09 R201). -/
def l1Victim (ways : List Line) : Option Line :=
  match ways.reverse.find? (fun l => !l.retain) with
  | some l => some l
  | none => ways.getLast?

/-- The ways of a line's set that hold lines. -/
def Core.l1Ways (c : Core) (lid addr : Nat) : List Line := c.lines.filter (fun l => l.lid == lid && c.sameSet lid l.addr addr)

/-- The line that leaves its set before another can enter; none where the line is held or a way is free (09 R201). -/
def Core.l1Out (c : Core) (lid addr : Nat) : Option Line :=
  if (c.line? lid addr).isSome || decide ((c.lines.filter (fun l => l.lid == lid)).length < 8) then none
  else if (c.l1Ways lid addr).length < 8 then none
  else l1Victim (c.l1Ways lid addr)

/-- Makes way for a line in a launch's share: the victim is written back or sent, and leaves (08 R179, R189, 09 R201). -/
def State.makeWay (s : State) (core lid addr : Nat) : State :=
  match (s.core core).l1Out lid addr with
  | none => s
  | some v => s.flushLine core lid v.addr true

/-- Puts a line that an access filled or hit: a stream-hinted fill enters at the least recently used position (09 R201). A fill of a further sector of
a line that the share holds makes it the most recently used, whatever its hint (DESIGN CHOICE, log 94). -/
def Core.enterLine (c : Core) (l : Line) (hint : Nat) : Core :=
  if hint = 1 ∧ (c.line? l.lid l.addr).isNone then { c with lines := c.lines ++ [l] } else c.putLine l

/-- Writes a fault record (10 R240). -/
def State.record (s : State) (r : FaultRec) : State := (s.recordPulled r).1

/-- A repairable fault of a page is recorded once until it is resolved (10 R240); one whose record was dropped is not recorded. -/
def State.recordPage (s : State) (r : FaultRec) : State :=
  let key := (r.ctx, r.addr.toNat / 2 ^ 16 % 2 ^ 40, dieOf r.core)
  if s.unresolved.contains key then s
  else
    let x := s.recordPulled r
    if x.2 then { x.1 with unresolved := x.1.unresolved ++ [key] } else x.1

end Sys2Proof.Machine
end

