-- ==== Sys2Proof/Machine/Walk.lean ====
section
/-! DEFINITION. Page-table walks, bounds and window entries at the point of coherence (10 R223 to R228, 19 R343), the checks of a
translation in their order (10 R233), and the TLBs (10 R230). -/

namespace Sys2Proof.Machine

/-- Eight bytes of a table at the point of coherence: a read there makes the update-only copies of its line be sent first (08 R189, 10
R224). What the read does to the slice and its line is `State.sawWalk`. -/
def State.peek (s : State) (ctx pa : Nat) : Except FaultKind Nat := (s.pull (pa / 128)).readPa ctx false pa 8

/-- A failed walk: its kind, the level at which it stopped (10 R224, R235), and the PA of the entry it read last. -/
abbrev WalkFail := FaultKind × Nat × Nat

/-- The physical size of a page's frame (10 R226). -/
def frameSize (fmt size : Nat) : Nat := if fmt = 1 then size / 4 else if fmt = 2 then size / 2 else size

/-- Whether a leaf of a page of some size is malformed (10 R225, R226). FRAME of a TIER 2 leaf names a window and no PA, and its alignment is
not checked (DESIGN CHOICE, log 78). -/
def leafMalformed (e : DWord) (size : Nat) : Bool :=
  e.extractLsb' 62 2 != 0 || leafRet e > 3 || leafTier e == 3 || leafFmt e > 6 || e.getLsbD 7
  || (leafTier e != 2 && leafFrame e % frameSize (leafFmt e) size != 0)

/-- The walk from level l, whose table starts at t * 8,192 (10 R224); `fuel` is l + 1. -/
def State.walkFrom (s : State) (ctx va : Nat) : Nat → Nat → Except WalkFail (DWord × Nat)
  | 0, _ => .error (.malformed, 0, 0)
  | l + 1, t =>
    let pa := t * 8192 + va / 2 ^ (16 + 10 * l) % 1024 * 8
    match s.peek ctx pa with
    | .error k => .error (k, l, pa)
    | .ok v =>
      let e := BitVec.ofNat 64 v
      if !e.getLsbD 0 then .error (.absent, l, pa)
      else if e.getLsbD 4 then
        if l = 3 ∨ leafMalformed e (2 ^ (16 + 10 * l)) then .error (.malformed, l, pa)
        else if leafMig e = 3 then .error (.absent, l, pa)
        else .ok (e, 2 ^ (16 + 10 * l))
      else if l = 0 ∨ e.extractLsb' 48 16 ≠ 0 ∨ e.extractLsb' 5 8 ≠ 0 ∨ e.extractLsb' 1 3 ≠ 0 then .error (.malformed, l, pa)
      else State.walkFrom s ctx va l (e.extractLsb' 13 35).toNat

/-- The walk of a VA in a context (10 R224): the leaf and the page size. -/
def State.walk (s : State) (ctx va : Nat) : Except WalkFail (DWord × Nat) :=
  let root := s.cw8 0 (0x50000 + ctx * 0x40)
  if root.getLsbD 0 then s.walkFrom ctx va 4 (root.extractLsb' 13 35).toNat else .error (.absent, 3, 0)

/-- The walk level of a leaf of a page of some size (10 R224) (DEDUCED, log 24). -/
def pageLevel (size : Nat) : Nat := if size = 2 ^ 16 then 0 else if size = 2 ^ 26 then 1 else 2

/-- Entry r of a context's bounds table, as its two words; a failed read gives its kind and PA (10 R228). -/
def State.boundEntry (s : State) (ctx r : Nat) : Except (FaultKind × Nat) (DWord × DWord) :=
  if r = 0 then .ok (0, 0)
  else
    let bt := (s.cw8 0 (0x50008 + ctx * 0x40)).toNat + r * 16
    match s.peek ctx bt, s.peek ctx (bt + 8) with
    | .ok a, .ok b => .ok (BitVec.ofNat 64 a, BitVec.ofNat 64 b)
    | .error k, _ => .error (k, bt)
    | _, .error k => .error (k, bt + 8)

/-- Entry w of a context's window table (19 R343) (DEDUCED, log 61). -/
def State.windowEntry (s : State) (ctx w : Nat) : DWord × DWord :=
  let t := (s.cw8 0 (0x51000 + ctx * 8)).toNat + w * 16
  match s.peek ctx t, s.peek ctx (t + 8) with
  | .ok a, .ok b => (BitVec.ofNat 64 a, BitVec.ofNat 64 b)
  | _, _ => (0, 0)

/-- What an access wants of a page. -/
inductive Acc where
  | read | write | atomic | reduce | fetch
  deriving DecidableEq, Repr

/-- Whether an access writes (10 R234, R235). -/
def Acc.writes : Acc → Bool
  | .write | .atomic | .reduce => true
  | _ => false

/-- Whether R, W and X bits (in bits 0 to 2) allow an access; an ATOM needs R and W (20 R368), a RED needs W (22 R446). -/
def Acc.allowed (a : Acc) (p : BitVec 3) : Bool :=
  match a with
  | .read => p.getLsbD 0
  | .write | .reduce => p.getLsbD 1
  | .atomic => p.getLsbD 0 && p.getLsbD 1
  | .fetch => p.getLsbD 2

/-- The kind 2 check of a leaf: migrating in, or a write while migrating out (10 R234). -/
def leafMigrating (e : DWord) (a : Acc) : Bool := leafMig e == 1 || (leafMig e == 2 && a.writes)

/-- A fresh translation of a VA: what a TLB would hold of it (10 R230). -/
def State.fresh? (s : State) (ctx va rid : Nat) : Except WalkFail Tlb :=
  match s.walk ctx va with
  | .error e => .error e
  | .ok (leaf, size) =>
    match s.boundEntry ctx rid with
    | .error (k, pa) => .error (k, pageLevel size, pa)
    | .ok b => .ok {
        ctx := ctx, va := va / size * size, size := size, leaf := leaf, bound := b
        window := if leafTier leaf = 2 then s.windowEntry ctx (leaf.extractLsb' 48 8).toNat else (0, 0) }

/-- The checks of a translation after the walk, in the order of 10 R233: migration, permission, bounds. `fits`: whether the page's format is one
that the access takes, which is a matter of permission (14 R286, 17 R333, 21 R421). The number is the first byte outside the bounds, where that is
the only cause (10 R235). -/
def Tlb.check (e : Tlb) (rid va n : Nat) (a : Acc) (fits : Tlb → Bool := fun _ => true) : Option (FaultKind × Nat) :=
  if leafMigrating e.leaf a then some (.migrating, va)
  else if !a.allowed (e.leaf.extractLsb' 1 3) || ((a == .atomic || a == .reduce) && leafNq e.leaf) || !fits e then some (.permission, va)
  else if rid = 0 then (if leafRid e.leaf = 0 then none else some (.bounds, va))
  else
    let (w0, w1) := e.bound
    let base := (w0.extractLsb' 0 56).toNat
    let limit := (w1.extractLsb' 0 56).toNat
    if w0.extractLsb' 56 8 ≠ 0 ∨ w1.extractLsb' 59 4 ≠ 0 ∨ !w1.getLsbD 63 ∨ !a.allowed (w1.extractLsb' 56 3)
        ∨ leafRid e.leaf ≠ rid then some (.bounds, va)
    else if va < base ∨ limit ≤ va then some (.bounds, va)
    else if limit < va + n then some (.bounds, limit)
    else none

/-- The entry of a TLB that covers a VA, for the pointer's region. -/
def tlbFind (l : List Tlb) (ctx va rid : Nat) : Option Tlb :=
  l.find? (fun e => e.ctx == ctx && decide (e.va ≤ va) && decide (va < e.va + e.size)
    && (rid == 0 || leafRid e.leaf != rid || e.bound != (0, 0)))

/-- Why a window entry does not let an access at an offset of a TIER 2 page through (19 R344); other pages have none. An ATOM reads and writes. -/
def Tlb.windowFault (e : Tlb) (va n : Nat) (a : Acc) : Option FaultKind :=
  if leafTier e.leaf ≠ 2 then none
  else
    let w := e.window.2
    let off := (e.leaf.extractLsb' 24 24).toNat * 65536 + (va - e.va)
    if !w.getLsbD 63 ∨ w.getLsbD 62 ∨ w.extractLsb' 56 4 ≠ 0 ∨ w.extractLsb' 32 2 ≠ 0 ∨ (w.extractLsb' 0 24).toNat * 65536 < off + n then some .revoked
    else if (match a with
      | .atomic => w.getLsbD 60 && w.getLsbD 61
      | a => if a.writes then w.getLsbD 61 else w.getLsbD 60) then none
    else some .permission

/-- The first VA that no page-table entry maps (10 R223). -/
def vaEnd : Nat := 0x00FD000000000000

/-- What an access finds in a translation: its first failed check, or none. -/
def Tlb.verdict (e : Tlb) (ptr : DWord) (n : Nat) (a : Acc) (path : Path) (fits : Tlb → Bool := fun _ => true) : Option FaultInfo :=
  let va := (ptr.extractLsb' 0 56).toNat
  let rid := (ptr.extractLsb' 56 8).toNat
  match e.check rid va n a fits with
  | some (k, at_) => some {
      kind := k, va := ptr.extractLsb' 56 8 ++ BitVec.ofNat 56 at_, write := a.writes, path := path, level := pageLevel e.size }
  | none => (e.windowFault va n a).map (fun k =>
      { kind := k, va := ptr, write := a.writes, path := path, level := pageLevel e.size })

/-- Translates one access by a TLB and walks where the TLB has nothing or before kinds 2, 4 and 5 are reported (10 R230). -/
def State.xlate (s : State) (tlb : List Tlb) (ctx : Nat) (ptr : DWord) (n : Nat) (a : Acc) (path : Path)
    (fits : Tlb → Bool := fun _ => true) : Except FaultInfo Tlb :=
  let va := (ptr.extractLsb' 0 56).toNat
  let rid := (ptr.extractLsb' 56 8).toNat
  let walked : Except FaultInfo Tlb :=
    match s.fresh? ctx va rid with
    | .error (k, l, pa) => .error { kind := k, va := ptr, write := a.writes, path := path, level := l, pa := pa }
    | .ok e =>
      match e.verdict ptr n a path fits with
      | none => .ok e
      | some f => .error f
  if vaEnd ≤ va then .error { kind := .permission, va := ptr, write := a.writes, path := path, level := 0 }
  else
    match tlbFind tlb ctx va rid with
    | some e =>
      match e.verdict ptr n a path fits with
      | none => .ok e
      | some f => if f.kind = .revoked then .error f else walked
    | none => walked

/-- The addresses of the entries that a walk from level l reads. -/
def State.walkReads (s : State) (ctx va : Nat) : Nat → Nat → List Nat
  | 0, _ => []
  | l + 1, t =>
    let pa := t * 8192 + va / 2 ^ (16 + 10 * l) % 1024 * 8
    pa :: (match s.peek ctx pa with
      | .error _ => []
      | .ok v => if v % 2 = 1 ∧ v / 16 % 2 = 0 ∧ l ≠ 0 then State.walkReads s ctx va l (v / 2 ^ 13 % 2 ^ 35) else [])

/-- The addresses of the page-table entries, bounds entry and window entry that the walk of a VA for a region ID reads (10 R224, R228, 19
R343). -/
def State.lookedAt (s : State) (ctx va rid : Nat) : List Nat :=
  let root := s.cw8 0 (0x50000 + ctx * 0x40)
  if !root.getLsbD 0 then []
  else s.walkReads ctx va 4 (root.extractLsb' 13 35).toNat ++ (match s.walk ctx va with
    | .error _ => []
    | .ok (leaf, _) =>
      (if rid = 0 then [] else let b := (s.cw8 0 (0x50008 + ctx * 0x40)).toNat + rid * 16; [b, b + 8])
      ++ (if leafTier leaf = 2 then let w := (s.cw8 0 (0x51000 + ctx * 8)).toNat + (leaf.extractLsb' 48 8).toNat * 16; [w, w + 8] else []))

/-- What the walk of a pointer does beside giving its translation or its fault: at each entry it reads, the update-only copies of the line are sent
(08 R189), and the slice reads the entry's sector, in which it corrects an error (09 R206, R221). The table of 09 R202 has no row for these reads:
they bring the sector in with class 0 and leave the class and mark of a line that is held (DESIGN CHOICE, log 75). -/
def State.sawWalk (s : State) (ctx : Nat) (ptr : DWord) : State :=
  let va := (ptr.extractLsb' 0 56).toNat
  if vaEnd ≤ va then s
  else (s.lookedAt ctx va (ptr.extractLsb' 56 8).toNat).foldl (fun s pa => (s.pull (pa / 128)).l2Access pa 8 false recordReq) s

/-- What the read of a window-table entry by its own request does beside giving the entry (08 R189, 19 R345). -/
def State.sawEntry (s : State) (ctx w : Nat) : State :=
  let t := (s.cw8 0 (0x51000 + ctx * 8)).toNat + w * 16
  (s.pull (t / 128)).l2Access t 16 false recordReq

/-- The pointer by which a translation was found. -/
def Tlb.ptr (e : Tlb) : DWord := BitVec.ofNat 8 (leafRid e.leaf) ++ BitVec.ofNat 56 e.va

/-- Adds a translation that a walk found; a full TLB drops one of its entries, the last by default (DESIGN CHOICE, log 11). Never one with
MIG = 01 or a window entry with V = 0 is held (10 R230, 19 R344). The result holds the rest of the place. -/
def tlbFill (cap : Nat) (l : List Tlb) (e : Tlb) (place : Nat) : List Tlb × Nat :=
  if l.contains e ∨ leafMig e.leaf = 1 ∨ (leafTier e.leaf = 2 ∧ !e.window.2.getLsbD 63) then (l, place)
  else
    let l := l.filter (fun x => !(x.ctx == e.ctx && x.va == e.va && x.size == e.size && leafRid x.leaf == leafRid e.leaf))
    if l.length < cap then (e :: l, place)
    else (e :: l.eraseIdx (l.length - 1 - place % l.length), place / l.length)

/-- Holds a translation in the core TLB (10 R230). -/
def Core.fillTlb (c : Core) (e : Tlb) : Core :=
  let (l, place) := tlbFill 128 c.tlb e c.place
  { c with tlb := l, place := place }

/-- Holds a translation in the walk-ahead TLB (10 R230). -/
def Core.fillAhead (c : Core) (e : Tlb) : Core :=
  let (l, place) := tlbFill 256 c.walkAhead e c.place
  { c with walkAhead := l, place := place }

/-- Holds a translation that a walk found in the core TLB (10 R230). -/
def State.fillTlb (s : State) (core : Nat) (e : Option Tlb) : State :=
  match e with
  | some e => if (s.core core).tlb.contains e then s else (s.sawWalk e.ctx e.ptr).modCore core (·.fillTlb e)
  | none => s

/-- Holds a translation that a walk found in the walk-ahead TLB (10 R230). -/
def State.fillAhead (s : State) (core : Nat) (e : Option Tlb) : State :=
  match e with
  | some e => if (s.core core).walkAhead.contains e then s else (s.sawWalk e.ctx e.ptr).modCore core (·.fillAhead e)
  | none => s

end Sys2Proof.Machine
end

