-- ==== Sys2Proof/Machine/Lsu.lean ====
section
/-! DEFINITION. The reads and writes of the LS and KR paths by what an address names: plain bytes, elements of an NQ page (10 R227), a
fabric window (19 R344), a core store (04 R91 to R93) or the control window (10 R247); the coalescer (09 R205). -/

namespace Sys2Proof.Machine

/-- What the bytes of an LS access are. -/
inductive Target where
  | mem (pa : Nat) (leaf : DWord)
  /-- frame PA and first element of an NQ page -/
  | elem (frame e : Nat) (leaf : DWord)
  | fabric (win : DWord × DWord) (off : Nat)
  | store (core off : Nat)
  | control (die off : Nat)
  deriving DecidableEq, Repr

/-- PA and bit of plane k of an element of an NQ page (10 R227). -/
def nqBit (frame fmt blen e k : Nat) : Nat × Nat :=
  let p := nqPlanes fmt
  let j := e % blen
  (frame + e / blen * p * blen / 8 + k * blen / 8 + j / 8, j % 8)

/-- The place of byte i of a target, one number for every name of it: a byte of a core store, of the control window, of memory, an element
of an NQ frame, or a byte behind a window (08 R175 to R177). -/
def Target.place (t : Target) (i : Nat) : Nat :=
  match t with
  | .store core off => 2 ^ 60 + core * 2 ^ 24 + off + i
  | .control die off => 2 * 2 ^ 60 + die * 2 ^ 40 + off + i
  | .mem pa _ => 3 * 2 ^ 60 + (pa + i) * 8
  | .elem frame e leaf =>
    let (pa, bit) := nqBit frame (leafFmt leaf) (leafBlen leaf) (e + i) 0
    4 * 2 ^ 60 + pa * 8 + bit
  | .fabric win off => 5 * 2 ^ 60 + (win.2.extractLsb' 24 32).toNat * 2 ^ 60 + off + i

/-- The physical addresses of the bytes of memory that an access to n bytes of a target touches; none where it lies elsewhere. -/
def Target.touched (t : Target) (n : Nat) : List Nat :=
  match t with
  | .mem pa _ => (List.range n).map (pa + ·)
  | .elem frame e leaf =>
    ((List.range n).flatMap (fun i => (List.range (nqPlanes (leafFmt leaf))).map (fun k =>
      (nqBit frame (leafFmt leaf) (leafBlen leaf) (e + i) k).1))).eraseDups
  | _ => []

/-- The leaf of the page in which a target in memory lies. -/
def Target.leaf (t : Target) : DWord :=
  match t with
  | .mem _ leaf | .elem _ _ leaf => leaf
  | _ => 0

/-- The bytes of an access as the coalescer counts them: physical addresses, or the places of a target that is not in memory (09 R205). -/
def Target.asked (t : Target) (n : Nat) : List Nat :=
  match t with
  | .mem _ _ | .elem _ _ _ => t.touched n
  | _ => (List.range n).map t.place

/-- Whether store bytes lie in a register block mapped by a crew of a launch or in a scratchpad of one of its blocks
(04 R92). -/
def Core.allowed (c : Core) (lid spad off n : Nat) : Bool :=
  c.crews.any (fun e => e.2.lid == lid && e.2.rbm.toList.contains (some (off / 2048)))
  || c.blocks.any (fun b => b.lid == lid && decide (b.spbase ≤ off) && decide (off + n ≤ b.spbase + spad))

/-- Which instruction makes an access (04 R93, 10 R247). -/
inductive Who where
  | ldst
  | atomic
  | other
  | engine
  deriving DecidableEq, Repr

/-- The walk level of a translation that was found; 0 where none was needed. -/
def foundLevel (e : Option Tlb) : Nat := (e.map (fun e => pageLevel e.size)).getD 0

/-- What the bytes of a translated page at a VA are. -/
def Tlb.target (e : Tlb) (va : Nat) : Target :=
  if leafTier e.leaf = 2 then .fabric e.window ((e.leaf.extractLsb' 24 24).toNat * 65536 + (va - e.va))
  else if leafNq e.leaf then .elem (leafFrame e.leaf) (va - e.va) e.leaf
  else .mem (leafFrame e.leaf + (va - e.va)) e.leaf

/-- Where a local-window VA lies: the core and the store offset (04 R91). -/
def windowAt (core va : Nat) : Nat × Nat :=
  if 0x00FF000000000000 ≤ va then (core, va - 0x00FF000000000000)
  else ((va - 0x00FE000000000000) / 0x1000000, (va - 0x00FE000000000000) % 0x1000000)

/-- Resolves a pointer of an access (10 R233): local window, control window, or translated memory. `priv`: privileged mode; `fits`: the page
formats that the access takes. The KR path does not reach pages with FMT 1 to 3 (21 R421). The TLB entry found is returned to be held
(DEDUCED, log 23). -/
def State.resolve (s : State) (core lid ctx : Nat) (tlb : List Tlb) (priv : Bool) (who : Who) (ptr : DWord) (n : Nat) (a : Acc)
    (path : Path) (fits : Tlb → Bool := fun _ => true) : Except FaultInfo (Target × Option Tlb) :=
  let va := (ptr.extractLsb' 0 56).toNat
  let deny : FaultInfo := { kind := .permission, va := ptr, write := a.writes, path := path, level := 0 }
  if 0x00FE000000000000 ≤ va then
    if who = .other then .error deny
    else
      let (target, off) := windowAt core va
      if target < 256 ∧ off < 0x200000 ∧ (s.core target).allowed lid (s.rcd lid).spad off n then
        .ok (.store target off, none)
      else .error deny
  else if vaEnd ≤ va then
    let off := va - vaEnd
    if who = .ldst ∧ priv ∧ off < 0x40000000000 ∧ (n = 4 ∨ n = 8) then
      .ok (.control (off / 2 ^ 40) (off % 2 ^ 40), none)
    else .error deny
  else
    match s.xlate tlb ctx ptr n a path (fun e => fits e && !(path == .kr && leafNq e.leaf)) with
    | .error f => .error f
    | .ok e => .ok (e.target va, some e)

/-- The first q planes of an element, most significant first, as an unsigned number. -/
def State.readPlanes (s : State) (ctx : Nat) (mac : Bool) (frame fmt blen e : Nat) : Nat → Nat → Except FaultKind Nat
  | 0, _ => .ok 0
  | q + 1, k =>
    let (pa, bit) := nqBit frame fmt blen e k
    match s.readPa ctx mac pa 1 with
    | .error x => .error x
    | .ok b =>
      match State.readPlanes s ctx mac frame fmt blen e q (k + 1) with
      | .error x => .error x
      | .ok r => .ok (b / 2 ^ bit % 2 * 2 ^ q + r)

/-- Element e of an NQ page as a signed value (10 R227). -/
def State.readElem (s : State) (ctx : Nat) (leaf : DWord) (frame e : Nat) : Except FaultKind Int :=
  let p := nqPlanes (leafFmt leaf)
  match s.readPlanes ctx (leafMac leaf) frame (leafFmt leaf) (leafBlen leaf) e p 0 with
  | .error x => .error x
  | .ok v => .ok (if 2 ^ (p - 1) ≤ v then (v : Int) - (2 ^ p : Nat) else v)

/-- Writes planes k to p - 1 of an element. -/
def State.writePlanes (s : State) (ctx : Nat) (mac : Bool) (frame fmt blen e v : Nat) : Nat → Nat → Except FaultKind State
  | 0, _ => .ok s
  | q + 1, k =>
    let (pa, bit) := nqBit frame fmt blen e k
    match s.readPa ctx mac pa 1 with
    | .error x => .error x
    | .ok b =>
      let b' := b - b / 2 ^ bit % 2 * 2 ^ bit + v / 2 ^ q % 2 * 2 ^ bit
      match s.writePa ctx mac pa 1 b' with
      | .error x => .error x
      | .ok s' => State.writePlanes s' ctx mac frame fmt blen e v q (k + 1)

/-- Writes a signed value to an element of an NQ page, clamped (10 R227). -/
def State.writeElem (s : State) (ctx : Nat) (leaf : DWord) (frame e : Nat) (v : Int) : Except FaultKind State :=
  let p := nqPlanes (leafFmt leaf)
  let c := clampInt (-(2 ^ (p - 1) : Nat)) ((2 ^ (p - 1) : Nat) - 1) v
  s.writePlanes ctx (leafMac leaf) frame (leafFmt leaf) (leafBlen leaf) e (c % (2 ^ p : Nat)).toNat p 0

/-- A byte as a signed number. -/
def sbyte (b : Nat) : Int := if 128 ≤ b % 256 then (b % 256 : Nat) - 256 else (b % 256 : Nat)

/-- Reads n elements through the element view, one per byte. -/
def State.readElems (s : State) (ctx : Nat) (leaf : DWord) (frame e : Nat) : Nat → Except FaultKind Nat
  | 0 => .ok 0
  | n + 1 =>
    match s.readElem ctx leaf frame e, State.readElems s ctx leaf frame (e + 1) n with
    | .ok v, .ok r => .ok ((v % 256).toNat + 256 * r)
    | .error x, _ => .error x
    | _, .error x => .error x

/-- Writes n elements through the element view; the count is that of clamping elements. -/
def State.writeElems (s : State) (ctx : Nat) (leaf : DWord) (frame e v : Nat) : Nat → Except FaultKind (State × Nat)
  | 0 => .ok (s, 0)
  | n + 1 =>
    let x := sbyte v
    let p := nqPlanes (leafFmt leaf)
    let clamps := if x < -(2 ^ (p - 1) : Nat) ∨ (2 ^ (p - 1) : Nat) - 1 < x then 1 else 0
    match s.writeElem ctx leaf frame e x with
    | .error k => .error k
    | .ok s' =>
      match State.writeElems s' ctx leaf frame (e + 1) (v / 256) n with
      | .error k => .error k
      | .ok (s', c) => .ok (s', c + clamps)

/-- The bytes of each line that an issue group's threads touch: line and mask (09 R205). -/
abbrev Cover := List (Nat × BitVec 128)

/-- Adds the bytes at physical addresses. -/
def Cover.add (c : Cover) (pas : List Nat) : Cover :=
  pas.foldl (fun c pa => tset c (pa / 128) (((tget c (pa / 128)).getD 0) ||| byteMask (pa % 128) 1)) c

/-- The bytes of a line that a request asks for: those of the group, n bytes of a PA among them. -/
def Cover.mask (c : Cover) (pa n : Nat) : BitVec 128 := ((tget c (pa / 128)).getD 0) ||| byteMask (pa % 128) n

/-- The smallest aligned block of 16, 32, 64 or 128 bytes that holds the bytes of a mask: offset and size (09 R205). -/
def blockOf (m : BitVec 128) : Nat × Nat :=
  let on := (List.range 128).filter (fun i => m.getLsbD i)
  let lo := on.headD 0
  let hi := on.getLastD 0
  let size := (([16, 32, 64] : List Nat).find? (fun z => lo / z == hi / z)).getD 128
  (lo / size * size, size)

/-- The request that serves an access: the PA and the size of its block (09 R205). -/
def Cover.request (c : Cover) (pa n : Nat) : Nat × Nat :=
  let b := blockOf (c.mask pa n)
  (pa / 128 * 128 + b.1, b.2)

/-- The request that serves n bytes of a target. -/
def Target.request (t : Target) (cover : Cover) (n : Nat) : Nat × Nat :=
  (cover.add (t.asked n)).request ((t.asked n).headD 0) 1

/-- The bytes that the active threads of the group touch, by what each of them accesses (09 R205). -/
def State.coverOf (s : State) (g : Guard) (f : Nat → Nat → Thread → Option (Target × Nat)) : Cover :=
  match s.cur with
  | none => []
  | some gr => gr.slots.foldl (fun c slot =>
      match s.thread? gr.core slot with
      | none => c
      | some t =>
        if t.guard g then
          match f gr.core slot t with
          | some (target, n) => c.add (target.asked n)
          | none => c
        else c) []

/-- The bytes of a line that a share can read: those of its valid sectors and its dirty ones (09 R201), but for bytes of which a later value has
been read (08 R178; DEDUCED, log 93). -/
def Line.readable (l : Line) : BitVec 128 :=
  ((List.range 4).foldl (fun m k => if l.valid.getLsbD k then m ||| byteMask (32 * k) 32 else m) l.dirty) &&& ~~~l.newer

/-- The sectors of a line that no fill need bring. -/
def Line.current (l : Line) : BitVec 4 := l.valid &&& ~~~(dirtySectors l.newer)

/-- A line with a sector as memory has it; its dirty bytes stay. -/
def Line.fill (l : Line) (sec v : Nat) : Line :=
  let old := BitVec.ofNat 256 (lineBytes l.data (sec * 32) 32)
  let mask := (List.range 32).foldl (fun m i => if l.dirty.getLsbD (sec * 32 + i) then m ||| (0xFF#256 <<< (8 * i)) else m) 0#256
  { l with
    data := lineSet l.data (sec * 32) 32 ((old &&& mask) ||| (BitVec.ofNat 256 v &&& ~~~mask)).toNat
    valid := l.valid ||| (1#4 <<< sec)
    newer := l.newer &&& ~~~(byteMask (sec * 32) 32) }

/-- Fills sectors of a line from the point of coherence. -/
def State.fillSectors (s : State) (ctx : Nat) (leaf : DWord) (l : Line) : List Nat → Except FaultKind Line
  | [] => .ok l
  | k :: r =>
    match s.readPa ctx (leafMac leaf) (l.addr * 128 + k * 32) 32 with
    | .error x => .error x
    | .ok v => State.fillSectors s ctx leaf (l.fill k v) r

/-- The key of a 64-byte piece in the constant cache and the I-cache: context and address. -/
def pieceKey (ctx pa : Nat) : Nat := ctx * 2 ^ 48 + pa / 64

/-- The key of a piece of a page behind a window: context and VA, apart from those of physical addresses. -/
def fabricKey (ctx va : Nat) : Nat := 2 ^ 80 + ctx * 2 ^ 56 + va / 64

/-- The clean bytes of a line, among n at an offset, whose value is another than v. -/
def Line.differing (l : Line) (off n v : Nat) : BitVec 128 :=
  if l.upd.isSome ∨ lineBytes l.data off n = v then 0
  else (List.range n).foldl (fun m i =>
    if lineBytes l.data (off + i) 1 = v / 256 ^ i % 256 then m else m ||| byteMask (off + i) 1) 0 &&& ~~~l.dirty

/-- A thread of the core has read n bytes of a context at a PA: no thread of the core reads an older value after it (08 R178). Bytes of L1 lines
that hold another value are marked, and pieces of the constant cache that do leave it (DEDUCED, log 93). -/
def Core.noteRead (c : Core) (ctx pa n v : Nat) : Core :=
  let stale := fun l : Line => l.addr == pa / 128 && l.last.2.2.2.2 == ctx && l.differing (pa % 128) n v != 0
  let c := if c.lines.any stale then
      { c with lines := c.lines.map (fun l => if stale l then { l with newer := l.newer ||| l.differing (pa % 128) n v } else l) }
    else c
  match tget c.constant (pieceKey ctx pa) with
  | some d => if lineBytes d (pa % 64) n = v then c else { c with constant := tdel c.constant (pieceKey ctx pa) }
  | none => c

/-- A read of n bytes at a PA through the launch's L1 share, as part of its group's request for a line: a hit reads the line; a miss fills
the request's sectors that the line does not hold (09 R201, R205, R206). The Boolean says whether it hit. -/
def State.readL1 (s : State) (core lid ctx : Nat) (leaf : DWord) (pa n hint : Nat) (cover : Cover) :
    State × Except FaultKind (Nat × Bool) :=
  let addr := pa / 128
  let s := match (s.core core).line? lid addr with
    | some l => if l.upd.isSome then s.sendLine core l else s
    | none => s
  let line := { ((s.core core).line? lid addr).getD (Line.new lid addr ctx) with retain := hint == 2, leaf := leaf }
  let m := cover.mask pa n
  let v := lineBytes line.data (pa % 128) n
  if m &&& ~~~line.readable = 0 then (s.modCore core (fun c => (c.putLine line).noteRead ctx pa n v), .ok (v, true))
  else
    let (at_, size) := cover.request pa n
    let s := (s.makeWay core lid addr).pull addr
    match s.fillSectors ctx leaf line ((List.range 4).filter (fun k => (sectorMask at_ size).getLsbD k && !line.current.getLsbD k)) with
    | .error k => (s, .error k)
    | .ok line =>
      let v := lineBytes line.data (pa % 128) n
      ((s.modCore core (fun c => (c.enterLine line hint).noteRead ctx pa n v)).l2Access at_ size false (lsReq leaf hint), .ok (v, false))

/-- A read at the point of coherence (08 R179): own dirty bytes are written back first, update-only copies pulled. -/
def State.readPoc (s : State) (core lid ctx : Nat) (leaf : DWord) (pa n hint : Nat) (cover : Cover) : State × Except FaultKind Nat :=
  let s := (s.flushLine core lid (pa / 128) false).pull (pa / 128)
  match s.readPa ctx (leafMac leaf) pa n with
  | .error k => (s, .error k)
  | .ok v =>
    let (at_, size) := cover.request pa n
    ((s.modCore core (·.noteRead ctx pa n v)).l2Access at_ size false (lsReq leaf hint), .ok v)

/-- The lines that physical addresses lie in. -/
def linesOf (pas : List Nat) : List Nat := (pas.map (· / 128)).eraseDups

/-- Before an element view's access at the slice: the launch's own lines are written back, and dropped before a store; a read makes
the update-only copies be pulled (08 R179, 09 R201, 10 R227). -/
def State.openView (s : State) (core lid : Nat) (pas : List Nat) (write : Bool) : State :=
  (linesOf pas).foldl (fun s a => let s := s.flushLine core lid a write; if write then s else s.pull a) s

/-- The first of some physical addresses that cannot be read. -/
def State.firstBad (s : State) (ctx : Nat) (mac : Bool) (pas : List Nat) : Nat :=
  (pas.find? (fun pa => match s.readPa ctx mac pa 1 with
    | .error _ => true
    | .ok _ => false)).getD (pas.headD 0)

/-- A thread of the core has read some bytes of memory (08 R178). -/
def State.noteReads (s : State) (core ctx : Nat) (mac : Bool) (pas : List Nat) : State :=
  pas.foldl (fun s pa => match s.readPa ctx mac pa 1 with
    | .ok v => s.modCore core (·.noteRead ctx pa 1 v)
    | .error _ => s) s

/-- A read of n elements through the element view, at the slice like a bypass-hinted read (10 R227); a failure gives its PA. -/
def State.readView (s : State) (core lid ctx : Nat) (leaf : DWord) (frame e n hint : Nat) (cover : Cover) :
    State × Except (FaultKind × Nat) Nat :=
  let pas := (Target.elem frame e leaf).touched n
  let s := s.openView core lid pas false
  match s.readElems ctx leaf frame e n with
  | .error k => (s, .error (k, s.firstBad ctx (leafMac leaf) pas))
  | .ok v =>
    (((pas.map (fun pa => cover.request pa 1)).eraseDups).foldl (fun s b => s.l2Access b.1 b.2 false (lsReq leaf hint))
      (s.noteReads core ctx (leafMac leaf) pas), .ok v)

/-- Reads n bytes from byte i of a target in memory, at the slice. -/
def State.slotRead (s : State) (ctx : Nat) (t : Target) (i n : Nat) : Except FaultKind Nat :=
  match t with
  | .mem pa leaf => s.readPa ctx (leafMac leaf) (pa + i) n
  | .elem frame e leaf => s.readElems ctx leaf frame (e + i) n
  | _ => .error .unmappedPa

/-- Writes n bytes from byte i of a target in memory, at the slice; `mark`: the write is a request (09 R202). The count is that of clamping
elements. -/
def State.slotWrite (s : State) (ctx : Nat) (t : Target) (i n v : Nat) (mark : Bool) : Except FaultKind (State × Nat) :=
  match t with
  | .mem pa leaf =>
    match s.writePa ctx (leafMac leaf) (pa + i) n v with
    | .error k => .error k
    | .ok s => .ok (s.l2Access (pa + i) n true { writeReq leaf (leafRet leaf) with mark }, 0)
  | .elem frame e leaf =>
    match s.writeElems ctx leaf frame (e + i) v n with
    | .error k => .error k
    | .ok (s, c) =>
      .ok (((Target.elem frame (e + i) leaf).touched n).foldl (fun s pa => s.l2Access pa 1 true { writeReq leaf (leafRet leaf) with mark }) s, c)
  | _ => .error .unmappedPa

/-- Every share of a context on a core writes its lines of some addresses back and drops them (05 R133). -/
def State.flushCtx (s : State) (core ctx : Nat) (pas : List Nat) : State :=
  ((s.core core).lines.filter (fun x => (linesOf pas).contains x.addr && (s.rcd x.lid).ctx == ctx)).foldl
    (fun s x => s.flushLine core x.lid x.addr true) s

/-- Brings 64-byte pieces that the constant cache does not hold into it (08 R170). -/
def State.fillKr (s : State) (core ctx : Nat) (leaf : DWord) (hint : Nat) : List Nat → State × Option FaultKind
  | [] => (s, none)
  | pa :: r =>
    if (tget (s.core core).constant (pieceKey ctx pa)).isSome then State.fillKr s core ctx leaf hint r
    else
      let s := s.pull (pa / 128)
      match s.readPa ctx (leafMac leaf) pa 64 with
      | .error k => (s, some k)
      | .ok v =>
        let s := s.modCore core (fun c => { c with constant := tset c.constant (pieceKey ctx pa) (BitVec.ofNat 1024 v) })
        State.fillKr (s.l2Access pa 64 false (lsReq leaf hint)) core ctx leaf hint r

/-- A read on the KR path, as part of its group's request for a line: from the constant cache, which a miss fills (08 R170). The Boolean says
whether it hit. -/
def State.readKr (s : State) (core ctx : Nat) (leaf : DWord) (pa n hint : Nat) (cover : Cover) : State × Except FaultKind (Nat × Bool) :=
  let (at_, size) := cover.request pa n
  let pieces := if size = 128 then [at_, at_ + 64] else [at_ / 64 * 64]
  let hit := pieces.all (fun p => (tget (s.core core).constant (pieceKey ctx p)).isSome)
  match s.fillKr core ctx leaf hint pieces with
  | (s, some k) => (s, .error k)
  | (s, none) =>
    let v := lineBytes ((tget (s.core core).constant (pieceKey ctx pa)).getD 0) (pa % 64) n
    (s.modCore core (·.noteRead ctx pa n v), .ok (v, hit))

/-- A store of n bytes into the launch's L1 share (09 R201): it allocates the line and fetches nothing. -/
def State.writeL1 (s : State) (core lid ctx : Nat) (leaf ptr pc : DWord) (tid block pa n hint v : Nat) : State :=
  let addr := pa / 128
  let s := match (s.core core).line? lid addr with
    | some l => if l.upd.isSome then s.sendLine core l else s
    | none => s
  let line := ((s.core core).line? lid addr).getD (Line.new lid addr ctx)
  let line := { line with
    data := lineSet line.data (pa % 128) n v
    dirty := line.dirty ||| byteMask (pa % 128) n
    newer := line.newer &&& ~~~(byteMask (pa % 128) n)
    retain := hint == 2
    leaf := leaf
    last := (ptr, pc, tid, block, ctx) }
  (s.makeWay core lid addr).modCore core (·.enterLine line hint)

/-- Whether the request of a group's writes covers whole every sector that n bytes at a PA lie in (09 R202, R205). -/
def Cover.whole (c : Cover) (pa n : Nat) : Bool := sectorMask pa n &&& ~~~(fullSectors (c.mask pa n)) == 0

/-- A store at the point of coherence, as part of its group's request for a line (09 R201, R205): the own line is written back and dropped
first. -/
def State.writePoc (s : State) (core lid ctx : Nat) (leaf : DWord) (pa n v : Nat) (cover : Cover) : State × Option FaultKind :=
  let s := s.flushLine core lid (pa / 128) true
  match (if cover.whole pa n then s.putPa ctx (leafMac leaf) pa n v else s.writePa ctx (leafMac leaf) pa n v) with
  | .error k => (s, some k)
  | .ok s => (s.l2Sectors (pa / 128) 0 (sectorMask pa n) (fullSectors (cover.mask pa n)) (writeReq leaf (leafRet leaf)), none)

/-- A store of n elements through the element view, at the slice like a bypass-hinted store (10 R227); the count is that of clamping
elements; a failure gives its PA. -/
def State.writeView (s : State) (core lid ctx : Nat) (leaf : DWord) (frame e n v : Nat) : State × Except (FaultKind × Nat) Nat :=
  let pas := (Target.elem frame e leaf).touched n
  let s := s.openView core lid pas true
  match s.writeElems ctx leaf frame e v n with
  | .error k => (s, .error (k, s.firstBad ctx (leafMac leaf) pas))
  | .ok (s, c) => (pas.foldl (fun s pa => s.l2Write pa 1 leaf (leafRet leaf)) s, .ok c)

/-- Whether an LS access of a launch is performed at the point of coherence: a bypass hint, or a DS page in a DET launch
(08 R197, 09 R201). -/
def atPoc (det : Bool) (leaf : DWord) (hint : Nat) : Bool := hint == 3 || (det && leafDs leaf)

/-- What a window request asks for. -/
inductive Ask where
  | read
  | write (v : Nat)
  | atomic (op : Nat) (b c : DWord)
  | reduce (op : Nat) (b : DWord)
  deriving DecidableEq, Repr

/-- Whether it writes at the remote device. -/
def Ask.writes : Ask → Bool
  | .read => false
  | _ => true

/-- The die whose FABTMO governs a request (19 R342, R358): that of its core, or of the port that its access came in at. -/
def FabFor.die : FabFor → Nat
  | .load core .. | .write core .. | .task core _ | .line core .. | .report core .. => dieOf core
  | .host m _ => portDie m.port
  | .rdma port _ => port / 2
  | .completion die => die

/-- The key under which a byte behind a window is listed among those that hold no value (10 R250). -/
def farKey (win : DWord × DWord) (off : Nat) : Nat := 2 ^ 100 + (Target.fabric win off).place 0

/-- Why a read of n bytes behind a window finds a byte that an engine task ended by an abort did not deliver (10 R250). -/
def State.farBad (s : State) (win : DWord × DWord) (off n : Nat) : Option FaultKind :=
  (s.bad.find? (fun b => decide (farKey win off ≤ b.1) && decide (b.1 < farKey win off + n))).map (·.2)

/-- What a window request writes holds a value again. -/
def Ask.mend (ask : Ask) (win : DWord × DWord) (off n : Nat) (bad : List (Nat × FaultKind)) : List (Nat × FaultKind) :=
  match ask with
  | .write _ => if bad.isEmpty then bad else bad.filter (fun b => !(decide (farKey win off ≤ b.1) && decide (b.1 < farKey win off + n)))
  | _ => bad

/-- Sends a window request (19 R344); it expires after FABTMO ring cycles (19 R342; log 9 counts them as steps). -/
def State.sendFabric (s : State) (ctx : Nat) (for_ : FabFor) (ptr : DWord) (win : DWord × DWord) (off n : Nat) (ask : Ask) : State :=
  let id := s.seq
  let tag := s.owner ctx
  let w1 := win.2
  let peer := w1.extractLsb' 40 16
  let rctx := (w1.extractLsb' 34 6).toNat
  let xidx := (w1.extractLsb' 24 8).toNat
  let m := match ask with
    | .read => Msg.wrd tag id peer rctx xidx off n none
    | .write v => Msg.wwr tag id peer rctx xidx off ((List.range n).map (fun i => BitVec.ofNat 8 (v / 256 ^ i))) none
    | .atomic op b c => Msg.wrd tag id peer rctx xidx off n (some (op, b, c))
    | .reduce op b => Msg.wwr tag id peer rctx xidx off ((List.range n).map (fun i => BitVec.ofNat 8 (b.toNat / 256 ^ i))) (some op)
  let s := { s with
    seq := s.seq + 1
    bad := ask.mend win off n s.bad
    fabric := s.fabric ++ [({ id, for_, va := ptr, ctx, size := n, write := ask.writes, expires := s.time + (s.cw4 for_.die 0x71010).toNat } : FabReq)] }
  s.send tag m

end Sys2Proof.Machine
end

