-- ==== Sys2Proof/Machine/Residency.lean ====
section
/-! DEFINITION. What resides on a core: free register blocks and scratchpad ranges (04 R87, 02 R48, R57), creating crews and
threads (02 R27, R29, R56), and copying a block's state out and in (10 R251, R255). -/

namespace Sys2Proof.Machine

/-- Bytes of core store that the resident launches' L1 shares take (04 R87). -/
def Core.l1Bytes (c : Core) : Nat := c.shares.foldl (fun n e => n + e.2 * 1024) 0

/-- The block map with no entry mapped. -/
def noMap : Vector (Option Nat) 28 := Vector.replicate 28 none

/-- Mapped entries of a crew: entries count from 0 upward (02 R56). -/
def Crew.entries (x : Crew) : Nat := (x.rbm.toList.filter Option.isSome).length

/-- Whether a range of store offsets meets a scratchpad. -/
def State.meetsSpad (s : State) (c : Core) (off n : Nat) : Bool :=
  c.blocks.any (fun b => decide (off < b.spbase + (s.rcd b.lid).spad) && decide (b.spbase < off + n))

/-- Store bytes that scratchpads and store buffers of the resident blocks take. -/
def State.blockBytes (s : State) (c : Core) : Nat :=
  c.blocks.foldl (fun n b => n + (s.rcd b.lid).spad + (s.rcd b.lid).sbuf) 0

/-- Register blocks in use: mapped ones, each counted once. -/
def Core.usedBlocks (c : Core) : Nat := c.mapped.eraseDups.length

/-- The physical blocks that are neither mapped nor under a scratchpad. -/
def State.openBlocks (s : State) (c : Core) : List Nat :=
  let used := c.mapped
  (List.range 1024).filter (fun p => !used.contains p && !s.meetsSpad c (p * 2048) 2048)

/-- The crews that hold some slots. -/
def crewsOfSlots (slots : List Nat) : List Nat := (slots.map (· / 64)).eraseDups

/-- New crews of a regroup. -/
def Regroup.crews (g : Regroup) : Nat := ((g.moves.map (·.2.1)).eraseDups).length

/-- Crew slots that regroups between rendezvous and switch have counted beside those of their old crews (12 R267). -/
def Core.claimedCrews (c : Core) : Nat :=
  c.regroups.foldl (fun n g => n + (g.crews - (crewsOfSlots (g.moves.map (·.1))).length)) 0

/-- Register blocks that they have counted beside those of their old crews (12 R267). -/
def Core.claimedBlocks (c : Core) : Nat :=
  c.regroups.foldl (fun n g => n + (g.crews * g.entries
    - (crewsOfSlots (g.moves.map (·.1))).foldl (fun n i => n + ((c.crew? i).map Crew.entries).getD 0) 0)) 0

/-- Register blocks the core can still give in all: by the bytes left, and where a block can lie (04 R87); those that a regroup has
counted are its own (12 R267). -/
def State.freeBlocks (s : State) (c : Core) : Nat :=
  min ((0x200000 - (s.blockBytes c + c.l1Bytes)) / 2048 - c.usedBlocks) (s.openBlocks c).length - c.claimedBlocks

/-- The emergency reserve of a core: the largest RESV of its launches (02 R57). -/
def State.reserve (s : State) (c : Core) : Nat := c.blocks.foldl (fun n b => max n (s.rcd b.lid).resv) 0

/-- Register blocks that an ordinary request can have: blocks freed anywhere fill the reserve first (02 R57). -/
def State.ordinaryFree (s : State) (c : Core) : Nat := s.freeBlocks c - s.reserve c

/-- Takes n members of a list, each named by a digit of a number to the base of how many are left: no rule says which free place is taken
(DESIGN CHOICE, log 11). The result holds the rest of the number. -/
def takeBy : Nat → List Nat → Nat → List Nat × Nat
  | 0, _, p => ([], p)
  | n + 1, l, p =>
    match l[p % l.length]? with
    | none => ([], p)
    | some x =>
      let r := takeBy n (l.erase x) (p / l.length)
      (x :: r.1, r.2)

/-- A free contiguous 256-byte-aligned range for a scratchpad, the first from a given place on (04 R87). -/
def State.pickSpad (s : State) (c : Core) (size : Nat) : Option Nat :=
  let used := c.mapped
  ((List.range 8192).find? (fun k =>
    let i := (c.place + k) % 8192
    decide (i * 256 + size ≤ 0x200000) && !s.meetsSpad c (i * 256) (max size 1)
      && !used.any (fun p => decide (i * 256 < p * 2048 + 2048) && decide (p * 2048 < i * 256 + size)))).map (fun k => (c.place + k) % 8192)

/-- Entries of a map filled from m with physical blocks. -/
def fillMap (rbm : Vector (Option Nat) 28) (m : Nat) : List Nat → Vector (Option Nat) 28
  | [] => rbm
  | p :: r => if h : m < 28 then fillMap (rbm.set m (some p) h) (m + 1) r else rbm

/-- Maps entries m upward onto fresh blocks, whose registers read 0 (02 R56). -/
def State.mapEntries (s : State) (core crew m n : Nat) : State :=
  let c := s.core core
  let (ps, place) := takeBy n (s.openBlocks c) c.place
  let store := ps.foldl (fun st p => st.clear (p * 2048) 2048) c.store
  let bad := if c.bad.isEmpty then [] else c.bad.filter (fun w => !ps.contains (w.1 / 512))
  s.setCore core ({ c with store := store, bad := bad, place := place }.modCrew crew (fun x => { x with rbm := fillMap x.rbm m ps }))

/-- Unmaps the entries from n upward (02 R56). -/
def unmapFrom (rbm : Vector (Option Nat) 28) (n : Nat) : Vector (Option Nat) 28 :=
  Vector.ofFn (fun i : Fin 28 => if i.val < n then rbm.get i else none)

/-- A new thread of a block (04 R90, R113). -/
def newThread (r : LaunchRec) (block lvid0 lvid1 : Nat) : Thread where
  lid := r.lid
  block := block
  lvid0 := lvid0
  lvid1 := lvid1
  pc := r.entry
  mode := .user
  preds := 0
  tregs := Vector.replicate 8 0
  depth := 0
  cache := []
  cyclehi := 0
  fstat := 0
  faddr := 0
  fidx := 0
  trapc := 0
  epc := 0
  rgflags := 0
  bndcnt := 0
  stacklim := r.stkb
  region := none
  park := none
  taints := []
  boundTrap := none

/-- A new crew with nothing mapped (02 R27). -/
def newCrew (lid : Nat) (order : Nat × Nat) (created : Nat) : Crew where
  lid := lid
  order := order
  created := created
  rbm := noMap
  k := Vector.replicate 16 0
  j := Vector.replicate 8 (0, 0)
  held := none

/-- An empty slot. -/
def Slot.none : Slot := { desc := .empty, cols := [] }

/-- The spinner state at a block's first spinner instruction (17 R321). -/
def Spin.init : Spin := { cfg := none, x := 0, clm := 0, clv := 0, cnt := [], ste := false, src := .ctr 0, swc := 0, lost := none }

/-- A bound register at placement (14 R293). -/
def Bound.init : Bound := { act := 0, hi := 0x7F800000, lo := 0xFF800000 }

/-- A new block (02 R28, 15 R313). -/
def newBlock (r : LaunchRec) (index spbase placed : Nat) : Block where
  lid := r.lid
  index := index
  spbase := spbase
  placed := placed
  started := false
  paramPage := none
  paramFill := none
  arrivals := 0
  cls := r.mcls
  bounds := []
  slots := (Slot.none, Slot.none)
  issued := (.empty, .empty)
  acc := ([], [])
  spin := Spin.init
  used := 0
  deferred := []
  consumed := false
  retiring := false
  rolling := false

/-- The crew slots that hold no crew. -/
def Core.freeCrews (c : Core) : List Nat := (List.range 32).filter (fun i => (c.crew? i).isNone)

/-- Takes a free crew slot: one of a list. -/
def Core.takeCrew (c : Core) (free : List Nat) : Nat × Core :=
  let (l, place) := takeBy 1 free c.place
  (l.headD 32, { c with place := place })

/-- The crews that hold a live thread of a block. -/
def Core.crewsOf (c : Core) (lid index : Nat) : List Nat :=
  (c.crewIds).filter (fun i => c.threads.any (fun e => e.1 / 64 == i && e.2.lid == lid && e.2.block == index))

/-- A copy of the state of blocks (10 R251, R255). -/
def State.snapshot (s : State) (core : Nat) (bs : List Block) (tasks : Bool) : Saved :=
  let c := s.core core
  let mine := fun lid block => bs.any (fun b => b.lid == lid && b.index == block)
  let threads := c.threads.filter (fun e => mine e.2.lid e.2.block)
  let crews := c.crews.filter (fun e => threads.any (fun t => t.1 / 64 == e.1))
  let slots := (crews.flatMap (fun e => (List.range 64).map (e.1 * 64 + ·))).filter (fun o => match c.thread? o with
    | none => true
    | some t => mine t.lid t.block)
  let regs := slots.foldl (fun m o =>
    (List.range 224).foldl (fun m n =>
      match c.readV o n with
      | some w => m.put32 (o * 1024 + n * 4) w
      | none => m) m) Memory.empty
  let phys := crews.flatMap (fun e => e.2.rbm.toList.filterMap id)
  let spad := fun b : Block => (s.rcd b.lid).spad
  let held := c.tasks.filter (fun t => mine t.lid t.block)
  let bad := fun (lo n : Nat) => if c.bad.isEmpty then [] else c.bad.filter (fun w => decide (lo ≤ w.1 * 4) && decide (w.1 * 4 < lo + n))
  { blocks := bs.map (fun b => (b, Memory.empty.copy c.store b.spbase (spad b) 0))
    crews := crews
    threads := threads
    regs := regs
    tasks := if tasks then held.filter (fun t => t.state == .waiting) else []
    shared := c.shared.filter phys.contains
    full := c.full.filter (fun o => phys.contains (o / 2048))
    badSpad := bs.flatMap (fun b => (bad b.spbase (spad b)).map (fun w => (b.index, w.1 - b.spbase / 4, w.2)))
    badRegs := if c.bad.isEmpty then [] else slots.flatMap (fun o => (List.range 224).filterMap (fun n =>
      (c.vOff o n).bind (fun a => (tget c.bad (a / 4)).map (fun k => (o * 256 + n, k)))))
    size := (Config.saveSize (crews.foldl (fun n e => n + e.2.entries) 0) crews.length threads.length
      (bs.foldl (fun n b => n + spad b) 0) held.length (bs.foldl (fun n b => n + b.used.toNat) 0)).toNat }

/-- Marks of shared blocks and full slots that no crew maps any longer go (04 R106). -/
def Core.tidy (c : Core) : Core :=
  if c.shared.isEmpty then c
  else
    let m := c.mapped
    { c with shared := c.shared.filter m.contains, full := c.full.filter (fun o => m.contains (o / 2048)) }

/-- Takes a block's threads, the crews that then hold no thread, its tasks, itself and a regroup under way of its threads off a core (12
R271). -/
def Core.removeBlock (c : Core) (lid index : Nat) : Core :=
  let threads := c.threads.filter (fun e => !(e.2.lid == lid && e.2.block == index))
  let gone := c.threads.filter (fun e => e.2.lid == lid && e.2.block == index)
  Core.tidy { c with
    threads := threads
    crews := c.crews.filter (fun e => threads.any (fun t => t.1 / 64 == e.1) || !gone.any (fun t => t.1 / 64 == e.1))
    loads := c.loads.filter (fun l => !gone.any (·.1 == l.slot))
    latch := c.latch.filter (fun l => !gone.any (·.1 == l.1))
    tasks := c.tasks.filter (fun t => !(t.lid == lid && t.block == index))
    blocks := c.blocks.filter (fun b => !(b.lid == lid && b.index == index))
    holders := c.holders.filter (fun h => !(h.2.1 == lid && h.2.2 == index))
    overflow := c.overflow.filter (fun o => !gone.any (·.1 == o.2))
    far := c.far.filter (fun o => !gone.any (·.1 == o.2))
    regroups := c.regroups.filter (fun g => !g.moves.any (fun m => gone.any (·.1 == m.1))) }

/-- The physical block that a saved crew's block takes: the one its other mapper took already, or a fresh one that reads 0. -/
def State.placeBlock (core : Nat) (acc : State × List (Nat × Nat)) (p : Nat) : State × List (Nat × Nat) :=
  let s := acc.1
  if (tget acc.2 p).isSome then acc
  else
    let c := s.core core
    let taken := acc.2.map (·.2)
    match takeBy 1 ((s.openBlocks c).filter (fun q => !taken.contains q)) c.place with
    | ([], _) => acc
    | (q :: _, place) => (s.setCore core { c with
        store := c.store.clear (q * 2048) 2048
        bad := c.bad.filter (fun w => w.1 / 512 != q)
        place := place }, acc.2 ++ [(p, q)])

/-- The crew of a core that a saved crew is a copy of: threads of another block hold it still, or it has been restored with another block (12
R275). Crews are told apart by the stamp of their creation. -/
def Core.sameCrew (c : Core) (x : Crew) : Option (Nat × Crew) := c.crews.find? (fun e => e.2.created == x.created)

/-- The physical blocks that the entries of a saved crew have in the crew that it is a copy of. -/
def Core.blocksHeld (c : Core) (x : Crew) : List (Nat × Nat) :=
  match c.sameCrew x with
  | none => []
  | some (_, y) => (x.rbm.toList.zip y.rbm.toList).filterMap (fun e => match e with
      | (some p, some q) => some (p, q)
      | _ => none)

/-- Join masks and arrival sets with the bits of some lanes as they were saved. -/
def joinLanes (now saved : Vector (BitVec 64 × BitVec 64) 8) (lanes : DWord) : Vector (BitVec 64 × BitVec 64) 8 :=
  Vector.ofFn (fun i : Fin 8 => (((now.get i).1 &&& ~~~lanes) ||| ((saved.get i).1 &&& lanes), ((now.get i).2 &&& ~~~lanes) ||| ((saved.get i).2 &&& lanes)))

/-- The slot that a saved crew takes, which may be another than before (02 R52). The result pairs them. Where the crew is there still, the lanes of
the saved threads go back into it: it keeps its k registers, and takes the bits of these lanes in its join masks (DESIGN CHOICE, log 95). -/
def State.placeCrew (core : Nat) (map : List (Nat × Nat)) (lanes : Nat → DWord) (acc : State × List (Nat × Nat)) (e : Nat × Crew) :
    State × List (Nat × Nat) :=
  let s := acc.1
  let c := s.core core
  let rbm := e.2.rbm.map (fun p => p.bind (tget map))
  match c.sameCrew e.2 with
  | some (i, y) =>
    (s.setCore core (c.setCrew i { y with
      rbm := Vector.ofFn (fun n : Fin 28 => (y.rbm.get n).or (rbm.get n))
      j := joinLanes y.j e.2.j (lanes e.1) }), acc.2 ++ [(e.1, i)])
  | none =>
    let (i, c) := c.takeCrew (if (c.crew? e.1).isNone then e.1 :: c.freeCrews.erase e.1 else c.freeCrews)
    (s.setCore core (c.setCrew i { e.2 with rbm := rbm }), acc.2 ++ [(e.1, i)])

/-- A saved park at its new places: scratchpad objects move with the scratchpad, shared slots with their block. -/
def Park.move (p : Park) (from_ to_ : Nat) (map : List (Nat × Nat)) : Park :=
  match p with
  | .bowait off parity len => .bowait (off - from_ + to_) parity len
  | .slot off full order => .slot ((tget map (off / 2048)).getD 0 * 2048 + off % 2048) full order
  | p => p

/-- Puts saved blocks back: blocks, crews, threads, registers, scratchpads, words that hold no value, and waiting tasks (10 R252, R255). `bases` are the new
scratchpads. -/
def State.install (s : State) (core : Nat) (bases : List Nat) (sv : Saved) : State :=
  let c := s.core core
  let c := (sv.blocks.zip bases).foldl (fun c e =>
    { c with
      blocks := c.blocks ++ [{ e.1.1 with spbase := e.2 }]
      store := c.store.copy e.1.2 0 (s.rcd e.1.1.lid).spad e.2
      bad := c.bad.filter (fun w => decide (w.1 * 4 < e.2) || decide (e.2 + (s.rcd e.1.1.lid).spad ≤ w.1 * 4))
        ++ (sv.badSpad.filter (fun w => w.1 == e.1.1.index)).map (fun w => (e.2 / 4 + w.2.1, w.2.2)) }) c
  let s := s.setCore core { c with tasks := c.tasks ++ sv.tasks }
  let phys := sv.crews.flatMap (fun e => e.2.rbm.toList.filterMap id)
  let there := sv.crews.filter (fun e => (c.sameCrew e.2).isSome)
  let (s, map) := phys.foldl (State.placeBlock core) (s, there.flatMap (fun e => c.blocksHeld e.2))
  let lanes := fun i => (sv.threads.filter (fun t => t.1 / 64 == i)).foldl (fun m t => m ||| (1#64 <<< (t.1 % 64))) 0#64
  let (s, crews) := sv.crews.foldl (State.placeCrew core map lanes) (s, [])
  let c := s.core core
  let moved := fun o => (tget map (o / 2048)).getD 0 * 2048 + o % 2048
  let c := { c with
    shared := c.shared ++ (sv.shared.filterMap (tget map)).filter (fun p => !c.shared.contains p)
    full := c.full ++ (sv.full.map moved).filter (fun o => !c.full.contains o) }
  let c := sv.threads.foldl (fun c e =>
    let slot := ((tget crews (e.1 / 64)).getD 0) * 64 + e.1 % 64
    let from_ := ((sv.blocks.find? (fun b => b.1.lid == e.2.lid && b.1.index == e.2.block)).map (·.1.spbase)).getD 0
    let to_ := ((c.block? e.2.lid e.2.block).map (·.spbase)).getD 0
    c.setThread slot { e.2 with park := e.2.park.map (fun p => p.move from_ to_ map) }) c
  let c := crews.foldl (fun c e => (List.range 64).foldl (fun c lane => (List.range 224).foldl (fun c n =>
    let w := sv.regs.get32 ((e.1 * 64 + lane) * 1024 + n * 4)
    if w = 0 ∧ !(there.any (·.1 == e.1) && (lanes e.1).getLsbD lane) then c else c.writeV (e.2 * 64 + lane) n w) c) c) c
  let lost := sv.badRegs.filterMap (fun w => (tget crews (w.1 / 16384)).bind (fun i =>
    (c.vOff (i * 64 + w.1 / 256 % 64) (w.1 % 256)).map (fun a => (a / 4, w.2))))
  s.setCore core { c with bad := c.bad ++ lost }

end Sys2Proof.Machine
end

