-- ==== Sys2Proof/Machine/Ops.lean ====
section
/-! DEFINITION. The shared operations: advancing a thread, broken-promise reports (05 R132 to R135), taking a trap and
returning from one (10 R244, R246), region aborts and restarts (10 R239), consuming aborted values and rollback (10 R250,
R252), and running an instruction over an issue group (02 R53, 03 R70, 04 R100). -/

namespace Sys2Proof.Machine

/-- The record of a thread's launch. -/
def State.rcdOf (s : State) (t : Thread) : LaunchRec := s.rcd t.lid

/-- The context of a thread. -/
def State.ctxOf (s : State) (t : Thread) : Nat := (s.rcd t.lid).ctx

/-- Privileged mode: handler mode in a context with CTXCTL.SVC = 1 (10 R247). -/
def State.priv (s : State) (t : Thread) : Bool := t.mode == .handler && (s.ctxctl (s.ctxOf t)).getLsbD 2

/-- The open region of a thread; in handler mode it is suspended (10 R245). -/
def Thread.openRegion (t : Thread) : Option Region := if t.mode = .user then t.region else none

/-- A thread's operand-latch entries count down by one instruction; one that has served two instructions after its own expires (04 R98). -/
def Core.ageLatch (c : Core) (slot : Nat) : Core :=
  if c.latch.any (·.1 == slot) then
    { c with latch := (c.latch.filter (fun e => e.1 != slot || decide (1 < e.2.2))).map (fun e =>
        if e.1 = slot then (e.1, e.2.1, e.2.2 - 1) else e) }
  else c

/-- An instruction of a thread is over: the PC advances, lookahead windows and the operand latch count down (03 R60, R71,
R72). -/
def Core.advance (c : Core) (slot len : Nat) : Core :=
  let c := (c.modThread slot (fun t => { t with pc := t.pc + BitVec.ofNat 64 len, park := none })).ageLatch slot
  if c.loads.any (fun l => l.slot == slot) then
    { c with loads := c.loads.map (fun l => if l.slot = slot then { l with la := l.la - 1 } else l) }
  else c

/-- A thread parked in an instruction that commits its region goes on behind it: a region reopened at the instruction reopens at the
next one (08 R186). -/
def Core.goOn (c : Core) (slot len : Nat) : Core :=
  match c.thread? slot with
  | none => c
  | some t =>
    (c.advance slot len).modThread slot (fun u =>
      if t.mode = .user then
        { u with region := u.region.map (fun r => if r.start = t.pc then { r with start := u.pc } else r) }
      else u)

/-- The broken-promise registers of a context on a core (04 R115). -/
def Core.bpRegs (c : Core) (ctx : Nat) : BpRegs := (tget c.bp ctx).getD { count := 0, head := 0, base := 0, lost := 0 }

/-- Sets them. -/
def Core.setBp (c : Core) (ctx : Nat) (r : BpRegs) : Core := { c with bp := tset c.bp ctx r }

/-- Adds one, saturating at 32 bits. -/
def satInc (w : Word) : Word := if w = 0xFFFFFFFF then w else w + 1

/-- Counts a broken promise (05 R132). -/
def Core.countBroken (c : Core) (ctx : Nat) : Core :=
  let r := c.bpRegs ctx
  c.setBp ctx { r with count := satInc r.count }

/-- Counts a lost report (05 R134). -/
def Core.loseReport (c : Core) (ctx : Nat) : Core :=
  let r := c.bpRegs ctx
  c.setBp ctx { r with lost := satInc r.lost }

/-- The VA of the next slot of a report area (05 R133). -/
def BpRegs.slot (r : BpRegs) : Nat := r.base.toNat * 65536 + r.head.toNat % 2048 * 32

/-- `s.bphead` advances by one, modulo 2,048 (05 R134). -/
def Core.nextReport (c : Core) (ctx : Nat) : Core :=
  let r := c.bpRegs ctx
  c.setBp ctx { r with head := (r.head + 1) &&& 0x7FF }

/-- Elements of an NQ page that a thread's store clamped are counted in `s.bndcnt` (10 R227). A broken-promise report changes no register of the
thread but the time register, and counts nothing (05 R131). -/
def Thread.clamped (t : Thread) (n : Nat) : Thread := { t with bndcnt := BitVec.ofNat 32 (min (t.bndcnt.toNat + n) 0xFFFFFFFF) }

/-- The words of a number of 32-bit words, the first one lowest. -/
def ofWords : List Nat → Nat
  | [] => 0
  | w :: r => w % 2 ^ 32 + 2 ^ 32 * ofWords r

/-- Writes a report of a thread's load to the next slot of the context's area, or loses it (05 R133, R134): behind a window the VALID bit is
asked for first (19 R344; DEDUCED, log 79). -/
def State.writeReport (s : State) (core slot lid block load ctx : Nat) (words : List Nat) : State :=
  let va := ((s.core core).bpRegs ctx).slot
  match s.xlate (s.core core).tlb ctx (BitVec.ofNat 64 va) 32 .write .ls with
  | .error _ => (s.sawWalk ctx (BitVec.ofNat 64 va)).modCore core (·.loseReport ctx)
  | .ok e =>
    let target := e.target va
    let s := s.fillTlb core (some e)
    match target with
    | .fabric w off =>
      s.sendFabric ctx (.report core slot lid block load words) (BitVec.ofNat 64 (va + 0x1C)) w (off + 0x1C) 4 .read
    | _ =>
      let s := s.flushCtx core ctx (target.touched 32)
      let s := (linesOf (target.touched 32)).foldl State.pull s
      match s.slotRead ctx target 0x1C 4 with
      | .error _ => s.modCore core (·.loseReport ctx)
      | .ok v =>
        if v / 2 ^ 31 % 2 = 1 then s.modCore core (·.loseReport ctx)
        else
          match s.slotWrite ctx target 0 32 (ofWords words) true with
          | .error _ => s.modCore core (·.loseReport ctx)
          | .ok (s, _) => s.modCore core (·.nextReport ctx)

/-- The report of a load (05 R133). `final` is FINAL. -/
def reportWords (core : Nat) (t : Thread) (l : Load) (actual : BitVec 29) (cause final : Nat) : List Nat :=
  let treg := match l.treg with
    | some n => n.toNat
    | none => 0
  [l.va.toNat % 2 ^ 32, l.va.toNat / 2 ^ 32, l.pc.toNat % 2 ^ 32, l.pc.toNat / 2 ^ 32, (l.promised.getD 0).toNat, actual.toNat, t.block,
    2 ^ 31 + cause * 2 ^ 27 + treg * 2 ^ 24 + core * 2 ^ 16 + final * 2 ^ 13 + (if l.treg.isNone then 2 ^ 11 else 0) + t.tid]

/-- Writes a broken-promise report, if a report area is set and its slot is free (05 R133, R134). -/
def State.report (s : State) (core : Nat) (l : Load) (actual : BitVec 29) (cause final : Nat) : State :=
  match s.thread? core l.slot with
  | none => s
  | some t =>
    if ((s.core core).bpRegs (s.ctxOf t)).base = 0 then s
    else s.writeReport core l.slot t.lid t.block l.id (s.ctxOf t) (reportWords core t l actual cause final)

/-- The time register of a load: visible or hidden (05 R116). -/
def State.loadTreg (s : State) (core : Nat) (l : Load) : Word :=
  match l.treg with
  | some n => ((s.thread? core l.slot).map (·.treg n)).getD 0
  | none => l.hidden

/-- Sets it. -/
def State.setLoadTreg (s : State) (core : Nat) (l : Load) (w : Word) : State :=
  match l.treg with
  | some n => s.modThread core l.slot (·.setTreg n w)
  | none => s.modCore core (fun c => { c with loads := c.loads.map (fun x => if x.id = l.id then { x with hidden := w } else x) })

/-- A pin of a load on an L2 line ends when the line has been read for it (05 R119). -/
def State.unpin (s : State) (core id : Nat) : State :=
  { s with l2 := s.l2.map (fun l => { l with pins := l.pins.filter (fun p => p != { core := core, load := id }) }) }

/-- A load is over: nothing of it is left at its core or its slice. -/
def State.dropLoad (s : State) (core id : Nat) : State :=
  (s.unpin core id).modCore core (fun c => { c with loads := c.loads.filter (fun l => l.id != id) })

/-- Abandons the pending loads of a thread (05 R138, R139, 20 R387): their data is discarded, their registers become IDLE; a
BROKEN one is reported with FINAL 100, unless its report is being written already. `save`: a save inside a region also counts and reports
PROMISED ones with cause 9. -/
def State.abandon (s : State) (core slot : Nat) (save : Bool) : State :=
  ((s.core core).loads.filter (fun l => l.slot == slot)).foldl (fun s l =>
    let w := s.loadTreg core l
    let now := s.now29 core
    let s :=
      if l.ending.isSome then s
      else if tstate w = 4 then s.report core l now (if save then min (l.cause.getD 9) 9 else l.cause.getD 0) 4
      else if save ∧ tstate w = 2 then
        let ctx := ((s.thread? core slot).map s.ctxOf).getD 0
        (s.modCore core (·.countBroken ctx)).report core l now 9 4
      else s
    let s := match l.treg with
      | some n => s.modThread core slot (·.setTreg n 0)
      | none => s
    s.dropLoad core l.id) s

/-- Fails a launch (02 R46): the first cause and block stand; LAUNCH_FAILURE stops it. -/
def State.failLaunch (s : State) (lid code block : Nat) : State :=
  s.modLaunch lid (fun l => if l.ended.isNone then { l with ended := some (3, code, block) } else l)

/-- `s.fstat` of a fault (10 R235). -/
def FaultInfo.fstat (f : FaultInfo) : Word :=
  BitVec.ofNat 32 (2 ^ 31 + f.kind.code * 2 ^ 24 + f.path.code * 2 ^ 21 + (if f.write then 2 ^ 20 else 0) + f.level * 2 ^ 18)

/-- What a trap writes into a thread (10 R244): cause, exception PC, mode and the handler's address. -/
def Thread.enter (t : Thread) (cause : Nat) (epc traph : DWord) : Thread :=
  { t with trapc := BitVec.ofNat 32 cause, epc := epc, mode := .handler, pc := traph, park := none }

/-- TakeTrap (10 R244). In handler mode, or without a handler, the launch fails (02 R46). -/
def State.takeTrap (s : State) (core slot cause : Nat) (epc : DWord) : State :=
  match s.thread? core slot with
  | none => s
  | some t =>
    let r := s.rcd t.lid
    if t.mode = .handler ∨ r.traph = 0 then s.failLaunch t.lid cause t.block
    else s.modThread core slot (·.enter cause epc r.traph)

/-- Return from a trap (10 R246): the PC and USER mode; the suspended region goes on. -/
def Thread.leave (t : Thread) : Thread := { t with pc := t.epc, mode := .user, park := none }

/-- The fault registers describe a fault of the thread (10 R235). -/
def Thread.seeFault (t : Thread) (f : FaultInfo) : Thread := { t with fstat := f.fstat, faddr := f.va }

/-- A trap with the fault registers of its fault (10 R235, R244). -/
def State.takeFault (s : State) (core slot cause : Nat) (epc : DWord) (f : Option FaultInfo) : State :=
  let s := match f with
    | some f => s.modThread core slot (·.seeFault f)
    | none => s
  s.takeTrap core slot cause epc

/-- The fault record of a thread's fault. -/
def State.recOf (s : State) (core : Nat) (t : Thread) (f : FaultInfo) (pc : DWord) : FaultRec where
  addr := f.addr
  pc := pc
  block := t.block
  kind := f.kind
  core := core
  path := f.path
  write := f.write
  eng := false
  tid := t.tid
  ctx := s.ctxOf t

/-- Whether a walk for an access would raise none of kinds 1 to 3 (10 R239). -/
def State.pageOk (s : State) (ctx : Nat) (va : DWord) (write : Bool) : Bool :=
  match s.walk ctx (va.extractLsb' 0 56).toNat with
  | .ok (leaf, _) => !leafMigrating leaf (if write then .write else .read)
  | .error (k, _) => !k.repairable

/-- The page of a pointer: VA[55:16]. -/
def pageOf (p : DWord) : Nat := (p.extractLsb' 16 40).toNat

/-- Whether a thread of a core is parked on a page of a context. -/
def State.parkedOn (s : State) (t : Thread) (ctx page : Nat) : Bool :=
  match t.park with
  | some (.page va _ _ _ _ _) => s.ctxOf t == ctx && pageOf va == page
  | _ => false

/-- Whether a task is suspended on a page of a context. -/
def State.suspendedOn (s : State) (t : Task) (ctx page : Nat) : Bool :=
  t.state == .faulted page && (s.rcd t.lid).ctx == ctx

/-- Whether anything still waits on a recorded page (10 R240). -/
def State.pageHeld (s : State) (ctx page die : Nat) : Bool :=
  s.cores.any (fun e => dieOf e.1 == die
    && (e.2.threads.any (fun t => s.parkedOn t.2 ctx page) || e.2.tasks.any (fun t => s.suspendedOn t ctx page)
      || e.2.blocks.any (fun b => b.paramPage == some page && (s.rcd b.lid).ctx == ctx)))

/-- A recorded fault is resolved when the last thread or task has left it (10 R240). -/
def State.leavePage (s : State) (ctx page die : Nat) : State :=
  if s.pageHeld ctx page die then s
  else { s with unresolved := s.unresolved.filter (fun k => k != (ctx, page, die)) }

/-- The record of a repairable fault that traps precisely (10 R236, R240): nobody parks on it (DEDUCED, log 50). -/
def State.recordPrecise (s : State) (core : Nat) (t : Thread) (f : Option FaultInfo) : State :=
  match f with
  | none => s
  | some f =>
    if f.kind.repairable then (s.recordPage (s.recOf core t f t.pc)).leavePage (s.ctxOf t) (pageOf f.va) (dieOf core) else s

/-- A region abort (10 R239): granules and pending loads go, the thread parks on the page, and restarts at once if a walk
translates it now. Hidden faulted loads are forgotten; a FAULT register stays live. -/
def State.abortRegion (s : State) (core slot : Nat) (f : FaultInfo) : State :=
  let s := s.abandon core slot false
  match s.thread? core slot with
  | none => s
  | some t =>
    let start := (t.region.map (·.start)).getD t.pc
    let s := s.sawWalk (s.ctxOf t) f.va
    let ok := s.pageOk (s.ctxOf t) f.va f.write
    let s := s.modThread core slot (fun t => { t with
      region := some { start := start, stores := [] }
      taints := t.taints.filter (fun x => !x.kind.repairable || x.treg.isSome)
      pc := start
      park := if ok then none else some (.page f.va f.write f.path start f.kind f.level) })
    if ok then s.leavePage (s.ctxOf t) (pageOf f.va) (dieOf core) else s

/-- The scratchpad offset base of a thread's block. -/
def State.spbase (s : State) (core : Nat) (t : Thread) : Nat := (((s.core core).block? t.lid t.block).map (·.spbase)).getD 0

/-- The latest checkpoint of a block (10 R251). -/
def Core.checkpoint? (c : Core) (lid index : Nat) : Option Saved :=
  c.checkpoints.find? (fun v => v.blocks.any (fun b => b.1.lid == lid && b.1.index == index))

/-- Whether two copies hold one crew: crews are told apart by the stamp of their creation (12 R275). -/
def Saved.shares (a b : Saved) : Bool := a.crews.any (fun x => b.crews.any (fun y => x.2.created == y.2.created))

/-- The blocks of a launch on a core that wait for their rollback, with their checkpoints (10 R252). -/
def Core.rolls (c : Core) (lid : Nat) : List (Block × Saved) :=
  (c.blocks.filter (fun b => b.lid == lid && b.rolling)).filterMap (fun b => (c.checkpoint? lid b.index).map (fun v => (b, v)))

/-- n rounds of adding the rolling blocks whose checkpoints hold a crew of a listed one's. -/
def rollFrom (all picked : List (Block × Saved)) : Nat → List (Block × Saved)
  | 0 => picked
  | n + 1 => rollFrom all (all.filter (fun e => picked.any (fun p => p.1.index == e.1.index || p.2.shares e.2))) n

/-- The blocks that a block rolls back with: those that roll back and whose checkpoints share a crew with its own, directly or through a chain
(12 R272, R275). -/
def Core.rollSet (c : Core) (lid index : Nat) : List (Block × Saved) :=
  let all := c.rolls lid
  rollFrom all (all.filter (fun e => e.1.index == index)) all.length

/-- A checkpoint as a rollback of its block restores it: no stores are held and none of its tasks is left (10 R252). -/
def Saved.restored (sv : Saved) (b : Block) : Saved := { sv with
  blocks := sv.blocks.map (fun e => ({ e.1 with
    spbase := b.spbase, cls := b.cls, consumed := true, deferred := [], rolling := false
    slots := b.slots, acc := b.acc, issued := b.issued, bounds := b.bounds, used := b.used }, e.2))
  threads := sv.threads.map (fun e => (e.1, { e.2 with tregs := e.2.tregs.map (fun w => if tpending w then 0 else w) }))
  tasks := [] }

/-- Whether crews and register blocks of some checkpoints find room on a core (DESIGN CHOICE, log 95). -/
def State.rollRoom (s : State) (c : Core) (svs : List Saved) : Bool :=
  let new := ((svs.flatMap (·.crews)).filter (fun e => (c.sameCrew e.2).isNone)).foldl (fun l (e : Nat × Crew) =>
    if l.any (fun x : Crew => x.created == e.2.created) then l else l ++ [e.2]) []
  decide (new.length ≤ c.freeCrews.length) && decide (new.foldl (fun n x => n + x.entries) 0 ≤ s.freeBlocks c)

/-- Restores a block's checkpoint, with those of the blocks that it rolls back with (10 R252): waiting tasks, deferred stores, granules and pending
loads are discarded, and every thread resumes after its checkpoint instruction (DEDUCED, log 39); the LNCHs accepted since may be repeated. Where the core has no room for a crew of the
checkpoint, the rollback waits for it (DESIGN CHOICE, log 95). -/
def State.rollback (s : State) (core lid index : Nat) : State :=
  let bs := (s.core core).rollSet lid index
  let gone := { bs.foldl (fun c e => c.removeBlock lid e.1.index) (s.core core) with blocks := (s.core core).blocks }
  if bs.isEmpty ∨ !s.rollRoom gone (bs.map (·.2)) then s
  else
    let s := (bs.flatMap (fun e => (s.core core).slotsOf lid e.1.index)).foldl (fun s slot => s.abandon core slot false) s
    let s := s.modLaunch lid (fun l => { l with lnch := l.lnch.map (fun k => if bs.any (fun e => e.1.index == k.1) then (k.1, k.2.1, true) else k) })
    let s := s.modCore core (fun c => bs.foldl (fun c e => c.removeBlock lid e.1.index) c)
    bs.foldl (fun s e => s.install core [e.1.spbase] (e.2.restored e.1)) s

/-- A rollback that waits goes on once no dispatched task of its blocks is left (10 R252). -/
def State.settleRoll (s : State) (core lid index : Nat) : State :=
  let bs := (s.core core).rollSet lid index
  if (s.core core).tasks.any (fun t => t.lid == lid && t.state != .waiting && bs.any (fun e => e.1.index == t.block)) then s
  else s.rollback core lid index

/-- Rollbacks that wait for room try again. -/
def State.settleRolls (s : State) (core : Nat) : State :=
  if (s.core core).blocks.any (·.rolling) then
    ((s.core core).blocks.filter (·.rolling)).foldl (fun s b => s.settleRoll core b.lid b.index) s
  else s

/-- Starts the rollback of blocks: each waits for its dispatched tasks (10 R252). -/
def State.startRollback (s : State) (core lid : Nat) (blocks : List Nat) : State :=
  let s := blocks.foldl (fun s i => s.modCore core (·.modBlock lid i (fun b => { b with rolling := true }))) s
  blocks.foldl (fun s i => s.settleRoll core lid i) s

/-- A thread consumes an aborted value (10 R250) (DEDUCED, log 30). -/
def State.consume (s : State) (core slot : Nat) (k : FaultKind) : State :=
  match s.thread? core slot with
  | none => s
  | some t =>
    let b := (s.core core).block? t.lid t.block
    let saved := ((s.core core).checkpoint? t.lid t.block).isSome
    if k = .uncorrectable ∧ (s.rcd t.lid).rbk ∧ saved ∧ (b.map (·.consumed)) = some false then
      s.startRollback core t.lid [t.block]
    else
      let s := s.modThread core slot (fun t => if t.mode = .user then { t with region := none } else t)
      s.takeTrap core slot causeEccAbort t.pc

/-- A failed translation is the outcome of a walk, which has read the tables (08 R189, 09 R206); an entry with V = 0 is found in the TLB. -/
def State.sawFault (s : State) (ctx : Nat) (f : FaultInfo) : State := if f.kind = .revoked then s else s.sawWalk ctx f.va

/-- An error of kind 8, or the result of an aborted task, that a thread's instruction meets in a core store: the first is recorded, and the thread
consumes it at once (10 R249, R250). -/
def State.meetLost (s : State) (core slot : Nat) (t : Thread) (va : DWord) (write : Bool) (k : FaultKind) : State :=
  let f : FaultInfo := { kind := k, va := va, write := write, path := .ls, level := 0 }
  ((if k = .uncorrectable then s.record (s.recOf core t f t.pc) else s).modThread core slot (·.seeFault f)).consume core slot k

/-- What a stop of a thread's instruction does; its PC is still the instruction's (DEDUCED, log 22) (DEDUCED, log 49). A word met at a register
operand or a barrier object has no pointer: its place in the own core's window stands for one (DESIGN CHOICE, log 96). A handler that reads a
faulted register of the suspended region has no region to abort: it takes PAGE_FAULT, and so fails its launch (DESIGN CHOICE, log 97). -/
def State.stop (s : State) (core slot : Nat) (st : Stop) : State :=
  match s.thread? core slot with
  | none => s
  | some t =>
    match st with
    | .trap cause f =>
      let s := match f with
        | some f => s.sawFault (s.ctxOf t) f
        | none => s
      (s.recordPrecise core t f).takeFault core slot cause t.pc f
    | .park p => s.modThread core slot (fun t => { t with park := some p })
    | .taint x =>
      if x.kind.repairable then
        if t.openRegion.isSome then
          s.abortRegion core slot { kind := x.kind, va := x.va, write := x.write, path := x.path, level := x.level }
        else s.takeFault core slot causePageFault t.pc
          (some { kind := x.kind, va := x.va, write := x.write, path := x.path, level := x.level })
      else s.consume core slot x.kind
    | .ecc off k => s.meetLost core slot t (0x00FF000000000000 + BitVec.ofNat 64 off) false k
    | .eccAt va write k => s.meetLost core slot t va write k
    | .overflow va => (s.modThread core slot (fun t => { t with faddr := va })).takeTrap core slot causeRegionOverflow t.pc
    | .misaligned va => (s.modThread core slot (fun t => { t with faddr := va })).takeTrap core slot causeMisaligned t.pc
    | .abortRegion f => (((s.sawFault (s.ctxOf t) f).recordPage (s.recOf core t f t.pc)).modThread core slot (·.seeFault f)).abortRegion core slot f
    | .abort f => ((s.record (s.recOf core t f t.pc)).modThread core slot (·.seeFault f)).consume core slot f.kind

/-- The effect of one thread's instruction: a stop, or its writes after the PC has advanced. An instruction with a lookahead window has
written its result when it has issued: a read inside the window returns the new value (03 R71; DESIGN CHOICE, log 87). -/
def State.commit (s : State) (core len slot : Nat) (r : Except Stop (List Write)) : State :=
  match r with
  | .error st => s.stop core slot st
  | .ok ws => s.modCore core (fun c => ws.foldl (fun c w => c.apply slot w) (c.advance slot len))

/-- One thread's instruction in a sequence: a stop, or its effect on the state after the PC has advanced. -/
def State.finish (s : State) (core len slot : Nat) (r : Except Stop (State → State)) : State :=
  match r with
  | .error st => s.stop core slot st
  | .ok k => k (s.modCore core (·.advance slot len))

/-- What each thread of a group does, all reading the state at issue; a thread whose guard is false only advances (03 R70). -/
def State.plan (s : State) (core : Nat) (g : Guard) (f : Nat → Thread → Except Stop (List Write)) (slots : List Nat) :
    List (Nat × Except Stop (List Write)) :=
  slots.filterMap (fun slot =>
    (s.thread? core slot).map (fun t => (slot, if t.guard g then f slot t else .ok [])))

/-- Runs an instruction whose threads act at once (04 R100: committed from the highest lane down, so that a k register keeps
the lowest lane's value). A lane that stops writes nothing: where the lowest one stops, the next lane that goes on gives the value (DESIGN CHOICE,
log 98). -/
def State.runGroup (s : State) (len : Nat) (g : Guard) (f : State → Nat → Nat → Thread → Except Stop (List Write)) : State :=
  match s.cur with
  | none => s
  | some gr => (s.plan gr.core g (f s gr.core) gr.slots).foldr (fun e s => s.commit gr.core len e.1 e.2) s

/-- One thread of an instruction whose threads act one after another in ascending lane order. -/
def State.seqOne (core len : Nat) (g : Guard) (f : State → Nat → Nat → Thread → State) (s : State) (slot : Nat) : State :=
  match s.thread? core slot with
  | none => s
  | some t => if t.guard g then f s core slot t else s.modCore core (·.advance slot len)

/-- Runs such an instruction. -/
def State.runSeq (s : State) (len : Nat) (g : Guard) (f : State → Nat → Nat → Thread → State) : State :=
  match s.cur with
  | none => s
  | some gr => gr.slots.foldl (State.seqOne gr.core len g f) s

/-- The code a HOLD hint names (03 R72). -/
def heldCode (x : XOps) : BitVec 8 := if x.hold = 1 then x.a else if x.hold = 2 then x.b else x.c

/-- A lane keeps a thread's v register in its operand latch of three entries, the oldest making room; it counts from its instruction on (04
R98). -/
def Core.latching (c : Core) (slot : Nat) (code : BitVec 8) : Core :=
  let lane := fun e : Nat × BitVec 8 × Nat => e.1 % 64 == slot % 64
  let old := c.latch.filter (fun e => !(e.1 == slot && e.2.1 == code))
  { c with latch := (slot, code, 3) :: old.filter (fun e => !lane e || ((old.filter lane).take 2).contains e) }

/-- Whether a thread that parks so has executed its instruction up to a condition, and will go on behind it. -/
def Park.midway (p : Park) : Bool :=
  match p with
  | .tyield _ _ _ _ | .join _ _ | .bsync _ | .checkpoint _ _ | .bowait _ _ _ | .cross _ _ _ _ _ _ _ | .rgrp _ _ _ _ _ | .lnch _ _ _ => true
  | _ => false

/-- An entry of an instruction that has not taken effect goes; one that waits midway keeps it for the two instructions behind it (03 R72). -/
def Core.latched (c : Core) (slot : Nat) : Core :=
  if ((c.thread? slot).bind (fun t => t.park.map Park.midway)).getD false then c
  else { c with latch := c.latch.filter (fun e => !(e.1 == slot && e.2.2 == 3)) }

/-- Runs an instruction with its HOLD hint: each thread whose guard is true keeps the named v register in its lane's operand latch for its next
two instructions, unless the instruction writes it or does not take effect (03 R72, 04 R98). It changes timing only. Of a pair or quad source the
one register that the code names is kept (DESIGN CHOICE, log 99). -/
def State.holding (s : State) (x : XOps) (f : State → State) : State :=
  if x.hold = 0 ∨ ¬(heldCode x).toNat < 0xE0 then f s
  else match s.cur with
    | none => f s
    | some gr =>
      let slots := gr.slots.filter (fun o => ((s.thread? gr.core o).map (·.guard x.g)).getD false)
      slots.foldl (fun s o => s.modCore gr.core (·.latched o))
        (f (slots.foldl (fun s o => s.modCore gr.core (·.latching o (heldCode x))) s))

/-- The outcome of a meaning: the device always goes on. -/
abbrev Next := Host.Outcome State Fault Refusal

/-- A next state. -/
def done (s : State) : Next := .next s

end Sys2Proof.Machine
end

