-- ==== Sys2Proof/Machine/Faults.lean ====
section
/-! DEFINITION. Barrier objects as engines and threads update them (08 R192, R194), the end of an engine task, the start of a
block (02 R475), and the fault unit (10 R239 to R242). -/

namespace Sys2Proof.Machine

/-- PEND of an object's word 1, as a number (08 R192). -/
def objPend (w1 : Word) : Int := (w1.extractLsb' 0 28).toInt

/-- PH of an object's word 1. -/
def objPh (w1 : Word) : Bool := w1.getLsbD 31

/-- The check of an object before BOARV, BOTX and BOWAIT (08 R193). -/
def Core.objOk (c : Core) (off : Nat) : Bool :=
  let w1 := c.store.get32 (off + 4)
  !w1.getLsbD 30 && w1.extractLsb' 28 2 == 0 && c.store.get32 (off + 8) == 0 && c.store.get32 (off + 12) == 0

/-- Releases the threads parked in BOWAIT on an object with a parity (08 R192). -/
def Core.releaseBowait (c : Core) (off : Nat) (parity : Bool) : Core :=
  c.threads.foldl (fun c e =>
    match e.2.park with
    | some (.bowait o p len) => if o = off ∧ p = parity then c.advance e.1 len else c
    | _ => c) c

/-- Completes the phase of an object when ARR = EXP and PEND = 0 (08 R192). -/
def Core.checkComplete (c : Core) (off : Nat) : Core :=
  let w0 := c.store.get32 off
  let w1 := c.store.get32 (off + 4)
  if w0.extractLsb' 16 16 = w0.extractLsb' 0 16 ∧ w1.extractLsb' 0 28 = 0 then
    let store := (c.store.put32 off (0#16 ++ w0.extractLsb' 0 16)).put32 (off + 4) (w1 ^^^ 0x80000000)
    ({ c with store := store }).releaseBowait off (objPh w1)
  else c

/-- Sets PEND. -/
def Core.setPend (c : Core) (off : Nat) (v : Int) : Core :=
  { c with store := c.store.put32 (off + 4) ((c.store.get32 (off + 4)).extractLsb' 28 4 ++ BitVec.ofInt 28 v) }

/-- Sets ERR (08 R194). -/
def Core.setErr (c : Core) (off : Nat) : Core := { c with store := c.store.put32 (off + 4) (c.store.get32 (off + 4) ||| 0x40000000) }

/-- One arrival of an engine at an object (08 R194). -/
def Core.engineArrive (c : Core) (off : Nat) : Core :=
  let w0 := c.store.get32 off
  if (w0.extractLsb' 0 16).toNat < (w0.extractLsb' 16 16).toNat + 1 then c.setErr off
  else ({ c with store := c.store.put32 off ((w0.extractLsb' 16 16 + 1) ++ w0.extractLsb' 0 16) }).checkComplete off

/-- One landed byte counted into PEND of an object (08 R194). -/
def Core.engineByte (c : Core) (off : Nat) : Core :=
  let v := objPend (c.store.get32 (off + 4)) - 1
  if v < -(2 ^ 27 : Nat) then c.setErr off else (c.setPend off v).checkComplete off

/-- Landed bytes counted into PEND of an object, one after another (08 R194). -/
def Core.engineBytes (c : Core) (off : Nat) : Nat → Core
  | 0 => c
  | n + 1 => Core.engineBytes (c.engineByte off) off n

/-- Drops a task from the table (15 R307). -/
def Core.dropTask (c : Core) (id : Nat) : Core := { c with tasks := c.tasks.filter (fun t => t.id != id) }

/-- Ends a task: its signal barrier receives one arrival, or ERR (15 R307, 10 R242). -/
def State.endTask (s : State) (core : Nat) (t : Task) (err : Bool) : State :=
  (s.modCore core (fun c =>
    let c := c.dropTask t.id
    match t.signal, c.block? t.lid t.block with
    | some o, some b => if err then c.setErr (b.spbase + o) else c.engineArrive (b.spbase + o)
    | _, _ => c)).settleRoll core t.lid t.block

/-- The pages that threads, tasks and a waiting start of a launch's block hold on a core. -/
def State.heldPages (s : State) (core lid block : Nat) : List Nat :=
  let c := s.core core
  (c.threads.filterMap (fun e =>
    if e.2.lid = lid ∧ e.2.block = block then
      match e.2.park with
      | some (.page va _ _ _ _ _) => some (pageOf va)
      | _ => none
    else none))
  ++ c.tasks.filterMap (fun t =>
    if t.lid = lid ∧ t.block = block then
      match t.state with
      | .faulted p => some p
      | _ => none
    else none)
  ++ c.blocks.filterMap (fun b => if b.lid = lid ∧ b.index = block then b.paramPage else none)

/-- Takes a block off a core and leaves the pages it waited on. -/
def State.evict (s : State) (core lid block : Nat) : State :=
  let pages := s.heldPages core lid block
  let ctx := (s.rcd lid).ctx
  let gone := (s.core core).slotsOf lid block
  let s := (((s.core core).loads.filter (fun l => gone.contains l.slot)).map (·.id)).foldl (fun s id => s.dropLoad core id) s
  let s := s.modCore core (·.removeBlock lid block)
  pages.foldl (fun s p => s.leavePage ctx p (dieOf core)) s

/-- Sets the first 16 k registers of every crew of a block from a number of 64 bytes (02 R27). -/
def Core.setParams (c : Core) (lid index v : Nat) : Core :=
  (c.crewsOf lid index).foldl (fun c i =>
    c.modCrew i (fun x => { x with k := Vector.ofFn (fun n : Fin 16 => BitVec.ofNat 32 (v / 2 ^ (32 * n.val))) })) c

/-- What a read of a parameter block finds: its value, a fault, or a piece asked for through a window, by its request. -/
inductive ParamRead where
  | ok (s : State) (v : Nat)
  | fault (s : State) (f : FaultInfo)
  | wait (s : State) (req : Nat)

/-- Reads n times 8 bytes of a parameter block, on the KR path with RID 0 (02 R475). The 64 bytes are 8-byte aligned and may lie on two
pages. A page of FMT 1 to 3 gives PERMISSION, as it gives LDK (DESIGN CHOICE, log 82); one behind a window is read through it (19 R344). -/
def State.readParams (s : State) (core ctx : Nat) (pc : DWord) (va : Nat) : Nat → ParamRead
  | 0 => .ok s 0
  | n + 1 =>
    let ptr := BitVec.ofNat 64 va
    let after := fun (s : State) (v : Nat) => match State.readParams s core ctx pc (va + 8) n with
      | .ok s r => .ok s (v + 2 ^ 64 * r)
      | x => x
    match s.resolve core 0 ctx (s.core core).tlb false .other ptr 8 .read .kr with
    | .error f => .fault (s.sawFault ctx f) f
    | .ok (.mem pa leaf, e) =>
      (match (s.fillTlb core e).readKr core ctx leaf pa 8 0 [] with
      | (s, .error k) => .fault s { kind := k, va := ptr, write := false, path := .kr, level := 0, pa := pa }
      | (s, .ok (v, _)) => after s v)
    | .ok (.fabric w off, e) =>
      let s := s.fillTlb core e
      (match tget (s.core core).constant (fabricKey ctx va) with
      | some d => after s (lineBytes d (va % 64) 8)
      | none => .wait (s.sendFabric ctx (.line core true (fabricKey ctx va) pc) ptr w (off / 64 * 64) 64 .read) s.seq)
    | .ok (_, e) => .fault s { kind := .permission, va := ptr, write := false, path := .kr, level := foundLevel e }

/-- The fault record of a parameter-block read (02 R475). -/
def State.paramRec (s : State) (core : Nat) (r : LaunchRec) (block : Nat) (f : FaultInfo) : FaultRec where
  addr := f.addr
  pc := r.entry
  block := block
  kind := f.kind
  core := core
  path := .kr
  write := false
  eng := false
  tid := 0
  ctx := (s.rcd r.lid).ctx

/-- A parameter-block read of a placed block that fails (02 R475). -/
def State.paramFault (s : State) (core lid index : Nat) (f : FaultInfo) : State :=
  let r := s.rcd lid
  let s := s.modCore core (·.modBlock lid index (fun b => { b with paramFill := none }))
  if f.kind.repairable then
    (s.recordPage (s.paramRec core r index f)).modCore core (·.modBlock lid index (fun b => { b with paramPage := some (pageOf f.va) }))
  else if f.kind.aborts then (s.record (s.paramRec core r index f)).failLaunch lid causeEccAbort index
  else s.failLaunch lid f.kind.cause index

/-- Makes the parameter-block read of a placed block (02 R475). -/
def State.startBlock (s : State) (core lid index : Nat) : State :=
  let r := s.rcd lid
  match s.readParams core r.ctx r.entry (r.param.extractLsb' 0 56).toNat 8 with
  | .ok s v =>
    s.modCore core (fun c => (c.setParams lid index v).modBlock lid index (fun b => { b with
      started := true, paramPage := none, paramFill := none }))
  | .wait s req => s.modCore core (·.modBlock lid index (fun b => { b with paramPage := none, paramFill := some req }))
  | .fault s f => s.paramFault core lid index f

/-- A thread parked on a page restarts at its region start (10 R239). -/
def Thread.restart (t : Thread) : Thread := { t with park := none }

/-- RESOLVE or FAIL on one core (10 R241, R242): parked threads, suspended tasks, blocks that wait for their parameter block. -/
def State.resolveOn (s : State) (core ctx page : Nat) (fail : Bool) : State :=
  let c := s.core core
  let s := (c.threads.filter (fun e => s.parkedOn e.2 ctx page)).foldl (fun s e =>
    match e.2.park with
    | some (.page va w p start k l) =>
      if fail then
        s.takeFault core e.1 causePageFault start (some { kind := k, va := va, write := w, path := p, level := l })
      else s.modThread core e.1 Thread.restart
    | _ => s) s
  let s := (c.tasks.filter (fun t => s.suspendedOn t ctx page)).foldl (fun s t =>
    if fail then s.endTask core t true
    else s.modCore core (fun c => { c with tasks := c.tasks.map (fun x => if x.id = t.id then { x with state := .resumed } else x) })) s
  (c.blocks.filter (fun b => b.paramPage == some page && (s.rcd b.lid).ctx == ctx)).foldl (fun s b =>
    if fail then (s.modCore core (·.modBlock b.lid b.index (fun b => { b with paramPage := none }))).failLaunch b.lid causePageFault b.index
    else s.startBlock core b.lid b.index) s

/-- A FURES write with OP 00 or 01 (10 R241). -/
def State.fures (s : State) (die ctx page : Nat) (fail : Bool) : State :=
  let s := { s with unresolved := s.unresolved.filter (fun k => k != (ctx, page, die)) }
  (s.cores.filter (fun e => dieOf e.1 == die)).foldl (fun s e => s.resolveOn e.1 ctx page fail) s

end Sys2Proof.Machine
end

