-- ==== Sys2Proof/Machine/Slots.lean ====
section
/-! DEFINITION. Return slots on the rings, crossings and links that a promise's route takes (05 R119, 09 R214 to R218). Which of the slots that a
stop owns is booked, and which of several ways is taken, is timing and a free value (DESIGN CHOICE, log 37). -/

namespace Sys2Proof.Machine
open Sys2Proof

/-- A piece of a route: a die, the offset of the slot table that governs it, and the stop or end that sends (09 R216). -/
structure Hop where
  die : Nat
  table : Nat
  stop : Nat
  deriving DecidableEq, Repr

/-- A hop on a pair 1 ring, which carries data and promises: a quadrant and a direction (09 R214, R216). -/
def ringHop (quad dir stop : Nat) : Hop := { die := quad / 4, table := 0x40000 + (quad % 4 * 4 + 2 + dir) * 0x100, stop := stop }

/-- The direction with fewer hops between two stops, clockwise on a tie (09 R214). -/
def ringDir (a b : Nat) : Nat := if (b + 34 - a) % 34 ≤ (a + 34 - b) % 34 then 0 else 1

/-- The stop of station i on a quadrant's rings, 32 or 33: which of the two is which is the device's (09 R214; DESIGN CHOICE, log 37). -/
def stationStop (quad i : Nat) : Nat := if (i == quad % 4) == Config.stationFirst quad then 32 else 33

/-- The way on a quadrant's pair 1 rings from a stop to another: the direction with fewer hops (09 R214). -/
def ringTo (quad a b : Nat) : List Hop := if a = b then [] else [ringHop quad (ringDir a b) a]

/-- The stations of a die that a route passes from quadrant-in-die a to b, each with the quadrant it leaves: the shorter way round, by a bit on a
tie (09 R215). -/
def stationsFrom (a b : Nat) (bit : Bool) : List (Nat × Nat) :=
  match (b + 4 - a) % 4 with
  | 0 => []
  | 1 => [(a, a)]
  | 2 => if bit then [(a, a), ((a + 1) % 4, (a + 1) % 4)] else [((a + 3) % 4, a), ((a + 2) % 4, (a + 3) % 4)]
  | _ => [((a + 3) % 4, a)]

/-- The rings and crossings within a die from a stop of a quadrant over some stations to a stop of the last quadrant (09 R214, R215). -/
def dieHops (die quad at_ goal : Nat) : List (Nat × Nat) → List Hop
  | [] => ringTo (die * 4 + quad) at_ goal
  | (i, _) :: r =>
    let next := if quad = i then (i + 1) % 4 else i
    ringTo (die * 4 + quad) at_ (stationStop (die * 4 + quad) i)
      ++ ({ die, table := 0x41000 + i * 0x100, stop := if quad = i then 0 else 1 } : Hop)
      :: dieHops die next (stationStop (die * 4 + next) i) goal r

/-- The dies that a route between two dies passes, the lower-numbered intermediate one where it takes two links (09 R215). -/
def diesFrom (a b : Nat) : List Nat :=
  if a = b then [] else if a ^^^ b = 3 then [min (a ^^^ 1) (a ^^^ 2), b] else [b]

/-- The hops from a stop of a quadrant of a die through the dies listed to a stop of a quadrant of the last. Two stations carry links to the next
die, and each stands on the rings of two quadrants: the bits choose (DESIGN CHOICE, log 37). -/
def linkHops (die quad at_ goalQuad goal bits : Nat) : List Nat → List Hop
  | [] => dieHops die quad at_ goal (stationsFrom quad goalQuad (bits.testBit 0))
  | d :: r =>
    let i := (if die ^^^ d = 1 then 0 else 1) + 2 * (bits / 2 % 2)
    let out := (i + bits / 4 % 2) % 4
    let into := (i + bits / 8 % 2) % 4
    dieHops die quad at_ (stationStop (die * 4 + out) i) (stationsFrom quad out (bits.testBit 0))
      ++ ({ die, table := 0x41800 + i * 0x100, stop := if die < d then 0 else 1 } : Hop)
      :: linkHops d into (stationStop (d * 4 + into) i) goalQuad goal (bits / 16) r

/-- The route of a reply from a stop of a quadrant to a core (09 R214, R215). -/
def routeOf (quad stop core bits : Nat) : List Hop :=
  linkHops (quad / 4) (quad % 4) stop (core / 16 % 4) (core % 16 * 2) bits (diesFrom (quad / 4) (dieOf core))

/-- The entry in force of a slot table (09 R217). -/
def State.activeSlot (s : State) (h : Hop) (i : Nat) : Word :=
  let d := (tget s.slotActive (cwKey h.die (h.table + i / 2 * 8))).getD (cwReset (h.table + i / 2 * 8))
  d.extractLsb' (i % 2 * 32) 32

/-- The slots of a hop that its stop owns (09 R216). -/
def State.ownedSlots (s : State) (h : Hop) : List Nat :=
  (List.range 64).filter (fun i => (s.activeSlot h i).getLsbD 15 && (s.activeSlot h i).toNat % 64 == h.stop)

/-- Books one slot on each hop of a route: the table by the key of its first entries, and the slot (05 R119). -/
def State.bookHops (s : State) : List Hop → State × List (Nat × Nat)
  | [] => (s, [])
  | h :: r =>
    let own := s.ownedSlots h
    let (k, s) := s.draw
    let x := State.bookHops s r
    (x.1, (cwKey h.die h.table, own.getD ((Config.freeWord k).toNat % own.length) 0) :: x.2)

/-- Books a return slot on every hop from a stop of a quadrant to a core; none where a hop's stop owns no slot (05 R119, 09 R215). -/
def State.bookReturn (s : State) (quad stop core : Nat) : State × Option (List (Nat × Nat)) :=
  let (k, s) := s.draw
  let hops := routeOf quad stop core (Config.freeWord k).toNat
  if hops.any (fun h => (s.ownedSlots h).isEmpty) then (s, none)
  else
    let x := s.bookHops hops
    (x.1, some x.2)

end Sys2Proof.Machine
end

