-- ==== Sys2Proof/Machine/Loads.lean ====
section
/-! DEFINITION. The stages of a promised load (05 R116 to R139): promise, break, arrival, abort, and the clocks that govern
them. -/

namespace Sys2Proof.Machine

/-- The register that a load fills gets its word: loads before it write it no more, the taint of an earlier one is gone (21 R417). -/
def Core.arriveReg (c : Core) (l : Load) (code : BitVec 8) (w : Word) : Core :=
  let c := { c with loads := c.loads.map (fun (x : Load) =>
    if x.id ≤ l.id ∧ x.writes l.slot code then { x with dests := x.dests.filter (·.1 != code) } else x) }
  let c := (c.modSeeing l.slot code (fun t => { t with
    taints := t.taints.map (fun x => if x.order < l.id then { x with regs := x.regs.filter (· != code) } else x) })).dropHeld l.slot code
  if code.toNat < 0xE0 then c.putV l.slot code.toNat w else c.writeK (l.slot / 64) (code.setWidth 4) w

/-- Writes a load's data into its registers. -/
def Core.deliver (c : Core) (l : Load) (d : BitVec 128) : Core :=
  l.dests.foldl (fun c e => c.arriveReg l e.1 (d.extractLsb' (32 * e.2) 32)) c

/-- Whether two loads are served by one request, and so share its booking (05 R116, 09 R205). -/
def Load.shares (a b : Load) : Bool := a.id == b.id || (a.req.isSome && a.req == b.req)

/-- Whether a load's request is pinned at a slice (05 R119). -/
def State.pinned (s : State) (core id : Nat) : Bool := s.l2.any (fun l => l.pins.contains { core := core, load := id })

/-- Whether a line's request has to wait at its slice: the line is absent and every way of its set is pinned (09 R203). -/
def State.sliceFull (s : State) (pa : Nat) : Bool :=
  match s.locate pa with
  | .error _ => false
  | .ok loc =>
    let ways := s.l2.filter (fun l => l.slice == loc.slice && l2Set l.addr == l2Set (pa / 128))
    !ways.any (·.addr == pa / 128) && decide (16 ≤ ways.length) && (l2Victim (s.l2Quota (loc.slice / 64)) ways).isNone

/-- Whether a load waits at a slice that has no way for its line (09 R203). -/
def State.waitsAtSlice (s : State) (l : Load) : Bool :=
  match l.req with
  | some (_, pa, _) => l.source == 3 && s.sliceFull pa
  | none => false

/-- The booking that a load's estimate follows: the one that an event brings, or the one it had (05 R128). -/
def Load.booking (l : Load) (e : Option (BitVec 29)) : Option (BitVec 29) :=
  match e with
  | some c => some c
  | none => l.booked

/-- The estimate of a broken promise: the given one where it has not gone by, else the previous cycle + 256 (05 R128). -/
def estimate (now prev : BitVec 29) (e : Option (BitVec 29)) : BitVec 29 :=
  match e with
  | some c => if later now c then prev + 256 else c
  | none => prev + 256

/-- Whether a load's page has moved, or left its resident state, since its issue (05 R129): its promise breaks with cause MIGRATE. -/
def State.migrated (s : State) (core : Nat) (l : Load) : Bool :=
  (l.source == 1 || l.source == 3) && l.leaf != 0 &&
    (match s.thread? core l.slot with
      | none => false
      | some t => match s.walk (s.ctxOf t) (l.va.extractLsb' 0 56).toNat with
        | .error _ => true
        | .ok (leaf, _) => leafFrame leaf != leafFrame l.leaf || (leafMig l.leaf == 0 && leafMig leaf != 0))

/-- The promised cycle ended without data (05 R128, R132). Nothing changes while the island's clock stands (05 R136). -/
def State.breakPromise (s : State) (core id : Nat) (e : Option (BitVec 29)) : State :=
  match (s.core core).load? id with
  | none => s
  | some l =>
    let w := s.loadTreg core l
    let now := s.now29 core
    if tstate w = 2 ∧ later now (tcycle w) ∧ (s.island (core / 2)).running then
      let ctx := ((s.thread? core l.slot).map s.ctxOf).getD 0
      let cause := min (l.cause.getD 10) (if s.migrated core l then 6 else 10)
      ((s.count (.broken (dieOf core) cause 1)).modCore core
        (fun c => (c.modLoad id (fun l => { l with cause := some cause })).countBroken ctx)).setLoadTreg core l
        (mkTreg .broken (estimate now (tcycle w) (l.booking e)))
    else s

/-- Whether the report of a load is still being written behind a window (05 R134, 19 R344). -/
def State.reporting (s : State) (core id : Nat) : Bool :=
  s.fabric.any (fun f => match f.for_ with
    | .report c _ _ _ l _ => c == core && l == id
    | _ => false)

/-- The path of a load. -/
def LoadKind.path (k : LoadKind) : Path := if k = .ldk then .kr else .ls

/-- The data registers of a load that faulted or aborted are tainted (10 R238, R250). -/
def Load.taint (l : Load) (k : FaultKind) (level : Nat) : Taint :=
  { order := l.id, regs := l.dests.map (·.1), treg := l.treg, va := l.va, kind := k, write := l.kind == .atom, path := l.kind.path, level := level }

/-- The final state of a load's register, its data registers filled or tainted: the load is over (05 R125). -/
def State.closeLoad (s : State) (core : Nat) (l : Load) (now : BitVec 29) (late : Bool) (e : Ending) : State :=
  let s := match e with
    | .data d => (s.modCore core (·.deliver l d)).setLoadTreg core l (mkTreg (if late then .late else .arrived) now)
    | .fault k level => (s.setLoadTreg core l (mkTreg .fault now)).modThread core l.slot (fun t => { t with taints := l.taint k level :: t.taints })
    | .abort k level => (s.setLoadTreg core l (mkTreg .abort now)).modThread core l.slot (fun t => { t with taints := l.taint k level :: t.taints })
  s.dropLoad core l.id

/-- FINAL of a broken promise's report (05 R133). -/
def Ending.final : Ending → Nat
  | .data _ => 5
  | .fault _ _ => 6
  | .abort _ _ => 7

/-- A load ends: from BROKEN its report is written first, and the final state stands once it has been performed (05 R132, R135). -/
def State.endLoad (s : State) (core : Nat) (l : Load) (e : Ending) : State :=
  let now := s.now29 core
  let late := tstate (s.loadTreg core l) == 4
  let s := if late then s.report core l now (l.cause.getD 0) e.final else s
  if s.reporting core l.id then s.modCore core (·.modLoad l.id (fun l => { l with ending := some (now, e) }))
  else s.closeLoad core l now late e

/-- The report of a load has been written or lost: its register takes its final state (05 R135). -/
def State.settleEnding (s : State) (core id : Nat) : State :=
  match (s.core core).load? id with
  | none => s
  | some l =>
    match l.ending with
    | some (now, e) => s.closeLoad core l now true e
    | none => s

/-- A load's data enters the write-back queue and its registers; from BROKEN it is LATE (05 R125, R132). -/
def State.land (s : State) (core : Nat) (l : Load) (d : BitVec 128) : State := s.endLoad core l (.data d)

/-- The fault of a load in an open region is recorded: its register becomes FAULT, its data registers are tainted (05 R125, 10 R237). -/
def State.faultLoad (s : State) (core : Nat) (l : Load) (k : FaultKind) (level : Nat) : State :=
  match s.thread? core l.slot with
  | none => s
  | some t =>
    let f : FaultInfo := { kind := k, va := l.va, write := false, path := l.kind.path, level := level }
    ((s.recordPage (s.recOf core t f l.pc)).modThread core l.slot (·.seeFault f)).endLoad core l (.fault k level)

/-- The faults of a thread's loads that are still to be recorded are recorded now: it reaches an instruction that commits its region (10
R238; DEDUCED, log 80). -/
def State.recordFaults (s : State) (core slot : Nat) : State :=
  ((s.core core).loads.filter (fun l => l.slot == slot && l.fault.isSome && l.ending.isNone)).foldl (fun s l => match l.fault with
    | some (k, level) => s.faultLoad core l k level
    | none => s) s

/-- A load resolves: its data arrive, a promise whose cycle has ended breaking first, or its fault is recorded (05 R117, R123, R125). While
the island's clock stands, data are held (05 R136); a load that waits at a full set has none yet (09 R203). -/
def State.arrive (s : State) (core id : Nat) : State :=
  match (s.core core).load? id with
  | none => s
  | some l =>
    let run := (s.island (core / 2)).running
    match l.fault, l.data with
    | some (k, level), _ => if run ∧ l.ending.isNone then s.faultLoad core l k level else s
    | none, none => s
    | none, some d =>
      if s.waitsAtSlice l ∨ l.ending.isSome then s
      else if run then
        let s := s.breakPromise core id none
        match (s.core core).load? id with
        | none => s
        | some l => s.land core l d
      else s.modCore core (·.modLoad id (fun l => { l with heldData := true }))

/-- An abort completion arrives for a load (05 R125, 10 R250): a record of its kind, the register ABORT, the data registers
tainted; a promise whose cycle has ended breaks first (05 R128). While the island's clock stands it is held (05 R136). -/
def State.abortLoad (s : State) (core id : Nat) (k : FaultKind) (pa : Nat) (level : Nat := 0) : State :=
  let s := s.breakPromise core id none
  match (s.core core).load? id with
  | none => s
  | some l =>
    match s.thread? core l.slot with
    | none => s
    | some t =>
      if l.ending.isSome then s
      else if !(s.island (core / 2)).running then s.modCore core (·.modLoad id (fun l => { l with heldAbort := some (k, level, pa) }))
      else
        let f : FaultInfo := { kind := k, va := l.va, write := l.kind == .atom, path := l.kind.path, level := level, pa := pa }
        let s := if l.kind = .pref then s else (s.record (s.recOf core t f l.pc)).modThread core l.slot (·.seeFault f)
        s.endLoad core l (.abort k level)

/-- Whether a promise of a cycle can reach a load now (05 R121, R136): its clock runs, and the cycle is the one that the core promises itself, from
issue + 2 on (05 R118, R122); or it has not gone by, and who serves the load has booked it: the slice with its line pinned, or another core's ring
stop (05 R119, 21 R418). A PREF with nothing to fetch is promised nothing (22 R440). -/
def State.promisable (s : State) (core : Nat) (l : Load) (cycle : BitVec 29) : Bool :=
  l.ending.isNone && (s.island (core / 2)).running && l.source != 4 &&
    (match l.own with
    | some c => c == cycle && !later (l.issued + 2) (s.now29 core)
    | none => !later (s.now29 core) cycle && (l.source != 3 || s.pinned core l.id) && (decide (l.source < 8) || !l.slots.isEmpty))

/-- A promise reaches the registers of the loads that a request serves, which become PROMISED (05 R116, R121, R125). -/
def State.promise (s : State) (core id : Nat) (cycle : BitVec 29) : State :=
  match (s.core core).load? id with
  | none => s
  | some l =>
    ((s.core core).loads.filter l.shares).foldl (fun s l =>
      if tstate (s.loadTreg core l) = 1 ∧ s.promisable core l cycle then
        (s.modCore core (·.modLoad l.id (fun l => { l with promised := some cycle }))).setLoadTreg core l (mkTreg .promised cycle)
      else s) s

/-- An estimate ended without data (05 R128). -/
def State.reestimate (s : State) (core id : Nat) (e : Option (BitVec 29)) : State :=
  match (s.core core).load? id with
  | none => s
  | some l =>
    let w := s.loadTreg core l
    let now := s.now29 core
    if tstate w = 4 ∧ later now (tcycle w) ∧ l.ending.isNone ∧ (s.island (core / 2)).running then
      s.setLoadTreg core l (mkTreg .broken (estimate now (tcycle w) (l.booking e))) else s

/-- OPP of an island's ISLOP register: the requested point, and the point in force (19 R356). -/
def islopOff (island : Nat) : Nat := 0x72000 + island % 32 * 8
/-- The requested point. -/
def State.oppWanted (s : State) (island : Nat) : Nat := (s.cw4 (island / 32) (islopOff island)).toNat % 16
/-- The point in force. -/
def State.oppNow (s : State) (island : Nat) : Nat := (s.cw4 (island / 32) (islopOff island)).toNat / 65536 % 16

/-- The cycle that a core promises itself at the probe of a load, by who serves it (05 R118, R122): issue + 28 for a hit; for a CXL or fabric page the
register's bound of 1.6 GHz ring cycles, converted at the island's point, + 2 (DESIGN CHOICE, log 9). -/
def State.ownPromise (s : State) (core : Nat) (issued : BitVec 29) (source : Nat) : Option (BitVec 29) :=
  let bound := fun off => issued + BitVec.ofNat 29 (((s.cw4 (dieOf core) off).toNat % 65536 * s.oppNow (core / 2) + 15) / 16 + 2)
  match source with
  | 0 => some (issued + 28)
  | 1 => some (bound 0x20000)
  | 2 => some (bound 0x20004)
  | _ => none

/-- What a load of a core is due for in the present cycle. -/
def State.loadDue (s : State) (core : Nat) (l : Load) : Option Instr :=
  let w := s.loadTreg core l
  let now := s.now29 core
  let st := tstate w
  if l.ending.isSome then none
  else if st = 1 then
    if l.source = 4 then (if later (l.issued + 2) now then none else some (.loadArrival core l.id))
    else match l.own with
    | some c => if later (l.issued + 2) now then none else some (.promiseDelivered core l.id c)
    | none => none
  else if st = 2 then
    if l.cause.isNone && l.data.isSome && l.source != 1 && !later (tcycle w) now && !later now (tcycle w) && !s.migrated core l then some (.loadArrival core l.id)
    else if later now (tcycle w) then some (.promiseBroken core l.id none)
    else none
  else if st = 4 ∧ later now (tcycle w) then some (.brokenReestimate core l.id none)
  else none

/-- Whether a thread's timed wake is due (05 R142, R143). -/
def State.wakeDue (s : State) (core : Nat) (t : Thread) : Bool :=
  match t.park with
  | some (.tyield n slack false _) =>
    let w := t.treg n
    !(tstate w == 2 || tstate w == 4) || !later (tcycle w + slack.signExtend 29) (s.now29 core)
  | _ => false

/-- Timed wakes of a core whose cycle is reached: the threads go on behind their TYIELD (05 R142, R143). -/
def State.wake (s : State) (core : Nat) : State :=
  ((s.core core).threads.filter (fun e => s.wakeDue core e.2)).foldl (fun s e =>
    s.modCore core (fun c =>
      let len := match e.2.park with
        | some (.tyield _ _ _ len) => len
        | _ => 0
      { (c.advance e.1 len) with
        overflow := c.overflow.filter (fun o => o.2 != e.1)
        far := c.far.filter (fun o => o.2 != e.1) })) s

/-- The place of a timed wake: the wheel where it lies less than 1,024 cycles ahead, else the overflow list; the farthest wake beyond a full
list goes to the bucket 1,023 cycles ahead (05 R143). -/
def Core.placeWake (c : Core) (now at_ slot : Nat) : Core :=
  if at_ < now + 1024 then c
  else
    let l := c.overflow ++ [(at_, slot)]
    if l.length ≤ 256 then { c with overflow := l }
    else
      let m := l.foldl (fun m e => max m e.1) 0
      match l.find? (fun e => e.1 == m) with
      | some e => { c with overflow := l.erase e, far := c.far ++ [(now + 1023, e.2)] }
      | none => c

/-- The stages of loads and wakes that are due in the present cycle on the cores whose clock runs. -/
def State.due (s : State) : Option Instr :=
  (s.cores.filter (fun e => (s.island (e.1 / 2)).running)).findSome? (fun e =>
    match e.2.loads.findSome? (s.loadDue e.1) with
    | some i => some i
    | none => if e.2.threads.any (fun t => s.wakeDue e.1 t.2) then some (.timedWake e.1) else none)

/-- One core cycle of every island whose clock runs (DESIGN CHOICE, log 9). -/
def State.tick (s : State) : State :=
  { s with
    time := s.time + 1
    islands := s.islands.map (fun e => (e.1, if e.2.running then { e.2 with cycle := e.2.cycle + 1 } else e.2)) }

/-- PROMISE_DELIVERED (05 R121). -/
def execPromiseDelivered (core load : Nat) (cycle : BitVec 29) (s : State) : Next := done (s.promise core load cycle)
/-- LOAD_ARRIVAL (05 R125). -/
def execLoadArrival (core load : Nat) (s : State) : Next := done (s.arrive core load)
/-- PROMISE_BROKEN (05 R128). -/
def execPromiseBroken (core load : Nat) (e : Option (BitVec 29)) (s : State) : Next := done (s.breakPromise core load e)
/-- BROKEN_REESTIMATE (05 R128). -/
def execBrokenReestimate (core load : Nat) (e : Option (BitVec 29)) (s : State) : Next := done (s.reestimate core load e)
/-- The fault kind of an abort completion. -/
def abortKind : AbortKind → FaultKind
  | .unmappedPa => .unmappedPa
  | .integrity => .integrity
  | .uncorrectable => .uncorrectable
  | .revoked => .revoked

/-- The physical address of a load, where its page translates: on a page of FMT 1 to 3 that of the element's plane byte (10 R227, R240). -/
def State.loadPa (s : State) (core id : Nat) : Nat :=
  match (s.core core).load? id with
  | none => 0
  | some l =>
    match s.thread? core l.slot with
    | none => 0
    | some t =>
      match s.fresh? (s.ctxOf t) (l.va.extractLsb' 0 56).toNat 0 with
      | .ok e => ((e.target (l.va.extractLsb' 0 56).toNat).touched (max l.size 1)).headD 0
      | .error _ => 0

/-- TIMED_WAKE (05 R143). -/
def execTimedWake (core : Nat) (s : State) : Next := done (s.wake core)

/-- When a parked thread's timed wake comes, in steps. -/
def State.wakeTime (s : State) (core slot : Nat) : Nat :=
  match (s.thread? core slot).bind (fun t => t.park.map (fun p => (t, p))) with
  | some (t, .tyield n slack _ _) => s.time + (tcycle (t.treg n) + slack.signExtend 29 - s.now29 core).toNat
  | _ => s.time

/-- WAKE_OVERFLOW_REINSERT (05 R143): wakes that have come within 1,024 cycles leave the overflow list for the wheel, and those whose
bucket is reached are placed anew. -/
def execWakeOverflowReinsert (core : Nat) (s : State) : Next :=
  let again := (s.core core).far.filter (fun o => decide (o.1 ≤ s.time))
  done (s.modCore core (fun c =>
    again.foldl (fun c o => c.placeWake s.time (s.wakeTime core o.2) o.2)
      { c with
        overflow := c.overflow.filter (fun o => s.time + 1024 ≤ o.1)
        far := c.far.filter (fun o => !decide (o.1 ≤ s.time)) }))

/-- The loads that a request serves have return slots booked. -/
def Core.bookLoads (c : Core) (l : Load) (slots : List (Nat × Nat)) : Core :=
  { c with loads := c.loads.map (fun x => if l.shares x then { x with slots := slots } else x) }

/-- A slice takes the promise request of a load: it books a return slot, brings the line in with class and mark by the hint, and pins it for the
loads that the request serves (05 R119, 09 R202). An ATOM is no request in the sense of R202. Where no slot is free or every way is pinned the
request waits, and nothing changes (05 R119, 09 R203). -/
def State.pinRequest (s : State) (core : Nat) (l : Load) (pa size : Nat) : State :=
  match s.locate pa with
  | .error _ => s
  | .ok loc =>
    if s.sliceFull pa ∨ s.pinned core l.id then s
    else match s.bookReturn (loc.slice / 16) (loc.slice % 16 * 2 + 1) core with
      | (s, none) => s
      | (s, some slots) =>
        let r := if l.kind = .atom then atomReq l.leaf l.hint else lsReq l.leaf l.hint
        let served := (s.core core).loads.filter l.shares
        (s.modCore core (·.bookLoads l slots)).l2Touch
          loc.slice (pa / 128) (fetched r.mac (sectorMask pa size)) 0 r.mark r.cls r.stream (served.map (fun x => { core, load := x.id }))

/-- Another core's ring stop takes the promise request of a load from its store: it books a return slot as a slice does (21 R418). -/
def State.stopRequest (s : State) (core : Nat) (l : Load) (target : Nat) : State :=
  if !l.slots.isEmpty then s
  else match s.bookReturn (quadOf target) (target % 16 * 2) core with
    | (s, none) => s
    | (s, some slots) => s.modCore core (·.bookLoads l slots)

/-- L2_PROMISE_REQUEST (05 R119, 21 R418): a load that a slice or another core's ring stop serves makes one. -/
def execL2PromiseRequest (core load : Nat) (s : State) : Next :=
  match (s.core core).load? load with
  | none => done s
  | some l =>
    if 8 ≤ l.source then done (s.stopRequest core l (l.source - 8))
    else match l.source, l.req with
    | 3, some (_, pa, size) => done (s.pinRequest core l pa size)
    | _, _ => done s

/-- DRAM_BOOKING (05 R120): the calendar holds timing alone; the grant fixes when the data comes, which the agenda says (DESIGN CHOICE, log 70). -/
def execDramBooking (_core _load : Nat) (s : State) : Next := done s

/-- SLICE_REQUEST_RETURN (09 R212): the request is routed and sent again; its register stays PROBING. -/
def execSliceRequestReturn (_core _load : Nat) (s : State) : Next := done s

/-- What a stopped clock has held for a load takes effect in the first cycle after the restart (05 R136). -/
def State.takeHeld (s : State) (core : Nat) (l : Load) : State :=
  match l.heldData, l.data, l.heldAbort with
  | true, some d, _ => s.land core l d
  | _, _, some (k, level, pa) => s.abortLoad core l.id k pa level
  | _, _, none => s

/-- Settles a load at the restart of its island's clock (05 R136): a promised one counts as broken with cause HALT. -/
def State.settleHalt (s : State) (core : Nat) (l : Load) : State :=
  let w := s.loadTreg core l
  if tstate w = 2 then
    let ctx := ((s.thread? core l.slot).map s.ctxOf).getD 0
    let s := (((s.delay { core, load := l.id } 8).count (.broken (dieOf core) (min 8 (l.cause.getD 8)) 1)).modCore core
      (·.countBroken ctx)).setLoadTreg core l (mkTreg .broken (estimate (s.now29 core) (tcycle w) l.booked))
    match (s.core core).load? l.id with
    | none => s
    | some l => s.takeHeld core l
  else s.takeHeld core l

/-- ISLAND_CLOCK_STOP (05 R136). -/
def execIslandClockStop (island : Nat) (s : State) : Next :=
  done (s.setIsland island { s.island island with running := false })

/-- An island's clock runs again: the first cycle after the restart settles the registers of both cores (05 R136). -/
def State.restartClock (s : State) (island : Nat) : State :=
  let x := s.island island
  if x.running then s
  else
    let s := s.setIsland island { x with running := true, cycle := x.cycle + 1 }
    [2 * island, 2 * island + 1].foldl (fun s core => (s.core core).loads.foldl (fun s l => s.settleHalt core l) s) s

/-- ISLAND_CLOCK_RESTART (05 R136). At operating point 0 the clock stands (19 R356). -/
def execIslandClockRestart (island : Nat) (s : State) : Next :=
  done (if s.oppNow island = 0 then s else s.restartClock island)

/-- ISLAND_RATIO_CHANGE (05 R137, 19 R357): the requested point comes into force in one cycle; a promise converted to a later
cycle will break with cause FREQ and takes that cycle as its estimate. A request for point 0 stops the clock, when no block is resident on
the island; one from point 0 starts it; between others a clock that stands still stands. A held write is then applied (DESIGN CHOICE, log 36)
(DEDUCED, log 65). -/
def execIslandRatioChange (island : Nat) (again : List Rebook) (s : State) : Next :=
  let off := islopOff island
  let die := island / 32
  let r := s.cw4 die off
  let resident := !((s.core (2 * island)).blocks.isEmpty && (s.core (2 * island + 1)).blocks.isEmpty)
  if r.getLsbD 31 ∧ !(s.oppWanted island = 0 ∧ resident) then
    let want := s.oppWanted island
    let from_ := s.oppNow island
    let s := s.setCw4 die off (BitVec.ofNat 32 (want * 65536 + want))
    let s := again.foldl (fun s b =>
      match (s.core b.core).load? b.load with
      | some l =>
        let w := s.loadTreg b.core l
        if b.core / 2 = island ∧ tstate w = 2 ∧ later b.cycle (tcycle w) then
          (s.delay { core := b.core, load := b.load } 7).modCore b.core (·.modLoad b.load (fun l => { l with booked := some b.cycle }))
        else s
      | none => s) s
    let s := if want = 0 then s.setIsland island { s.island island with running := false } else if from_ = 0 then s.restartClock island else s
    let x := s.island island
    match x.held with
    | some p => done ((s.setCw4 die off (BitVec.ofNat 32 (2 ^ 31 + want * 65536 + p.toNat))).setIsland island { x with held := none })
    | none => done s
  else done s

/-- REFRESH_PULLED_IN (05 R129): the promises it delays will break with cause REFRESH. -/
def execRefreshPulledIn (delayed : List LoadRef) (s : State) : Next := done (delayed.foldl (fun s r => s.delay r 2) s)

end Sys2Proof.Machine
end

