-- ==== Sys2Proof/Machine/Preempt.lean ====
section
/-! DEFINITION. Pre-emption of a block or cohort (02 R51, 10 R255, 12 R275), suspension and resumption of a context (10 R256),
what a failed launch leaves behind (02 R46), kills and revocations (19 R346, R347). -/

namespace Sys2Proof.Machine

/-- The cores a launch's blocks reside on, with the blocks. -/
def State.residents (s : State) (lid : Nat) : List (Nat × Nat) :=
  s.cores.flatMap (fun e => (e.2.blocks.filter (fun b => b.lid == lid)).map (fun b => (e.1, b.index)))

/-- The core that a block resides on. -/
def State.home? (s : State) (lid index : Nat) : Option Nat :=
  (s.cores.find? (fun e => e.2.blocks.any (fun b => b.lid == lid && b.index == index))).map (·.1)

/-- Blocks that share a crew with a block of a list (12 R275). -/
def Core.sharing (c : Core) (bs : List Block) : List Block :=
  let crews := bs.flatMap (fun b => c.crewsOf b.lid b.index)
  c.blocks.filter (fun b => bs.any (fun x => x.lid == b.lid && x.index == b.index)
    || (c.crewsOf b.lid b.index).any crews.contains)

/-- n rounds of it: a chain has no more links than the core has blocks. -/
def Core.cohortFrom (c : Core) (bs : List Block) : Nat → List Block
  | 0 => bs
  | n + 1 => Core.cohortFrom c (c.sharing bs) n

/-- The cohort of a block: the blocks whose threads share a crew with its threads, directly or through a chain. -/
def Core.cohort (c : Core) (lid index : Nat) : List Block :=
  c.cohortFrom (c.blocks.filter (fun b => b.lid == lid && b.index == index)) c.blocks.length

/-- Bytes of a context's save area that records take. -/
def State.savedBytes (s : State) (ctx : Nat) : Nat :=
  s.launches.foldl (fun n l => if l.rcd.ctx = ctx then n + l.saved.foldl (fun m v => m + v.size) 0 else n) 0

/-- Bytes of a context's save area (10 R229). -/
def State.saveArea (s : State) (ctx : Nat) : Nat := ((s.cw4 0 (0x50028 + ctx * 0x40)).toNat % 65536) * 2 ^ 20

/-- The block that holds a matrix unit of a core: slots 0 and 1, sets 0 and 1, the spinner (15 R298, 17 R322). -/
def Core.holder (c : Core) (u : Nat) : Option (Nat × Nat) := tget c.holders u

/-- Bytes that the contents of a matrix unit take in a save record (15 R298; DESIGN CHOICE, log 12). -/
def unitSize (u : Nat) : Nat := (Config.saveSize 0 0 0 0 0 (2 ^ u)).toNat

/-- Bytes of a context's save area that contents swapped out of matrix units take (15 R298). -/
def State.swappedBytes (s : State) (ctx : Nat) : Nat :=
  s.cores.foldl (fun n e => e.2.blocks.foldl (fun n b =>
    if (s.rcd b.lid).ctx = ctx then
      (List.range 5).foldl (fun n u => if b.used.getLsbD u ∧ e.2.holder u ≠ some (b.lid, b.index) then n + unitSize u else n) n
    else n) n) 0

/-- The matrix units among some that a block must have swapped out first: those another resident block holds, each with the holder's context. -/
def State.swapsOut (s : State) (core lid block : Nat) (us : List Nat) : List (Nat × Nat) :=
  us.filterMap (fun u =>
    match (s.core core).holder u with
    | none => none
    | some (l, b) => if (l = lid ∧ b = block) ∨ ((s.core core).block? l b).isNone then none else some (u, (s.rcd l).ctx))

/-- Whether a block can have some matrix units at once: what their holders have in them finds room in the holders' save areas (15 R298). -/
def State.swapRoom (s : State) (core lid block : Nat) (us : List Nat) : Bool :=
  let out := s.swapsOut core lid block us
  out.all (fun e =>
    decide (s.savedBytes e.2 + s.swappedBytes e.2 + (out.filter (·.2 == e.2)).foldl (fun n x => n + unitSize x.1) 0 ≤ s.saveArea e.2))

/-- A block becomes the holder of a matrix unit. -/
def Core.hold (c : Core) (lid block u : Nat) : Core :=
  ({ c with holders := tset c.holders u (lid, block) }).modBlock lid block (fun b => { b with used := b.used ||| (1#5 <<< u) })

/-- Whether a thread's instruction has an answer of a controller to come; its boundary is not reached then. -/
def Thread.between (t : Thread) : Bool :=
  match t.park with
  | some (.lnch _ _ _) => false
  | _ => true

/-- Whether a park is one of an instruction that has committed its region and reopens it at the next one (08 R186, 12 R262). -/
def Park.commits (p : Park) : Bool :=
  match p with
  | .bsync _ | .checkpoint _ _ | .slot _ _ _ | .settling _ | .rgrp _ _ _ _ _ | .marble | .tasks _ | .spinner | .entry _ _ | .tracker
  | .lnch _ _ _ | .writes _ => true
  | _ => false

/-- Whether a thread stands inside an open region (02 R51): not where it waits in an instruction that has committed its region, or stands at
an RGRP that has reopened it behind itself (DEDUCED, log 44). -/
def Thread.inside (t : Thread) : Bool :=
  match t.openRegion with
  | none => false
  | some r => !(r.stores.isEmpty && (r.behind == some t.pc || (r.start == t.pc && (t.park.map Park.commits).getD false)))

/-- Whether a thread's loads can all arrive or fault now (02 R51, 05 R136, 09 R203). -/
def State.loadsCome (s : State) (core slot : Nat) : Bool :=
  ((s.core core).loads.filter (fun l => l.slot == slot)).all (fun l => (l.fault.isSome || l.data.isSome) && l.ending.isNone && !s.waitsAtSlice l)

/-- Whether a cohort can be saved now (02 R51, 10 R255, 12 R271): the island's clock runs, no dispatched task, no regroup under way, no
load outside a region that is still to come, and room for the record. -/
def State.savable (s : State) (core : Nat) (bs : List Block) : Bool :=
  let c := s.core core
  let mine := fun lid block => bs.any (fun b => b.lid == lid && b.index == block)
  let threads := c.threads.filter (fun e => mine e.2.lid e.2.block)
  !bs.isEmpty && (s.island (core / 2)).running
  && !c.tasks.any (fun t => mine t.lid t.block && t.state != .waiting)
  && !c.regroups.any (fun r => r.moves.any (fun m => threads.any (·.1 == m.1)))
  && !bs.any (fun b => b.retiring || b.rolling)
  && threads.all (fun e => e.2.between && (e.2.inside || s.loadsCome core e.1))
  && bs.all (fun b =>
    decide (s.savedBytes (s.rcd b.lid).ctx + (s.snapshot core bs true).size ≤ s.saveArea (s.rcd b.lid).ctx))

/-- Whether a park is saved as it is (02 R51), by a thread outside a region. -/
def Park.kept (p : Park) : Bool :=
  match p with
  | .loads _ | .page _ _ _ _ _ _ | .yield _ | .fill _ | .settling _ => false
  | _ => true

/-- The arrival of a parked JOIN is withdrawn: its thread will run again from its region start. -/
def Core.unjoin (c : Core) (slot : Nat) (p : Option Park) : Core :=
  match p with
  | some (.join n _) =>
    let (m, a) := c.readJ (slot / 64) n
    c.writeJ (slot / 64) n (m, a &&& ~~~(1#64 <<< (slot % 64)))
  | _ => c

/-- A thread as it is saved (02 R51): inside an open region as at its region start, its pending registers abandoned and its stores
discarded; outside, after its loads have arrived, and parked where it waits for a condition that outlives the move. -/
def State.boundary (s : State) (core slot : Nat) : State :=
  match s.thread? core slot with
  | none => s
  | some t =>
    if t.inside then
      let start := (t.region.map (·.start)).getD t.pc
      let s := (s.abandon core slot true).modCore core (·.unjoin slot t.park)
      s.modThread core slot (fun t => { t with
        pc := start
        region := some { start := start, stores := [] }
        taints := t.taints.filter (fun x => !x.kind.repairable || x.treg.isSome)
        park := none })
    else
      let s := ((s.core core).loads.filter (fun l => l.slot == slot)).foldl (fun s l => s.arrive core l.id) s
      s.modThread core slot (fun t => { t with park := t.park.filter Park.kept })

/-- Writes back every dirty line of a launch's share on a core and sends its update-only lines (08 R181). -/
def State.publishShare (s : State) (core lid : Nat) : State :=
  ((s.core core).lines.filter (fun l => l.lid == lid)).foldl
    (fun s l => if l.upd.isSome then s.sendLine core l else s.writeBack core l) s

/-- Writes back every dirty line of a launch's share on a core; its update-only lines stay (08 R174). -/
def State.writeDirty (s : State) (core lid : Nat) : State :=
  ((s.core core).lines.filter (fun l => l.lid == lid && l.upd.isNone)).foldl (fun s l => s.writeBack core l) s

/-- Saves a cohort and takes it off its core (02 R51, 10 R255). Its stores that the launch's share there still holds are written back: it may go on
on another core, and its threads' reads return their own stores (08 R175, R176). -/
def State.saveCohort (s : State) (core : Nat) (bs : List Block) : State :=
  let slots := bs.flatMap (fun b => (s.core core).slotsOf b.lid b.index)
  let s := slots.foldl (fun s slot => s.boundary core slot) s
  let bs := (s.core core).blocks.filter (fun b => bs.any (fun x => x.lid == b.lid && x.index == b.index))
  match bs with
  | [] => s
  | b :: _ =>
    let s := s.publishShare core b.lid
    let sv := s.snapshot core bs true
    let s := bs.foldl (fun s x => s.evict core x.lid x.index) s
    s.modLaunch b.lid (fun l => { l with saved := l.saved ++ [sv] })

/-- The loads of a cohort's threads outside regions arrive or fault before it is saved (02 R51). -/
def State.settleLoads (s : State) (core : Nat) (slots : List Nat) : State :=
  slots.foldl (fun s slot => match s.thread? core slot with
    | none => s
    | some t => if t.inside then s else ((s.core core).loads.filter (fun l => l.slot == slot)).foldl (fun s l => s.arrive core l.id) s) s

/-- Whether the report of a broken promise among some threads' loads is still on its way behind a window: they have not resolved (05 R135). -/
def Core.reportsPend (c : Core) (slots : List Nat) : Bool := c.loads.any (fun l => slots.contains l.slot && l.ending.isSome)

/-- Pre-empts a block with its cohort, when it can be saved. -/
def State.preempt (s : State) (lid block : Nat) : State :=
  match s.home? lid block with
  | none => s
  | some core =>
    let bs := (s.core core).cohort lid block
    if s.savable core bs then
      let slots := bs.flatMap (fun b => (s.core core).slotsOf b.lid b.index)
      let s := s.settleLoads core slots
      if (s.core core).reportsPend (slots.filter (fun o => !((s.thread? core o).map Thread.inside).getD false)) then s else s.saveCohort core bs
    else s

/-- The gang-launched unit of a block: the blocks that are resident or placed with it (02 R33): the highest level bound to PAIR,
QUAD or DIE. The result is the first block of the unit and the number of its blocks. -/
def LaunchRec.unitFrom (r : LaunchRec) : Nat → Nat → Nat → Nat
  | _, _, 0 => 1
  | i, n, fuel + 1 =>
    let (size, dom, _) := (r.levels[i]?).getD (1, 0, 0)
    let above := LaunchRec.unitFrom r (i + 1) (n * size) fuel
    if above ≠ 1 then above else if 3 ≤ dom ∧ dom ≤ 5 then n * size else 1

/-- Blocks of a gang-launched unit; 1 where no level binds. -/
def LaunchRec.gang (r : LaunchRec) : Nat := if r.top < 3 then 1 else r.unitFrom 3 1 (r.top - 2)

/-- Whether a launch has a gang-launched level. -/
def LaunchRec.bound (r : LaunchRec) : Bool := (r.levels.take (r.top + 1)).any (fun l => decide (3 ≤ l.2.1) && decide (l.2.1 ≤ 5))

/-- The domain of the gang-launched unit: that of the highest such level. -/
def LaunchRec.gangDomain (r : LaunchRec) : Nat :=
  ((r.levels.take (r.top + 1)).filter (fun l => decide (3 ≤ l.2.1) && decide (l.2.1 ≤ 5))).foldl (fun _ l => l.2.1) 0

/-- Resident blocks of a launch that belong to a gang-launched unit or a cohort of some blocks of it, after n rounds (02 R45, 12 R275). -/
def State.togetherFrom (s : State) (lid : Nat) : Nat → List Nat → List Nat
  | 0, bs => bs
  | k + 1, bs =>
    let n := max 1 (s.rcd lid).gang
    State.togetherFrom s lid k (((s.residents lid).filter (fun e => bs.any (fun b => b / n == e.2 / n)
      || ((s.core e.1).cohort lid e.2).any (fun x => x.lid == lid && bs.contains x.index))).map (·.2))

/-- The resident blocks that leave together with a block: those of its gang-launched unit and of its cohort, and so on from each. -/
def State.together (s : State) (lid block : Nat) : List Nat := s.togetherFrom lid ((s.residents lid).length + 1) [block]

/-- Pre-empts a block, and with it every block of its gang-launched unit and of its cohort (02 R45, 12 R275). -/
def State.preemptUnit (s : State) (lid block : Nat) : State := (s.together lid block).foldl (fun s b => s.preempt lid b) s

/-- PREEMPTION (02 R51). -/
def execPreemption (lid block : Nat) (s : State) : Next := done (s.preemptUnit lid block)

/-- CTXCTL.SUSP of a context. -/
def State.susp (s : State) (ctx : Nat) : Bool := (s.ctxctl ctx).getLsbD 3

/-- Whether a block of a context is resident. -/
def State.ctxResident (s : State) (ctx : Nat) : Bool :=
  s.cores.any (fun e => e.2.blocks.any (fun b => (s.rcd b.lid).ctx == ctx))

/-- Pre-empts every resident block of a context that can be saved now; the rest follow as they can (10 R256). -/
def State.suspend (s : State) (ctx : Nat) : State :=
  (s.cores.flatMap (fun e => (e.2.blocks.filter (fun b => (s.rcd b.lid).ctx == ctx)).map (fun b => (b.lid, b.index)))).foldl
    (fun s b => s.preempt b.1 b.2) s

/-- Sets CTXCTL of a context. -/
def State.setCtxctl (s : State) (ctx : Nat) (v : Word) : State := s.setCw4 0 (0x50030 + ctx * 0x40) v

/-- CTXCTL_SUSPEND (10 R256). -/
def execCtxctlSuspend (ctx : Nat) (s : State) : Next := done ((s.setCtxctl ctx (s.ctxctl ctx ||| 8)).suspend ctx)

/-- CTXCTL_RESUME (10 R256). -/
def execCtxctlResume (ctx : Nat) (s : State) : Next := done (s.setCtxctl ctx (s.ctxctl ctx &&& ~~~(8#32)))

/-- Cancels the launches that wait for a predecessor that failed or was cancelled (02 R43). -/
def State.cancelWaiting (s : State) (lid : Nat) : State :=
  { s with launches := s.launches.map (fun l =>
      if l.rcd.preds.contains lid ∧ l.ended.isNone ∧ l.next = 0 ∧ l.logical = [] then { l with ended := some (4, 1, 0) } else l) }

/-- Whether a launch has begun no block: it waits in its table. -/
def Launch.waits (l : Launch) : Bool := l.next == 0

/-- A launch's share, tracker entries, checkpoints and regroups under way leave a core. -/
def Core.forget (c : Core) (lid : Nat) : Core :=
  { c with
    shares := tdel c.shares lid
    lines := c.lines.filter (fun l => l.lid != lid)
    tracker := c.tracker.filter (fun t => t.1 != lid)
    checkpoints := c.checkpoints.filter (fun v => !v.blocks.any (fun b => b.1.lid == lid))
    regroups := c.regroups.filter (fun g => g.lid != lid) }

/-- Fails every launch of a context with CODE 0x0100 (19 R347). -/
def State.killLaunches (s : State) (ctx : Nat) : State :=
  { s with launches := s.launches.map (fun l =>
      if l.rcd.ctx = ctx ∧ l.ended.isNone then { l with ended := some (3, 0x100, 0) } else l) }

/-- A relayed access from outside is answered with an abort; its own request is abandoned, and a late reply to it is discarded (19 R346, R347,
R350). -/
def State.abortRelay (s : State) (f : FabReq) : State :=
  let s := { s with fabric := s.fabric.filter (fun x => x.id != f.id) }
  match f.for_ with
  | .host m _ => s.answer m (.rsp m none)
  | .rdma port qp => { s with outbox := s.outbox ++ [.rdma port qp none] }
  | _ => s

/-- Abandons the outstanding fabric requests of a context (19 R347). -/
def State.dropRequests (s : State) (ctx : Nat) : State := (s.fabric.filter (fun f => f.ctx == ctx)).foldl State.abortRelay s

/-- The accepted requests for an export entry whose reply has not left: those relayed through a further window (19 R346). -/
def State.relayed (s : State) (ctx idx : Nat) : List FabReq :=
  s.fabric.filter (fun f => match f.for_ with
    | .host _ (some e) => e == (ctx, idx)
    | _ => false)

/-- Stops one context (19 R347). -/
def State.killCtx (s : State) (ctx : Nat) : State :=
  let s := s.setCtxctl ctx (s.ctxctl ctx &&& ~~~(1#32))
  let s := (s.killLaunches ctx).dropRequests ctx
  let s := ((List.range 256).flatMap (s.relayed ctx)).foldl State.abortRelay s
  let s := { s with
    waiting := s.waiting.filter (fun r => r.ctx != ctx || (match r.from_ with | .host _ => true | .thread _ _ => false))
    revoking := s.revoking ++ (List.range 256).map (fun i => (ctx, i)) }
  { s with killing := if s.killing.contains ctx then s.killing else s.killing ++ [ctx] }

/-- KILL_CONTEXT (19 R347). -/
def execKillContext (ctx : Nat) (s : State) : Next := done (s.killCtx ctx)

/-- Stops every context of an owner (19 R347). -/
def State.killTag (s : State) (owner : BitVec 16) : State :=
  ((List.range 64).filter (fun c => s.owner c == owner)).foldl (fun s c => s.killCtx c) s

/-- KILL_OWNER (19 R347). -/
def execKillOwner (owner : BitVec 16) (s : State) : Next := done (s.killTag owner)

/-- A kill is in progress while a block of an affected context is resident (19 R347). -/
def State.killBusy (s : State) : Bool := s.killing.any s.ctxResident

/-- Revokes an export entry (19 R346): the requests in progress for it are answered with an abort at once, so that BUSY reads 0 after the
write. Software writes a new valid entry later; until then the entry gives no access. -/
def State.revoke (s : State) (ctx idx : Nat) : State :=
  let s := (s.relayed ctx idx).foldl State.abortRelay s
  let s := { s with revoking := if s.revoking.contains (ctx, idx) then s.revoking else s.revoking ++ [(ctx, idx)] }
  s.send (s.owner ctx) (.notifyRevoked (s.owner ctx) ctx idx)

/-- FWREV_REVOKE (19 R346). -/
def execFwrevRevoke (ctx idx : Nat) (s : State) : Next := done (s.revoke ctx idx)

end Sys2Proof.Machine
end

