-- ==== Sys2Proof/Machine/Window.lean ====
section
/-! DEFINITION. Reads and writes of the control window (19 R358, R359) with the registers whose write acts: address-map commits
(09 R210 to R212), slot tables (09 R216 to R218), L2 quotas (09 R204), contexts (10 R229, R256), FURES (10 R241), ports (19 R340),
FWREV, KILL (19 R346, R347) and ISLOP (19 R356, R357). -/

namespace Sys2Proof.Machine

/-- Bits lo to hi of a 64-bit mask. -/
def bits (hi lo : Nat) : DWord := BitVec.ofNat 64 (2 ^ (hi + 1) - 2 ^ lo)

/-- The bits of an 8-byte slot that a plain write changes (19 R358). -/
def cwMask (die off : Nat) : DWord :=
  if off = 0x20000 then 0x0000FFFF0000FFFF
  else if 0x30000 ≤ off ∧ off < 0x31000 then
    let o := off % 0x200
    if o < 0x10 then bits 47 16
    else if o = 0x10 then bits 41 0
    else if 0x20 ≤ o ∧ o < 0x170 then bits 41 0
    else 0
  else if (0x40000 ≤ off ∧ off < 0x41400) ∨ (0x41800 ≤ off ∧ off < 0x41C00) then 0x0000C03F0000C03F
  else if 0x50000 ≤ off ∧ off < 0x51000 then
    match off % 0x40 with
    | 0x00 => bits 47 13 ||| 1
    | 0x08 => bits 47 12
    | 0x10 => bits 47 12
    | 0x18 => bits 31 16 ||| bits 6 0
    | 0x20 => bits 47 20
    | 0x28 => bits 15 0
    | 0x38 => bits 31 0
    | _ => 0
  else if 0x51000 ≤ off ∧ off < 0x51200 then bits 47 12
  else if 0x61000 ≤ off ∧ off < 0x61200 then bits 47 22 ||| 1
  else if 0x70000 ≤ off ∧ off < 0x70480 then
    if portDie ((off - 0x70000) / 0x40) = die ∧ off % 0x40 < 0x20 then 0x8000FFFF8000FFFF else 0
  else if off = 0x71010 then bits 31 0
  else if (0x80000 ≤ off ∧ off < 0x80800) ∨ (0x90000 ≤ off ∧ off < 0x90800) then bits 31 31 ||| bits 21 0
  else 0

/-- An 8-byte slot as a read returns it: the registers with their read-only bits as they stand now. -/
def State.cwRead8 (s : State) (die off : Nat) : DWord :=
  let v := s.cw8 die off
  if 0x50000 ≤ off ∧ off < 0x51000 ∧ off % 0x40 = 0x30 then
    let ctx := (off - 0x50000) / 0x40
    if s.susp ctx && !s.ctxResident ctx then v ||| 16 else v
  else if off = 0x71008 then (if s.killBusy then 0x80000000 else 0)
  else if off = 0x42000 then (if s.slotPending.contains die then v ||| 2 else v)
  else if 0x70000 ≤ off ∧ off < 0x70480 ∧ portDie ((off - 0x70000) / 0x40) ≠ die then 0
  else v

/-- A read of 4 or 8 bytes, aligned. -/
def State.cwRead (s : State) (die off n : Nat) : Nat :=
  if n = 8 then (s.cwRead8 die off).toNat else (s.cwRead8 die (off / 8 * 8)).toNat / 2 ^ (off % 8 * 8) % 2 ^ 32

/-- The pending copy of an address-map region (09 R210). -/
def State.amPending (s : State) (r : Nat) : AmRegion :=
  let o := 0x30000 + r * 0x200
  let ctl := s.cw4 0 (o + 0x18)
  { base := (s.cw8 0 o).toNat
    lim := (s.cw8 0 (o + 8)).toNat
    ofs := (s.cw8 0 (o + 0x10)).setWidth 42
    cxl := ctl.extractLsb' 2 2 == 1
    en := ctl.getLsbD 1
    rows := (List.range 42).map (fun i => (s.cw8 0 (o + 0x20 + 8 * i)).setWidth 42) }

/-- STATUS of AMCTL. -/
def State.amStatus (s : State) (r : Nat) : Nat := (s.cw4 0 (0x30018 + r * 0x200)).toNat / 16 % 16

/-- Sets STATUS. -/
def State.setAmStatus (s : State) (r st : Nat) : State :=
  let o := 0x30018 + r * 0x200
  s.setCw4 0 o ((s.cw4 0 o &&& 0xFFFFFF0F) ||| BitVec.ofNat 32 (st * 16))

/-- Reduces a vector over GF(2) by the basis so far and adds it where it is independent. -/
def gfInsert (basis : List Nat) (v : Nat) : List Nat :=
  let r := basis.foldl (fun v b => min v (v ^^^ b)) v
  if r = 0 then basis else basis ++ [r]

/-- The rank of vectors over GF(2). -/
def gfRank (vs : List Nat) : Nat := (vs.foldl gfInsert []).length

/-- The home slice of a PA under a region's copy (09 R209). -/
def AmRegion.slice (m : AmRegion) (pa : Nat) : Nat := m.y pa % 16 * 16 + m.y pa / 16 % 16

/-- Whether a region covers a line. -/
def AmRegion.covers (m : AmRegion) (addr : Nat) : Bool := decide (m.base ≤ addr * 128) && decide (addr * 128 < m.lim)

/-- Whether a region covers an address in force (09 R211). -/
def AmRegion.maps (m : AmRegion) : Bool := m.en && decide (m.base < m.lim)

/-- The first failed check of a commit, as its STATUS; 0 when it passes (09 R211). `busy`: another region's commit is still in progress at
the write of GO. -/
def State.amCheck (s : State) (r : Nat) (m : AmRegion) (busy : Bool) : Nat :=
  let rows := m.rows.map BitVec.toNat
  if gfRank rows < 42 then 3
  else if (m.rows.take 8).any (fun x => x.getLsbD 0) then 4
  else if !m.en then 0
  else
    let k := bitLen ((m.base / 64) ^^^ (m.lim / 64 - 1))
    let loc := (rows.take 4 ++ rows.drop 8).map (fun x => x % 2 ^ k)
    let others := (List.range 8).filter (fun i => i != r && (s.amRegion i).maps)
    let empty := decide (m.lim ≤ m.base)
    if !m.cxl && !empty && gfRank loc != k then 5
    else if !empty && others.any (fun i => decide (m.base < (s.amRegion i).lim) && decide ((s.amRegion i).base < m.lim)) then 6
    else if !empty && s.l2.any (fun l => l.dirty != 0 && m.covers l.addr && l.slice != m.slice (l.addr * 128)) then 7
    else if busy then 8
    else 0

/-- A write of AMCTL (09 R210, R211). -/
def State.writeAmctl (s : State) (r : Nat) (v : Word) : State :=
  let o := 0x30018 + r * 0x200
  let old := s.cw4 0 o
  let ty := if v.getLsbD 3 then old &&& 0xC else v &&& 0xC
  let s := s.setCw4 0 o ((old &&& 0xF0) ||| ty ||| (v &&& 2))
  if v.getLsbD 0 ∧ s.amStatus r ≠ 1 then
    let m := s.amPending r
    if s.amBusy ≠ [] ∧ s.amCheck r m true ≠ 0 then s.setAmStatus r (s.amCheck r m true)
    else { (s.setAmStatus r 1) with amBusy := s.amBusy ++ [(r, m)] }
  else s

/-- AMCTL_GO (09 R211). -/
def execAmctlGo (_die region : Nat) (value : BitVec 32) (s : State) : Next := done (s.writeAmctl region (value ||| 1))

/-- A copy passes into force: cores and slices adopt it, and each slice drops the clean lines of the range that it no longer owns. The new owner
fetches a pinned one again, and a promise that this delays breaks with cause EVICT (09 R212). -/
def State.adopt (s : State) (r : Nat) (m : AmRegion) : State :=
  let s := { s with am := tset s.am r m }
  let moves := fun l : L2Line => m.maps && m.covers l.addr && l.dirty == 0 && l.slice != m.slice (l.addr * 128)
  let moved := (s.l2.filter moves).filter (fun l => !l.pins.isEmpty)
  let s := (moved.flatMap (·.pins)).foldl (fun s p => s.delay p 1) s
  moved.foldl (fun s l => s.l2Touch (m.slice (l.addr * 128)) l.addr l.valid 0 true l.cls l.stream l.pins) { s with l2 := s.l2.filter (fun l => !moves l) }

/-- ADDRESS_MAP_COMMIT (09 R211, R212). -/
def execAddressMapCommit (s : State) : Next :=
  match s.amBusy with
  | [] => done s
  | (r, m) :: rest =>
    let s := { s with amBusy := rest }
    match s.amCheck r m false with
    | 0 => done ((s.adopt r m).setAmStatus r 2)
    | st => done (s.setAmStatus r st)

/-- Evicts lines of a class on a die's slices until no set exceeds the quota: unpinned ones first, least recently used first; a
pin on one breaks its promise with cause EVICT (09 R204). -/
def State.reclaim (s : State) (die cls quota : Nat) : State :=
  let mine := s.l2.reverse.filter (fun l => l.slice / 64 == die && l.cls == cls)
  ((mine.filter (fun l => l.pins.isEmpty)) ++ (mine.filter (fun l => !l.pins.isEmpty))).foldl (fun s v =>
    let same := fun l : L2Line => l.slice == v.slice && l.cls == cls && l2Set l.addr == l2Set v.addr
    if quota < (s.l2.filter same).length then
      let s := v.pins.foldl (fun s p => s.delay p 1) s
      { s with l2 := s.l2.filter (fun l => !(l.slice == v.slice && l.addr == v.addr)) }
    else s) s

/-- A write of L2QUOTA (09 R204). A value above 16 is held and read back as written, and taken as 16 where it is used (DESIGN CHOICE, log 86). -/
def State.writeQuota (s : State) (die : Nat) (v : Word) : State :=
  let s' := s.setCw4 die 0x20100 (v &&& 0x1F1F1F1F)
  (List.range 4).foldl (fun x cls => if s'.l2Quota die cls < s.l2Quota die cls then x.reclaim die cls (s'.l2Quota die cls) else x) s'

/-- L2QUOTA_WRITE (09 R204). -/
def execL2quotaWrite (die : Nat) (value : BitVec 32) (s : State) : Next := done (s.writeQuota die value)

/-- SACTL_APPLY (09 R217): an edit waits for the frame boundary. -/
def State.applySlots (s : State) (die : Nat) : State :=
  { s with slotPending := if s.slotPending.contains die then s.slotPending else s.slotPending ++ [die] }

/-- SACTL_APPLY (09 R217). -/
def execSactlApply (die : Nat) (s : State) : Next := done (s.applySlots die)

/-- The slot tables of a die: offset of the table and the number of its stops. -/
def slotTables : List (Nat × Nat) :=
  (List.range 16).map (fun n => (0x40000 + n * 0x100, 34)) ++ (List.range 4).map (fun i => (0x41000 + i * 0x100, 2))
  ++ (List.range 4).map (fun i => (0x41800 + i * 0x100, 2))

/-- Whether the allocator of a die applies a table's edits: a link's table only on its lower-numbered die (09 R216). -/
def slotOwn (die off : Nat) : Bool := linkHome die off == die

/-- An entry of a slot table. -/
def State.slotEntry (s : State) (die table i : Nat) : Word := s.cw4 die (table + i * 4)

/-- The pending tables of a die are refused (09 R217). -/
def State.slotsBad (s : State) (die : Nat) : Bool :=
  slotTables.any (fun t => slotOwn die t.1 && (List.range 64).any (fun i =>
    let e := s.slotEntry die t.1 i
    e.getLsbD 15 && decide (t.2 ≤ e.toNat % 64)))
  || (List.range 16).any (fun n => n / 2 % 2 == 1 && (List.range 16).any (fun sl =>
    !(List.range 64).any (fun i =>
      let e := s.slotEntry die (0x40000 + n * 0x100) i
      e.getLsbD 15 && e.toNat % 64 == 2 * sl + 1)))

/-- The slots that an edit of the 8-byte pair at a key takes from their stops, each by the key of its table's first entries and its number. -/
def slotsTaken (key : Nat) (old new : DWord) : List (Nat × Nat) :=
  (([0, 1] : List Nat).filter (fun h =>
    let a := old.extractLsb' (32 * h) 32
    let b := new.extractLsb' (32 * h) 32
    a.getLsbD 15 && (!b.getLsbD 15 || a.toNat % 64 != b.toNat % 64))).map (fun h => (key / 128 * 128 + key % 4, key / 4 % 32 * 2 + h))

/-- The listed entries of the tables whose edits a die's allocator applies. -/
def State.slotEdits (s : State) (die : Nat) : List (Nat × DWord) :=
  s.cw.filter (fun e => e.1 % 4 == die && decide (0x40000 ≤ e.1 / 4 * 8) && decide (e.1 / 4 * 8 < 0x41C00))

/-- The hop whose table has a key, for a stop. -/
def hopAt (key stop : Nat) : Hop := { die := key % 4, table := key / 4 * 8, stop := stop }

/-- The slot to which the booked instances of a taken slot move: the next one in the frame that its owner owns after the edit and no load has booked;
where each is booked, the next owned one, in a later frame (09 R218; DESIGN CHOICE, log 37). -/
def State.slotMove (before after : State) (moves : List ((Nat × Nat) × Nat)) (x : Nat × Nat) : List ((Nat × Nat) × Nat) :=
  let own := after.ownedSlots (hopAt x.1 ((before.activeSlot (hopAt x.1 0) x.2).toNat % 64))
  let next := ((List.range 64).map (fun i => (x.2 + 1 + i) % 64)).filter own.contains
  let booked := fun i => moves.any (fun m => m.1.1 == x.1 && m.2 == i) || after.cores.any (fun e => e.2.loads.any (fun l => l.slots.contains (x.1, i)))
  (x, ((next.find? (fun i => !booked i)).or next.head?).getD x.2) :: moves

/-- The booked slots of a load after moves. -/
def Load.moveSlots (l : Load) (moves : List ((Nat × Nat) × Nat)) : Load :=
  { l with slots := l.slots.map (fun x => match moves.find? (fun m => m.1 == x) with
      | some m => (x.1, m.2)
      | none => x) }

/-- The loads that have booked a slot among some. -/
def State.bookedOn (s : State) (taken : List (Nat × Nat)) : List LoadRef :=
  s.cores.flatMap (fun e => (e.2.loads.filter (fun l => l.slots.any taken.contains)).map (fun l => ({ core := e.1, load := l.id } : LoadRef)))

/-- SLOT_EDIT_APPLIED (09 R217, R218): at the frame boundary the edit is the pending copy as it then stands, writes made since SACTL[0] among it
(DESIGN CHOICE, log 85). Every instance booked on a slot that changes hands moves, and the promise it serves may be delayed with cause
SLOT_REEDIT. An applied edit clears SACTL[3] (DESIGN CHOICE, log 85). -/
def execSlotEditApplied (die : Nat) (s : State) : Next :=
  if !s.slotPending.contains die then done s
  else
    let s := { s with slotPending := s.slotPending.filter (· != die) }
    if s.slotsBad die then done (s.setCw4 die 0x42000 (s.cw4 die 0x42000 ||| 8))
    else
      let edits := s.slotEdits die
      let taken := edits.flatMap (fun e => slotsTaken e.1 ((tget s.slotActive e.1).getD (cwReset (e.1 / 4 * 8))) e.2)
      let moved := s.bookedOn taken
      let after := { s with slotActive := edits.foldl (fun t e => tset t e.1 e.2) s.slotActive }
      let moves := if moved.isEmpty then [] else taken.foldl (State.slotMove s after) []
      let after := moved.foldl (fun s r => (s.delay r 5).modCore r.core (·.modLoad r.load (·.moveSlots moves))) after
      done (after.setCw4 die 0x42000 (if moved.isEmpty then 0 else 4))

/-- A write of CTXCTL (10 R229, R256). -/
def State.writeCtxctl (s : State) (ctx : Nat) (v : Word) : State :=
  let was := s.susp ctx
  let s := s.setCtxctl ctx (v &&& 0xFFFF000F)
  if !was && s.susp ctx then s.suspend ctx else s

/-- PKDROP of a port becomes 0 (19 R340). -/
def State.clearDrops (s : State) (port : Nat) : State := s.setCw4 (portDie port) (0x70020 + port * 0x40) 0

/-- PKDROP_CLEAR (19 R340). -/
def execPkdropClear (port : Nat) (s : State) : Next := done (s.clearDrops port)

/-- A write of KILL (19 R347). -/
def State.writeKill (s : State) (v : Word) : State :=
  match (v.extractLsb' 22 2).toNat with
  | 1 => s.killCtx (v.extractLsb' 16 6).toNat
  | 2 => s.killTag (v.extractLsb' 0 16)
  | _ => s

/-- A write of one 32-bit register of the window (19 R358, R359). -/
def State.cwWrite4 (s : State) (die off : Nat) (v : Word) : State :=
  if off = 0x20100 then s.writeQuota die v
  else if 0x30000 ≤ off ∧ off < 0x31000 ∧ off % 0x200 = 0x18 then s.writeAmctl ((off - 0x30000) / 0x200) v
  else if off = 0x42000 then (if v.getLsbD 0 then s.applySlots die else s)
  else if 0x50000 ≤ off ∧ off < 0x51000 ∧ off % 0x40 = 0x30 then s.writeCtxctl ((off - 0x50000) / 0x40) v
  else if 0x70000 ≤ off ∧ off < 0x70480 ∧ off % 0x40 = 0x20 ∧ portDie ((off - 0x70000) / 0x40) = die then
    s.clearDrops ((off - 0x70000) / 0x40)
  else if off = 0x71000 then s.revoke (v.extractLsb' 8 6).toNat (v.extractLsb' 0 8).toNat
  else if off = 0x71008 then s.writeKill v
  else
    let m := (cwMask die (off / 8 * 8)).extractLsb' (off % 8 * 8) 32
    if m = 0 then s else s.setCw4 die off ((s.cw4 die off &&& ~~~m) ||| (v &&& m))

/-- The 8-byte slots of registers whose write acts: address-map commits, slot edits, context control, dropped flits, revocation and kill (19 R358;
DEDUCED, log 29). -/
def cwActs (off : Nat) : Bool :=
  (0x30000 ≤ off && off < 0x31000 && off % 0x200 / 8 == 3) || off / 8 * 8 == 0x42000 || (0x50000 ≤ off && off < 0x51000 && off % 0x40 / 8 == 6)
  || (0x70000 ≤ off && off < 0x70480 && off % 0x40 / 8 == 4) || off / 8 * 8 == 0x71000 || off / 8 * 8 == 0x71008

/-- A write of 4 or 8 bytes, aligned (19 R358): a register whose write acts, as FURES, acts on 8 bytes only (DEDUCED, log 29). -/
def State.cwWrite (s : State) (die off n : Nat) (v : Nat) : State :=
  let w := BitVec.ofNat 64 v
  if off / 8 * 8 = 0x60000 then
    if n = 8 ∧ w.extractLsb' 62 2 = 0 then s.fures die (w.extractLsb' 56 6).toNat (w.extractLsb' 16 40).toNat false
    else if n = 8 ∧ w.extractLsb' 62 2 = 1 then s.fures die (w.extractLsb' 56 6).toNat (w.extractLsb' 16 40).toNat true
    else s
  else if n = 8 then (s.cwWrite4 die off (w.setWidth 32)).cwWrite4 die (off + 4) (w.extractLsb' 32 32)
  else if cwActs off then s
  else s.cwWrite4 die off (w.setWidth 32)

/-- FURES_RESOLVE (10 R241). -/
def execFuresResolve (die ctx page : Nat) (s : State) : Next := done (s.fures die ctx page false)
/-- FURES_FAIL (10 R241). -/
def execFuresFail (die ctx page : Nat) (s : State) : Next := done (s.fures die ctx page true)
/-- What the management port is told of an access of another size or alignment: an abort (19 R358). -/
def errAccess : Nat := 4

/-- CONTROL_REGISTER_WRITE (19 R358): one of another size or alignment has no effect and is answered with an abort. -/
def execControlRegisterWrite (die off size : Nat) (value : BitVec 64) (s : State) : Next :=
  if (size = 4 ∨ size = 8) ∧ off % size = 0 ∧ die < 4 then done (s.cwWrite die off size value.toNat)
  else done { s with outbox := s.outbox ++ [.management errAccess []] }

/-- The management port requests an operating point (19 R356, R357): held while a change is in progress. -/
def State.writeIslop (s : State) (island : Nat) (opp : BitVec 4) : State :=
  let off := islopOff island
  let die := island / 32
  let r := s.cw4 die off
  if 13 < opp.toNat then s
  else if r.getLsbD 31 then s.setIsland island { s.island island with held := some opp }
  else s.setCw4 die off (BitVec.ofNat 32 (2 ^ 31 + r.toNat / 65536 % 16 * 65536 + opp.toNat))

/-- ISLOP_WRITE (19 R356). -/
def execIslopWrite (island : Nat) (opp : BitVec 4) (s : State) : Next := done (s.writeIslop island opp)

/-- POWER_LIMIT_LOWER (01 R24, 19 R357): the firmware lowers an island and notifies the host. -/
def execPowerLimitLower (island : Nat) (opp : BitVec 4) (s : State) : Next :=
  if opp ≠ 0 ∧ opp.toNat < s.oppWanted island then done ((s.writeIslop island opp).send 0 (.notifyPower 0 island opp)) else done s

end Sys2Proof.Machine
end

