-- ==== Sys2Proof/Machine/Store.lean ====
section
/-! DEFINITION. LS accesses of threads: addresses, stores in and out of regions, commits (08 R185, R186), the store buffer of RBK
launches (10 R251), and the issue of loads (21 R416 to R419). -/

namespace Sys2Proof.Machine
open Sys2Proof

/-- A pointer with an offset added in its VA field (21 R416). -/
def addOff (p : DWord) (off : Int) : DWord := p.extractLsb' 56 8 ++ (p.extractLsb' 0 56 + BitVec.ofInt 56 off)

/-- The address of a memory instruction: the literal, or the base pair and an offset (21 R416). -/
def State.address (s : State) (core slot : Nat) (t : Thread) (x : XOps) (off : Int) : Except Stop DWord :=
  if x.lit.isSome ∧ x.a = 0xF8 then .ok (x.lit.getD 0)
  else do
    let p ← s.src64 core slot t x.lit x.a
    .ok (addOff p off)

/-- The codes of the base pair of a memory instruction. -/
def baseCodes (x : XOps) : List (BitVec 8) := if x.a = 0xF8 then [] else pairOf x.a

/-- What a failed access of a thread does when it is not a load (10 R236, R237). -/
def Thread.faultStop (t : Thread) (f : FaultInfo) : Stop :=
  if f.kind.repairable then
    if t.openRegion.isSome then .abortRegion f else .trap causePageFault (some f)
  else .trap f.kind.cause (some f)

/-- A VA by which bytes are compared: the two names of a byte of the own core's store are one. -/
def byteVa (core : Nat) (p : DWord) : Nat :=
  let va := (p.extractLsb' 0 56).toNat
  if 0x00FF000000000000 ≤ va then 0x00FE000000000000 + core * 0x1000000 + (va - 0x00FF000000000000) else va

/-- Where a buffered store goes, by the translation made at its issue (10 R237). -/
def Buffered.target (core : Nat) (b : Buffered) : Target :=
  let va := (b.va.extractLsb' 0 56).toNat
  if 0x00FE000000000000 ≤ va then .store (windowAt core va).1 (windowAt core va).2
  else if vaEnd ≤ va then .control ((va - vaEnd) / 2 ^ 40) ((va - vaEnd) % 2 ^ 40)
  else ({ ctx := 0, va := b.page, size := 0, leaf := b.leaf, bound := (0, 0), window := b.window } : Tlb).target va

/-- What a buffered store holds at a place; an element of an NQ page as a read would return it (10 R227). -/
def Buffered.byteAt (core : Nat) (place : Nat) (b : Buffered) : Option Nat :=
  ((List.range b.size).find? (fun i => (b.target core).place i == place)).map (fun i =>
    let v := b.data.toNat / 256 ^ i % 256
    if leafNq b.leaf then
      let p := nqPlanes (leafFmt b.leaf)
      ((clampInt (-(2 ^ (p - 1) : Nat)) ((2 ^ (p - 1) : Nat) - 1) (sbyte v)) % 256).toNat
    else v)

/-- The bytes that stores lay over those of a target, by their place in the access: each that of the latest store (08 R175). -/
def laidOver (core : Nat) (bs : List Buffered) (t : Target) (n : Nat) : List (Nat × BitVec 8) :=
  if bs.isEmpty then []
  else (List.range n).filterMap (fun i =>
    (bs.reverse.findSome? (Buffered.byteAt core (t.place i))).map (fun b => (i, BitVec.ofNat 8 b)))

/-- A value with bytes laid over it. -/
def overlay (o : List (Nat × BitVec 8)) (n v : Nat) : Nat :=
  if o.isEmpty then v
  else (List.range n).foldr (fun i acc =>
    (match tget o i with
      | some b => b.toNat
      | none => v / 256 ^ i % 256) + 256 * acc) 0

/-- Whether a buffered store shares a byte with an access to a target (08 R175, R176). -/
def Buffered.meets (core : Nat) (b : Buffered) (t : Target) (n : Nat) : Bool :=
  (List.range n).any (fun i => (b.byteAt core (t.place i)).isSome)

/-- Whether two buffered stores share a byte. -/
def Buffered.overlaps (core : Nat) (a b : Buffered) : Bool := a.meets core (b.target core) b.size

/-- The 32-byte granules that stores take (08 R185). -/
def granules (core : Nat) (bs : List Buffered) : List Nat :=
  (bs.flatMap (fun b => [byteVa core b.va / 32, (byteVa core b.va + b.size - 1) / 32])).eraseDups

/-- Whether a thread's crew holds the marble of its launch (08 R196). -/
def State.hasMarble (s : State) (core slot : Nat) (t : Thread) : Bool :=
  match s.launch? t.lid, (s.core core).crew? (slot / 64) with
  | some l, some c => l.marble == some c.order
  | _, _ => false

/-- A store that R251 never holds for its kind: bypass-hinted, to a window, or to a DS page. -/
def Buffered.direct (b : Buffered) : Bool :=
  b.hint == 3 || decide (0x00FD000000000000 ≤ (b.va.extractLsb' 0 56).toNat) || leafTier b.leaf == 2 || leafDs b.leaf

/-- The record of a store that met an abort when it was performed directly (22 R462). -/
def State.recordStore (s : State) (core : Nat) (b : Buffered) (k : FaultKind) (pa : Nat) : State :=
  s.record {
    addr := if k = .unmappedPa then BitVec.ofNat 64 pa else b.va
    pc := b.pc, block := b.block, kind := k, core := core, path := .ls, write := true, eng := false, tid := b.tid
    ctx := (s.rcd b.lid).ctx }

/-- Writes bytes into a core store; a word lost there is whole again when all of it is written. -/
def Core.writeStore (c : Core) (off n v : Nat) : Core :=
  { (c.unlatch off n) with
    store := c.store.putN off n v
    bad := if c.bad.isEmpty then [] else c.bad.filter (fun w => !(decide (off ≤ w.1 * 4) && decide (w.1 * 4 + 4 ≤ off + n))) }

/-- Performs a committed store at the core (22 R461): the core store, the control window, a fabric window, elements, the point of
coherence, or the L1 share. `cover`: the bytes that its issue group stores (09 R205). -/
def State.performStore (s : State) (core : Nat) (b : Buffered) (cover : Cover := []) : State :=
  let v := b.data.toNat
  let r := s.rcd b.lid
  match b.target core with
  | .store c off => s.modCore c (·.writeStore off b.size v)
  | .control die off => s.cwWrite die off b.size v
  | .fabric w off => s.sendFabric r.ctx (.write core b.lid b.block b.slot b.tid b.pc) b.va w off b.size (.write v)
  | .elem frame e leaf =>
    (match s.writeView core b.lid r.ctx leaf frame e b.size v with
    | (s, .error (k, pa)) => s.recordStore core b k pa
    | (s, .ok n) =>
      if n = 0 then s
      else s.modThread core b.slot (fun t => if t.lid = b.lid ∧ t.block = b.block ∧ t.tid = b.tid then t.clamped n else t))
  | .mem pa leaf =>
    if atPoc r.det leaf b.hint then
      match s.writePoc core b.lid r.ctx leaf pa b.size v cover with
      | (s, some k) => s.recordStore core b k pa
      | (s, none) => s
    else s.writeL1 core b.lid r.ctx leaf b.va b.pc b.tid b.block pa b.size b.hint v

/-- The stores that a block's store buffer holds for its next checkpoint (10 R251). -/
def State.heldStores (s : State) (core lid block : Nat) : List Buffered :=
  (((s.core core).block? lid block).map (·.deferred)).getD []

/-- Commits a store: performed at the core, or held for the next checkpoint of an RBK block (10 R251). -/
def State.commitStore (s : State) (core : Nat) (b : Buffered) (cover : Cover := []) : State :=
  let r := s.rcd b.lid
  if r.rbk ∧ (!b.direct ∨ (s.heldStores core b.lid b.block).any (fun h => h.overlaps core b)) then
    s.modCore core (·.modBlock b.lid b.block (fun k => { k with deferred := k.deferred ++ [b] }))
  else s.performStore core b cover

/-- Commits stores in their order (08 R186), in one step (DESIGN CHOICE, log 72). -/
def State.commitStores (s : State) (core : Nat) (bs : List Buffered) : State :=
  bs.foldl (fun s b => s.commitStore core b) s

/-- Performs the held stores of a block that share bytes with an access which is never deferred (DEDUCED, log 17). -/
def State.releaseOverlap (s : State) (core : Nat) (t : Thread) (target : Target) (n : Nat) : State :=
  let held := s.heldStores core t.lid t.block
  if held.isEmpty then s
  else
    let s := s.modCore core (·.modBlock t.lid t.block (fun k => { k with deferred := k.deferred.filter (fun b => !b.meets core target n) }))
    (held.filter (fun b => b.meets core target n)).foldl (fun s b => s.performStore core b) s

/-- What is left of a buffered store once a later store of its thread has taken bytes of it (08 R176). -/
def Buffered.without (core : Nat) (b : Buffered) (t : Target) (n : Nat) : List Buffered :=
  if b.meets core t n then
    ((List.range b.size).filter (fun i => !(List.range n).any (fun j => t.place j == (b.target core).place i))).map (fun i =>
      { b with va := addOff b.va (i : Nat), size := 1, data := BitVec.ofNat 128 (b.data.toNat / 256 ^ i % 256) })
  else [b]

/-- A store that a handler performs is later than those of the suspended region, which are still buffered (10 R245): they lose the bytes that it
writes, so that the region's commit does not bring the older ones back (08 R175, R176; DEDUCED, log 100). -/
def State.passRegion (s : State) (core slot : Nat) (t : Target) (n : Nat) : State :=
  match (s.thread? core slot).bind (·.region) with
  | some r =>
    if r.stores.any (fun b => b.meets core t n) then
      s.modThread core slot (fun u => { u with region := some { r with stores := r.stores.flatMap (fun b => b.without core t n) } })
    else s
  | none => s

/-- Performs the stores of a handler's suspended region that share bytes with an atomic operation of the handler, in order before it (08 R176; DEDUCED,
log 100). -/
def State.releaseRegion (s : State) (core slot : Nat) (t : Target) (n : Nat) : State :=
  match (s.thread? core slot).bind (·.region) with
  | some r =>
    if r.stores.any (fun b => b.meets core t n) then
      (r.stores.filter (fun b => b.meets core t n)).foldl (fun s b => s.commitStore core b)
        (s.modThread core slot (fun u => { u with region := some { r with stores := r.stores.filter (fun b => !b.meets core t n) } }))
    else s
  | none => s

/-- Granules in use of a block's store buffer: those of its threads' regions and of its held stores (10 R251). -/
def State.sbufUsed (s : State) (core lid block : Nat) : Nat :=
  let c := s.core core
  c.threads.foldl (fun n e =>
    if e.2.lid = lid ∧ e.2.block = block then
      match e.2.region with
      | some r => n + (granules core r.stores).length
      | none => n
    else n) (granules core (s.heldStores core lid block)).length

/-- Whether a store finds a free granule: 16 for a thread's region, and in an RBK launch SBUF bytes for the block (08 R185, 10
R251). -/
def State.granuleFree (s : State) (core : Nat) (t : Thread) (b : Buffered) : Bool :=
  let r := s.rcd t.lid
  let held := s.heldStores core t.lid t.block
  match t.openRegion with
  | some g =>
    let now := (granules core g.stores).length
    let new := (granules core (g.stores ++ [b])).length
    decide (new ≤ 16) && (!r.rbk || decide (s.sbufUsed core t.lid t.block + (new - now) ≤ r.sbuf / 32))
  | none =>
    if r.rbk ∧ (!b.direct ∨ held.any (fun h => h.overlaps core b)) then
      decide (s.sbufUsed core t.lid t.block + ((granules core (held ++ [b])).length - (granules core held).length) ≤ r.sbuf / 32)
    else true

/-- What stops a commit of a thread's open region (08 R186, R197, 10 R238) (DEDUCED, log 32). -/
def State.commitCheck (s : State) (core slot : Nat) (t : Thread) : Except Stop Unit :=
  match t.openRegion with
  | none => .ok ()
  | some r =>
    match t.taints.reverse.find? (fun x => x.kind.repairable) with
    | some x => .error (.taint x)
    | none =>
      if (s.rcd t.lid).det ∧ r.stores.any (fun b => leafDs b.leaf) ∧ !s.hasMarble core slot t then .error (.park .marble) else .ok ()

/-- Commits a thread's open region (08 R186); `next` is where it reopens, if it does (DEDUCED, log 31). -/
def State.commitTo (s : State) (core slot : Nat) (next : Option DWord) : State :=
  match s.thread? core slot with
  | none => s
  | some t =>
    match t.openRegion with
    | none => s
    | some r =>
      let s := s.modThread core slot (fun t => { t with region := next.map (fun p => { start := p, stores := [] }) })
      s.commitStores core r.stores

/-- An instruction that commits the open region (08 R186): the faults of the thread's loads are recorded (10 R238), then its region is committed,
and the instruction goes on with none open; `was`: one was open. -/
def State.commitThen (s : State) (core slot : Nat) (body : Thread → Bool → State → State) : State :=
  let s := s.recordFaults core slot
  match s.thread? core slot with
  | none => s
  | some t =>
    match s.commitCheck core slot t with
    | .error st => s.stop core slot st
    | .ok _ => body t t.openRegion.isSome (s.commitTo core slot none)

/-- The region that an instruction has committed reopens at an address (08 R186). -/
def State.reopen (s : State) (core slot : Nat) (was : Bool) (pc : DWord) : State :=
  if was then s.modThread core slot (fun t => { t with region := some { start := pc, stores := [] } }) else s

/-- What stops an instruction whose region is committed: a park leaves the region open at the instruction, to be taken up when it goes on. -/
def State.halt (s : State) (core slot : Nat) (was : Bool) (t : Thread) (st : Stop) : State :=
  match st with
  | .park p => (s.reopen core slot was t.pc).stop core slot (.park p)
  | st => s.stop core slot st

/-- Such an instruction is over: the region reopens at the next one (08 R186). -/
def State.past (s : State) (core slot len : Nat) (was : Bool) (t : Thread) : State :=
  (s.modCore core (·.advance slot len)).reopen core slot was (t.pc + BitVec.ofNat 64 len)

/-- An instruction that commits the open region, acts with none open, and reopens it at the next instruction (08 R186). `pre` is
checked before the commit. -/
def State.committing (s : State) (core len slot : Nat) (pre : Except Stop Unit) (body : State → Except Stop (State → State)) : State :=
  match pre with
  | .error st => s.stop core slot st
  | .ok _ => s.commitThen core slot (fun t was s =>
      match body s with
      | .error st => s.halt core slot was t st
      | .ok k => k (s.past core slot len was t))

/-- The first word of a range of a core store that holds no value. -/
def Core.badIn (c : Core) (off n : Nat) : Option (Nat × FaultKind) :=
  c.bad.find? (fun w => decide (off < w.1 * 4 + 4) && decide (w.1 * 4 < off + n))

/-- The size in bytes of an access by SUB[2:0] (03 R78). -/
def sizeOf_ (x : XOps) : Nat := 2 ^ (x.sub.extractLsb' 0 3).toNat

/-- The cache hint of SUB[5:4] (03 R78): 0 normal, 1 stream, 2 retain, 3 bypass. -/
def hintOf (x : XOps) : Nat := (x.sub.extractLsb' 4 2).toNat

/-- A store as it is buffered or performed, with its translation. -/
def buffered (t : Thread) (slot : Nat) (ptr : DWord) (n hint : Nat) (v : BitVec 128) (e : Option Tlb) : Buffered where
  va := ptr
  size := n
  data := v
  hint := hint
  pc := t.pc
  slot := slot
  lid := t.lid
  block := t.block
  tid := t.tid
  leaf := (e.map (·.leaf)).getD 0
  page := (e.map (·.va)).getD 0
  window := (e.map (·.window)).getD (0, 0)

/-- One store of a thread: its checks, then its buffering or commit (22 R461). -/
def State.storeBy (s : State) (core slot : Nat) (t : Thread) (ptr : DWord) (n hint : Nat) (v : BitVec 128) (who : Who := .ldst)
    (cover : Cover := []) : Except Stop (State → State) :=
  match s.resolve core t.lid (s.ctxOf t) (s.core core).tlb (s.priv t) who ptr n .write .ls with
  | .error f =>
    if f.kind.aborts then .ok (fun s => (s.sawFault (s.ctxOf t) f).recordStore core (buffered t slot ptr n hint v none) f.kind f.pa)
    else .error (t.faultStop f)
  | .ok (target, e) =>
    let b := buffered t slot ptr n hint v e
    if !s.granuleFree core t b then .error (.overflow ptr)
    else
      match t.openRegion with
      | some _ => .ok (fun s => (s.fillTlb core e).modThread core slot (fun t => { t with
          region := t.region.map (fun r => { r with stores := r.stores ++ [b] }) }))
      | none =>
        if (s.rcd t.lid).det ∧ leafDs b.leaf ∧ !s.hasMarble core slot t then .error (.park .marble)
        else .ok (fun s => ((s.fillTlb core e).passRegion core slot target n).commitStore core b cover)

/-- The bytes that a thread's stores hold above memory: its block's held stores, then its region's, be it open or suspended while the thread is in
handler mode (08 R175, R176). -/
def State.above (s : State) (core : Nat) (t : Thread) : List Buffered :=
  s.heldStores core t.lid t.block ++ (match t.region with
    | some r => r.stores
    | none => [])

/-- A load's data register codes with the words they take; a k code is written for the lowest lane of its crew only (21 R417). -/
def destsOf (code : BitVec 8) (n : Nat) (lead : Bool) : List (BitVec 8 × Nat) :=
  if code = 0xF8 ∨ (¬code.toNat < 0xE0 ∧ !lead) then [] else (codesOf code n).zipIdx

/-- The value of a load as its registers take it: B and H extended to 32 bits (21 R416). -/
def extend (n : Nat) (signed : Bool) (v : Nat) : BitVec 128 :=
  if signed ∧ n = 1 then ((BitVec.ofNat 8 v).signExtend 32).setWidth 128
  else if signed ∧ n = 2 then ((BitVec.ofNat 16 v).signExtend 32).setWidth 128
  else BitVec.ofNat 128 (v % 256 ^ n)

/-- A time register takes a new load or is cleared: the load that faulted under its name is forgotten, an aborted one loses the
name (10 R238, R250). -/
def Thread.freeTreg (t : Thread) (n : BitVec 3) : Thread :=
  { t with taints := (t.taints.filter (fun k => !(k.treg == some n && k.kind.repairable))).map (fun k =>
      if k.treg = some n then { k with treg := none } else k) }

/-- A load enters its core (05 R117): its register becomes PROBING with the issue cycle; its bytes are those of now (DESIGN
CHOICE, log 72). -/
def State.issueLoad (s : State) (core slot : Nat) (t : Thread) (x : XOps) (kind : LoadKind) (ptr : DWord)
    (dests : List (BitVec 8 × Nat)) (data : Option (BitVec 128)) (source : Nat) (req : Option (Nat × Nat × Nat) := none) (leaf : DWord := 0)
    (cause : Option Nat := none) (fault : Option (FaultKind × Nat) := none) (overlaid : List (Nat × BitVec 8) := []) : State × Nat :=
  let now := s.now29 core
  let w := mkTreg .probing now
  let (id, s) := s.fresh
  let l : Load := {
    id, slot, kind, treg := if x.te then some x.t else none, hidden := w, dests, data, va := ptr, pc := t.pc, la := x.la.toNat
    issued := now, source, req, hint := hintOf x, own := s.ownPromise core now source, slots := [], promised := none, cause, booked := none
    heldData := false, heldAbort := none, ending := none
    fault, leaf, size := if kind = .pref then 0 else sizeOf_ x, signed := (kind == .ld || kind == .ldk) && x.sub.getLsbD 3, overlaid }
  let s := s.modCore core (fun c => { c with loads := c.loads ++ [l] })
  (if x.te then
    s.modThread core slot (fun t => (t.setTreg x.t w).freeTreg x.t)
   else s, id)

/-- Waits at issue while the time register that an instruction names is pending (05 R126). -/
def Thread.tregFree (t : Thread) (x : XOps) : Except Stop Unit :=
  if x.te ∧ tpending (t.treg x.t) then .error (.park (.time x.t)) else .ok ()

/-- What a read found: the state after it, with the value and who promises it; a failure gives its PA. -/
abbrev Found := State × Except (FaultKind × Nat) (Nat × Nat)

/-- The memory that promises an access to a page: CXL, or a slice. -/
def leafSource (leaf : DWord) : Nat := if leafTier leaf = 1 then 1 else 3

/-- A read of a resolved LS target (21 R416). -/
def State.readTarget (s : State) (core : Nat) (t : Thread) (target : Target) (n hint : Nat) (cover : Cover) : Found :=
  let r := s.rcd t.lid
  let above := fun v => overlay (laidOver core (s.above core t) target n) n v
  match target with
  | .store c off => (s, .ok (above ((s.core c).store.getN off n), if c = core then 0 else 8 + c))
  | .control die off => (s, .ok (above (s.cwRead die off n), 5))
  | .fabric w off =>
    match s.farBad w off n with
    | some k => (s, .error (k, 0))
    | none => (s, .ok (0, 2))
  | .elem frame e leaf =>
    (match s.readView core t.lid r.ctx leaf frame e n hint cover with
    | (s, .error k) => (s, .error k)
    | (s, .ok v) => (s, .ok (above v, leafSource leaf)))
  | .mem pa leaf =>
    if atPoc r.det leaf hint then
      match s.readPoc core t.lid r.ctx leaf pa n hint cover with
      | (s, .error k) => (s, .error (k, pa))
      | (s, .ok v) => (s, .ok (above v, leafSource leaf))
    else
      match s.readL1 core t.lid r.ctx leaf pa n hint cover with
      | (s, .error k) => (s, .error (k, pa))
      | (s, .ok (v, hit)) => (s, .ok (above v, if hit then 0 else leafSource leaf))

/-- A read of a resolved KR target: through the constant cache, or with a bypass hint at the point of coherence (21 R421). -/
def State.readKrTarget (s : State) (core : Nat) (t : Thread) (target : Target) (n hint : Nat) (cover : Cover) : Found :=
  let ctx := s.ctxOf t
  match target with
  | .mem pa leaf =>
    if hint = 3 then
      match s.readPoc core t.lid ctx leaf pa n hint cover with
      | (s, .error k) => (s, .error (k, pa))
      | (s, .ok v) => (s, .ok (v, leafSource leaf))
    else
      match s.readKr core ctx leaf pa n hint cover with
      | (s, .error k) => (s, .error (k, pa))
      | (s, .ok (v, hit)) => (s, .ok (v, if hit then 0 else leafSource leaf))
  | .fabric w off =>
    match s.farBad w off n with
    | some k => (s, .error (k, 0))
    | none => (s, .ok (0, 2))
  | _ => (s, .ok (0, 2))

/-- The load that a request already serves: the threads of a request share what it has found (05 R116, 09 R205). -/
def Core.sharer (c : Core) (req : Nat × Nat × Nat) : Option Load := c.loads.find? (fun l => l.req == some req)

/-- The cause with which a request starts: a correctable error that it meets in DRAM forces a re-read (05 R129, 09 R221). -/
def State.retryCause (s : State) (target : Target) (at_ : Nat × Nat) (source : Nat) : Option Nat :=
  if (source = 1 ∨ source = 3) ∧ (s.meets at_.1 at_.2 (leafMac target.leaf)).isEmpty = false then some 3 else none

/-- A load that a request serves enters its core: it has the source and the delays of the request's other loads (05 R116). -/
def State.issueShared (s : State) (core slot : Nat) (t : Thread) (x : XOps) (kind : LoadKind) (ptr : DWord) (dests : List (BitVec 8 × Nat))
    (data : Option (BitVec 128)) (source : Nat) (at_ : Nat × Nat) (leaf : DWord) (cause : Option Nat) (overlaid : List (Nat × BitVec 8)) :
    State × Nat :=
  let req := (s.time, at_.1, at_.2)
  match (s.core core).sharer req with
  | some l => s.issueLoad core slot t x kind ptr dests data l.source (some req) leaf l.cause none overlaid
  | none => s.issueLoad core slot t x kind ptr dests data source (some req) leaf cause none overlaid

/-- Sends the window read of a load: one for the block of its group's request, which the group's loads share (09 R205, 19 R344). `off` and `n`: the
bytes asked for, of which the pointer names byte `at_`. -/
def State.askWindow (s : State) (core slot : Nat) (t : Thread) (id : Nat) (kind : LoadKind) (req : Option (Nat × Nat × Nat)) (ptr : DWord)
    (win : DWord × DWord) (at_ off n : Nat) (ask : Ask) : State :=
  s.sendFabric (s.ctxOf t) (.load core id kind req t.lid t.block slot t.tid t.pc) (addOff ptr (off - at_ : Int)) win off n ask

/-- Issues the load of a resolved target; `kr` reads through the constant cache (21 R416, R421). -/
def State.loadFrom (s : State) (core slot : Nat) (t : Thread) (x : XOps) (kr : Bool) (ptr : DWord) (n : Nat)
    (dests : List (BitVec 8 × Nat)) (target : Target) (cover : Cover) : State :=
  let kind := if kr then .ldk else .ld
  let at_ := target.request cover n
  match (if kr then s.readKrTarget core t target n (hintOf x) cover else s.readTarget core t target n (hintOf x) cover) with
  | (s, .error (k, pa)) =>
    let (s, id) := s.issueLoad core slot t x kind ptr dests none 3
    s.abortLoad core id k pa
  | (s', .ok (v, src)) =>
    let cause := s.retryCause target at_ src
    match target with
    | .fabric w off =>
      let laid := if kr then [] else laidOver core (s.above core t) target n
      let asked := ((s'.core core).sharer (s'.time, at_.1, at_.2)).isSome
      let (s, id) := s'.issueShared core slot t x kind ptr dests none 2 at_ 0 none laid
      if asked then s
      else s.askWindow core slot t id kind (some (s.time, at_.1, at_.2)) ptr w off (off / 128 * 128 + at_.1 % 128) at_.2 .read
    | _ => (s'.issueShared core slot t x kind ptr dests (some (extend n (x.sub.getLsbD 3) v)) src at_ target.leaf cause []).1

/-- What LD or LDK of a thread accesses, after the checks that come before its translation: mapped registers, its address and alignment, and
the wait for its time register (21 R416, R419). -/
def State.loadArgs (s : State) (core slot : Nat) (t : Thread) (x : XOps) : Except Stop DWord := do
  (s.core core).checkMapped slot ((if x.d = 0xF8 then [] else codesOf x.d (sizeOf_ x)) ++ baseCodes x)
  let ptr ← s.address core slot t x x.imm.toInt
  needAligned ptr (sizeOf_ x)
  t.tregFree x
  .ok ptr

/-- Where LD or LDK of a thread reads (10 R233). -/
def State.resolveLoad (s : State) (core : Nat) (t : Thread) (x : XOps) (kr : Bool) (ptr : DWord) : Except FaultInfo (Target × Option Tlb) :=
  s.resolve core t.lid (s.ctxOf t) (s.core core).tlb (s.priv t) (if kr then .other else .ldst) ptr (sizeOf_ x) .read (if kr then .kr else .ls)

/-- The bytes that LD or LDK of the issue group touches (09 R205; for LDK DESIGN CHOICE, log 76). -/
def State.loadCover (s : State) (x : XOps) (kr : Bool) : Cover :=
  s.coverOf x.g (fun core slot t =>
    match s.loadArgs core slot t x with
    | .error _ => none
    | .ok ptr =>
      match s.resolveLoad core t x kr ptr with
      | .error _ => none
      | .ok (target, _) => some (target, sizeOf_ x))

/-- LD and LDK of a thread with its arguments (21 R416, R421). `lead`: the lowest lane of its crew in the group. -/
def State.loadBy (s : State) (core slot : Nat) (t : Thread) (x : XOps) (kr lead : Bool) (cover : Cover) (args : Except Stop DWord) :
    Except Stop (State → State) := do
  let ptr ← args
  let n := sizeOf_ x
  let kind := if kr then LoadKind.ldk else .ld
  let dests := destsOf x.d n lead
  match s.resolveLoad core t x kr ptr with
  | .error f =>
    if f.kind.aborts then
      .ok (fun s =>
        let (s, id) := (s.sawFault (s.ctxOf t) f).issueLoad core slot t x kind ptr dests none 3
        s.abortLoad core id f.kind f.pa f.level)
    else if f.kind.repairable ∧ t.openRegion.isSome then
      .ok (fun s => ((s.sawFault (s.ctxOf t) f).issueLoad core slot t x kind ptr dests none 3 none 0 none (some (f.kind, f.level))).1)
    else .error (t.faultStop f)
  | .ok (target, e) =>
    match target with
    | .store c off =>
      match (s.core c).badIn off n with
      | some w => .error (.eccAt ptr false w.2)
      | none => .ok (fun s => s.loadFrom core slot t x kr ptr n dests target cover)
    | _ => .ok (fun s => (s.fillTlb core e).loadFrom core slot t x kr ptr n dests target cover)

end Sys2Proof.Machine
end

