-- ==== Sys2Proof/Machine/Mem.lean ====
section
/-! DEFINITION. The LS and KR instructions of threads: LD, LDK, ST, ATOM, RED and PREF (20 R366 to R369, 21 R416 to R421, 22 R440,
R446 to R448, R461, R462). The threads of a group act in ascending lane order. -/

namespace Sys2Proof.Machine
open Sys2Proof

/-- Whether a thread of the group is its crew's lowest active lane, whose value a k destination takes (04 R100). -/
def State.leads (s : State) (g : Guard) (core slot : Nat) : Bool :=
  match s.cur with
  | none => true
  | some gr => !gr.slots.any (fun o => o / 64 == slot / 64 && decide (o < slot) && ((s.thread? core o).map (·.guard g)).getD false)

/-- LD of a thread (21 R416); `s₀` is the state at issue, from which the threads of a group take their operands. -/
def ldOne (x : XOps) (s₀ : State) (cover : Cover) (s : State) (core slot : Nat) (t : Thread) : State :=
  s.finish core x.len slot (s.loadBy core slot t x false (s₀.leads x.g core slot) cover (s₀.loadArgs core slot t x))

/-- LD. -/
def execLd (x : XOps) (s : State) : Next := done (s.holding x (fun s => s.runSeq x.len x.g (ldOne x s (s.loadCover x false))))

/-- LDK of a thread (21 R421). -/
def ldkOne (x : XOps) (s₀ : State) (cover : Cover) (s : State) (core slot : Nat) (t : Thread) : State :=
  s.finish core x.len slot (s.loadBy core slot t x true (s₀.leads x.g core slot) cover (s₀.loadArgs core slot t x))

/-- LDK. -/
def execLdk (x : XOps) (s : State) : Next := done (s.holding x (fun s => s.runSeq x.len x.g (ldkOne x s (s.loadCover x true))))

/-- The pointer and the value of ST of a thread, after the checks that come before its translation (22 R461, R462). -/
def State.stArgs (s : State) (core slot : Nat) (t : Thread) (x : XOps) : Except Stop (DWord × BitVec 128) := do
  let n := sizeOf_ x
  (s.core core).checkMapped slot (codesOf x.b n ++ baseCodes x)
  let ptr ← s.address core slot t x x.imm.toInt
  needAligned ptr n
  let v ← s.srcN core slot t x.lit x.b n
  .ok (ptr, v)

/-- The bytes that ST of the issue group sends to slices at once: those of its threads with no region open, where the hint is bypass or the launch
runs as DET (09 R201, R205). -/
def State.storeCover (s : State) (x : XOps) : Cover :=
  if hintOf x = 3 ∨ (s.cur.map (fun g => (s.rcd g.lid).det)).getD false then
    s.coverOf x.g (fun core slot t =>
      match s.stArgs core slot t x with
      | .error _ => none
      | .ok (ptr, _) =>
        match s.resolve core t.lid (s.ctxOf t) (s.core core).tlb (s.priv t) .ldst ptr (sizeOf_ x) .write .ls with
        | .error _ => none
        | .ok (target, _) => if t.openRegion.isSome then none else some (target, sizeOf_ x))
  else []

/-- ST of a thread. -/
def stOne (x : XOps) (s₀ : State) (cover : Cover) (s : State) (core slot : Nat) (t : Thread) : State :=
  s.finish core x.len slot (do
    let (ptr, v) ← s₀.stArgs core slot t x
    s.storeBy core slot t ptr (sizeOf_ x) (hintOf x) v .ldst cover)

/-- ST. -/
def execSt (x : XOps) (s : State) : Next := done (s.holding x (fun s => s.runSeq x.len x.g (stOne x s (s.storeCover x))))

/-- The operation code of ATOM and RED (20 R366). -/
def atomOp (x : XOps) : Nat := (x.imm.extractLsb' 28 4).toNat

/-- Their offset. -/
def atomOff (x : XOps) : Int := (x.imm.extractLsb' 0 28).toInt

/-- Their size in bytes. -/
def atomSize (x : XOps) : Nat := if x.sub.extractLsb' 0 3 = 2 then 4 else 8

/-- The address of an atomic operation, after the checks that come before its region is committed (20 R366, 22 R446). -/
def State.atomPtr (s : State) (core slot : Nat) (t : Thread) (x : XOps) (result : Bool) : Except Stop DWord := do
  let n := atomSize x
  (s.core core).checkMapped slot ((if result && x.d != 0xF8 then codesOf x.d n else []) ++ baseCodes x ++ codesOf x.b n
    ++ (if atomOp x = 9 then codesOf x.c n else []))
  let ptr ← s.address core slot t x (atomOff x)
  needAligned ptr n
  .ok ptr

/-- The operands of an atomic operation: address, B and, for CAS, C. -/
def State.atomArgs (s : State) (core slot : Nat) (t : Thread) (x : XOps) (result : Bool) : Except Stop (DWord × DWord × DWord) := do
  let n := atomSize x
  let cas := decide (atomOp x = 9)
  let ptr ← s.atomPtr core slot t x result
  let b ← s.srcN core slot t x.lit x.b n
  let c ← if cas then s.srcN core slot t x.lit x.c n else .ok 0
  .ok (ptr, b.setWidth 64, c.setWidth 64)

/-- A precise trap of a failed translation, permission or bounds check (20 R368). -/
def preciseStop (f : FaultInfo) : Stop := .trap f.kind.cause (some f)

/-- Waits for the marble in a DET launch (08 R197). -/
def State.needMarble (s : State) (core slot : Nat) (t : Thread) : Except Stop Unit :=
  if (s.rcd t.lid).det ∧ !s.hasMarble core slot t then .error (.park .marble) else .ok ()

/-- An atomic operation at the point of coherence (08 R188): the old value, and the state after it. Its request covers a block (09 R205), which it
allocates as a read of its hint does; the sectors it writes are dirty (09 R202). What its core has read stays no later than what it reads next (08
R178). -/
def State.atomMem (s : State) (core : Nat) (t : Thread) (pa n op hint : Nat) (at_ : Nat × Nat) (leaf b c : DWord) : State × Except FaultKind Nat :=
  let r := s.rcd t.lid
  let s := s.releaseOverlap core t (.mem pa leaf) n
  let s := (s.flushLine core t.lid (pa / 128) true).pull (pa / 128)
  match s.readPa r.ctx (leafMac leaf) pa n with
  | .error k => (s, .error k)
  | .ok old =>
    let s := s.modCore core (·.noteRead r.ctx pa n old)
    match combine op n old b.toNat c.toNat with
    | none => (s.l2Access at_.1 at_.2 false (atomReq leaf hint), .ok old)
    | some v =>
      match s.writePa r.ctx (leafMac leaf) pa n v with
      | .error k => (s, .error k)
      | .ok s => (s.l2Sectors (pa / 128) (sectorMask at_.1 at_.2) (sectorMask pa n) 0 (atomReq leaf hint), .ok old)

/-- An atomic operation at a core store (20 R367). -/
def State.atomStore (s : State) (target off n op : Nat) (b c : DWord) : State × Nat :=
  let old := (s.core target).store.getN off n
  match combine op n old b.toNat c.toNat with
  | none => (s, old)
  | some v => (s.modCore target (·.writeStore off n v), old)

/-- ATOM of a thread once its region is committed (20 R366 to R369). -/
def State.atomBody (s : State) (core slot : Nat) (t : Thread) (x : XOps) (lead : Bool) (cover : Cover) (ptr b c : DWord) :
    Except Stop (State → State) := do
  let n := atomSize x
  let op := atomOp x
  let dests := destsOf x.d n lead
  s.needMarble core slot t
  match s.resolve core t.lid (s.ctxOf t) (s.core core).tlb (s.priv t) .atomic ptr n .atomic .ls with
  | .error f =>
    if f.kind.aborts then
      .ok (fun s =>
        let (s, id) := (s.sawFault (s.ctxOf t) f).issueLoad core slot t x .atom ptr dests none 3
        s.abortLoad core id f.kind f.pa f.level)
    else .error (preciseStop f)
  | .ok (target, e) =>
    let at_ := target.request cover n
    match target with
    | .store c' off =>
      match (s.core c').badIn off n with
      | some w => .error (.eccAt ptr true w.2)
      | none => .ok (fun s =>
        let (s, old) := (s.releaseRegion core slot target n).atomStore c' off n op b c
        (s.issueShared core slot t x .atom ptr dests (some (BitVec.ofNat 128 old)) (if c' = core then 0 else 8 + c') at_ 0 none []).1)
    | .fabric w off => .ok (fun s =>
        let s := (s.fillTlb core e).releaseRegion core slot target n
        match s.farBad w off n with
        | some k =>
          let (s, id) := s.issueLoad core slot t x .atom ptr dests none 2
          s.abortLoad core id k 0
        | none =>
          let (s, id) := s.issueShared core slot t x .atom ptr dests none 2 at_ 0 none []
          s.askWindow core slot t id .atom none ptr w off off n (.atomic op b c))
    | .mem pa leaf => .ok (fun s =>
        let s := (s.fillTlb core e).releaseRegion core slot target n
        let cause := s.retryCause target at_ (leafSource leaf)
        match s.atomMem core t pa n op (hintOf x) at_ leaf b c with
        | (s, .error k) =>
          let (s, id) := s.issueLoad core slot t x .atom ptr dests none 3
          s.abortLoad core id k pa
        | (s, .ok old) =>
          (s.issueShared core slot t x .atom ptr dests (some (BitVec.ofNat 128 old)) (leafSource leaf) at_ leaf cause []).1)
    | _ => .error (preciseStop { kind := .permission, va := ptr, write := true, path := .ls, level := 0 })

/-- The bytes that ATOM of the issue group touches (09 R205). -/
def State.atomCover (s : State) (x : XOps) : Cover :=
  s.coverOf x.g (fun core slot t =>
    match s.atomArgs core slot t x true with
    | .error _ => none
    | .ok (ptr, _) =>
      match s.resolve core t.lid (s.ctxOf t) (s.core core).tlb (s.priv t) .atomic ptr (atomSize x) .atomic .ls with
      | .error _ => none
      | .ok (target, _) => some (target, atomSize x))

/-- ATOM of a thread: its address is checked before its region is committed (20 R366). -/
def atomOne (x : XOps) (s₀ : State) (cover : Cover) (s : State) (core slot : Nat) (t : Thread) : State :=
  s.committing core x.len slot (do
    let _ ← s₀.atomPtr core slot t x true
    t.tregFree x) (fun s => do
    let (ptr, b, c) ← s₀.atomArgs core slot t x true
    s.atomBody core slot t x (s₀.leads x.g core slot) cover ptr b c)

/-- ATOM. -/
def execAtom (x : XOps) (s : State) : Next := done (s.holding x (fun s => s.runSeq x.len x.g (atomOne x s (s.atomCover x))))

/-- Merges a reduction into an update-only line of the launch's share (08 R189, 09 R201). -/
def State.mergeRed (s : State) (core : Nat) (t : Thread) (ptr : DWord) (pa n op hint : Nat) (leaf b : DWord) : State :=
  let addr := pa / 128
  let s := match (s.core core).line? t.lid addr with
    | none => s
    | some l =>
      match l.upd with
      | none => (s.writeBack core l).modCore core (·.dropLine t.lid addr)
      | some (op', n', _) => if op' = op ∧ n' = n then s else s.sendLine core l
  let s := s.makeWay core t.lid addr
  let line := ((s.core core).line? t.lid addr).getD (Line.new t.lid addr (s.ctxOf t))
  let elems := (line.upd.map (·.2.2)).getD []
  let v : DWord := match tget elems (pa % 128) with
    | none => b
    | some o => BitVec.ofNat 64 ((combine op n o.toNat b.toNat 0).getD 0)
  s.modCore core (·.enterLine { line with
    upd := some (op, n, tset elems (pa % 128) v)
    retain := hint == 2
    leaf := leaf
    last := (ptr, t.pc, t.tid, t.block, s.ctxOf t) } hint)

/-- RED of a thread once its region is committed (22 R446, R447, 08 R189). In a DET launch, and with a bypass hint, which never allocates a line of the
share (03 R78, 09 R201), it is performed at the slice. -/
def State.redBody (s : State) (core slot : Nat) (t : Thread) (x : XOps) (cover : Cover) (ptr b : DWord) : Except Stop (State → State) := do
  let n := atomSize x
  let op := atomOp x
  let lose := fun (k : FaultKind) (pa : Nat) (s : State) => s.recordStore core (buffered t slot ptr n 0 (b.setWidth 128) none) k pa
  s.needMarble core slot t
  match s.resolve core t.lid (s.ctxOf t) (s.core core).tlb (s.priv t) .atomic ptr n .reduce .ls with
  | .error f => if f.kind.aborts then .ok (fun s => lose f.kind f.pa (s.sawFault (s.ctxOf t) f)) else .error (preciseStop f)
  | .ok (target, e) =>
    match target with
    | .store c' off =>
      match (s.core c').badIn off n with
      | some w => .error (.eccAt ptr true w.2)
      | none => .ok (fun s => ((s.releaseRegion core slot target n).atomStore c' off n op b 0).1)
    | .fabric w off => .ok (fun s =>
        ((s.fillTlb core e).releaseRegion core slot target n).sendFabric (s.ctxOf t) (.write core t.lid t.block slot t.tid t.pc) ptr w off n (.reduce op b))
    | .mem pa leaf => .ok (fun s =>
        let s := (s.fillTlb core e).releaseRegion core slot target n
        if (s.rcd t.lid).det ∨ hintOf x = 3 then
          match s.atomMem core t pa n op (hintOf x) (target.request cover n) leaf b 0 with
          | (s, .error k) => lose k pa s
          | (s, .ok _) => s
        else (s.releaseOverlap core t target n).mergeRed core t ptr pa n op (hintOf x) leaf b)
    | _ => .error (preciseStop { kind := .permission, va := ptr, write := true, path := .ls, level := 0 })

/-- The bytes that RED of the issue group touches (09 R205). -/
def State.redCover (s : State) (x : XOps) : Cover :=
  s.coverOf x.g (fun core slot t =>
    match s.atomArgs core slot t x false with
    | .error _ => none
    | .ok (ptr, _) =>
      match s.resolve core t.lid (s.ctxOf t) (s.core core).tlb (s.priv t) .atomic ptr (atomSize x) .reduce .ls with
      | .error _ => none
      | .ok (target, _) => some (target, atomSize x))

/-- RED of a thread: its address is checked before its region is committed (22 R446). -/
def redOne (x : XOps) (s₀ : State) (cover : Cover) (s : State) (core slot : Nat) (t : Thread) : State :=
  s.committing core x.len slot ((s₀.atomPtr core slot t x false).map (fun _ => ())) (fun s => do
    let (ptr, b, _) ← s₀.atomArgs core slot t x false
    s.redBody core slot t x cover ptr b)

/-- RED. -/
def execRed (x : XOps) (s : State) : Next := done (s.holding x (fun s => s.runSeq x.len x.g (redOne x s (s.redCover x))))

/-- A line that a PREF brings into its slice only. -/
def State.fillSlice (s : State) (ctx : Nat) (leaf : DWord) (line : Nat) (hint : Nat) : State × Except FaultKind Nat :=
  let s := s.pull line
  match s.readPa ctx (leafMac leaf) (line * 128) 64, s.readPa ctx (leafMac leaf) (line * 128 + 64) 64 with
  | .ok _, .ok _ => (s.l2Access (line * 128) 128 false (lsReq leaf hint), .ok (leafSource leaf))
  | .error k, _ => (s, .error k)
  | _, .error k => (s, .error k)

/-- The line that PREF fetches for a target (22 R440): of a window the one that holds the offset. -/
def Target.line (t : Target) : Nat :=
  match t with
  | .mem pa _ => pa / 128
  | .elem frame e leaf => (nqBit frame (leafFmt leaf) (leafBlen leaf) e 0).1 / 128
  | t => t.place 0 / 128

/-- Fetches the line of a target for PREF: into the L1 share, or into its slice only; with who promises it (22 R440). -/
def State.prefetch (s : State) (core : Nat) (t : Thread) (target : Target) (hint : Nat) : State × Except FaultKind Nat :=
  let line := target.line
  match target with
  | .mem _ leaf =>
    if hint = 3 then s.fillSlice (s.ctxOf t) leaf line hint
    else match s.readL1 core t.lid (s.ctxOf t) leaf (line * 128) 128 hint [] with
      | (s, .error k) => (s, .error k)
      | (s, .ok (_, hit)) => (s, .ok (if hit then 0 else leafSource leaf))
  | .elem _ _ leaf => s.fillSlice (s.ctxOf t) leaf line hint
  | .fabric _ _ => (s, .ok 2)
  | _ => (s, .ok 4)

/-- The pointer of PREF of a thread, after the checks that come before its translation (22 R440). -/
def State.prefArgs (s : State) (core slot : Nat) (t : Thread) (x : XOps) : Except Stop DWord := do
  (s.core core).checkMapped slot (baseCodes x)
  t.tregFree x
  s.address core slot t x x.imm.toInt

/-- PREF of a thread (22 R440): the threads of a group that fetch one line share its request (09 R205). A line behind a window is asked for, and its
load arrives with the answer; no core holds it (09 R201). -/
def State.prefBy (s : State) (core slot : Nat) (t : Thread) (x : XOps) (args : Except Stop DWord) : Except Stop (State → State) := do
  let ptr ← args
  let abort := fun (s : State) =>
    let (s, id) := s.issueLoad core slot t x .pref ptr [] (some 0) 3
    s.abortLoad core id .revoked 0
  if vaEnd ≤ (ptr.extractLsb' 0 56).toNat then .ok (fun s => (s.issueLoad core slot t x .pref ptr [] (some 0) 4).1)
  else
    match s.resolve core t.lid (s.ctxOf t) (s.core core).tlb (s.priv t) .ldst ptr 1 .read .ls with
    | .error f => .ok (fun s => abort (s.sawFault (s.ctxOf t) f))
    | .ok (target, e) => .ok (fun s =>
      let s := s.fillTlb core e
      let at_ := (target.line * 128, 128)
      match s.prefetch core t target (hintOf x), target with
      | (s', .error _), _ => abort s'
      | (s', .ok _), .fabric w off =>
        let asked := ((s'.core core).sharer (s'.time, at_.1, at_.2)).isSome
        let (s, id) := s'.issueShared core slot t x .pref ptr [] none 2 at_ 0 none []
        if asked then s
        else s.askWindow core slot t id .pref (some (s.time, at_.1, at_.2)) ptr w off (off / 128 * 128) 128 .read
      | (s', .ok src), _ =>
        if src = 4 then (s'.issueLoad core slot t x .pref ptr [] (some 0) 4).1
        else (s'.issueShared core slot t x .pref ptr [] (some 0) src at_ target.leaf (s.retryCause target at_ src) []).1)

/-- PREF of a thread. -/
def prefOne (x : XOps) (s₀ : State) (s : State) (core slot : Nat) (t : Thread) : State :=
  s.finish core x.len slot (s.prefBy core slot t x (s₀.prefArgs core slot t x))

/-- PREF. -/
def execPref (x : XOps) (s : State) : Next := done (s.holding x (fun s => s.runSeq x.len x.g (prefOne x s)))

end Sys2Proof.Machine
end

