-- ==== Sys2Proof/WellFormed.lean ====
section
/-! DEFINITION. Which instructions are encodings the decoder accepts: everything 03 R80 lists is refused here, by the
operand codes of 03 R67 and R68, the literal rules of R69, the hint rules of R71 and R72, the mask rules of R73 and the
field schemes of R76 to R79 with the reference entries. -/

namespace Sys2Proof

/-- G = 7 with GN = 1 is reserved (03 R70, R80). -/
def Guard.wf (g : Guard) : Bool := !(g.p == 7 && g.neg)

namespace XOps

/-- v0 to v223 (03 R67). -/
def isV (c : BitVec 8) : Bool := c.toNat < 0xE0

/-- k0 to k15. -/
def isK (c : BitVec 8) : Bool := 0xE0 ≤ c.toNat && c.toNat < 0xF0

/-- t0 to t7. -/
def isT (c : BitVec 8) : Bool := 0xF0 ≤ c.toNat && c.toNat < 0xF8

/-- A v or k code. -/
def isVK (c : BitVec 8) : Bool := c.toNat < 0xF0

/-- An even v or k code: a register pair (03 R68). -/
def isPair (c : BitVec 8) : Bool := isVK c && c.toNat % 2 == 0

/-- A v code that is a multiple of 4: a register quad (03 R68). -/
def isQuad (c : BitVec 8) : Bool := isV c && c.toNat % 4 == 0

/-- zero, lane, tid and cycle (0xF8 to 0xFB). -/
def isSpecial (c : BitVec 8) : Bool := 0xF8 ≤ c.toNat && c.toNat ≤ 0xFB

/-- Any 32-bit source: v, k, t, the specials and the literal. -/
def src32 (c : BitVec 8) : Bool := c.toNat ≤ 0xFB || c == 0xFE

/-- A 64-bit source: a pair, the specials and the literal; a t code is reserved (03 R68). -/
def src64 (c : BitVec 8) : Bool := isPair c || isSpecial c || c == 0xFE

/-- A 32-bit destination: v, k or the discard code. -/
def dst32 (c : BitVec 8) : Bool := isVK c || c == 0xF8

/-- A 64-bit destination. -/
def dst64 (c : BitVec 8) : Bool := isPair c || c == 0xF8

/-- v, k, zero or the literal. -/
def vkzl (c : BitVec 8) : Bool := isVK c || c == 0xF8 || c == 0xFE

/-- A pair, zero or the literal. -/
def pairzl (c : BitVec 8) : Bool := isPair c || c == 0xF8 || c == 0xFE

/-- v, k or zero. -/
def vkz (c : BitVec 8) : Bool := isVK c || c == 0xF8

/-- A source of the integer width: SUB[1:0] = 01 names pairs (03 R76, 20 R360). -/
def srcW (x : XOps) (c : BitVec 8) : Bool := if x.sub.extractLsb' 0 2 == 1 then src64 c else src32 c

/-- A destination of the integer width. -/
def dstW (x : XOps) (c : BitVec 8) : Bool := if x.sub.extractLsb' 0 2 == 1 then dst64 c else dst32 c

/-- The address of a memory X-form is the literal: L = 11 and A = zero (03 R78). -/
def litAddr (x : XOps) : Bool := x.a == 0xF8 && x.lit.isSome

end XOps

/-- What one X-form allows in its fields: each entry is the check of one field of the reference entry. -/
structure XShape where
  a : Bool := true
  b : Bool := true
  c : Bool := true
  d : Bool := true
  sub : Bool := true
  imm : Bool := true
  /-- TE and T name a time register (1), a mask (2), a mask from j only (3), or are zero (0): 03 R73 -/
  te : Nat := 0
  /-- the sources the HOLD hint may name: A, B, C (03 R72) -/
  holdA : Bool := false
  holdB : Bool := false
  holdC : Bool := false
  /-- LA may be nonzero (03 R71) -/
  la : Bool := false
  /-- the instruction makes use of a literal (03 R69) -/
  lit : Bool := false

/-- All checks of 03 R80 on an X-form, given what its entry allows. -/
def XOps.fits (x : XOps) (r : XShape) : Bool :=
  x.g.wf && r.a && r.b && r.c && r.d && r.sub && r.imm
  && (match r.te with
      | 0 => !x.te && x.t == 0
      | 1 => x.te || x.t == 0
      | 2 => !x.te || x.t == 0
      | _ => !x.te)
  && (match x.hold.toNat with
      | 0 => true
      | 1 => r.holdA
      | 2 => r.holdB
      | _ => r.holdC)
  && (r.la || x.la == 0)
  && (x.lit.isSome == r.lit)

namespace XShape
open XOps

/-- The literal is used by a source coded 0xFE. -/
def lits (cs : List (BitVec 8)) : Bool := cs.any (· == 0xFE)

/-- Integer forms of two sources (03 R76). `subHi` are the SUB[5:2] values allowed, `w` whether the narrow widths are. -/
def intBin (x : XOps) (subMask : BitVec 6) (narrow : Bool) : XShape :=
  { a := srcW x x.a, b := srcW x x.b, c := x.c == 0, d := dstW x x.d,
    sub := x.sub &&& ~~~subMask == 0 && (narrow || x.sub.extractLsb' 0 2 < 2),
    imm := x.imm == 0, holdA := true, holdB := true, lit := lits [x.a, x.b] }

/-- Integer forms of one source A (20 R376). -/
def intUn (x : XOps) : XShape :=
  { a := srcW x x.a, b := x.b == 0, c := x.c == 0, d := dstW x x.d, sub := x.sub &&& 0x3C == 0,
    imm := x.imm == 0, holdA := true, lit := lits [x.a] }

/-- Float type field: FP32, BF16 pair or FP16 pair (03 R77). -/
def floatType (x : XOps) : Bool := x.sub.extractLsb' 0 3 < 3

/-- Float forms of two sources (03 R77). -/
def floatBin (x : XOps) (rounds : Bool) : XShape :=
  { a := src32 x.a, b := src32 x.b, c := x.c == 0, d := dst32 x.d,
    sub := floatType x && (rounds || x.sub &&& 0x18 == 0), imm := x.imm &&& 0xFFFFFFF0#32 == 0,
    holdA := true, holdB := true, lit := lits [x.a, x.b] }

/-- The FSPEC member with code k (20 R393). -/
def fspec (x : XOps) (k : BitVec 4) : XShape :=
  { a := src32 x.a, b := x.b == 0, c := x.c == 0, d := dst32 x.d, sub := floatType x,
    imm := x.imm &&& 0xFFFFFFFC#32 == k.setWidth 32 <<< 8, holdA := true, la := true, lit := lits [x.a] }

/-- An X-form whose every field but the guard is 0. -/
def bare (x : XOps) : XShape :=
  { a := x.a == 0, b := x.b == 0, c := x.c == 0, d := x.d == 0, sub := x.sub == 0, imm := x.imm == 0 }

/-- The X-forms that name a mask or a time register in A[2:0] (05 R141, 21 R414). -/
def num (x : XOps) : XShape := { bare x with a := x.a < 8 }

/-- The base of a memory X-form: an even pair, or zero with L = 11 and no offset (03 R78). -/
def base (x : XOps) : Bool := isPair x.a || litAddr x

/-- Size B to Q (03 R78). -/
def size (x : XOps) : Nat := (x.sub.extractLsb' 0 3).toNat

/-- LD and LDK (21 R415, R421). -/
def load (x : XOps) : XShape :=
  { a := base x, b := x.b == 0, c := x.c == 0,
    d := (match size x with | 3 => dst64 x.d | 4 => isQuad x.d || x.d == 0xF8 | _ => dst32 x.d),
    sub := size x ≤ 4 && (x.sub &&& 8 == 0 || size x < 2), imm := !litAddr x || x.imm == 0,
    te := 1, holdA := true, la := true, lit := litAddr x }

/-- Data of a store or operand of an atomic: by size (22 R460, 20 R365). -/
def data (x : XOps) (c : BitVec 8) (lit : Bool) : Bool :=
  (match size x with
   | 3 => isPair c
   | 4 => isQuad c
   | _ => isVK c) || c == 0xF8 || (lit && c == 0xFE)

/-- ATOM and RED: size, operation and offset (20 R365, 22 R445). -/
def atomic (x : XOps) : XShape :=
  let op := (x.imm.extractLsb' 28 4).toNat
  { a := base x, sub := (size x == 2 || size x == 3) && x.sub &&& 8 == 0,
    imm := op ≤ 12 && (op < 10 || size x == 2) && (!litAddr x || x.imm.extractLsb' 0 28 == 0) }

/-- A barrier-object instruction: base A, any source code of 03 R67 (DEDUCED, log 14), operand B (08 R193, 20 R372). -/
def object (x : XOps) (b : Bool) : XShape :=
  { a := src32 x.a, b := if b then vkzl x.b else x.b == 0, c := x.c == 0, d := x.d == 0, sub := x.sub == 0,
    holdA := true, holdB := b, lit := lits (if b then [x.a, x.b] else [x.a]) }

/-- An engine task: C is the signal barrier, IMM[31:16] the wait barrier (15 R304). -/
def task (x : XOps) (low : Bool) : XShape :=
  { a := isPair x.a, b := x.b == 0, c := vkz x.c, d := x.d == 0, imm := low }

/-- The cross-lane mould: a mask from jT or from the literal (03 R73, 06 R161). -/
def cross (x : XOps) (cs : List (BitVec 8)) : XShape :=
  { c := x.c == 0, imm := x.imm == 0, te := 2, la := true, lit := x.te || lits cs }

/-- A scratchpad object of the spinner, with L = 10: any source code but the literal (17 R329, log 14). -/
def spin (x : XOps) : XShape := { bare x with a := src32 x.a && x.a != 0xFE, imm := true }

end XShape

/-- The numbers of the system-register table (04 R113). -/
def sysRegs : List Nat :=
  [0x000, 0x001, 0x002, 0x003, 0x004, 0x005, 0x006, 0x008, 0x009, 0x020, 0x021, 0x022, 0x023, 0x024, 0x025, 0x026,
   0x030, 0x031, 0x032, 0x033, 0x038, 0x040, 0x041, 0x042, 0x050, 0x060, 0x070]
  ++ (List.range 16).map (0x010 + ·) ++ (List.range 28).map (0x080 + ·)

/-- The registers SETS may write: access RW or RH (04 R113, R114). -/
def sysWritable : List Nat :=
  [0x020, 0x021, 0x022, 0x023, 0x024, 0x025, 0x026, 0x030, 0x031, 0x032, 0x033, 0x040, 0x050, 0x060]

/-- The RH registers, written in handler mode only (04 R113). -/
def sysHandler : List Nat := [0x020, 0x021, 0x022, 0x023, 0x024, 0x025, 0x026, 0x040]

open XOps XShape in
/-- The entry of each X-form (03 R76 to R79 with the reference chapters); none for the other constructors. -/
def Instr.shape : Instr → Option (XOps × XShape)
  | .nopX x | .retX x | .exitX x | .yieldX x | .brkX x | .bsyncX x | .eret x | .tkpass x => some (x, bare x)
  | .movX x => some (x, { intBin x 0x03 false with a := x.a == 0, holdA := false, lit := lits [x.b] })
  | .iaddX x | .isubX x => some (x, intBin x 0x0F true)
  | .imulX x | .iminX x | .imaxX x | .iminuX x | .imaxuX x | .andX x | .orX x | .xorX x | .andnX x
  | .shlX x | .shrX x | .sarX x | .rotlX x => some (x, intBin x 0x03 true)
  | .imulhX x | .imulhuX x => some (x, intBin x 0x03 false)
  | .popcX x | .clzX x | .ctzX x | .brevX x | .iabsX x => some (x, intUn x)
  | .faddX x | .fmulX x => some (x, floatBin x true)
  | .fminX x | .fmaxX x => some (x, floatBin x false)
  | .isetpX x => some (x, { intBin x 0x03 false with d := x.d < 0x40 })
  | .fsetpX x => some (x, { floatBin x false with d := x.d < 0x40, sub := x.sub &&& 0x1F == 0 })
  | .plopX x => some (x, { bare x with a := x.a < 0x40, b := x.b < 8, d := x.d < 8 })
  | .braX x | .callX x => some (x, { bare x with imm := x.imm &&& 3 == 0 })
  | .brxX x | .callxX x => some (x, { bare x with a := isPair x.a, holdA := true })
  | .joinX x | .jleaveX x | .twaitX x | .tclrX x => some (x, num x)
  | .trapX x => some (x, { bare x with imm := x.imm < 0x100 })
  | .imad x => some (x, { intBin x 0x0F true with c := srcW x x.c, holdC := true, lit := lits [x.a, x.b, x.c] })
  | .idiv x | .irem x => some (x, { intBin x 0x07 false with la := true })
  | .lea x => some (x, { intBin x 0x03 false with imm := x.imm < 8 })
  | .sel x => some (x, { intBin x 0x03 false with c := x.c < 0x10 })
  | .bfx x => some (x, { intUn x with
      sub := x.sub &&& 0x3A == 0,
      imm := x.imm < 0x400 && (x.imm.extractLsb' 0 5).toNat + (x.imm.extractLsb' 5 5).toNat < 32 })
  | .bfi x => some (x, { intBin x 0x03 false with
      imm := x.imm < 0x400 && (x.imm.extractLsb' 0 5).toNat + (x.imm.extractLsb' 5 5).toNat < 32 })
  | .ffma x => some (x, { floatBin x true with c := src32 x.c, imm := x.imm < 0x40, holdC := true, lit := lits [x.a, x.b, x.c] })
  | .frcp x => some (x, fspec x 0)
  | .frsq x => some (x, fspec x 1)
  | .fsqrt x => some (x, fspec x 2)
  | .fex2 x => some (x, fspec x 3)
  | .flg2 x => some (x, fspec x 4)
  | .fsin x => some (x, fspec x 5)
  | .fcos x => some (x, fspec x 6)
  | .ftanh x => some (x, fspec x 7)
  | .fcvt x => some (x, {
      a := src32 x.a, b := x.b == 0, c := x.c == 0, d := dst32 x.d,
      sub := x.sub.extractLsb' 0 3 != 7,
      imm := x.imm < 7 && x.imm.extractLsb' 0 3 != x.sub.extractLsb' 0 3, holdA := true, lit := lits [x.a] })
  | .vote x => some (x, { cross x [] with
      a := x.a < 0x10, b := x.b == 0, sub := x.sub < 4,
      d := if x.sub == 2 then dst64 x.d else x.d < 8 })
  | .shfl x => some (x, { cross x [x.a, x.b] with
      a := src32 x.a, b := vkzl x.b, d := dst32 x.d, sub := x.sub < 4,
      holdA := true, holdB := true })
  | .prfx x => some (x, { cross x [] with a := x.a < 0x10, b := x.b == 0, sub := x.sub < 2, d := dst32 x.d })
  | .cred x => some (x, { cross x [] with
      a := isVK x.a || isSpecial x.a, b := x.b == 0, d := dst32 x.d, sub := x.sub < 11,
      holdA := true })
  | .jinit x => some (x, { bare x with a := pairzl x.a, d := x.d < 8, holdA := true, lit := lits [x.a] })
  | .tyield x => some (x, { bare x with a := isT x.a, imm := x.imm < 0x10000, holdA := true })
  | .tbr x => some (x, { bare x with
      a := isT x.a, b := if x.sub.extractLsb' 0 3 == 6 then vkzl x.b else x.b == 0,
      sub := x.sub < 0x10 && x.sub.extractLsb' 0 3 != 7, imm := x.imm &&& 3 == 0, holdA := true,
      holdB := x.sub.extractLsb' 0 3 == 6, lit := x.sub.extractLsb' 0 3 == 6 && lits [x.b] })
  | .tget x => some (x, { bare x with a := isT x.a, d := dst32 x.d, sub := x.sub < 2, holdA := true })
  | .tsetp x => some (x, { bare x with a := isT x.a, b := isT x.b, d := x.d < 8, sub := x.sub < 3, holdA := true, holdB := true })
  | .ld x | .ldk x => some (x, load x)
  | .st x => some (x, {
      a := base x, b := data x x.b (x.a != 0xF8 && size x < 4), c := x.c == 0, d := x.d == 0,
      sub := size x ≤ 4 && x.sub &&& 8 == 0, imm := !litAddr x || x.imm == 0, holdA := true, holdB := true,
      lit := litAddr x || lits [x.b] })
  | .atom x => some (x, { atomic x with
      b := data x x.b true,
      c := if x.imm.extractLsb' 28 4 == 9 then data x x.c true else x.c == 0,
      d := if size x == 3 then dst64 x.d else dst32 x.d, te := 1, holdA := true, holdB := true,
      holdC := x.imm.extractLsb' 28 4 == 9, la := true,
      lit := litAddr x || lits [x.b] || (x.imm.extractLsb' 28 4 == 9 && lits [x.c]) })
  | .red x => some (x, { atomic x with
      b := data x x.b (x.a != 0xF8), c := x.c == 0, d := x.d == 0,
      imm := (atomic x).imm && x.imm.extractLsb' 28 4 != 8 && x.imm.extractLsb' 28 4 != 9, holdA := true, holdB := true,
      lit := litAddr x || lits [x.b] })
  | .stcp x => some (x, {
      a := base x, b := (if size x == 3 then src64 x.b else src32 x.b) && (x.b != 0xFE || x.a != 0xF8),
      c := x.c < 0x10, d := dst32 x.d, sub := size x < 4 && x.sub &&& 8 == 0, imm := !litAddr x || x.imm == 0, te := 3, holdA := true, holdB := true,
      la := true, lit := litAddr x || lits [x.b] })
  | .pref x => some (x, { bare x with
      a := base x, sub := x.sub &&& 0xF == 0, imm := !litAddr x || x.imm == 0, te := 1,
      lit := litAddr x })
  | .phase x => some (x, { bare x with sub := x.sub < 0x20 && 2 ≤ x.sub.extractLsb' 0 3 && x.sub &&& 0x18 != 0x18 })
  | .pfence x => some (x, { bare x with
      sub := x.sub < 8 && 2 ≤ x.sub,
      imm := x.imm &&& 0xFFFF8080#32 == 0 && x.imm &&& 0x7F != 0 && x.imm &&& 0x7F00 != 0 })
  | .regionI x => some (x, bare x)
  | .regionEnd x => some (x, { bare x with sub := x.sub == 1 })
  | .boinit x | .bowait x | .botx x => some (x, object x true)
  | .boarv x => some (x, { object x (x.sub == 1) with d := dst32 x.d, sub := x.sub < 2 })
  | .feget x => some (x, { bare x with a := src32 x.a, d := dst32 x.d, holdA := true, la := true, lit := lits [x.a] })
  | .feput x => some (x, { bare x with a := src32 x.a, d := dst32 x.d, holdA := true, lit := lits [x.a] })
  | .shmap x => some (x, { bare x with a := src32 x.a, d := x.d == 0xF8, imm := x.imm < 0x400, holdA := true, lit := lits [x.a] })
  | .rbacq x | .rbrel x => some (x, { bare x with a := vkzl x.a, imm := true, lit := lits [x.a] })
  | .cpy x => some (x, { task x true with b := vkz x.b, d := isPair x.d, sub := x.sub == 0 })
  | .gath x | .scat x => some (x, { task x true with b := isPair x.b, d := isPair x.d, sub := x.sub == 0 })
  | .srinv x => some (x, { bare x with a := isPair x.a || x.a == 0xF8 })
  | .mbld x => some (x, { task x (x.imm &&& 0xFFFF == 0) with sub := x.sub < 2 })
  | .mma x => some (x, { task x (x.imm &&& 0xFFE0 == 0) with sub := x.sub < 8 })
  | .mlut x => some (x, { task x (x.imm &&& 0xFFF0 == 0) with sub := x.sub < 2 })
  | .mlma x => some (x, { task x (x.imm &&& 0xFFF0 == 0) with sub := x.sub < 8 })
  | .mdrain x => some (x, { task x (x.imm &&& 0xFFFF == 0) with sub := x.sub &&& 0x39 == 0 })
  | .mcls x => some (x, { bare x with imm := x.imm < 4 })
  | .gbcfg x => some (x, { bare x with a := isPair x.a })
  | .gbset x | .gbclamp x => some (x, spin x)
  | .gbsweep x => some (x, { task x true with a := vkzl x.a, sub := x.sub < 2, lit := lits [x.a] })
  | .gbread x => some (x, { spin x with sub := x.sub < 2 })
  | .gbstat x => some (x, { bare x with sub := x.sub < 4 })
  | .gbseed x => some (x, { bare x with
      sub := x.sub < 3,
      a := if x.sub == 0 then x.a == 0xF8 else if x.sub == 1 then isPair x.a else src32 x.a && x.a != 0xFE })
  | .rgrp x => some (x, { bare x with
      a := isVK x.a || isSpecial x.a, d := isV x.d || x.d == 0xF8, sub := x.sub < 2,
      imm := x.imm ≤ 224 })
  | .gets x => some (x, { bare x with d := dst32 x.d, imm := sysRegs.contains x.imm.toNat })
  | .sets x => some (x, { bare x with
      a := isVK x.a || isSpecial x.a || x.a == 0xFE, imm := sysWritable.contains x.imm.toNat,
      lit := lits [x.a] })
  | .cctl x =>
    if x.sub == 3 || x.sub == 4 then some (x, { bare x with sub := true })
    else some (x, { bare x with
      a := isPair x.a, b := vkzl x.b, sub := x.sub < 6, imm := true, holdA := true, holdB := true,
      lit := lits [x.b] })
  | .icinv x => some (x, { bare x with imm := 2 ≤ x.imm && x.imm < 8 })
  | .tlbinv x => some (x, match x.sub.toNat with
      | 0 => { bare x with a := isPair x.a, b := vkz x.b, sub := true, holdA := true, holdB := true }
      | 1 => { bare x with a := vkz x.a, sub := true, holdA := true }
      | 2 => { bare x with sub := true }
      | _ => { sub := false })
  | .svc x => some (x, { bare x with imm := x.imm < 0x10000 })
  | .bound x => some (x, { bare x with
      a := vkzl x.a, b := vkzl x.b, imm := x.imm &&& 0xFFFFFCC0#32 == 0, holdA := true,
      holdB := true, lit := lits [x.a, x.b] })
  | .lnch x => some (x, { bare x with a := base x, d := x.d < 8, imm := !litAddr x || x.imm == 0, lit := litAddr x })
  | _ => none

/-- The checks of an S-form (03 R61, R69): the guard, and B = 0 where the literal replaces B. -/
def SBin.wf (o : SBin) : Bool := o.g.wf && (o.lit.isNone || o.b == 0)

/-- The checks of the S-form of MOV. -/
def SMov.wf (o : SMov) : Bool := o.g.wf && (o.lit.isNone || o.b == 0)

/-- Unit numbers stay inside the package (01 R13): 4 dies, 256 cores, 128 islands, 64 contexts, 18 fabric ports. -/
def Sender.wf (m : Sender) : Bool := m.port < 18

/-- An instruction is well formed when it is an encoding the decoder accepts; an event, when the units it names exist. -/
def Instr.wf (i : Instr) : Bool :=
  match i.shape with
  | some (x, r) => x.fits r
  | none =>
    match i with
    | .iadd o | .isub o | .imul o | .imulh o | .imulhu o | .imin o | .imax o | .iminu o | .imaxu o | .andS o | .orS o
    | .xorS o | .andn o | .shl o | .shr o | .sar o | .rotl o | .fadd o | .fmul o | .fmin o | .fmax o => o.wf
    | .mov o => o.wf
    | .popc o | .clz o | .ctz o | .brev o | .iabs o => o.g.wf
    | .isetp o | .fsetp o => o.g.wf
    | .plop o => o.g.wf
    | .bra o | .call o => o.g.wf
    | .brx o | .callx o => o.g.wf
    | .joinS o | .jleave o | .twait o | .tclr o => o.g.wf
    | .trap o => o.g.wf
    | .nop g | .ret g | .exit g | .yield g | .brk g | .bsync g => g.wf
    | .launch m die _ ctx => m.wf && die < 4 && ctx < 64
    | .mrd m ctx _ n => m.wf && ctx < 64 && 1 ≤ n && n ≤ 256
    | .mwr m ctx _ d => m.wf && ctx < 64 && 1 ≤ d.length && d.length ≤ 256
    | .crd m die _ n | .cwr m die _ n _ => m.wf && die < 4 && (n == 4 || n == 8)
    | .kaleidoscopeMapsSwitch c | .rbacqGrant c | .timedWake c | .wakeOverflowReinsert c | .debugHalt c | .debugResume c => c < 256
    | .l2PromiseRequest c _ | .dramBooking c _ | .loadArrival c _ | .sliceRequestReturn c _ => c < 256
    | .islandClockStop n | .islandClockRestart n | .islopWrite n _ | .powerLimitLower n _ => n < 128
    | .furesResolve d c _ | .furesFail d c _ => d < 4 && c < 64
    | .amctlGo d r _ => d < 4 && r < 8
    | .l2quotaWrite d _ | .sactlApply d | .slotEditApplied d => d < 4
    | .ctxctlSuspend c | .ctxctlResume c | .killContext c | .contextKeyLoad c _ => c < 64
    | .pkdropClear p | .linkReplay p _ | .linkDown p => p < 18
    | _ => true

end Sys2Proof
end

