-- ==== Sys2Proof/Decode.lean ====
section
/-! DEFINITION. The decoder, total on any bytes, refusing by name, and the encoder after it (03 R60 to R80). -/

namespace Sys2Proof

/-- Why bytes are no instruction. All but `truncated` are the reserved encodings of 03 R80. -/
inductive Reject where
  /-- fewer bytes than the base word's length field asks for -/
  | truncated
  /-- a reserved opcode (03 R74, R75) -/
  | opcode
  /-- a nonzero reserved or unused field of the base or extension word (03 R61, R65, R66) -/
  | field
  /-- a field value, operand code, literal, hint or guard that the entry reserves (03 R67 to R79) -/
  | reserved
  deriving DecidableEq, Repr

/-- Four bytes as a little-endian word (00 R4). -/
def le32 (b0 b1 b2 b3 : Byte) : Word := b3 ++ b2 ++ b1 ++ b0

/-- Eight bytes as a little-endian doubleword. -/
def le64 (b0 b1 b2 b3 b4 b5 b6 b7 : Byte) : DWord := b7 ++ b6 ++ b5 ++ b4 ++ b3 ++ b2 ++ b1 ++ b0

/-- The bytes of a word, lowest address first. -/
def bytes32 (w : Word) : List Byte := [w.extractLsb' 0 8, w.extractLsb' 8 8, w.extractLsb' 16 8, w.extractLsb' 24 8]

/-- The bytes of a doubleword, lowest address first. -/
def bytes64 (w : DWord) : List Byte :=
  [w.extractLsb' 0 8, w.extractLsb' 8 8, w.extractLsb' 16 8, w.extractLsb' 24 8,
   w.extractLsb' 32 8, w.extractLsb' 40 8, w.extractLsb' 48 8, w.extractLsb' 56 8]

/-- The length in bytes that L gives (03 R60). -/
def lengthOf (l : BitVec 2) : Nat :=
  match l.toNat with
  | 0 => 4
  | 1 => 12
  | 2 => 12
  | _ => 20

/-- The guard of an S-form base word (03 R61). -/
def sGuard (w : Word) : Guard := { neg := w.extractLsb' 30 1 == 1, p := w.extractLsb' 27 3 }

/-- The fields of an X-form from its base and extension words (03 R65, R66). -/
def xFields (w : Word) (e : DWord) (lit : Option DWord) : XOps :=
  { g := { neg := e.extractLsb' 19 1 == 1, p := e.extractLsb' 16 3 }
    a := w.extractLsb' 23 8, d := w.extractLsb' 15 8, sub := w.extractLsb' 9 6
    b := e.extractLsb' 0 8, c := e.extractLsb' 8 8, imm := e.extractLsb' 32 32
    te := e.extractLsb' 29 1 == 1, t := e.extractLsb' 26 3, hold := e.extractLsb' 24 2, la := e.extractLsb' 20 4
    lit := lit }

/-- The S-form instruction of an opcode and base word (03 R62, R74); `none` for a reserved opcode, `some none` for a
nonzero field that the instruction does not use. -/
def sForm (op : Nat) (w : Word) (lit : Option DWord) : Option (Option Instr) :=
  let g := sGuard w
  let hold := w.extractLsb' 31 1 == 1
  let b := w.extractLsb' 21 6
  let a := w.extractLsb' 15 6
  let d := w.extractLsb' 9 6
  let bin : SBin := { g, hold, a, b, d, lit }
  let un : SUn := { g, hold, a, d }
  let cmp : SCmp := { g, hold, a, b, cond := w.extractLsb' 12 3, pd := w.extractLsb' 9 3 }
  let br : SBr := { g, off := w.extractLsb' 9 18 }
  let pair : SPair := { g, hold, a := w.extractLsb' 16 5 }
  let num : SNum := { g, n := w.extractLsb' 15 3 }
  let only (mask : Word) (i : Instr) : Option (Option Instr) :=
    some (if w &&& mask == 0 && lit.isNone then some i else none)
  match op with
  | 0x00 => only 0x87FFFE00 (.nop g)
  | 0x01 => some (if w &&& 0x801F8000 == 0 then some (.mov { g, b, d, lit }) else none)
  | 0x02 => some (some (.iadd bin))
  | 0x03 => some (some (.isub bin))
  | 0x04 => some (some (.imul bin))
  | 0x05 => some (some (.imulh bin))
  | 0x06 => some (some (.imulhu bin))
  | 0x07 => some (some (.imin bin))
  | 0x08 => some (some (.imax bin))
  | 0x09 => some (some (.iminu bin))
  | 0x0A => some (some (.imaxu bin))
  | 0x0B => some (some (.andS bin))
  | 0x0C => some (some (.orS bin))
  | 0x0D => some (some (.xorS bin))
  | 0x0E => some (some (.andn bin))
  | 0x0F => some (some (.shl bin))
  | 0x10 => some (some (.shr bin))
  | 0x11 => some (some (.sar bin))
  | 0x12 => some (some (.rotl bin))
  | 0x13 => only 0x07E00000 (.popc un)
  | 0x14 => only 0x07E00000 (.clz un)
  | 0x15 => only 0x07E00000 (.ctz un)
  | 0x16 => only 0x07E00000 (.brev un)
  | 0x17 => only 0x07E00000 (.iabs un)
  | 0x18 => some (some (.fadd bin))
  | 0x19 => some (some (.fmul bin))
  | 0x1A => some (some (.fmin bin))
  | 0x1B => some (some (.fmax bin))
  | 0x1C => only 0 (.isetp cmp)
  | 0x1D => only 0 (.fsetp cmp)
  | 0x1E => only 0x87007000 (.plop { g, pd := w.extractLsb' 9 3, fn := w.extractLsb' 18 3, pa := w.extractLsb' 15 3, pb := w.extractLsb' 21 3 })
  | 0x20 => only 0x80000000 (.bra br)
  | 0x21 => only 0x80000000 (.call br)
  | 0x22 => only 0x07E0FE00 (.brx pair)
  | 0x23 => only 0x07E0FE00 (.callx pair)
  | 0x24 => only 0x87FFFE00 (.ret g)
  | 0x25 => only 0x87FFFE00 (.exit g)
  | 0x26 => only 0x87FFFE00 (.yield g)
  | 0x27 => only 0x87FC7E00 (.joinS num)
  | 0x28 => only 0x87FC7E00 (.jleave num)
  | 0x29 => only 0x87FC7E00 (.twait num)
  | 0x2A => only 0x87FC7E00 (.tclr num)
  | 0x2B => only 0x87FFFE00 (.brk g)
  | 0x2C => only 0x87FE0000 (.trap { g, code := w.extractLsb' 9 8 })
  | 0x2D => only 0x87FFFE00 (.bsync g)
  | _ => none

/-- The X-form instruction of an opcode (03 R74, R75); none for a reserved opcode. -/
def xForm (op : Nat) (x : XOps) : Option Instr :=
  match op with
  | 0x00 => some (.nopX x)
  | 0x01 => some (.movX x)
  | 0x02 => some (.iaddX x)
  | 0x03 => some (.isubX x)
  | 0x04 => some (.imulX x)
  | 0x05 => some (.imulhX x)
  | 0x06 => some (.imulhuX x)
  | 0x07 => some (.iminX x)
  | 0x08 => some (.imaxX x)
  | 0x09 => some (.iminuX x)
  | 0x0A => some (.imaxuX x)
  | 0x0B => some (.andX x)
  | 0x0C => some (.orX x)
  | 0x0D => some (.xorX x)
  | 0x0E => some (.andnX x)
  | 0x0F => some (.shlX x)
  | 0x10 => some (.shrX x)
  | 0x11 => some (.sarX x)
  | 0x12 => some (.rotlX x)
  | 0x13 => some (.popcX x)
  | 0x14 => some (.clzX x)
  | 0x15 => some (.ctzX x)
  | 0x16 => some (.brevX x)
  | 0x17 => some (.iabsX x)
  | 0x18 => some (.faddX x)
  | 0x19 => some (.fmulX x)
  | 0x1A => some (.fminX x)
  | 0x1B => some (.fmaxX x)
  | 0x1C => some (.isetpX x)
  | 0x1D => some (.fsetpX x)
  | 0x1E => some (.plopX x)
  | 0x20 => some (.braX x)
  | 0x21 => some (.callX x)
  | 0x22 => some (.brxX x)
  | 0x23 => some (.callxX x)
  | 0x24 => some (.retX x)
  | 0x25 => some (.exitX x)
  | 0x26 => some (.yieldX x)
  | 0x27 => some (.joinX x)
  | 0x28 => some (.jleaveX x)
  | 0x29 => some (.twaitX x)
  | 0x2A => some (.tclrX x)
  | 0x2B => some (.brkX x)
  | 0x2C => some (.trapX x)
  | 0x2D => some (.bsyncX x)
  | 0x30 => some (.imad x)
  | 0x31 => some (.idiv x)
  | 0x32 => some (.irem x)
  | 0x33 => some (.lea x)
  | 0x34 => some (.sel x)
  | 0x35 => some (.bfx x)
  | 0x36 => some (.bfi x)
  | 0x37 => some (.ffma x)
  | 0x39 => some (.fcvt x)
  | 0x3B => some (.vote x)
  | 0x3C => some (.shfl x)
  | 0x3D => some (.prfx x)
  | 0x3E => some (.cred x)
  | 0x3F => some (.jinit x)
  | 0x40 => some (.tyield x)
  | 0x41 => some (.tbr x)
  | 0x42 => some (.tget x)
  | 0x43 => some (.tsetp x)
  | 0x44 => some (.ld x)
  | 0x45 => some (.st x)
  | 0x46 => some (.ldk x)
  | 0x47 => some (.atom x)
  | 0x48 => some (.red x)
  | 0x49 => some (.stcp x)
  | 0x4A => some (.pref x)
  | 0x4B => some (.phase x)
  | 0x4C => some (.pfence x)
  | 0x4E => some (.boinit x)
  | 0x4F => some (.boarv x)
  | 0x50 => some (.bowait x)
  | 0x51 => some (.botx x)
  | 0x52 => some (.feget x)
  | 0x53 => some (.feput x)
  | 0x54 => some (.shmap x)
  | 0x55 => some (.rbacq x)
  | 0x56 => some (.rbrel x)
  | 0x57 => some (.cpy x)
  | 0x58 => some (.gath x)
  | 0x59 => some (.scat x)
  | 0x5A => some (.srinv x)
  | 0x5B => some (.mbld x)
  | 0x5C => some (.mma x)
  | 0x5D => some (.mlut x)
  | 0x5E => some (.mlma x)
  | 0x5F => some (.mdrain x)
  | 0x60 => some (.mcls x)
  | 0x61 => some (.gbcfg x)
  | 0x62 => some (.gbset x)
  | 0x63 => some (.gbclamp x)
  | 0x64 => some (.gbsweep x)
  | 0x65 => some (.gbread x)
  | 0x66 => some (.gbstat x)
  | 0x67 => some (.gbseed x)
  | 0x68 => some (.rgrp x)
  | 0x69 => some (.gets x)
  | 0x6A => some (.sets x)
  | 0x6B => some (.cctl x)
  | 0x6C => some (.icinv x)
  | 0x6D => some (.tlbinv x)
  | 0x6E => some (.eret x)
  | 0x6F => some (.svc x)
  | 0x70 => some (.bound x)
  | 0x71 => some (.tkpass x)
  | 0x72 => some (.lnch x)
  | 0x38 =>
    match (x.imm.extractLsb' 8 4).toNat with
    | 0 => some (.frcp x)
    | 1 => some (.frsq x)
    | 2 => some (.fsqrt x)
    | 3 => some (.fex2 x)
    | 4 => some (.flg2 x)
    | 5 => some (.fsin x)
    | 6 => some (.fcos x)
    | 7 => some (.ftanh x)
    | _ => none
  | 0x4D => some (if x.sub == 1 then .regionEnd x else .regionI x)
  | _ => none

/-- Accepts an instruction that is well formed (03 R80). -/
def accept (i : Instr) (n : Nat) : Except Reject (Instr × Nat) :=
  if i.wf then .ok (i, n) else .error .reserved

/-- Decodes an S-form base word with its literal. -/
def decodeS (w : Word) (lit : Option DWord) : Except Reject (Instr × Nat) :=
  match sForm (w.extractLsb' 2 7).toNat w lit with
  | none => .error .opcode
  | some none => .error .field
  | some (some i) => accept i (if lit.isSome then 12 else 4)

/-- Decodes an X-form. -/
def decodeX (w : Word) (e : DWord) (lit : Option DWord) : Except Reject (Instr × Nat) :=
  let x := xFields w e lit
  if w.extractLsb' 31 1 == 1 || e.extractLsb' 30 2 != 0 then .error .field
  else
    match xForm (w.extractLsb' 2 7).toNat x with
    | none => .error .opcode
    | some i => accept i (if lit.isSome then 20 else 12)

/-- Decodes the instruction at the front of the bytes: its meaning and its length (03 R60). -/
def decode : List Byte → Except Reject (Instr × Nat)
  | b0 :: b1 :: b2 :: b3 :: rest =>
    let w := le32 b0 b1 b2 b3
    match (w.extractLsb' 0 2).toNat with
    | 0 => decodeS w none
    | 1 =>
      match rest with
      | c0 :: c1 :: c2 :: c3 :: c4 :: c5 :: c6 :: c7 :: _ => decodeS w (some (le64 c0 c1 c2 c3 c4 c5 c6 c7))
      | _ => .error .truncated
    | 2 =>
      match rest with
      | c0 :: c1 :: c2 :: c3 :: c4 :: c5 :: c6 :: c7 :: _ => decodeX w (le64 c0 c1 c2 c3 c4 c5 c6 c7) none
      | _ => .error .truncated
    | _ =>
      match rest with
      | c0 :: c1 :: c2 :: c3 :: c4 :: c5 :: c6 :: c7 :: d0 :: d1 :: d2 :: d3 :: d4 :: d5 :: d6 :: d7 :: _ =>
        decodeX w (le64 c0 c1 c2 c3 c4 c5 c6 c7) (some (le64 d0 d1 d2 d3 d4 d5 d6 d7))
      | _ => .error .truncated
  | _ => .error .truncated

/-- The bytes of a number, lowest first. -/
def bytesOfNat : Nat → Nat → List Byte
  | 0, _ => []
  | k + 1, w => BitVec.ofNat 8 w :: bytesOfNat k (w / 256)

/-- The instruction that the decoder reads from table bits: the words stand little-endian one after the other from
bit 0, and every bit above nbits is 0, up to the longest instruction of 20 bytes. -/
def decodeTableWord (nbits w : Nat) : Option Instr :=
  match decode (bytesOfNat 20 (w % 2 ^ nbits)) with
  | .ok (i, _) => some i
  | .error _ => none

/-! ## The encoder -/

/-- A Boolean as one bit. -/
def bit (b : Bool) : BitVec 1 := if b then 1 else 0

/-- The base word of an S-form from its fields (03 R61). -/
def sWord (hold : Bool) (g : Guard) (b a d : BitVec 6) (op : BitVec 7) (lit : Bool) : Word :=
  bit hold ++ bit g.neg ++ g.p ++ b ++ a ++ d ++ op ++ (if lit then 1#2 else 0#2)

/-- The bytes of an S-form: its base word, then the literal. -/
def sBytes (w : Word) (lit : Option DWord) : List Byte :=
  bytes32 w ++ (match lit with | some v => bytes64 v | none => [])

/-- An S-form of two sources. -/
def encBin (op : BitVec 7) (o : SBin) : List Byte := sBytes (sWord o.hold o.g o.b o.a o.d op o.lit.isSome) o.lit

/-- An S-form of one source. -/
def encUn (op : BitVec 7) (o : SUn) : List Byte := sBytes (sWord o.hold o.g 0 o.a o.d op false) none

/-- An S-form without operands. -/
def encBare (op : BitVec 7) (g : Guard) : List Byte := sBytes (sWord false g 0 0 0 op false) none

/-- An S-form compare. -/
def encCmp (op : BitVec 7) (o : SCmp) : List Byte := sBytes (sWord o.hold o.g o.b o.a (o.cond ++ o.pd) op false) none

/-- An S-form branch. -/
def encBr (op : BitVec 7) (o : SBr) : List Byte :=
  bytes32 (0#1 ++ bit o.g.neg ++ o.g.p ++ o.off ++ op ++ 0#2)

/-- An S-form branch to a pair. -/
def encPair (op : BitVec 7) (o : SPair) : List Byte := sBytes (sWord o.hold o.g 0 (o.a ++ 0#1) 0 op false) none

/-- An S-form that names a mask or time register. -/
def encNum (op : BitVec 7) (o : SNum) : List Byte := sBytes (sWord false o.g 0 (0#3 ++ o.n) 0 op false) none

/-- An X-form (03 R65, R66). -/
def encX (op : BitVec 7) (x : XOps) : List Byte :=
  bytes32 (0#1 ++ x.a ++ x.d ++ x.sub ++ op ++ (if x.lit.isSome then 3#2 else 2#2))
  ++ bytes64 (x.imm ++ 0#2 ++ bit x.te ++ x.t ++ x.hold ++ x.la ++ bit x.g.neg ++ x.g.p ++ x.c ++ x.b)
  ++ (match x.lit with | some v => bytes64 v | none => [])

/-- The bytes of an instruction; an event of the device has none. -/
def encode : Instr → List Byte
  | .nop g => encBare 0x00 g
  | .mov o => sBytes (sWord false o.g o.b 0 o.d 0x01 o.lit.isSome) o.lit
  | .iadd o => encBin 0x02 o
  | .isub o => encBin 0x03 o
  | .imul o => encBin 0x04 o
  | .imulh o => encBin 0x05 o
  | .imulhu o => encBin 0x06 o
  | .imin o => encBin 0x07 o
  | .imax o => encBin 0x08 o
  | .iminu o => encBin 0x09 o
  | .imaxu o => encBin 0x0A o
  | .andS o => encBin 0x0B o
  | .orS o => encBin 0x0C o
  | .xorS o => encBin 0x0D o
  | .andn o => encBin 0x0E o
  | .shl o => encBin 0x0F o
  | .shr o => encBin 0x10 o
  | .sar o => encBin 0x11 o
  | .rotl o => encBin 0x12 o
  | .popc o => encUn 0x13 o
  | .clz o => encUn 0x14 o
  | .ctz o => encUn 0x15 o
  | .brev o => encUn 0x16 o
  | .iabs o => encUn 0x17 o
  | .fadd o => encBin 0x18 o
  | .fmul o => encBin 0x19 o
  | .fmin o => encBin 0x1A o
  | .fmax o => encBin 0x1B o
  | .isetp o => encCmp 0x1C o
  | .fsetp o => encCmp 0x1D o
  | .plop o => sBytes (sWord false o.g (0#3 ++ o.pb) (o.fn ++ o.pa) (0#3 ++ o.pd) 0x1E false) none
  | .bra o => encBr 0x20 o
  | .call o => encBr 0x21 o
  | .brx o => encPair 0x22 o
  | .callx o => encPair 0x23 o
  | .ret g => encBare 0x24 g
  | .exit g => encBare 0x25 g
  | .yield g => encBare 0x26 g
  | .joinS o => encNum 0x27 o
  | .jleave o => encNum 0x28 o
  | .twait o => encNum 0x29 o
  | .tclr o => encNum 0x2A o
  | .brk g => encBare 0x2B g
  | .trap o => bytes32 (0#1 ++ bit o.g.neg ++ o.g.p ++ 0#10 ++ o.code ++ 0x2C#7 ++ 0#2)
  | .bsync g => encBare 0x2D g
  | .nopX x => encX 0x00 x
  | .movX x => encX 0x01 x
  | .iaddX x => encX 0x02 x
  | .isubX x => encX 0x03 x
  | .imulX x => encX 0x04 x
  | .imulhX x => encX 0x05 x
  | .imulhuX x => encX 0x06 x
  | .iminX x => encX 0x07 x
  | .imaxX x => encX 0x08 x
  | .iminuX x => encX 0x09 x
  | .imaxuX x => encX 0x0A x
  | .andX x => encX 0x0B x
  | .orX x => encX 0x0C x
  | .xorX x => encX 0x0D x
  | .andnX x => encX 0x0E x
  | .shlX x => encX 0x0F x
  | .shrX x => encX 0x10 x
  | .sarX x => encX 0x11 x
  | .rotlX x => encX 0x12 x
  | .popcX x => encX 0x13 x
  | .clzX x => encX 0x14 x
  | .ctzX x => encX 0x15 x
  | .brevX x => encX 0x16 x
  | .iabsX x => encX 0x17 x
  | .faddX x => encX 0x18 x
  | .fmulX x => encX 0x19 x
  | .fminX x => encX 0x1A x
  | .fmaxX x => encX 0x1B x
  | .isetpX x => encX 0x1C x
  | .fsetpX x => encX 0x1D x
  | .plopX x => encX 0x1E x
  | .braX x => encX 0x20 x
  | .callX x => encX 0x21 x
  | .brxX x => encX 0x22 x
  | .callxX x => encX 0x23 x
  | .retX x => encX 0x24 x
  | .exitX x => encX 0x25 x
  | .yieldX x => encX 0x26 x
  | .joinX x => encX 0x27 x
  | .jleaveX x => encX 0x28 x
  | .twaitX x => encX 0x29 x
  | .tclrX x => encX 0x2A x
  | .brkX x => encX 0x2B x
  | .trapX x => encX 0x2C x
  | .bsyncX x => encX 0x2D x
  | .imad x => encX 0x30 x
  | .idiv x => encX 0x31 x
  | .irem x => encX 0x32 x
  | .lea x => encX 0x33 x
  | .sel x => encX 0x34 x
  | .bfx x => encX 0x35 x
  | .bfi x => encX 0x36 x
  | .ffma x => encX 0x37 x
  | .fcvt x => encX 0x39 x
  | .vote x => encX 0x3B x
  | .shfl x => encX 0x3C x
  | .prfx x => encX 0x3D x
  | .cred x => encX 0x3E x
  | .jinit x => encX 0x3F x
  | .tyield x => encX 0x40 x
  | .tbr x => encX 0x41 x
  | .tget x => encX 0x42 x
  | .tsetp x => encX 0x43 x
  | .ld x => encX 0x44 x
  | .st x => encX 0x45 x
  | .ldk x => encX 0x46 x
  | .atom x => encX 0x47 x
  | .red x => encX 0x48 x
  | .stcp x => encX 0x49 x
  | .pref x => encX 0x4A x
  | .phase x => encX 0x4B x
  | .pfence x => encX 0x4C x
  | .boinit x => encX 0x4E x
  | .boarv x => encX 0x4F x
  | .bowait x => encX 0x50 x
  | .botx x => encX 0x51 x
  | .feget x => encX 0x52 x
  | .feput x => encX 0x53 x
  | .shmap x => encX 0x54 x
  | .rbacq x => encX 0x55 x
  | .rbrel x => encX 0x56 x
  | .cpy x => encX 0x57 x
  | .gath x => encX 0x58 x
  | .scat x => encX 0x59 x
  | .srinv x => encX 0x5A x
  | .mbld x => encX 0x5B x
  | .mma x => encX 0x5C x
  | .mlut x => encX 0x5D x
  | .mlma x => encX 0x5E x
  | .mdrain x => encX 0x5F x
  | .mcls x => encX 0x60 x
  | .gbcfg x => encX 0x61 x
  | .gbset x => encX 0x62 x
  | .gbclamp x => encX 0x63 x
  | .gbsweep x => encX 0x64 x
  | .gbread x => encX 0x65 x
  | .gbstat x => encX 0x66 x
  | .gbseed x => encX 0x67 x
  | .rgrp x => encX 0x68 x
  | .gets x => encX 0x69 x
  | .sets x => encX 0x6A x
  | .cctl x => encX 0x6B x
  | .icinv x => encX 0x6C x
  | .tlbinv x => encX 0x6D x
  | .eret x => encX 0x6E x
  | .svc x => encX 0x6F x
  | .bound x => encX 0x70 x
  | .tkpass x => encX 0x71 x
  | .lnch x => encX 0x72 x
  | .frcp x => encX 0x38 x
  | .frsq x => encX 0x38 x
  | .fsqrt x => encX 0x38 x
  | .fex2 x => encX 0x38 x
  | .flg2 x => encX 0x38 x
  | .fsin x => encX 0x38 x
  | .fcos x => encX 0x38 x
  | .ftanh x => encX 0x38 x
  | .regionI x | .regionEnd x => encX 0x4D x
  | .kaleidoscopeMapsSwitch _ => []
  | .launch _ _ _ _ => []
  | .acceptanceToken => []
  | .blockPlacement => []
  | .preemption _ _ => []
  | .launchFailure _ => []
  | .blockCompletion _ _ => []
  | .launchCompletion _ => []
  | .rbacqGrant _ => []
  | .l2PromiseRequest _ _ => []
  | .dramBooking _ _ => []
  | .promiseDelivered _ _ _ => []
  | .loadArrival _ _ => []
  | .promiseBroken _ _ _ => []
  | .brokenReestimate _ _ _ => []
  | .abortCompletion _ _ _ => []
  | .timedWake _ => []
  | .wakeOverflowReinsert _ => []
  | .islandClockStop _ => []
  | .islandClockRestart _ => []
  | .islandRatioChange _ _ => []
  | .stackCacheSpillFill _ _ _ _ => []
  | .walkAhead _ _ => []
  | .furesResolve _ _ _ => []
  | .furesFail _ _ _ => []
  | .taskDispatch _ _ => []
  | .engineByteLands _ _ _ => []
  | .engineTaskFault _ _ => []
  | .matrixTaskSuspend _ _ => []
  | .taskCompletion _ _ => []
  | .updateOnlyPacket _ _ _ => []
  | .l1Writeback _ _ _ => []
  | .storeAbort _ _ _ _ => []
  | .sliceRequestReturn _ _ => []
  | .uncorrectableError _ => []
  | .rowSelfTest _ _ => []
  | .amctlGo _ _ _ => []
  | .addressMapCommit => []
  | .l2quotaWrite _ _ => []
  | .sactlApply _ => []
  | .slotEditApplied _ => []
  | .ctxctlSuspend _ => []
  | .ctxctlResume _ => []
  | .killContext _ => []
  | .killOwner _ => []
  | .fwrevRevoke _ _ => []
  | .pkdropClear _ => []
  | .controlRegisterWrite _ _ _ _ => []
  | .islopWrite _ _ => []
  | .fabricRequestTimeout _ => []
  | .linkReplay _ _ => []
  | .linkDown _ => []
  | .mrd _ _ _ _ => []
  | .mwr _ _ _ _ => []
  | .crd _ _ _ _ => []
  | .cwr _ _ _ _ _ => []
  | .wrd _ _ _ _ _ => []
  | .wwr _ _ _ _ _ => []
  | .rsp _ _ _ => []
  | .fabricProtocolViolation _ => []
  | .rdmaAccess _ _ _ _ => []
  | .attestationRequest _ _ => []
  | .freeze => []
  | .reset => []
  | .firmwareImageLoad _ => []
  | .lifetimeRecordUpdate _ => []
  | .lifetimeRecordRead => []
  | .powerLimitLower _ _ => []
  | .debugHalt _ => []
  | .contextKeyLoad _ _ => []
  | .debugResume _ => []
  | .cxlWriteCompletion _ => []
  | .refreshPulledIn _ => []
  | .routerFailure _ => []

/-- The constructors that are instructions, not events: those with an encoding. -/
def Instr.encoded (i : Instr) : Bool := encode i != []

end Sys2Proof
end

