-- ==== Sys2Proof/Machine/Schedule.lean ====
section
/-! DEFINITION. Which threads are ready, the issue groups of a core (02 R53 to R55), and the fetch of an instruction
(03 R60, 10 R236, R254). -/

namespace Sys2Proof.Machine
open Sys2Proof

/-- Integer, float and conversion instructions: those of the arithmetic slot (02 R53). -/
def arithSlot (i : Instr) : Bool :=
  match i with
  | .mov _ | .movX _ | .iadd _ | .iaddX _ | .isub _ | .isubX _ | .imul _ | .imulX _ | .imulh _ | .imulhX _ | .imulhu _ | .imulhuX _
  | .imin _ | .iminX _ | .imax _ | .imaxX _ | .iminu _ | .iminuX _ | .imaxu _ | .imaxuX _ | .andS _ | .andX _ | .orS _ | .orX _
  | .xorS _ | .xorX _ | .andn _ | .andnX _ | .shl _ | .shlX _ | .shr _ | .shrX _ | .sar _ | .sarX _ | .rotl _ | .rotlX _
  | .popc _ | .popcX _ | .clz _ | .clzX _ | .ctz _ | .ctzX _ | .brev _ | .brevX _ | .iabs _ | .iabsX _
  | .fadd _ | .faddX _ | .fmul _ | .fmulX _ | .fmin _ | .fminX _ | .fmax _ | .fmaxX _
  | .isetp _ | .isetpX _ | .fsetp _ | .fsetpX _ | .plop _ | .plopX _
  | .imad _ | .idiv _ | .irem _ | .lea _ | .sel _ | .bfx _ | .bfi _ | .ffma _ | .fcvt _
  | .frcp _ | .frsq _ | .fsqrt _ | .fex2 _ | .flg2 _ | .fsin _ | .fcos _ | .ftanh _ => true
  | _ => false

/-- Whether another crew that maps the block of a shared slot keeps a live thread in the lane (04 R108). -/
def Core.hasPartner (c : Core) (slot off : Nat) : Bool :=
  c.crews.any (fun e => e.1 != slot / 64 && e.2.rbm.toList.contains (some (off / 2048))
    && (c.thread? (e.1 * 64 + slot % 64)).isSome)

/-- Whether a thread that has waited since `order` is the first to wait on a slot (04 R108). -/
def Core.firstAt (c : Core) (off : Nat) (full : Bool) (order : Nat) : Bool :=
  !c.threads.any (fun e => match e.2.park with
    | some (.slot o f k) => o == off && f == full && decide (k < order)
    | _ => false)

/-- Whether a store made with one of some translations is still held, in the region of another thread or for the checkpoint of another block (10
R232; the thread's own region and its block's own stores are not waited for: DEDUCED, log 53). -/
def State.storesHeld (s : State) (core slot : Nat) (t : Thread) (gone : List Tlb) : Bool :=
  let used := fun b : Buffered => gone.any (fun e => e.ctx == (s.rcd b.lid).ctx && e.va == b.page && e.leaf == b.leaf)
  s.cores.any (fun c =>
    c.2.threads.any (fun e => !(c.1 == core && e.1 == slot) && ((e.2.region.map (·.stores)).getD []).any used)
    || c.2.blocks.any (fun b => !(b.lid == t.lid && b.index == t.block) && b.deferred.any used))

/-- Whether the condition that a thread is parked on holds (02 R55). Parks that are not polled end by the act that releases
them. -/
def State.parkOver (s : State) (core slot : Nat) (t : Thread) (p : Park) : Bool :=
  let c := s.core core
  match p with
  | .loads ids | .settling ids => !c.loads.any (fun l => ids.contains l.id)
  | .time n => !tpending (t.treg n)
  | .tyield n _ true _ => tstate (t.treg n) != 1
  | .slot off full order => (c.full.contains off == full && c.firstAt off full order) || !c.hasPartner slot off
  | .marble => s.hasMarble core slot t
  | .tasks ids => !c.tasks.any (fun k => ids.contains k.id)
  | .entry _ _ => decide (c.tasks.length < 64)
  | .spinner => s.swapRoom core t.lid t.block [4]
  | .tracker => decide (c.tracker.length < 16)
  | .fill r => !s.fabric.any (·.id == r)
  | .writes ids => !ids.any (fun i => s.fabric.any (·.id == i) || s.cxlAwait.any (·.1 == i))
  | .flushed ids gone => !ids.any (fun i => s.fabric.any (·.id == i)) && !s.storesHeld core slot t gone
  | _ => false

/-- What a fetch of one word finds. -/
inductive FetchWord where
  | ok (s : State) (w : Word)
  | fault (s : State) (f : FaultInfo)
  /-- a piece asked for through a fabric window, by its request -/
  | wait (s : State) (req : Nat)

/-- Fetches the word at a PC through the I-cache (08 R170). -/
def State.fetchWord (s : State) (core : Nat) (lid : Nat) (pc : DWord) : FetchWord :=
  let ctx := (s.rcd lid).ctx
  let deny : FaultInfo := { kind := .permission, va := pc, write := false, path := .ifetch, level := 0 }
  match s.resolve core lid ctx (s.core core).tlb false .other pc 4 .fetch .ifetch with
  | .error f => .fault (s.sawFault ctx f) f
  | .ok (.mem pa leaf, e) =>
    let s := s.fillTlb core e
    match tget (s.core core).icache (pieceKey ctx pa) with
    | some d => .ok s (BitVec.ofNat 32 (lineBytes d (pa % 64) 4))
    | none =>
      let s := s.pull (pa / 128)
      match s.readPa ctx (leafMac leaf) (pa / 64 * 64) 64 with
      | .error k => .fault s { deny with kind := k, pa := pa }
      | .ok v =>
        let s := s.modCore core (fun c => { c with icache := tset c.icache (pieceKey ctx pa) (BitVec.ofNat 1024 v) })
        .ok (s.l2Access (pa / 64 * 64) 64 false (pathReq leaf (leafRet leaf))) (BitVec.ofNat 32 (v / 256 ^ (pa % 64)))
  | .ok (.fabric w off, e) =>
    let s := s.fillTlb core e
    let va := (pc.extractLsb' 0 56).toNat
    match tget (s.core core).icache (fabricKey ctx va) with
    | some d => .ok s (BitVec.ofNat 32 (lineBytes d (va % 64) 4))
    | none => .wait (s.sendFabric ctx (.line core false (fabricKey ctx va) pc) pc w (off / 64 * 64) 64 .read) s.seq
  | .ok (_, e) => .fault s { deny with level := foundLevel e }

/-- What a fetch of an instruction finds. -/
inductive Fetched where
  | bytes (s : State) (l : List Byte)
  | fault (s : State) (f : FaultInfo)
  | wait (s : State) (req : Nat)

/-- Fetches n more words from an address. -/
def State.fetchFrom (s : State) (core lid : Nat) (pc : DWord) (l : List Byte) : Nat → Fetched
  | 0 => .bytes s l
  | n + 1 =>
    match s.fetchWord core lid pc with
    | .fault s f => .fault s f
    | .wait s r => .wait s r
    | .ok s w => State.fetchFrom s core lid (addOff pc 4) (l ++ bytes32 w) n

/-- Fetches the instruction at a PC: its base word, then what bits [1:0] of it say (03 R60). -/
def State.fetch (s : State) (core lid : Nat) (pc : DWord) : Fetched :=
  match s.fetchWord core lid pc with
  | .fault s f => .fault s f
  | .wait s r => .wait s r
  | .ok s w => s.fetchFrom core lid (addOff pc 4) (bytes32 w) (lengthOf (w.extractLsb' 0 2) / 4 - 1)

/-- The codes of operands of an integer X-form: pairs with width 01 (03 R76). -/
def wide (x : XOps) (cs : List (BitVec 8)) : List (BitVec 8) := if x.sub.extractLsb' 0 2 = 1 then cs.flatMap pairOf else cs

/-- The guard of an instruction of threads and the codes of the registers that it reads as operands (02 R53, 05 R140); none for a happening. -/
def reads (i : Instr) : Option (Guard × List (BitVec 8)) :=
  match i with
  | .iadd o | .isub o | .imul o | .imulh o | .imulhu o | .imin o | .imax o | .iminu o | .imaxu o | .andS o | .orS o | .xorS o | .andn o
  | .shl o | .shr o | .sar o | .rotl o | .fadd o | .fmul o | .fmin o | .fmax o => some (o.g, [o.toX.a, o.toX.b])
  | .popc o | .clz o | .ctz o | .brev o | .iabs o => some (o.g, [o.toX.a])
  | .isetp o | .fsetp o => some (o.g, [o.toX.a, o.toX.b])
  | .mov o => some (o.g, [o.toX.b])
  | .brx o | .callx o => some (o.g, [o.a.setWidth 8 * 2, o.a.setWidth 8 * 2 + 1])
  | .nop g | .ret g | .exit g | .yield g | .brk g | .bsync g => some (g, [])
  | .plop o => some (o.g, [])
  | .bra o | .call o => some (o.g, [])
  | .joinS o | .jleave o | .twait o | .tclr o => some (o.g, [])
  | .trap o => some (o.g, [])
  | .movX x => some (x.g, wide x [x.b])
  | .iaddX x | .isubX x | .imulX x | .imulhX x | .imulhuX x | .iminX x | .imaxX x | .iminuX x | .imaxuX x | .andX x | .orX x | .xorX x
  | .andnX x | .shlX x | .shrX x | .sarX x | .rotlX x | .isetpX x | .idiv x | .irem x | .lea x | .sel x | .bfi x =>
    some (x.g, wide x [x.a, x.b])
  | .popcX x | .clzX x | .ctzX x | .brevX x | .iabsX x | .bfx x => some (x.g, wide x [x.a])
  | .imad x => some (x.g, wide x [x.a, x.b, x.c])
  | .faddX x | .fmulX x | .fminX x | .fmaxX x | .fsetpX x | .shfl x | .bound x | .boinit x | .bowait x | .botx x =>
    some (x.g, [x.a, x.b])
  | .ffma x => some (x.g, [x.a, x.b, x.c])
  | .frcp x | .frsq x | .fsqrt x | .fex2 x | .flg2 x | .fsin x | .fcos x | .ftanh x | .fcvt x | .cred x | .feget x | .feput x | .shmap x
  | .rbacq x | .rbrel x | .gbset x | .gbclamp x | .gbread x | .rgrp x | .sets x => some (x.g, [x.a])
  | .brxX x | .callxX x | .jinit x | .srinv x | .gbcfg x => some (x.g, pairOf x.a)
  | .nopX x | .retX x | .exitX x | .yieldX x | .brkX x | .bsyncX x | .eret x | .tkpass x | .plopX x | .braX x | .callX x | .joinX x
  | .jleaveX x | .twaitX x | .tclrX x | .trapX x | .vote x | .prfx x | .tyield x | .tget x | .tsetp x | .phase x | .pfence x | .regionI x
  | .regionEnd x | .mcls x | .gbstat x | .gets x | .icinv x | .svc x => some (x.g, [])
  | .tbr x => some (x.g, if x.sub.extractLsb' 0 3 = 6 then [x.b] else [])
  | .ld x | .ldk x | .pref x | .lnch x => some (x.g, baseCodes x)
  | .st x | .stcp x => some (x.g, baseCodes x ++ codesOf x.b (sizeOf_ x))
  | .red x => some (x.g, baseCodes x ++ codesOf x.b (atomSize x))
  | .atom x => some (x.g, baseCodes x ++ codesOf x.b (atomSize x) ++ (if atomOp x = 9 then codesOf x.c (atomSize x) else []))
  | .boarv x => some (x.g, if x.sub = 1 then [x.a, x.b] else [x.a])
  | .cpy x => some (x.g, pairOf x.a ++ pairOf x.d ++ [x.b, x.c])
  | .gath x | .scat x => some (x.g, pairOf x.a ++ pairOf x.b ++ pairOf x.d ++ [x.c])
  | .mbld x | .mma x | .mlut x | .mlma x | .mdrain x => some (x.g, pairOf x.a ++ [x.c])
  | .gbsweep x => some (x.g, [x.a, x.c])
  | .gbseed x => some (x.g, if x.sub = 1 then pairOf x.a else [x.a])
  | .cctl x | .tlbinv x => some (x.g, pairOf x.a ++ [x.b])
  | _ => none

/-- Whether the scoreboard blocks the operands of a thread's next instruction: one of them has a pending load (02 R53, 05 R140); a thread
whose guard is false needs none. -/
def State.scoreboard (s : State) (core slot : Nat) (t : Thread) : Bool :=
  !(s.core core).loads.isEmpty &&
    (match s.fetch core t.lid t.pc with
    | .bytes _ l =>
      (match decode l with
      | .ok (i, _) =>
        (match reads i with
        | some (g, cs) => t.guard g && cs.any (fun code => !((s.core core).blocking slot code).isEmpty)
        | none => false)
      | .error _ => false)
    | _ => false)

/-- Whether a core issues for a thread (02 R53): its block has started and goes on, its launch has not ended, its context is not
suspended, its crew is not held by RBACQ, it is not parked, or its condition holds, and its operands are not blocked by the scoreboard. -/
def State.ready (s : State) (core slot : Nat) (t : Thread) : Bool :=
  let c := s.core core
  (match c.block? t.lid t.block with
    | some b => b.started && !b.retiring && !b.rolling
    | none => false)
  && (match s.launch? t.lid with
    | some l => l.ended.isNone && !(s.ctxctl l.rcd.ctx).getLsbD 3
    | none => false)
  && (match c.crew? (slot / 64) with
    | some x => x.held.isNone
    | none => false)
  && (match t.park with
    | none => true
    | some p => s.parkOver core slot t p)
  && !s.scoreboard core slot t

/-- The ready threads of a core; none while its island's clock stands or a debugger has halted it (05 R136, 09 R219). -/
def State.readyThreads (s : State) (core : Nat) : List (Nat × Thread) :=
  if (s.island (core / 2)).running && !s.halted.contains core then
    (s.core core).threads.filter (fun e => s.ready core e.1 e.2)
  else []

/-- Inserts into a list that rises by a key. -/
def insertBy {α : Type} (key : α → Nat) (x : α) : List α → List α
  | [] => [x]
  | y :: r => if key x < key y then x :: y :: r else y :: insertBy key x r

/-- Sorts by a key; equal keys keep their order. -/
def sortBy {α : Type} (key : α → Nat) (l : List α) : List α := l.foldl (fun acc x => insertBy key x acc) []

/-- The crews of a core in order of creation, oldest first. -/
def Core.crewsByAge (c : Core) : List (Nat × Crew) := sortBy (fun e => e.2.created) c.crews

/-- Adds the threads of one crew to a candidate: those whose lanes it does not hold; at most four crews add any (02 R54). -/
def addCrew (at_ : List Nat) (acc : List Nat × Nat) (crew : Nat) : List Nat × Nat :=
  if acc.2 = 4 then acc
  else
    let new := at_.filter (fun slot => slot / 64 == crew && !acc.1.any (fun o => o % 64 == slot % 64))
    if new.isEmpty then acc else (acc.1 ++ new, acc.2 + 1)

/-- The candidate group of a launch at a PC (02 R54). -/
def Core.candidate (c : Core) (core : Nat) (ready : List (Nat × Thread)) (k : Nat × DWord) : Group :=
  let at_ := (ready.filter (fun e => e.2.lid == k.1 && e.2.pc == k.2)).map (·.1)
  let slots := ((c.crewsByAge.map (·.1)).foldl (addCrew at_) ([], 0)).1
  { core := core, lid := k.1, pc := k.2, slots := sortBy (· % 64) slots }

/-- The stamp of a candidate's oldest crew. -/
def Core.oldest (c : Core) (g : Group) : Nat :=
  ((g.slots.filterMap (fun s => (c.crew? (s / 64)).map (·.created))).foldl
    (fun (m : Option Nat) x => some (min x (m.getD x))) Option.none).getD 0

/-- Whether candidate a is picked before b: larger, then older, then at the lower PC (02 R54). -/
def Core.before (c : Core) (a b : Group) : Bool :=
  if a.slots.length ≠ b.slots.length then decide (b.slots.length < a.slots.length)
  else if c.oldest a ≠ c.oldest b then decide (c.oldest a < c.oldest b)
  else decide (a.pc < b.pc)

/-- The candidate that is picked among several. -/
def Core.pick (c : Core) (gs : List Group) : Option Group :=
  gs.foldl (fun best g => match best with
    | none => some g
    | some b => if c.before g b then some g else some b) none

/-- Whether the instruction at a candidate's PC belongs to the arithmetic slot. -/
def State.isArith (s : State) (g : Group) : Bool :=
  match s.fetch g.core g.lid g.pc with
  | .bytes _ l =>
    match decode l with
    | .ok (i, _) => arithSlot i
    | .error _ => false
  | _ => false

/-- The candidates of a core, one for each PC and launch with ready threads. -/
def State.candidates (s : State) (core : Nat) : List Group :=
  let ready := s.readyThreads core
  ((ready.map (fun e => (e.2.lid, e.2.pc))).eraseDups).map ((s.core core).candidate core ready)

/-- The group that a slot of a core issues now (02 R53, R54). -/
def State.select (s : State) (core : Nat) (arith : Bool) : Option Group :=
  (s.core core).pick ((s.candidates core).filter (fun g => s.isArith g == arith))

/-- The group that a core issues by default: the slots take turns (DESIGN CHOICE, log 1). -/
def State.selectAny (s : State) (core : Nat) : Option Group :=
  let a := (s.core core).arithNext
  match s.select core a with
  | some g => some g
  | none => s.select core (!a)

/-- The cores in the order in which they are asked by default. -/
def State.rota (s : State) : List Nat := (s.cores.map (·.1)).rotateLeft (s.time % max 1 s.cores.length)

/-- The group that issues by default. -/
def State.nextGroup (s : State) : Option Group := s.rota.findSome? s.selectAny

/-- A group issues: the YIELDs that wait for it count it (02 R55), and the slots take turns. -/
def State.begin (s : State) (g : Group) (arith : Bool) : State :=
  let s := s.modCore g.core (fun c => { c with
    arithNext := !arith
    threads := c.threads.map (fun (e : Nat × Thread) => match e.2.park with
      | some (.yield l) => (e.1, { e.2 with park := some (.yield (l.filter (fun k => k != (g.pc.toNat, g.lid)))) })
      | _ => e) })
  { s with cur := some g }

/-- What a failed fetch does to a thread (03 R60, 10 R236, R237, R250). -/
def State.fetchStop (s : State) (core slot : Nat) (f : FaultInfo) : State :=
  match s.thread? core slot with
  | none => s
  | some t =>
    if f.kind.aborts then s.stop core slot (.abort f)
    else s.stop core slot (t.faultStop f)

/-- Fetches and decodes for a group: the instruction to run with the state it runs in, or the state where there is none to run: a
reserved encoding traps in every thread (03 R80), and so does a fetch that fails. -/
def State.prepare (s : State) (g : Group) : State × Option Instr :=
  let s := s.begin g (s.isArith g)
  match s.fetch g.core g.lid g.pc with
  | .fault s f => (g.slots.foldl (fun s slot => s.fetchStop g.core slot f) s, none)
  | .wait s r => (g.slots.foldl (fun s slot => s.stop g.core slot (.park (.fill r))) s, none)
  | .bytes s l =>
    match decode l with
    | .ok (i, _) => ({ s with cur := some g }, some i)
    | .error _ => (g.slots.foldl (fun s slot => s.stop g.core slot (.trap causeIllegalInstruction none)) s, none)

end Sys2Proof.Machine
end

