-- ==== Sys2Proof/Machine/Control.lean ====
section
/-! DEFINITION. Control flow: branches, calls and returns with the call stack and its cache (06 R148, R149, 04 R110, R111), join
masks (06 R151 to R157) and YIELD (02 R55). -/

namespace Sys2Proof

/-- An S-form branch to a register pair as its X-form (03 R62). -/
def SPair.toX (o : SPair) : XOps := { Guard.toX o.g with a := 0#2 ++ o.a ++ 0#1, hold := if o.hold then 1 else 0 }

end Sys2Proof

namespace Sys2Proof.Machine
open Sys2Proof

/-- A relative branch (06 R148). -/
def braOf (off : Int) (_ : State) (_ _ : Nat) (t : Thread) : Except Stop (List Write) := .ok [.jump (t.pc + BitVec.ofInt 64 off)]

/-- The target of BRX and CALLX (06 R148, R149). -/
def pairTarget (x : XOps) (s : State) (core slot : Nat) (t : Thread) : Except Stop DWord := do
  (s.core core).checkMapped slot (pairOf x.a)
  let p ← s.src64 core slot t none x.a
  need (p.extractLsb' 0 2 == 0) causeMisaligned
  .ok p

/-- A branch to a register pair. -/
def brxOf (x : XOps) (s : State) (core slot : Nat) (t : Thread) : Except Stop (List Write) := do
  let p ← pairTarget x s core slot t
  .ok [.jump p]

/-- The address of a thread's return address i (04 R110, 02 R26). -/
def State.stackPtr (s : State) (t : Thread) (i : Nat) : DWord :=
  let r := s.rcd t.lid
  addOff r.stack (t.global r * r.stkb.toNat + 8 * i)

/-- Writes a return address out of the stack cache, on the LS path of the launch's context: a store outside any region (04 R110, 10 R251) (DEDUCED,
log 43). -/
def State.spill (s : State) (core slot : Nat) (t : Thread) (i : Nat) (v : DWord) : Except Stop (State → State) :=
  let ptr := s.stackPtr t i
  match s.resolve core t.lid (s.ctxOf t) (s.core core).tlb false .ldst ptr 8 .write .ls with
  | .error f =>
    if f.kind.aborts then
      .ok (fun s => (s.sawFault (s.ctxOf t) f).recordStore core (buffered t slot ptr 8 0 (v.setWidth 128) none) f.kind f.pa)
    else .error (preciseStop f)
  | .ok (_, e) =>
    let b := buffered t slot ptr 8 0 (v.setWidth 128) e
    if !s.granuleFree core { t with region := none } b then .error (.overflow ptr)
    else if (s.rcd t.lid).det ∧ leafDs b.leaf ∧ !s.hasMarble core slot t then .error (.park .marble)
    else .ok (fun s => (s.fillTlb core e).commitStore core b)

/-- Pushes a return address (04 R110, R111). The cache holds the top eight. -/
def State.push (s : State) (core slot : Nat) (t : Thread) (ra : DWord) : Except Stop (State → State) :=
  let put := fun s : State => s.modThread core slot (fun t => { t with depth := t.depth + 1, cache := (ra :: t.cache).take 8 })
  if t.stacklim.toNat < 8 * (t.depth + 1) then trap causeStackLimit
  else if t.cache.length < 8 then .ok put
  else do
    let k ← s.spill core slot t (t.depth - 8) (t.cache.getLast?.getD 0)
    .ok (fun s => put (k s))

/-- What a pop of the call stack finds. -/
inductive Popped where
  | ok (s : State) (ra : DWord)
  | stop (s : State) (st : Stop)
  /-- the read meets an abort, with its record -/
  | abort (s : State) (f : FaultInfo)

/-- The constant-cache key under which a piece of a stack behind a fabric window is held until it is used. -/
def stackKey (ctx va : Nat) : Nat := 2 ^ 81 + ctx * 2 ^ 56 + va / 64

/-- Reads return address i of a thread (04 R110). -/
def State.fillRet (s : State) (core : Nat) (t : Thread) (i : Nat) : Popped :=
  let ptr := s.stackPtr t i
  let ctx := s.ctxOf t
  let lost := fun (s : State) (k : FaultKind) (pa : Nat) =>
    let f : FaultInfo := { kind := k, va := ptr, write := false, path := .ls, level := 0, pa := pa }
    Popped.abort (s.record (s.recOf core t f t.pc)) f
  match s.resolve core t.lid ctx (s.core core).tlb false .ldst ptr 8 .read .ls with
  | .error f => if f.kind.aborts then lost (s.sawFault ctx f) f.kind f.pa else .stop s (preciseStop f)
  | .ok (.fabric w off, e) =>
    let s := s.fillTlb core e
    let key := stackKey ctx (ptr.extractLsb' 0 56).toNat
    match tget (s.core core).constant key with
    | some d => .ok (s.modCore core (fun c => { c with constant := tdel c.constant key }))
        (BitVec.ofNat 64 (lineBytes d ((ptr.extractLsb' 0 56).toNat % 64) 8))
    | none => .stop (s.sendFabric ctx (.line core true key t.pc) ptr w (off / 64 * 64) 64 .read) (.park (.fill s.seq))
  | .ok (target, e) =>
    let bad := match target with
      | .store c off => (s.core c).badIn off 8
      | _ => none
    match bad with
    | some w => .stop s (.eccAt ptr false w.2)
    | none =>
      match (s.fillTlb core e).readTarget core t target 8 0 [] with
      | (s, .error (k, pa)) => lost s k pa
      | (s, .ok (v, _)) => .ok s (BitVec.ofNat 64 v)

/-- Pops a return address (04 R110, R111). -/
def State.pop (s : State) (core : Nat) (t : Thread) : Popped :=
  if t.depth = 0 then .stop s (.trap causeStackLimit none)
  else match t.cache with
    | ra :: _ => .ok s ra
    | [] => s.fillRet core t (t.depth - 1)

/-- A call of a thread. A CALLX whose target is misaligned takes MISALIGNED, whether or not its push would pass the stack limit (DESIGN CHOICE,
log 83: no rule orders 04 R111 and 06 R149). -/
def callOne (len : Nat) (target : State → Nat → Nat → Thread → Except Stop DWord) (s : State) (core slot : Nat) (t : Thread) : State :=
  s.finish core len slot (do
    let p ← target s core slot t
    let k ← s.push core slot t (t.pc + BitVec.ofNat 64 len)
    .ok (fun s => (k s).modThread core slot (fun t => { t with pc := p })))

/-- The target of a relative call. -/
def relTarget (off : Int) (_ : State) (_ _ : Nat) (t : Thread) : Except Stop DWord := .ok (t.pc + BitVec.ofInt 64 off)

/-- RET of a thread. -/
def retOne (len : Nat) (s : State) (core slot : Nat) (t : Thread) : State :=
  match s.pop core t with
  | .stop s st => s.stop core slot st
  | .abort s f => (s.modThread core slot (·.seeFault f)).consume core slot f.kind
  | .ok s ra =>
    (s.modCore core (·.advance slot len)).modThread core slot (fun t => { t with pc := ra, depth := t.depth - 1, cache := t.cache.drop 1 })

/-- BRA. -/
def execBra (o : SBr) (s : State) : Next := done (s.runGroup 4 o.g (braOf (4 * o.off.toInt)))
/-- BRA, X-form. -/
def execBraX (x : XOps) (s : State) : Next := done (s.runGroup x.len x.g (braOf x.imm.toInt))
/-- CALL. -/
def execCall (o : SBr) (s : State) : Next := done (s.runSeq 4 o.g (callOne 4 (relTarget (4 * o.off.toInt))))
/-- CALL, X-form. -/
def execCallX (x : XOps) (s : State) : Next := done (s.runSeq x.len x.g (callOne x.len (relTarget x.imm.toInt)))
/-- BRX. -/
def execBrx (o : SPair) (s : State) : Next := done (s.holding o.toX (·.runGroup 4 o.g (brxOf o.toX)))
/-- BRX, X-form. -/
def execBrxX (x : XOps) (s : State) : Next := done (s.holding x (·.runGroup x.len x.g (brxOf x)))
/-- CALLX. -/
def execCallx (o : SPair) (s : State) : Next := done (s.holding o.toX (·.runSeq 4 o.g (callOne 4 (pairTarget o.toX))))
/-- CALLX, X-form. -/
def execCallxX (x : XOps) (s : State) : Next := done (s.holding x (·.runSeq x.len x.g (callOne x.len (pairTarget x))))
/-- RET. -/
def execRet (g : Guard) (s : State) : Next := done (s.runSeq 4 g (retOne 4))
/-- RET, X-form. -/
def execRetX (x : XOps) (s : State) : Next := done (s.runSeq x.len x.g (retOne x.len))
/-- STACK_CACHE_SPILL_FILL (04 R110): the bottom of a thread's stack cache goes out, or the address below it comes in, ahead of
need; a fault drops it. -/
def execStackCacheSpillFill (core crew lane : Nat) (fill : Bool) (s : State) : Next :=
  let slot := crew * 64 + lane
  match s.thread? core slot with
  | none => done s
  | some t =>
    if fill then
      if 8 ≤ t.cache.length ∨ t.depth ≤ t.cache.length then done s
      else match s.fillRet core t (t.depth - t.cache.length - 1) with
        | .ok s ra => done (s.modThread core slot (fun t => { t with cache := t.cache ++ [ra] }))
        | _ => done s
    else match t.cache.getLast? with
      | none => done s
      | some v =>
        match s.spill core slot t (t.depth - t.cache.length) v with
        | .ok k => done ((k s).modThread core slot (fun t => { t with cache := t.cache.dropLast }))
        | .error _ => done s

/-- Releases a join mask whose arrivals equal it (06 R153). -/
def Core.joinDone (c : Core) (crew : Nat) (n : BitVec 3) : Core :=
  let (m, a) := c.readJ crew n
  if m ≠ 0 ∧ a = m then
    let c := (c.slotsIn crew).foldl (fun c slot =>
      match (c.thread? slot).bind (·.park) with
      | some (.join k len) => if k = n then c.advance slot len else c
      | _ => c) c
    c.writeJ crew n (0, 0)
  else c

/-- The bit of a lane. -/
def laneBit (slot : Nat) : DWord := 1#64 <<< (slot % 64)

/-- JOIN of a thread (06 R153). -/
def joinOne (n : BitVec 3) (len : Nat) (s : State) (core slot : Nat) (_ : Thread) : State :=
  let (m, a) := (s.core core).readJ (slot / 64) n
  if m &&& laneBit slot = 0 then s.stop core slot (.trap causeJoin none)
  else s.modCore core (fun c =>
    ((c.writeJ (slot / 64) n (m, a ||| laneBit slot)).modThread slot (fun t => { t with park := some (.join n len) })).joinDone (slot / 64) n)

/-- Clears a lane's bit in a join mask (06 R154). -/
def Core.leaveJoin (c : Core) (slot : Nat) (n : BitVec 3) : Core :=
  let (m, a) := c.readJ (slot / 64) n
  (c.writeJ (slot / 64) n (m &&& ~~~laneBit slot, a &&& ~~~laneBit slot)).joinDone (slot / 64) n

/-- JLEAVE of a thread (06 R154). -/
def jleaveOne (n : BitVec 3) (len : Nat) (s : State) (core slot : Nat) (_ : Thread) : State :=
  s.modCore core (fun c => (c.advance slot len).leaveJoin slot n)

/-- JOIN. -/
def execJoin (o : SNum) (s : State) : Next := done (s.runSeq 4 o.g (joinOne o.n 4))
/-- JOIN, X-form. -/
def execJoinX (x : XOps) (s : State) : Next := done (s.runSeq x.len x.g (joinOne (x.a.setWidth 3) x.len))
/-- JLEAVE. -/
def execJleave (o : SNum) (s : State) : Next := done (s.runSeq 4 o.g (jleaveOne o.n 4))
/-- JLEAVE, X-form. -/
def execJleaveX (x : XOps) (s : State) : Next := done (s.runSeq x.len x.g (jleaveOne (x.a.setWidth 3) x.len))

/-- The value that JINIT loads (06 R152, R155). -/
def jinitOf (x : XOps) (s : State) (core slot : Nat) (t : Thread) : Except Stop DWord := do
  let v ← s.src64 core slot t x.lit x.a
  need (((s.core core).readJ (slot / 64) (x.d.setWidth 3)).2 == 0) causeJoin
  .ok (v &&& (s.core core).live (slot / 64))

/-- JINIT of a thread; the values were read at issue. -/
def State.jinitOne (s0 : State) (core : Nat) (x : XOps) (slot : Nat) (s : State) : State :=
  match s0.thread? core slot with
  | none => s
  | some t =>
    if t.guard x.g then
      match jinitOf x s0 core slot t with
      | .error st => s.stop core slot st
      | .ok v => s.modCore core (fun c => (c.advance slot x.len).writeJ (slot / 64) (x.d.setWidth 3) (v, 0))
    else s.modCore core (·.advance slot x.len)

/-- JINIT: the lowest lane of a crew in the group wins (06 R152, 04 R100). -/
def execJinit (x : XOps) (s : State) : Next :=
  match s.cur with
  | none => done s
  | some gr => done (s.holding x (fun s => gr.slots.foldr (State.jinitOne s gr.core x) s))

/-- The launches and PCs whose groups a YIELD waits for: every group of the core that was ready, apart from the yielding one
(02 R55). -/
def State.yieldFor (s : State) (core : Nat) (slots : List Nat) : List (Nat × Nat) :=
  (((s.readyThreads core).filter (fun e => !slots.contains e.1)).map (fun e => (e.2.pc.toNat, e.2.lid))).eraseDups

/-- YIELD of a thread (06 R158). -/
def yieldOne (len : Nat) (s0 : State) (s : State) (core slot : Nat) (_ : Thread) : State :=
  let l := s0.yieldFor core ((s0.cur.map (·.slots)).getD [])
  (s.modCore core (·.advance slot len)).modThread core slot (fun t => { t with park := if l.isEmpty then none else some (.yield l) })

/-- YIELD. -/
def execYield (g : Guard) (s : State) : Next := done (s.runSeq 4 g (yieldOne 4 s))
/-- YIELD, X-form. -/
def execYieldX (x : XOps) (s : State) : Next := done (s.runSeq x.len x.g (yieldOne x.len s))

end Sys2Proof.Machine
end

