-- ==== Sys2Proof/Machine/Sync.lean ====
section
/-! DEFINITION. The marble (08 R196 to R199), the block barrier (20 R379), checkpoints (10 R251), and the ordering instructions
PHASE, PFENCE, REGION, TKPASS (08 R174, R181 to R184). -/

namespace Sys2Proof.Machine
open Sys2Proof

/-- Lexicographic order of crew orders (12 R265). -/
def orderLt (a b : Nat × Nat) : Bool := decide (a.1 < b.1) || (a.1 == b.1 && decide (a.2 < b.2))

/-- Crew orders of a launch that have a live thread: resident and saved crews, and the first crews of blocks not placed yet
(08 R196). -/
def State.liveOrders (s : State) (lid : Nat) : List (Nat × Nat) :=
  (s.cores.flatMap (fun e => (e.2.crews.filter (fun c => c.2.lid == lid && e.2.threads.any (fun t => t.1 / 64 == c.1))).map (fun c => c.2.order)))
  ++ (match s.launch? lid with
    | none => []
    | some l =>
      l.saved.flatMap (fun v => (v.crews.filter (fun c => v.threads.any (fun t => t.1 / 64 == c.1))).map (fun c => c.2.order)))

/-- Number of blocks of a launch: the product of the sizes above BLOCK (02 R30). -/
def LaunchRec.blocks (r : LaunchRec) : Nat := (((r.levels.take (r.top + 1)).drop 3).map (·.1)).foldl (· * ·) 1

/-- The crew order that follows one in a launch: the next one up, or the lowest (08 R196). `skip` leaves out the crews of a
regroup's set (12 R274). -/
def State.nextOrder (s : State) (lid : Nat) (o : Nat × Nat) (skip : List (Nat × Nat)) : Option (Nat × Nat) :=
  let live := (s.liveOrders lid).filter (fun x => !skip.contains x)
  let r := s.rcd lid
  let unplaced := match s.launch? lid with
    | some l => if l.next < r.blocks then [(max (l.next * r.size 2) (o.1 + 1), 0), (l.next * r.size 2, 0)] else []
    | none => []
  let all := live ++ unplaced.filter (fun x => decide (x.1 < r.blocks * r.size 2))
  let least := fun l : List (Nat × Nat) => l.foldl (fun (m : Option (Nat × Nat)) x => match m with
    | none => some x
    | some y => if orderLt x y then some x else some y) none
  match least (all.filter (orderLt o)) with
  | some x => some x
  | none => least all

/-- Whether a thread stands at BSYNC. -/
def Thread.atBsync (t : Thread) : Bool :=
  match t.park with
  | some (.bsync _) => true
  | some (.checkpoint none _) => true
  | _ => false

/-- Whether a thread stands at BSYNC, or at a checkpoint. -/
def Thread.atBarrier (t : Thread) : Bool :=
  match t.park with
  | some (.bsync _) | some (.checkpoint _ _) => true
  | _ => false

/-- Whether every live thread of a crew is at BSYNC. -/
def Core.crewAtBsync (c : Core) (crew : Nat) : Bool := (c.slotsIn crew).all (fun o => ((c.thread? o).map Thread.atBsync).getD false)

/-- Whether every live thread of the blocks of a crew has come to its barrier. -/
def Core.barrierFull (c : Core) (crew : Nat) : Bool :=
  c.threads.all (fun e => e.2.atBarrier || !(c.slotsIn crew).any (fun o => (c.thread? o).any (fun t => t.lid == e.2.lid && t.block == e.2.block)))

/-- Where the crew of an order resides: the core and the crew's index. -/
def State.crewAt (s : State) (lid : Nat) (o : Nat × Nat) : Option (Nat × Nat) :=
  s.cores.findSome? (fun e => (e.2.crews.find? (fun c => c.2.lid == lid && c.2.order == o)).map (fun c => (e.1, c.1)))

/-- Whether a crew of an order that has been pre-empted stands at BSYNC in its record, all of it. -/
def Saved.waitsAtBsync (v : Saved) (o : Nat × Nat) : Bool :=
  v.crews.any (fun c => c.2.order == o && v.threads.any (fun t => t.1 / 64 == c.1)
    && v.threads.all (fun t => t.1 / 64 != c.1 || t.2.atBsync))

/-- Whether the crew of an order stands at BSYNC, all of it; also one that has been pre-empted there (08 R199, R200). -/
def State.waitsAtBsync (s : State) (lid : Nat) (o : Nat × Nat) : Bool :=
  match s.crewAt lid o with
  | some (core, i) => !((s.core core).slotsIn i).isEmpty && (s.core core).crewAtBsync i
  | none => ((s.launch? lid).map (fun l => l.saved.any (·.waitsAtBsync o))).getD false

/-- Whether a marble that has come to a crew goes on at once: all of the crew stands at BSYNC. A crew that has passed the marble there keeps it
when its barrier completes (08 R199; DEDUCED, log 40). -/
def State.passesOn (s : State) (lid : Nat) (o : Nat × Nat) : Bool :=
  s.waitsAtBsync lid o && (match s.launch? lid, s.crewAt lid o with
    | some l, some (core, i) => !(l.passed.contains o && (s.core core).barrierFull i)
    | _, _ => true)

/-- Passes the marble of a launch (08 R196), over at most so many crews that stand at BSYNC. -/
def State.passFrom (s : State) (lid : Nat) : Nat → State
  | 0 => s
  | n + 1 =>
    match (s.launch? lid).bind (·.marble) with
    | none => s
    | some o =>
      match s.nextOrder lid o [] with
      | none => s
      | some x =>
        let rests := s.waitsAtBsync lid o
        let s := s.modLaunch lid (fun l => { l with marble := some x, passed := if rests && !l.passed.contains o then o :: l.passed else l.passed })
        if s.passesOn lid x then State.passFrom s lid n else s

/-- Passes the marble of a launch (08 R196, R199). -/
def State.passMarble (s : State) (lid : Nat) : State := s.passFrom lid (2 * (s.liveOrders lid).length + 2)

/-- What must be over before a marble passes, for the threads in some slots of a launch: the results of their ATOMs are written, with
`exits` those that a thread drops apart (20 R387), their operations behind fabric windows are performed, and their DS stores have left their
regions (08 R198). Everything else is performed as it is committed (DEDUCED, log 40). -/
def State.marbleWait (s : State) (core lid : Nat) (p : Nat → Bool) (exits : Bool) : Option Park :=
  match ((s.core core).loads.filter (fun l => l.kind == .atom && p l.slot && (!exits || l.data.isNone))).map (·.id) with
  | [] =>
    match (s.fabric.filter (fun f => match f.for_ with
      | .write c l _ o _ _ => c == core && l == lid && p o
      | .load c _ _ _ l _ o _ _ => f.write && c == core && l == lid && p o
      | _ => false)).map (·.id) with
    | [] =>
      if (s.core core).threads.any (fun e => p e.1 && e.2.lid == lid && ((e.2.openRegion.map (·.stores)).getD []).any (fun b => leafDs b.leaf))
      then some .marble else none
    | ids => some (.writes ids)
  | ids => some (.loads ids)

/-- Whether the marble of a crew waits for what its threads have issued, also those that have exited since (08 R198). -/
def State.crewWaits (s : State) (core lid crew : Nat) : Bool := (s.marbleWait core lid (fun o => o / 64 == crew) false).isSome

/-- The marble passes when every live thread of the holder crew is at BSYNC, after the wait of R198 (08 R199). -/
def State.passAtBsync (s : State) (core slot : Nat) (t : Thread) : State :=
  if s.hasMarble core slot t && (s.core core).crewAtBsync (slot / 64) && !s.crewWaits core t.lid (slot / 64) then s.passMarble t.lid else s

/-- Whether the marble is with a crew of a block that stands at BSYNC and has still to pass it there: the barrier does not complete before (08 R199,
R200; DEDUCED, log 40). -/
def State.marblePends (s : State) (core lid block : Nat) : Bool :=
  match (s.launch? lid).bind (·.marble) with
  | none => false
  | some o =>
    match s.crewAt lid o with
    | some (k, i) => k == core && ((s.core core).crewsOf lid block).contains i && s.passesOn lid o
    | none => false

/-- The crews of a block go on behind BSYNC: each may pass the marble again at its next one (08 R199). -/
def State.leaveBsync (s : State) (core lid block : Nat) : State :=
  let c := s.core core
  let orders := (c.crewsOf lid block).filterMap (fun i => (c.crew? i).map (·.order))
  s.modLaunch lid (fun l => { l with passed := l.passed.filter (fun o => !orders.contains o) })

/-- Threads of a block that BSYNC counts as live (20 R379). -/
def Core.liveIn (c : Core) (lid block : Nat) : Nat := (c.slotsOf lid block).length

/-- Releases a completed block barrier (20 R379). -/
def State.settleBarrier (s : State) (core lid block : Nat) : State :=
  let c := s.core core
  match c.block? lid block with
  | none => s
  | some b =>
    if b.arrivals ≠ 0 ∧ b.arrivals = c.liveIn lid block ∧ !s.marblePends core lid block then
      (s.leaveBsync core lid block).modCore core (fun c =>
        ((c.slotsOf lid block).foldl (fun c slot =>
          match (c.thread? slot).bind (·.park) with
          | some (.bsync len) => c.goOn slot len
          | _ => c) c).modBlock lid block (fun b => { b with arrivals := 0 }))
    else s

/-- Drops the clean copies of a launch's share: clean lines whole, and the clean bytes of dirty ones (08 R174, R181). -/
def Core.dropClean (c : Core) (lid : Nat) : Core :=
  { c with lines := (c.lines.filter (fun l => l.lid != lid || l.dirty != 0 || l.upd.isSome)).map (fun l =>
      if l.lid = lid ∧ l.upd.isNone then { l with valid := 0, newer := 0 } else l) }

/-- Changes every core in use that lies in the scope's domain of a core. -/
def State.inDomain (s : State) (scope core : Nat) (f : Core → Core) : State :=
  { s with cores := s.cores.map (fun e => if sameDomain scope core e.1 then (e.1, f e.2) else e) }

/-- Whether a fabric request carries a store, RED or ATOM of a thread, or a broken-promise report of a load of it (05 R135); one whose load has been
abandoned too (05 R138). -/
def FabReq.writesFor (core slot : Nat) (t : Thread) (f : FabReq) : Bool :=
  match f.for_ with
  | .write c l b o tid _ => c == core && l == t.lid && b == t.block && o == slot && tid == t.tid
  | .load c _ _ _ l b o tid _ => f.write && c == core && l == t.lid && b == t.block && o == slot && tid == t.tid
  | .report c o l b _ _ => c == core && l == t.lid && b == t.block && o == slot
  | _ => false

/-- What a publish at SYS scope waits for: the thread's writes through fabric windows, and writes that CXL devices have not completed (08
R182). -/
def State.sysAwaited (s : State) (core slot : Nat) (t : Thread) : List Nat :=
  (s.fabric.filter (·.writesFor core slot t)).map (·.id) ++ s.cxlAwait.map (·.1)

/-- The publish of a PHASE (08 R181). -/
def State.publish (s : State) (core : Nat) (t : Thread) (scope : Nat) (publish : Bool) : State :=
  if 3 ≤ scope ∧ publish then s.publishShare core t.lid else s

/-- What a PHASE waits for between its publish and its refresh (08 R182). -/
def State.phaseAwaits (s : State) (core slot : Nat) (t : Thread) (scope : Nat) (publish : Bool) : List Nat :=
  if scope = 7 ∧ publish then s.sysAwaited core slot t else []

/-- The refresh of a PHASE, after which the thread goes on behind it (08 R181). -/
def State.phaseEnd (s : State) (core slot : Nat) (t : Thread) (scope : Nat) (refresh : Bool) (len : Nat) : State :=
  s.modCore core (fun c => (if 3 ≤ scope ∧ refresh then c.dropClean t.lid else c).goOn slot len)

/-- Whether a thread that stands at an instruction has waited there for writes. -/
def Thread.awaited (t : Thread) : Bool :=
  match t.park with
  | some (.writes _) => true
  | _ => false

/-- The steps of PHASE after its commit, for a thread that stands at it: it publishes, waits, refreshes and goes on (08 R181, R182). -/
def State.phaseSteps (s : State) (core slot : Nat) (t : Thread) (scope : Nat) (publish refresh : Bool) (len : Nat) : State :=
  if t.awaited then s.phaseEnd core slot t scope refresh len
  else
    let s := s.publish core t scope publish
    match s.phaseAwaits core slot t scope publish with
    | [] => s.phaseEnd core slot t scope refresh len
    | ids => s.modThread core slot (fun t => { t with park := some (.writes ids) })

/-- Releases the stores that a block holds for its checkpoint (10 R251). -/
def State.releaseDeferred (s : State) (core lid block : Nat) : State :=
  let held := s.heldStores core lid block
  (s.modCore core (·.modBlock lid block (fun b => { b with deferred := [] }))) |> fun s =>
    held.foldl (fun s b => s.performStore core b) s

/-- Takes a block's checkpoint when every live thread of it stands at BSYNC or PHASE: the copy, in which each thread stands behind its
instruction, then the deferred stores, then each thread's own instruction goes on (10 R251, R252). -/
def State.settleCheckpoint (s : State) (core lid block : Nat) : State :=
  let c := s.core core
  let slots := c.slotsOf lid block
  let phases := slots.filterMap (fun slot => match (c.thread? slot).bind (fun t => t.park.map (fun p => (t, p))) with
    | some (t, .checkpoint p len) => some (slot, t, p, len)
    | _ => none)
  if slots.isEmpty ∨ phases.length ≠ slots.length ∨ s.marblePends core lid block then s
  else
    let s := (s.leaveBsync core lid block).modCore core (·.modBlock lid block (fun b => { b with consumed := false }))
    let behind := s.modCore core (fun c => phases.foldl (fun c e => c.goOn e.1 e.2.2.2) c)
    match (behind.core core).block? lid block with
    | none => s
    | some b =>
      let sv := behind.snapshot core [b] false
      let s := s.modCore core (fun c => { c with
        checkpoints := sv :: c.checkpoints.filter (fun v => !v.blocks.any (fun x => x.1.lid == lid && x.1.index == block)) })
      let s := s.modLaunch lid (fun l => { l with lnch := l.lnch.filter (fun e => e.1 != block) })
      let s := s.releaseDeferred core lid block
      phases.foldl (fun s e => match e.2.2.1 with
        | some (scope, publish, refresh) => s.phaseSteps core e.1 e.2.1 scope publish refresh e.2.2.2
        | none => s.modCore core (·.goOn e.1 e.2.2.2)) s

/-- A marble whose crew stands at BSYNC passes once the wait of R198 is over, and the barriers that waited for it complete (08 R199). -/
def State.settleMarble (s : State) (lid : Nat) : State :=
  match (s.launch? lid).bind (·.marble) with
  | none => s
  | some o =>
    if s.passesOn lid o then
      match s.crewAt lid o with
      | none => s.passMarble lid
      | some (core, i) =>
        if s.crewWaits core lid i then s
        else
          let blocks := (((s.core core).slotsIn i).filterMap (fun o => ((s.core core).thread? o).map (·.block))).eraseDups
          blocks.foldl (fun s b => if (s.rcd lid).rbk then s.settleCheckpoint core lid b else s.settleBarrier core lid b) (s.passMarble lid)
    else s

/-- Commits a thread's region and leaves it at its instruction, with the region reopened there (08 R186); before, the faults of its loads are
recorded (10 R238). -/
def State.commitStay (s : State) (core slot : Nat) (k : State → State) : State :=
  let s := s.recordFaults core slot
  match s.thread? core slot with
  | none => s
  | some t =>
    match s.commitCheck core slot t with
    | .error st => s.stop core slot st
    | .ok _ => k (s.commitTo core slot (some t.pc))

/-- In a DET launch a thread whose crew holds the marble waits before it arrives at RGRP, where the marble may pass, and the crew's last thread before
it leaves (08 R198, R199, 02 R58). -/
def State.marbleDone (s : State) (core slot : Nat) (t : Thread) (exits : Bool := false) : Except Stop Unit :=
  if (s.rcd t.lid).det && s.hasMarble core slot t then
    match s.marbleWait core t.lid (fun o => o == slot || (exits && o / 64 == slot / 64)) exits with
    | none => .ok ()
    | some p => .error (.park p)
  else .ok ()

/-- BSYNC of a thread (20 R379). -/
def bsyncOne (len : Nat) (s : State) (core slot : Nat) (t : Thread) : State :=
  s.commitStay core slot (fun s =>
    if (s.rcd t.lid).rbk then
      ((s.modThread core slot (fun t => { t with park := some (.checkpoint none len) })).passAtBsync core slot t).settleCheckpoint core t.lid t.block
    else
      let s := s.modCore core (fun c =>
        (c.modThread slot (fun t => { t with park := some (.bsync len) })).modBlock t.lid t.block (fun b => { b with arrivals := b.arrivals + 1 }))
      (s.passAtBsync core slot t).settleBarrier core t.lid t.block)

/-- BSYNC. -/
def execBsync (g : Guard) (s : State) : Next := done (s.runSeq 4 g (bsyncOne 4))
/-- BSYNC, X-form. -/
def execBsyncX (x : XOps) (s : State) : Next := done (s.runSeq x.len x.g (bsyncOne x.len))

/-- PHASE of a thread (08 R181, R183); in handler mode it takes no part in a checkpoint (22 R436) (DEDUCED, log 63). -/
def phaseOne (x : XOps) (s : State) (core slot : Nat) (t : Thread) : State :=
  let scope := (x.sub.extractLsb' 0 3).toNat
  let publish := !x.sub.getLsbD 4
  let refresh := !x.sub.getLsbD 3
  s.commitStay core slot (fun s =>
    if (s.rcd t.lid).rbk ∧ t.mode = .user ∧ !t.awaited then
      (s.modThread core slot (fun t => { t with park := some (.checkpoint (some (scope, publish, refresh)) x.len) })).settleCheckpoint
        core t.lid t.block
    else s.phaseSteps core slot t scope publish refresh x.len)

/-- PHASE. -/
def execPhase (x : XOps) (s : State) : Next := done (s.runSeq x.len x.g (phaseOne x))

/-- The path on which an engine task works (08 R170). -/
def TaskOp.path : TaskOp → Path
  | .cpy _ _ _ _ _ => .cp
  | .gath _ _ _ _ _ | .scat _ _ _ _ _ => .ga
  | .gbsweep _ _ _ => .gb
  | _ => .tl

/-- The dispatched tasks of a thread's block on the paths of a source mask (08 R174). -/
def State.sourceTasks (s : State) (core : Nat) (t : Thread) (src : BitVec 7) : List Nat :=
  ((s.core core).tasks.filter (fun k => k.lid == t.lid && k.block == t.block && k.state != .waiting && src.getLsbD k.op.path.code)).map (·.id)

/-- The key under which a piece behind a window is held until the GB path uses it (17 R330, 19 R344). -/
def gbKey (ctx va : Nat) : Nat := 2 ^ 82 + ctx * 2 ^ 56 + va / 64

/-- Whether a key of a staged or cached piece belongs to the KR path, the GB path or the stack: by its size. -/
def keyPath (key : Nat) : Option Path :=
  if key < 2 ^ 81 then some .kr else if key < 2 ^ 82 then none else some .gb

/-- Drops the copies that the paths of a destination mask hold; those of TL, CP and GA are held by tasks that are dispatched, which are not
affected (08 R174; DEDUCED, log 18). -/
def Core.dropPaths (c : Core) (lid : Nat) (dst : BitVec 7) : Core :=
  let c := if dst.getLsbD 0 then c.dropClean lid else c
  let c := if dst.getLsbD 1 then { c with constant := c.constant.filter (fun e => keyPath e.1 != some .kr) } else c
  let c := if dst.getLsbD 5 then { c with gbuffers := [], constant := c.constant.filter (fun e => keyPath e.1 != some .gb) } else c
  if dst.getLsbD 6 then { c with icache := [] } else c

/-- The pieces that cores of a domain have asked for through windows on the paths of a mask are not taken when they come: who waits for one asks
again (08 R174, 21 R406). -/
def State.cancelFills (s : State) (scope core : Nat) (dst : BitVec 7) : State :=
  { s with fabric := s.fabric.filter (fun f => match f.for_ with
      | .line c kr key _ =>
        !(sameDomain scope core c && !(s.core c).blocks.any (fun b => b.paramFill == some f.id)
          && (if kr then (match keyPath key with | some p => dst.getLsbD p.code | none => false) else dst.getLsbD 6))
      | _ => true) }

/-- Drops what the paths of a mask hold in a domain (08 R174). -/
def State.fence (s : State) (scope core lid : Nat) (dst : BitVec 7) : State :=
  (s.cancelFills scope core dst).inDomain scope core (·.dropPaths lid dst)

/-- Whether a thread that stands at PFENCE has waited there for engine tasks: its lines have been written back before (08 R174). -/
def Thread.fenced (t : Thread) : Bool :=
  match t.park with
  | some (.tasks _) => true
  | _ => false

/-- The first steps of PFENCE: the write-back of dirty lines (08 R174). -/
def State.fenceWrites (s : State) (core : Nat) (t : Thread) (x : XOps) : State :=
  if !t.fenced ∧ x.imm.getLsbD 0 ∧ (x.imm.extractLsb' 9 6) ≠ 0 then s.writeDirty core t.lid else s

/-- The tasks that PFENCE waits for: none once the thread has waited for them (08 R174). -/
def State.fenceAwaits (s : State) (core : Nat) (t : Thread) (x : XOps) : List Nat :=
  if t.fenced then [] else s.sourceTasks core t ((x.imm.extractLsb' 0 7) &&& 0x3C)

/-- PFENCE of a thread once its region is committed, which stands at it (08 R174). -/
def pfenceBody (x : XOps) (t : Thread) (core slot : Nat) (s : State) : State :=
  let s := s.fenceWrites core t x
  match s.fenceAwaits core t x with
  | [] => (s.fence (x.sub.extractLsb' 0 3).toNat core t.lid (x.imm.extractLsb' 8 7)).modCore core (·.goOn slot x.len)
  | ids => s.modThread core slot (fun t => { t with park := some (.tasks ids) })

/-- PFENCE of a thread. -/
def pfenceOne (x : XOps) (s : State) (core slot : Nat) (t : Thread) : State := s.commitStay core slot (pfenceBody x t core slot)

/-- PFENCE. -/
def execPfence (x : XOps) (s : State) : Next := done (s.runSeq x.len x.g (pfenceOne x))

/-- REGION and REGION.END of a thread (08 R184, 22 R449); `end_` is END. -/
def regionOne (x : XOps) (end_ : Bool) (s : State) (core slot : Nat) (t : Thread) : State :=
  s.committing core x.len slot (need ((s.rcd t.lid).reg && t.mode == .user) causeIllegalOperand) (fun _ => .ok (fun s =>
    s.modThread core slot (fun t => { t with region := if end_ then none else some { start := t.pc, stores := [] } })))

/-- REGION. -/
def execRegion (x : XOps) (s : State) : Next := done (s.runSeq x.len x.g (regionOne x false))
/-- REGION.END. -/
def execRegionEnd (x : XOps) (s : State) : Next := done (s.runSeq x.len x.g (regionOne x true))

/-- The first half of TKPASS of a thread: its region is committed, and the thread stays at it (08 R186). The result lists the threads that have
committed. -/
def tkpassCommit (core : Nat) (acc : State × List Nat) (slot : Nat) : State × List Nat :=
  let s := acc.1.recordFaults core slot
  match s.thread? core slot with
  | none => (s, acc.2)
  | some t =>
    match s.commitCheck core slot t with
    | .error st => (s.stop core slot st, acc.2)
    | .ok _ => (s.commitTo core slot (some t.pc), slot :: acc.2)

/-- TKPASS of a thread whose region is committed (08 R198); `s0` is the state in which its group issued: the group passes the marble once. -/
def tkpassOne (x : XOps) (s0 : State) (committed : List Nat) (s : State) (core slot : Nat) (t : Thread) : State :=
  if !committed.contains slot then s
  else if (s.rcd t.lid).det && s0.hasMarble core slot t && s.hasMarble core slot t then
    match s.marbleWait core t.lid (fun o => o / 64 == slot / 64) false with
    | none => (s.passMarble t.lid).modCore core (·.goOn slot x.len)
    | some p => s.stop core slot (.park p)
  else s.modCore core (·.goOn slot x.len)

/-- The threads of a group whose guard is true. -/
def State.active (s : State) (g : Guard) (gr : Group) : List Nat :=
  gr.slots.filter (fun o => ((s.thread? gr.core o).map (·.guard g)).getD false)

/-- TKPASS: every thread of the group has committed before the marble passes. -/
def execTkpass (x : XOps) (s : State) : Next :=
  match s.cur with
  | none => done s
  | some gr =>
    let first := (s.active x.g gr).foldl (tkpassCommit gr.core) (s, [])
    done (first.1.runSeq x.len x.g (tkpassOne x s first.2))

end Sys2Proof.Machine
end

