-- ==== Sys2Proof/Machine/Cross.lean ====
section
/-! DEFINITION. The cross-lane rendezvous: VOTE, SHFL, PRFX, CRED (06 R159 to R163) and STCP (06 R164 to R166, 22 R464). -/

namespace Sys2Proof.Machine
open Sys2Proof

/-- What a participant brought: its slot, whether it is active, and the values it read at its issue (06 R160). -/
structure Member where
  slot : Nat
  active : Bool
  a : DWord
  b : DWord
  q : Bool
  deriving DecidableEq, Repr

/-- The lane of a participant. -/
def Member.lane (m : Member) : Nat := m.slot % 64

/-- What a thread brings from a park. -/
def memberOf (slot : Nat) (t : Thread) : Option Member :=
  match t.park with
  | some (.cross _ _ active a b q _) => some { slot, active, a, b, q }
  | _ => none

/-- The slots of a crew's live threads that a mask names, in lane order. -/
def Core.participants (c : Core) (crew : Nat) (mask : DWord) : List Nat :=
  (List.range 64).filterMap (fun l => if mask.getLsbD l ∧ (c.thread? (crew * 64 + l)).isSome then some (crew * 64 + l) else none)

/-- The sum of a tree node over leaves lo to lo + 2^h - 1 (06 R162). -/
def credTree (val : Nat → Option Nat) : Nat → Nat → Option Nat
  | 0, lo => val lo
  | h + 1, lo =>
    match credTree val h lo, credTree val h (lo + 2 ^ h) with
    | some x, some y => some (fp32.add .rne x y)
    | some x, none => some x
    | none, y => y

/-- A NaN as CRED writes it. -/
def credNan (v : Nat) : Nat := if fp32.isNan v then 0x7FC00000 else v

/-- The reduction of CRED over the active participants (06 R162). -/
def credOf (op : Nat) (ms : List Member) : Word :=
  let vals := ms.map (fun m => m.a.toNat % 2 ^ 32)
  let w := fun n : Nat => BitVec.ofNat 32 n
  let fold := fun f : Word → Word → Word => match vals with
    | [] => 0
    | v :: r => r.foldl (fun x y => f x (w y)) (w v)
  match op with
  | 0 => fold (· + ·)
  | 1 => fold (fun x y => if y.slt x then y else x)
  | 2 => fold (fun x y => if x.slt y then y else x)
  | 3 => fold (fun x y => if y.ult x then y else x)
  | 4 => fold (fun x y => if x.ult y then y else x)
  | 5 => fold (· &&& ·)
  | 6 => fold (· ||| ·)
  | 7 => fold (· ^^^ ·)
  | 8 => w (credNan ((credTree (fun l => (ms.find? (fun m => m.lane == l)).map (fun m => m.a.toNat % 2 ^ 32)) 6 0).getD 0))
  | 9 => w (credNan (match vals with
    | [] => 0
    | v :: r => r.foldl fp32.min v))
  | _ => w (credNan (match vals with
    | [] => 0
    | v :: r => r.foldl fp32.max v))

/-- The lane that SHFL reads (06 R161, 22 R457); none outside 0 to 63. -/
def shflLane (mode : Nat) (lane : Nat) (b : Word) : Option Nat :=
  let n := match mode with
    | 0 => b.toNat % 64
    | 1 => if lane < b.toNat then 64 else lane - b.toNat
    | 2 => lane + b.toNat
    | _ => lane ^^^ (b.toNat % 64)
  if n < 64 then some n else none

/-- The writes of a completed rendezvous for one active participant (06 R161). -/
def crossWrites (i : Instr) (ms : List Member) (m : Member) : List Write :=
  let on := ms.filter (·.q)
  match i with
  | .vote x =>
    match x.sub.toNat % 4 with
    | 0 => [.pred (x.d.setWidth 3) (ms.all (·.q))]
    | 1 => [.pred (x.d.setWidth 3) (ms.any (·.q))]
    | 2 => wr64 x.d (on.foldl (fun w o => w ||| (1#64 <<< o.lane)) 0)
    | _ => [.pred (x.d.setWidth 3) (ms.all (·.q) || !ms.any (·.q))]
  | .shfl x =>
    let src := (shflLane (x.sub.toNat % 4) m.lane (m.b.setWidth 32)).bind (fun l => ms.find? (fun o => o.lane == l && o.active))
    wr32 x.d (((src.getD m).a).setWidth 32)
  | .prfx x => wr32 x.d (BitVec.ofNat 32 (if x.sub.getLsbD 0 then on.length else (on.filter (fun o => decide (o.lane < m.lane))).length))
  | .cred x => wr32 x.d (credOf (x.sub.toNat % 16) (ms.filter (·.active)))
  | _ => []

/-- Advances the participants and applies the writes of the active ones, the lowest lane last (04 R100). -/
def State.crossFinish (s : State) (core len : Nat) (ms : List Member) (f : Member → List Write) : State :=
  s.modCore core (fun c =>
    let c := ms.foldl (fun c m => c.advance m.slot len) c
    (ms.filter (·.active)).foldr (fun m c => (f m).foldl (fun c w => c.apply m.slot w) c) c)

/-- Stops every active participant; the inactive ones go on. An instruction that stops has held no operand (03 R72). -/
def State.crossStop (s : State) (core len : Nat) (ms : List Member) (f : State → Member → State) : State :=
  let s := s.modCore core (fun c => (ms.filter (fun m => !m.active)).foldl (fun c m => c.advance m.slot len) c)
  (ms.filter (·.active)).foldl (fun s m => (f s m).modCore core (·.latched m.slot)) s

/-- The stores of STCP one after another (06 R165): the state after them, and the element at which one stops, with why. They do
not reach the control window (10 R247) (DEDUCED, log 64). Where one element faults (06 R166) and another overflows its granules (22 R464), the lower
element decides (DESIGN CHOICE, log 101). -/
def State.stcpStores (s : State) (core : Nat) (base : DWord) (n hint : Nat) : Nat → List Member → State × Option (Nat × Stop)
  | _, [] => (s, none)
  | j, m :: r =>
    match s.thread? core m.slot with
    | none => State.stcpStores s core base n hint (j + 1) r
    | some t =>
      match s.storeBy core m.slot t (addOff base (j * n)) n hint (m.b.setWidth 128) .atomic with
      | .error st => (s, some (j, st))
      | .ok k => State.stcpStores (k s) core base n hint (j + 1) r

/-- The fault of a stop, with the cause of the trap that names it. -/
def stopFault (st : Stop) : Option (Nat × FaultInfo) :=
  match st with
  | .trap cause (some f) => some (cause, f)
  | .abortRegion f => some (causePageFault, f)
  | _ => none

/-- Whether an STCP whose base lies on a DS page waits for the marble: no region buffers its stores, and its crew does not hold it (22 R464). -/
def State.stcpWaits (s : State) (core slot : Nat) (base : DWord) (n : Nat) : Bool :=
  match s.thread? core slot with
  | none => false
  | some t =>
    (s.rcd t.lid).det && t.openRegion.isNone && !s.hasMarble core slot t
      && (match s.resolve core t.lid (s.ctxOf t) (s.core core).tlb (s.priv t) .atomic base n .write .ls with
        | .ok (_, e) => leafDs ((e.map (·.leaf)).getD 0)
        | .error _ => false)

/-- STCP completes (06 R165, R166, 22 R464). `s.faddr` is the address of element j, also where only a later byte of it faults (06 R166). -/
def State.stcpFinish (s : State) (core len : Nat) (x : XOps) (ms : List Member) : State :=
  let act := ms.filter (·.active)
  match act with
  | [] => s.crossFinish core len ms (fun _ => [])
  | m0 :: _ =>
    let n := sizeOf_ x
    let base := m0.a
    let stores := act.filter (·.q)
    let inside := fun m : Member => ((s.thread? core m.slot).bind Thread.openRegion).isSome
    let all := fun st : Stop => s.crossStop core len ms (fun s m => s.stop core m.slot st)
    if base.toNat % n ≠ 0 then all (.misaligned base)
    else if act.any inside && !act.all inside then all (.trap causeIllegalOperand none)
    else if s.stcpWaits core m0.slot base n then s
    else
      let (s', bad) := s.stcpStores core base n (hintOf x) 0 stores
      let count := fun j : Nat => wr32 x.d (BitVec.ofNat 32 j)
      match bad with
      | none => s'.crossFinish core len ms (fun _ => count stores.length)
      | some (_, .park _) => s
      | some (j, .overflow _) =>
        s.crossStop core len ms (fun s m => s.stop core m.slot (.overflow (addOff base (j * n))))
      | some (j, st) =>
        let trapAll := fun (s : State) (cause : Nat) (f : FaultInfo) => s.crossStop core len ms (fun s m =>
          match s.thread? core m.slot with
          | none => s
          | some t => (s.modThread core m.slot (fun t => { t with fidx := BitVec.ofNat 32 j })).takeFault core m.slot cause t.pc (some f))
        match stopFault st with
        | none => all st
        | some (cause, f) =>
          let f := { f with va := addOff base (j * n) }
          let storing := (stores[j]?).bind (fun m => s.thread? core m.slot)
          if inside m0 then
            if f.kind.repairable then
              let s := match storing with
                | some t => s.recordPage (s.recOf core t f t.pc)
                | none => s
              s.crossStop core len ms (fun s m => s.stop core m.slot (.abortRegion f))
            else trapAll s cause f
          else
            let s' := s'.modCore core (fun c => act.foldr (fun m c => (count j).foldl (fun c w => c.apply m.slot w) c) c)
            let s' := match storing with
              | some t => s'.recordPrecise core t (some f)
              | none => s'
            trapAll s' cause f

/-- Completes a rendezvous (DEDUCED, log 42). -/
def State.crossDone (s : State) (core len : Nat) (i : Instr) (ms : List Member) : State :=
  match i with
  | .stcp x => s.stcpFinish core len x ms
  | _ => s.crossFinish core len ms (crossWrites i ms)

/-- Where the rendezvous of a parked thread stands (06 R160): its participants with their threads; `none` for a thread that waits at none. -/
def Core.crossing (c : Core) (slot : Nat) : Option (Instr × Nat × List (Nat × Thread) × Bool) :=
  match c.thread? slot with
  | none => none
  | some t =>
    match t.park with
    | some (.cross i mask _ _ _ _ len) =>
      let ths := (c.participants (slot / 64) mask).filterMap (fun p => (c.thread? p).map (fun u => (p, u)))
      some (i, len, ths, ths.all (fun e => e.2.pc == t.pc && (match e.2.park with
        | some (.cross _ m _ _ _ _ _) => m == mask
        | _ => false)))
    | _ => none

/-- Whether a thread is parked at a cross-lane instruction. -/
def Thread.atCross (t : Thread) : Bool :=
  match t.park with
  | some (.cross _ _ _ _ _ _ _) => true
  | _ => false

/-- Completes the rendezvous of a parked thread where every participant stands at it (06 R160). -/
def State.crossOf (s : State) (core slot : Nat) : State :=
  match (s.core core).crossing slot with
  | some (i, len, ths, true) => s.crossDone core len i (ths.filterMap (fun e => memberOf e.1 e.2))
  | _ => s

/-- Whether a parked thread's rendezvous can hold no longer: every participant is parked at a cross-lane instruction, and one stands elsewhere
(06 R160). -/
def Core.crossLost (c : Core) (slot : Nat) : Bool :=
  match c.crossing slot with
  | some (_, _, ths, false) => ths.all (fun e => e.2.atCross)
  | _ => false

/-- Settles every rendezvous of a crew: the complete ones complete, then every participant of one that cannot traps with JOIN (06 R160). -/
def State.settleCross (s : State) (core crew : Nat) : State :=
  let lanes := (List.range 64).map (crew * 64 + ·)
  let s := lanes.foldl (fun s o => s.crossOf core o) s
  let c := s.core core
  let lost := (lanes.filter c.crossLost).flatMap (fun o => match c.crossing o with
    | some (_, _, ths, _) => ths.map (·.1)
    | none => [])
  lost.eraseDups.foldl (fun s o => (s.stop core o (.trap causeJoin none)).modCore core (·.latched o)) s

/-- The mask that an instruction names (03 R73). -/
def Core.maskOf (c : Core) (crew : Nat) (x : XOps) : DWord := if x.te then x.lit.getD 0 else (c.readJ crew x.t).1

/-- The predicate input of a code with its negation in bit 3. -/
def Thread.qOf (t : Thread) (code : BitVec 8) : Bool := t.pred (code.setWidth 3) != code.getLsbD 3

/-- What an active participant reads at its issue (DEDUCED, log 41). -/
def crossReads (i : Instr) (s : State) (core slot : Nat) (t : Thread) : Except Stop (DWord × DWord × Bool) :=
  match i with
  | .vote x => do
    (s.core core).checkMapped slot (if x.sub.toNat % 4 = 2 then pairOf x.d else [])
    .ok (0, 0, t.qOf x.a)
  | .prfx x => do
    (s.core core).checkMapped slot [x.d]
    .ok (0, 0, t.qOf x.a)
  | .shfl x => do
    (s.core core).checkMapped slot [x.d]
    let a ← s.src32 core slot t x.lit x.a
    let b ← s.src32 core slot t x.lit x.b
    .ok (a.setWidth 64, b.setWidth 64, false)
  | .cred x => do
    (s.core core).checkMapped slot [x.d]
    let a ← s.src32 core slot t x.lit x.a
    .ok (a.setWidth 64, 0, false)
  | .stcp x => do
    (s.core core).checkMapped slot ([x.d] ++ baseCodes x ++ codesOf x.b (sizeOf_ x))
    let p ← s.address core slot t x x.imm.toInt
    let v ← s.srcN core slot t x.lit x.b (sizeOf_ x)
    .ok (p, v.setWidth 64, t.qOf x.c)
  | _ => .ok (0, 0, false)

/-- A thread arrives at a cross-lane instruction, active or not (06 R159, R160, 03 R70). -/
def State.crossArrive (i : Instr) (x : XOps) (core : Nat) (s : State) (slot : Nat) : State :=
  match s.thread? core slot with
  | none => s
  | some t =>
    let mask := (s.core core).maskOf (slot / 64) x
    if !mask.getLsbD (slot % 64) then s.stop core slot (.trap causeJoin none)
    else
      let park := fun active a b q => s.modThread core slot (fun t => { t with park := some (.cross i mask active a b q x.len) })
      if t.guard x.g then
        match crossReads i s core slot t with
        | .error st => s.stop core slot st
        | .ok (a, b, q) => park true a b q
      else park false 0 0 false

/-- The crews of a group. -/
def Group.crews (g : Group) : List Nat := (g.slots.map (· / 64)).eraseDups

/-- Runs a cross-lane instruction: the group arrives, then each crew's rendezvous are settled. -/
def State.runCross (s : State) (i : Instr) (x : XOps) : State :=
  match s.cur with
  | none => s
  | some gr =>
    let s := gr.slots.foldl (State.crossArrive i x gr.core) s
    gr.crews.foldl (fun s crew => s.settleCross gr.core crew) s

/-- VOTE. -/
def execVote (x : XOps) (s : State) : Next := done (s.holding x (·.runCross (.vote x) x))
/-- SHFL. -/
def execShfl (x : XOps) (s : State) : Next := done (s.holding x (·.runCross (.shfl x) x))
/-- PRFX. -/
def execPrfx (x : XOps) (s : State) : Next := done (s.holding x (·.runCross (.prfx x) x))
/-- CRED. -/
def execCred (x : XOps) (s : State) : Next := done (s.holding x (·.runCross (.cred x) x))
/-- STCP. -/
def execStcp (x : XOps) (s : State) : Next := done (s.holding x (·.runCross (.stcp x) x))

end Sys2Proof.Machine
end

