-- ==== Sys2Proof/Machine/Regroup.lean ====
section
/-! DEFINITION. RGRP: arrival, rendezvous with its checks, forming of crews and the switch of the crew maps (12 R259 to R274). -/

namespace Sys2Proof.Machine
open Sys2Proof

/-- The slots of a regroup set: the live threads of a block, or with CORE scope those of the launch on the core (12 R261). -/
def Core.regroupSet (c : Core) (coreScope : Bool) (lid block : Nat) : List Nat :=
  (c.threads.filter (fun e => e.2.lid == lid && (coreScope || e.2.block == block))).map (·.1)

/-- Live registers and scope of a thread parked at RGRP. -/
def Thread.atRgrp (t : Thread) : Option (Bool × Nat × BitVec 8) :=
  match t.park with
  | some (.rgrp core n key _ _) => some (core, n, key)
  | _ => none

/-- The parks that R264 lists beside RGRP, of a thread that still waits there. -/
def State.parkedApart (s : State) (core slot : Nat) (t : Thread) : Bool :=
  t.atBsync || (match t.park with
    | some (.slot off full order) => !s.parkOver core slot t (.slot off full order)
    | some (.join _ _) | some (.bowait _ _ _) | some (.cross _ _ _ _ _ _ _) | some (.rgrp _ _ _ _ _) => true
    | _ => false)

/-- Map entries that new crews get (12 R260). -/
def regroupEntries (r : LaunchRec) (n : Nat) : Nat := max ((n + 7) / 8) r.rbinit

/-- The first check of a completed rendezvous that fails, as its trap cause (12 R263). -/
def Core.regroupCheck (c : Core) (coreScope : Bool) (block : Nat) (set : List (Nat × Thread)) : Option Nat :=
  let ns := set.filterMap (fun e => e.2.atRgrp.map (fun k => k.2.1))
  let n := ns.headD 0
  let crews := (crewsOfSlots (set.map (·.1))).filterMap (fun i => (c.crew? i).map (fun x => (i, x)))
  if ns.any (· != n) then some causeRegroup
  else if crews.any (fun e => e.2.j.toList.any (fun m => m.1 != 0)) then some causeRegroup
  else if crews.any (fun e => e.2.rbm.toList.any (fun p => match p with
      | some b => c.shared.contains b
      | none => false)) then some causeRegroup
  else if !coreScope && c.threads.any (fun e => crews.any (fun k => k.1 == e.1 / 64) && e.2.block != block) then some causeRegroup
  else if crews.any (fun e => decide (e.2.entries < (n + 7) / 8)) then some causeUnmapped
  else none

/-- The order in which threads are sorted: key, crew order, lane (12 R266). -/
def Core.sortLt (c : Core) (a b : Nat × BitVec 8) : Bool :=
  let oa := ((c.crew? (a.1 / 64)).map (·.order)).getD (0, 0)
  let ob := ((c.crew? (b.1 / 64)).map (·.order)).getD (0, 0)
  if a.2 ≠ b.2 then decide (a.2 < b.2)
  else if oa ≠ ob then orderLt oa ob
  else decide (a.1 % 64 < b.1 % 64)

/-- Inserts before the first element that follows. -/
def insertLt {α : Type} (lt : α → α → Bool) (x : α) : List α → List α
  | [] => [x]
  | y :: r => if lt x y then x :: y :: r else y :: insertLt lt x r

/-- The threads of a set in sorted order, with their keys. -/
def Core.sorted (c : Core) (set : List (Nat × Thread)) : List (Nat × BitVec 8) :=
  (set.filterMap (fun e => e.2.atRgrp.map (fun k => (e.1, k.2.2)))).foldl (fun acc x => insertLt c.sortLt x acc) []

/-- Crews that counts need when the first s keys are packed (12 R267). -/
def crewsNeeded (counts : List Nat) (s : Nat) : Nat :=
  ((counts.take s).foldl (· + ·) 0 + 63) / 64 + (counts.drop s).foldl (fun n c => n + (c + 63) / 64) 0

/-- Ordinals and lanes of a list of threads, from an ordinal upward (12 R267). -/
def fillCrews (ord : Nat) (ts : List Nat) : List (Nat × Nat × Nat) := ts.zipIdx.map (fun e => (e.1, ord + e.2 / 64, e.2 % 64))

/-- The moves of a regroup (12 R267): old slot, ordinal, lane; and whether a new crew holds more than one key. -/
def regroupMoves (sorted : List (Nat × BitVec 8)) (limit : Nat) : List (Nat × Nat × Nat) × Bool :=
  let keys := (sorted.map (·.2)).eraseDups
  let counts := keys.map (fun k => (sorted.filter (fun e => e.2 == k)).length)
  let s := ((List.range (keys.length + 1)).find? (fun s => decide (crewsNeeded counts s ≤ limit))).getD keys.length
  let packed := (sorted.filter (fun e => (keys.take s).contains e.2)).map (·.1)
  let first := fillCrews 0 packed
  let rest := (keys.drop s).foldl (fun (acc : List (Nat × Nat × Nat) × Nat) k =>
    let ts := (sorted.filter (fun e => e.2 == k)).map (·.1)
    (acc.1 ++ fillCrews acc.2 ts, acc.2 + (ts.length + 63) / 64)) (first, (packed.length + 63) / 64)
  (rest.1, decide (1 < s))

/-- The most crews that a regroup may form (12 R267): what regroups under way have counted is theirs. -/
def State.regroupLimit (s : State) (c : Core) (crews : List Nat) (e : Nat) : Nat :=
  let slots := 32 - c.crews.length - c.claimedCrews + crews.length
  let blocks := crews.foldl (fun n i => n + ((c.crew? i).map Crew.entries).getD 0) 0 + s.ordinaryFree c
  if e = 0 then slots else min slots (blocks / e)

/-- A marble held by a crew of the set passes to the next crew outside it, and goes on where that crew stands at BSYNC (08 R199); `true` when
there is none (12 R274). -/
def State.regroupMarble (s : State) (lid : Nat) (orders : List (Nat × Nat)) : State × Bool :=
  match (s.launch? lid).bind (·.marble) with
  | none => (s, false)
  | some o =>
    if orders.contains o then
      match s.nextOrder lid o orders with
      | some n =>
        let s := s.modLaunch lid (fun l => { l with marble := some n })
        (if s.passesOn lid n then s.passMarble lid else s, false)
      | none => (s, true)
    else (s, false)

/-- Stops every thread of a set with a trap. -/
def State.trapSlots (s : State) (core cause : Nat) (slots : List Nat) : State :=
  slots.foldl (fun s slot => s.stop core slot (.trap cause none)) s

/-- Whether a thread takes part in a regroup that waits for its switch. -/
def Core.regrouping (c : Core) (slot : Nat) : Bool := c.regroups.any (fun r => r.moves.any (fun m => m.1 == slot))

/-- Whether a block of some threads waits for its rollback (10 R252). -/
def Core.rollingOf (c : Core) (set : List (Nat × Thread)) : Bool := set.any (fun e => ((c.block? e.2.lid e.2.block).map (·.rolling)).getD false)

/-- Whether a crew of a set holds the marble and still waits for what its threads have issued (12 R274). -/
def State.marbleStays (s : State) (core lid : Nat) (slots : List Nat) : Bool :=
  (crewsOfSlots slots).any (fun i => ((s.core core).crew? i).any (fun x => (s.launch? lid).bind (·.marble) == some x.order) && s.crewWaits core lid i)

/-- Settles the rendezvous of one scope (12 R262 to R264, R267); a block that rolls back takes part in none (12 R272). -/
def State.settleRgrpScope (s : State) (core lid block : Nat) (coreScope : Bool) : State :=
  let c := s.core core
  let slots := c.regroupSet coreScope lid block
  let set := slots.filterMap (fun o => (c.thread? o).map (fun t => (o, t)))
  let here := fun t : Thread => match t.atRgrp with
    | some (k, _, _) => k == coreScope
    | none => false
  if !set.any (fun e => here e.2) ∨ slots.any c.regrouping ∨ c.rollingOf set ∨ s.marbleStays core lid slots then s
  else if set.all (fun e => here e.2) then
    match c.regroupCheck coreScope block set with
    | some cause => s.trapSlots core cause slots
    | none =>
      let n := ((set.filterMap (fun e => e.2.atRgrp.map (fun k => k.2.1))).headD 0)
      let crews := crewsOfSlots slots
      let e := regroupEntries (s.rcd lid) n
      let (moves, nonuniform) := regroupMoves (c.sorted set) (s.regroupLimit c crews e)
      let (s, keep) := s.regroupMarble lid (crews.filterMap (fun i => (c.crew? i).map (·.order)))
      s.modCore core (fun c => { c with
        regroups := c.regroups ++ [{ lid, moves, n, entries := e, nonuniform, keepMarble := keep }] })
  else if set.all (fun e => s.parkedApart core e.1 e.2) then
    s.trapSlots core causeRegroup ((set.filter (fun e => e.2.atRgrp.isSome)).map (·.1))
  else s

/-- Settles the rendezvous that a block's threads take part in. -/
def State.settleRgrp (s : State) (core lid block : Nat) : State :=
  (s.settleRgrpScope core lid block false).settleRgrpScope core lid block true

/-- The checks of RGRP at issue (12 R260). -/
def rgrpCheck (x : XOps) (s : State) (t : Thread) : Except Stop Unit := do
  let r := s.rcd t.lid
  let e := regroupEntries r (x.imm.toNat % 256)
  need (decide (e ≤ r.rbmax)) causeIllegalOperand
  need (x.d == 0xF8 || decide (x.d.toNat / 8 < e)) causeUnmapped
  need (!(x.sub.getLsbD 0 && r.det)) causeIllegalOperand
  need (t.mode == .user) causeRegroup

/-- The key of RGRP, once the thread's loads have resolved and its crew's marble may pass (12 R259, R262, R274). -/
def rgrpKey (x : XOps) (s : State) (core slot : Nat) (t : Thread) : Except Stop (BitVec 8) := do
  match ((s.core core).loads.filter (fun l => l.slot == slot)).map (·.id) with
  | [] =>
    s.marbleDone core slot t
    let w ← s.src32 core slot t none x.a
    .ok (w.extractLsb' 0 8)
  | ids => .error (.park (.settling ids))

/-- RGRP commits a thread's region and reopens it at the next instruction at once (12 R262), after the faults of its loads are recorded (10
R238). -/
def State.commitBehind (s : State) (core slot len : Nat) (k : State → State) : State :=
  let s := s.recordFaults core slot
  match s.thread? core slot with
  | none => s
  | some t =>
    match s.commitCheck core slot t with
    | .error st => s.stop core slot st
    | .ok _ => k ((s.commitTo core slot (some (t.pc + BitVec.ofNat 64 len))).modThread core slot (fun u =>
        { u with region := u.region.map (fun r => { r with behind := some t.pc }) }))

/-- RGRP of a thread whose checks have passed and whose region is committed: it waits for its loads, then parks in the rendezvous (12 R262). -/
def rgrpArrive (x : XOps) (core slot : Nat) (t : Thread) (s : State) : State :=
  match rgrpKey x s core slot t with
  | .error st => s.stop core slot st
  | .ok key =>
    (s.modThread core slot (fun t => { t with park := some (.rgrp (x.sub.getLsbD 0) (x.imm.toNat % 256) key x.d x.len) })).settleRgrp
      core t.lid t.block

/-- RGRP of a thread (12 R259, R260, R262). -/
def rgrpOne (x : XOps) (s : State) (core slot : Nat) (t : Thread) : State :=
  match rgrpCheck x s t with
  | .error st => s.stop core slot st
  | .ok _ => s.commitBehind core slot x.len (rgrpArrive x core slot t)

/-- RGRP. -/
def execRgrp (x : XOps) (s : State) : Next := done (s.runSeq x.len x.g (rgrpOne x))

/-- What moves of one thread. -/
structure Moved where
  slot : Nat
  ord : Nat
  lane : Nat
  thread : Thread
  regs : List (Nat × Word)
  deriving DecidableEq, Repr

/-- The state that the kaleidoscope takes of every thread of a regroup (12 R269). -/
def Core.gather (c : Core) (g : Regroup) : List Moved :=
  g.moves.filterMap (fun m => (c.thread? m.1).map (fun t =>
    { slot := m.1, ord := m.2.1, lane := m.2.2, thread := t
      regs := (List.range g.n).filterMap (fun i => (c.readV m.1 i).map (fun w => (i, w))) }))

/-- A register of a regroup's threads that holds no value (12 R272). -/
def Core.regroupBad (c : Core) (g : Regroup) : Bool :=
  !c.bad.isEmpty && g.moves.any (fun m => (List.range g.n).any (fun i => match c.vOff m.1 i with
    | some a => (tget c.bad (a / 4)).isSome
    | none => false))

/-- A thread behind its RGRP in its new place (12 R273). -/
def Moved.land (m : Moved) (g : Regroup) : Thread :=
  let t := m.thread
  let len := match t.park with
    | some (.rgrp _ _ _ _ len) => len
    | _ => 0
  { t with
    pc := t.pc + BitVec.ofNat 64 len
    park := none
    region := t.region.map (fun r => { r with behind := none })
    taints := t.taints.map (fun x => { x with regs := x.regs.filter (fun c => decide (c.toNat < g.n ∨ 0xE0 ≤ c.toNat)) })
    rgflags := (t.rgflags &&& 0xFFFFFFFE) ||| (if g.nonuniform then 1 else 0) }

/-- The destination code of a thread's RGRP. -/
def Moved.dest (m : Moved) : BitVec 8 :=
  match m.thread.park with
  | some (.rgrp _ _ _ d _) => d
  | _ => 0xF8

/-- The result of RGRP (12 R273). -/
def regroupResult (lane pop ord : Nat) : Word := BitVec.ofNat 32 (lane % 64 + pop % 128 * 64 + ord % 256 * 8192)

/-- Makes a new crew of a regroup, in ascending ordinals: each takes the lowest free slot (12 R265, R268, R269, R273). -/
def State.makeCrew (core : Nat) (g : Regroup) (ms : List Moved) (old : Core) (c0 : Nat) (acc : State × List (Nat × Nat)) (ord : Nat) :
    State × List (Nat × Nat) :=
  let s := acc.1
  let i := (s.core core).freeCrews.headD 32
  let (stamp, s) := s.fresh
  let first := ms.find? (fun m => m.ord == ord && m.lane == 0)
  let k := ((first.bind (fun m => old.crew? (m.slot / 64))).map (·.k)).getD (Vector.replicate 16 0)
  let s := s.modCore core (·.setCrew i { newCrew g.lid (c0, ord) stamp with k := k })
  (s.mapEntries core i 0 g.entries, acc.2 ++ [(ord, i)])

/-- Puts a moved thread into its new slot with its registers and its result. -/
def Core.landThread (c : Core) (g : Regroup) (crews : List (Nat × Nat)) (ms : List Moved) (m : Moved) : Core :=
  let slot := ((tget crews m.ord).getD 0) * 64 + m.lane
  let c := c.setThread slot (m.land g)
  let c := m.regs.foldl (fun c e => c.writeV slot e.1 e.2) c
  let pop := (ms.filter (fun x => x.ord == m.ord)).length
  c.writeReg slot m.dest (regroupResult m.lane pop m.ord)

/-- The new slot of a thread that a slot of a launch and block named before. -/
def slotAfter (crews : List (Nat × Nat)) (ms : List Moved) (lid block slot : Nat) : Nat :=
  match ms.find? (fun m => m.slot == slot && m.thread.lid == lid && m.thread.block == block) with
  | some m => ((tget crews m.ord).getD 0) * 64 + m.lane
  | none => slot

/-- Window accesses and reports on their way keep their thread. -/
def FabReq.moveSlot (core : Nat) (crews : List (Nat × Nat)) (ms : List Moved) (f : FabReq) : FabReq :=
  match f.for_ with
  | .write k lid block slot tid pc =>
    if k = core then { f with for_ := .write k lid block (slotAfter crews ms lid block slot) tid pc } else f
  | .load k id kind share lid block slot tid pc =>
    if k = core then { f with for_ := .load k id kind share lid block (slotAfter crews ms lid block slot) tid pc } else f
  | .report k slot lid block load words =>
    if k = core then { f with for_ := .report k (slotAfter crews ms lid block slot) lid block load words } else f
  | _ => f

/-- So do the stores that its block holds for a checkpoint. -/
def Block.moveSlots (crews : List (Nat × Nat)) (ms : List Moved) (b : Block) : Block :=
  { b with deferred := b.deferred.map (fun k => { k with slot := slotAfter crews ms k.lid k.block k.slot }) }

/-- A regroup that met an uncorrectable error is abandoned: its blocks roll back together, or its threads take ECC_ABORT (12 R272). The record's
ADDR is that of the core's own store, its PC, BLOCK and TID are of the first thread in sorted order (DESIGN CHOICE, log 105). -/
def State.regroupLost (s : State) (core : Nat) (g : Regroup) : State :=
  let c := s.core core
  let slots := g.moves.map (·.1)
  let blocks := ((slots.filterMap c.thread?).map (·.block)).eraseDups
  let back := fun b : Nat => (s.rcd g.lid).rbk && (c.checkpoint? g.lid b).isSome
  let s := s.modCore core (fun c => { c with regroups := c.regroups.filter (· != g) })
  let s := match (slots.filterMap c.thread?).head? with
    | some t => s.record (s.recOf core t { kind := .uncorrectable, va := 0x00FF000000000000, write := false, path := .ls, level := 0 } t.pc)
    | none => s
  let s := s.trapSlots core causeEccAbort (slots.filter (fun o => !((c.thread? o).any (fun t => back t.block))))
  s.startRollback core g.lid (blocks.filter back)

/-- The crew maps of a regroup switch (12 R268 to R274). -/
def State.switchMaps (s : State) (core : Nat) (g : Regroup) : State :=
  let c := s.core core
  if c.regroupBad g then s.regroupLost core g
  else
    let ms := c.gather g
    let crews := crewsOfSlots (g.moves.map (·.1))
    let orders := crews.filterMap (fun i => (c.crew? i).map (·.order))
    let c0 := (orders.map (·.1)).foldl min ((orders.headD (0, 0)).1)
    let s := if g.keepMarble then s else (s.regroupMarble g.lid orders).1
    let s := s.setCore core { c with
      threads := c.threads.filter (fun e => !crews.contains (e.1 / 64))
      crews := c.crews.filter (fun e => !crews.contains e.1)
      latch := c.latch.filter (fun e => !crews.contains (e.1 / 64))
      regroups := c.regroups.filter (· != g) }
    let ords := (ms.map (·.ord)).eraseDups
    let (s, new) := (sortBy id ords).foldl (State.makeCrew core g ms c c0) (s, [])
    let s := s.modCore core (fun c =>
      let c := ms.foldl (fun c m => c.landThread g new ms m) c
      { c with blocks := c.blocks.map (Block.moveSlots new ms) })
    let s := { s with fabric := s.fabric.map (FabReq.moveSlot core new ms) }
    s.modLaunch g.lid (fun l => { l with
      marble := l.marble.map (fun o => if orders.contains o then (c0, 0) else o)
      passed := l.passed.filter (fun o => !orders.contains o) })

/-- KALEIDOSCOPE_MAPS_SWITCH (12 R270): the regroup whose rendezvous completed first on a core. -/
def execKaleidoscopeMapsSwitch (core : Nat) (s : State) : Next :=
  match (s.core core).regroups with
  | [] => done s
  | g :: _ => done (s.switchMaps core g)

end Sys2Proof.Machine
end

