-- ==== Sys2Proof/Machine/Time.lean ====
section
/-! DEFINITION. Waiting, branching and sorting on time registers: TWAIT, TCLR, TYIELD, TBR, TGET, TSETP (05 R141 to R146,
22 R467). -/

namespace Sys2Proof.Machine
open Sys2Proof

/-- The faulted load whose live FAULT register a thread names in an open region (10 R238). -/
def Thread.liveFault (t : Thread) (n : BitVec 3) : Option Taint :=
  if t.openRegion.isSome ∧ tstate (t.treg n) = 6 then t.taints.find? (fun x => x.treg == some n && x.kind.repairable) else none

/-- TWAIT of a thread (05 R141, 22 R467). -/
def twaitOne (n : BitVec 3) (len : Nat) (s : State) (core slot : Nat) (t : Thread) : State :=
  s.finish core len slot (
    if tpending (t.treg n) then .error (.park (.time n))
    else match t.liveFault n with
      | some x => .error (.taint x)
      | none => .ok id)

/-- TCLR of a thread (05 R141, 22 R467). -/
def tclrOne (n : BitVec 3) (len : Nat) (s : State) (core slot : Nat) (t : Thread) : State :=
  s.finish core len slot (
    if tpending (t.treg n) then .error (.park (.time n))
    else .ok (fun s => s.modThread core slot (fun t => (t.setTreg n 0).freeTreg n)))

/-- The number of a t operand code. -/
def tNum (code : BitVec 8) : BitVec 3 := code.setWidth 3

/-- TYIELD of a thread (05 R142, R143). -/
def tyieldOne (x : XOps) (s : State) (core slot : Nat) (t : Thread) : State :=
  let n := tNum x.a
  let slack := x.imm.extractLsb' 0 16
  let w := t.treg n
  let wake := tcycle w + slack.signExtend 29
  let now := s.now29 core
  if (tstate w = 2 ∨ tstate w = 4) ∧ later wake now then
    (s.stop core slot (.park (.tyield n slack false x.len))).modCore core (·.placeWake s.time (s.time + (wake - now).toNat) slot)
  else if tstate w = 1 then s.stop core slot (.park (.tyield n slack true x.len))
  else s.modCore core (·.advance slot x.len)

/-- A timed instruction of a DET launch marks the launch (05 R146). -/
def State.timeDep (s s0 : State) (g : Guard) : State :=
  match s0.cur with
  | none => s
  | some gr =>
    if (s0.rcd gr.lid).det ∧ gr.slots.any (fun o => ((s0.thread? gr.core o).map (·.guard g)).getD false) then
      s.modLaunch gr.lid (fun l => { l with timedep := true })
    else s

/-- The condition of TBR before its negation (05 R145). -/
def tbrCond (c : Nat) (w : Word) (now : BitVec 29) (b : Word) : Bool :=
  let st := tstate w
  match c with
  | 0 => st == 1
  | 1 => st == 2
  | 2 => st == 3 || st == 5
  | 3 => st == 4
  | 4 => st == 6
  | 5 => st == 7
  | _ => (st == 2 || st == 4) && later (tcycle w) (now + b.setWidth 29)

/-- TBR of a thread (05 R145). -/
def tbrOf (x : XOps) (s : State) (core slot : Nat) (t : Thread) : Except Stop (List Write) := do
  let c := (x.sub.extractLsb' 0 3).toNat
  let b ← if c = 6 then s.src32 core slot t x.lit x.b else .ok 0
  let hit := tbrCond c (t.treg (tNum x.a)) (s.now29 core) b != x.sub.getLsbD 3
  .ok (if hit then [.jump (t.pc + BitVec.ofInt 64 x.imm.toInt)] else [])

/-- TGET of a thread (05 R145). -/
def tgetOf (x : XOps) (s : State) (core slot : Nat) (t : Thread) : Except Stop (List Write) := do
  (s.core core).checkMapped slot [x.d]
  let w := t.treg (tNum x.a)
  .ok (wr32 x.d (if !x.sub.getLsbD 0 then w else if tstate w = 0 then 0 else (tcycle w - s.now29 core).signExtend 32))

/-- TSETP of a thread (05 R145). -/
def tsetpOf (x : XOps) (_ : State) (_ _ : Nat) (t : Thread) : Except Stop (List Write) :=
  let a := t.treg (tNum x.a)
  let b := t.treg (tNum x.b)
  .ok [.pred (x.d.setWidth 3) (match (x.sub.extractLsb' 0 2).toNat with
    | 0 => later (tcycle b) (tcycle a)
    | 1 => later (tcycle a) (tcycle b)
    | _ => tstate a == tstate b)]

/-- TWAIT. -/
def execTwait (o : SNum) (s : State) : Next := done (s.runSeq 4 o.g (twaitOne o.n 4))
/-- TWAIT, X-form. -/
def execTwaitX (x : XOps) (s : State) : Next := done (s.runSeq x.len x.g (twaitOne (tNum x.a) x.len))
/-- TCLR. -/
def execTclr (o : SNum) (s : State) : Next := done (s.runSeq 4 o.g (tclrOne o.n 4))
/-- TCLR, X-form. -/
def execTclrX (x : XOps) (s : State) : Next := done (s.runSeq x.len x.g (tclrOne (tNum x.a) x.len))
/-- TYIELD. -/
def execTyield (x : XOps) (s : State) : Next := done (s.runSeq x.len x.g (tyieldOne x))
/-- TBR. -/
def execTbr (x : XOps) (s : State) : Next := done ((s.holding x (·.runGroup x.len x.g (tbrOf x))).timeDep s x.g)
/-- TGET. -/
def execTget (x : XOps) (s : State) : Next := done ((s.runGroup x.len x.g (tgetOf x)).timeDep s x.g)
/-- TSETP. -/
def execTsetp (x : XOps) (s : State) : Next := done ((s.runGroup x.len x.g (tsetpOf x)).timeDep s x.g)

end Sys2Proof.Machine
end

