-- ==== Sys2Proof/Machine/Shared.lean ====
section
/-! DEFINITION. Barrier-object instructions (08 R193, 20 R372), shared registers with full/empty bits (04 R105 to R108), and the
register-block requests RBACQ and RBREL (02 R56, R57, 22 R443). -/

namespace Sys2Proof.Machine
open Sys2Proof

/-- The store offset of a barrier object: alignment, then the end of the scratchpad (08 R193, 04 R94). -/
def State.objectAt (s : State) (core slot : Nat) (t : Thread) (x : XOps) : Except Stop Nat := do
  let a ← s.src32 core slot t x.lit x.a
  let o := (a + x.imm).toNat
  need (o % 16 == 0) causeMisaligned
  need (decide (o < (s.rcd t.lid).spad)) causeBounds
  .ok (s.spbase core t + o)

/-- An object that holds lost words stops the instruction (10 R249). -/
def Core.objectWhole (c : Core) (o : Nat) : Except Stop Unit :=
  match c.badIn o 16 with
  | some w => .error (.ecc (w.1 * 4) w.2)
  | none => .ok ()

/-- Whether a thread or a task waits on an object (08 R193). A task that has not been dispatched counts also when its phase has completed
(DESIGN CHOICE, log 84). -/
def Core.awaited (c : Core) (lid block spbase o : Nat) : Bool :=
  c.threads.any (fun e => match e.2.park with
    | some (.bowait k _ _) => k == o
    | _ => false)
  || c.tasks.any (fun k => k.lid == lid && k.block == block && k.state == .waiting && (match k.wait with
    | some (w, _) => spbase + w == o
    | none => false))

/-- BOINIT once the region is committed (08 R193). -/
def boinitBody (x : XOps) (core slot : Nat) (t : Thread) (s : State) : Except Stop (State → State) := do
  let o ← s.objectAt core slot t x
  let b ← s.src32 core slot t x.lit x.b
  need (decide (1 ≤ b.toNat) && decide (b.toNat ≤ 65535)) causeIllegalOperand
  need (!(s.core core).awaited t.lid t.block (s.spbase core t) o) causeBarrier
  .ok (fun s => s.modCore core (fun c => c.writeStore o 16 (b.toNat % 65536)))

/-- BOINIT of a thread. -/
def boinitOne (x : XOps) (s : State) (core slot : Nat) (t : Thread) : State :=
  s.committing core x.len slot (.ok ()) (boinitBody x core slot t)

/-- BOARV once the region is committed (08 R193); its operands are those that its thread has in s₀, where the group issued, and `lead` says that the
thread supplies the value of a k register (04 R100). -/
def boarvBody (x : XOps) (core slot : Nat) (t : Thread) (lead : Bool) (s₀ s : State) : Except Stop (State → State) := do
  let c := s.core core
  c.checkMapped slot [x.d]
  let o ← s₀.objectAt core slot t x
  let b ← if x.sub.getLsbD 0 then s₀.src32 core slot t x.lit x.b else .ok 0
  c.objectWhole o
  need (c.objOk o) causeBarrier
  let w0 := c.store.get32 o
  let w1 := c.store.get32 (o + 4)
  let pend := objPend w1 + (if x.sub.getLsbD 0 then b.toInt else 0)
  need (decide (-(2 ^ 27 : Nat) ≤ pend) && decide (pend < (2 ^ 27 : Nat))) causeBarrier
  need (decide ((w0.extractLsb' 16 16).toNat + 1 ≤ (w0.extractLsb' 0 16).toNat)) causeBarrier
  .ok (fun s => s.modCore core (fun c =>
    let c := if x.d.toNat < 0xE0 ∨ lead then c.writeReg slot x.d (if objPh w1 then 1 else 0) else c
    let c := { c with store := c.store.put32 o ((w0.extractLsb' 16 16 + 1) ++ w0.extractLsb' 0 16) }
    (c.setPend o pend).checkComplete o))

/-- BOARV of a thread; `s₀` is the state in which its group issued. -/
def boarvOne (x : XOps) (s₀ s : State) (core slot : Nat) (t : Thread) : State :=
  s.committing core x.len slot (.ok ()) (boarvBody x core slot t (s₀.leads x.g core slot) s₀)

/-- BOTX once the region is committed (08 R193). -/
def botxBody (x : XOps) (core slot : Nat) (t : Thread) (s : State) : Except Stop (State → State) := do
  let c := s.core core
  let o ← s.objectAt core slot t x
  let b ← s.src32 core slot t x.lit x.b
  c.objectWhole o
  need (c.objOk o) causeBarrier
  let pend := objPend (c.store.get32 (o + 4)) + b.toInt
  need (decide (-(2 ^ 27 : Nat) ≤ pend) && decide (pend < (2 ^ 27 : Nat))) causeBarrier
  .ok (fun s => s.modCore core (fun c => (c.setPend o pend).checkComplete o))

/-- BOTX of a thread. -/
def botxOne (x : XOps) (s : State) (core slot : Nat) (t : Thread) : State :=
  s.committing core x.len slot (.ok ()) (botxBody x core slot t)

/-- BOWAIT of a thread (08 R193). -/
def bowaitOne (x : XOps) (s : State) (core slot : Nat) (t : Thread) : State :=
  s.finish core x.len slot (do
    let o ← s.objectAt core slot t x
    let b ← s.src32 core slot t x.lit x.b
    let c := s.core core
    c.objectWhole o
    need (c.objOk o) causeBarrier
    if objPh (c.store.get32 (o + 4)) = b.getLsbD 0 then .error (.park (.bowait o (b.getLsbD 0) x.len)) else .ok id)

/-- BOINIT. -/
def execBoinit (x : XOps) (s : State) : Next := done (s.holding x (·.runSeq x.len x.g (boinitOne x)))
/-- BOARV. -/
def execBoarv (x : XOps) (s : State) : Next := done (s.holding x (fun s => s.runSeq x.len x.g (boarvOne x s)))
/-- BOTX. -/
def execBotx (x : XOps) (s : State) : Next := done (s.holding x (·.runSeq x.len x.g (botxOne x)))
/-- BOWAIT. -/
def execBowait (x : XOps) (s : State) : Next := done (s.holding x (·.runSeq x.len x.g (bowaitOne x)))

/-- The store offset of a register whose slot carries a full/empty bit (04 R107). -/
def Core.sharedSlot (c : Core) (slot : Nat) (code : BitVec 8) : Except Stop Nat :=
  match c.vOff slot code.toNat with
  | none => trap causeUnmapped
  | some o => if c.shared.contains (o / 2048) then .ok o else trap causeIllegalOperand

/-- The operands of FEGET and FEPUT: the offset of the slot, and what FEPUT writes (04 R107). `bit` carries the bit. -/
def State.feArgs (s : State) (core slot : Nat) (t : Thread) (bit other : BitVec 8) (put : Bool) : Except Stop (Nat × Word) := do
  need (decide (bit.toNat < 0xE0) && decide (other.toNat < 0xE0)) causeIllegalOperand
  (s.core core).checkMapped slot [bit, other]
  let o ← (s.core core).sharedSlot slot bit
  let v ← if put then (s.core core).readVK slot t other else .ok 0
  .ok (o, v)

/-- The wait of FEGET and FEPUT (04 R108). -/
def Core.feWait (c : Core) (slot : Nat) (t : Thread) (o : Nat) (full : Bool) (now : Nat) : Except Stop Unit :=
  let order := match t.park with
    | some (.slot k _ n) => if k = o then n else now
    | _ => now
  if c.full.contains o = full ∧ c.firstAt o full order then .ok ()
  else if c.hasPartner slot o then .error (.park (.slot o full order))
  else trap causeIllegalOperand

/-- FEGET once the region is committed (04 R107). -/
def fegetBody (x : XOps) (core slot : Nat) (t : Thread) (s : State) : Except Stop (State → State) := do
  let (o, _) ← s.feArgs core slot t x.a x.d false
  (s.core core).feWait slot t o true s.time
  let v ← (s.core core).readVK slot t x.a
  .ok (fun s => s.modCore core (fun c => { (c.writeReg slot x.d v) with full := c.full.filter (· != o) }))

/-- FEGET of a thread. -/
def fegetOne (x : XOps) (s : State) (core slot : Nat) (t : Thread) : State :=
  s.committing core x.len slot (.ok ()) (fegetBody x core slot t)

/-- FEPUT once the region is committed (04 R107). -/
def feputBody (x : XOps) (core slot : Nat) (t : Thread) (s : State) : Except Stop (State → State) := do
  let (o, v) ← s.feArgs core slot t x.d x.a true
  (s.core core).feWait slot t o false s.time
  .ok (fun s => s.modCore core (fun c => { (c.writeReg slot x.d v) with full := c.full ++ [o] }))

/-- FEPUT of a thread. -/
def feputOne (x : XOps) (s : State) (core slot : Nat) (t : Thread) : State :=
  s.committing core x.len slot (.ok ()) (feputBody x core slot t)

/-- FEGET. -/
def execFeget (x : XOps) (s : State) : Next := done (s.holding x (·.runSeq x.len x.g (fegetOne x)))
/-- FEPUT. -/
def execFeput (x : XOps) (s : State) : Next := done (s.holding x (·.runSeq x.len x.g (feputOne x)))

/-- The threads of a group that an instruction acting once per crew takes, by crew in ascending index, each in lane order
(22 R443). -/
def State.byCrew (s : State) (g : Guard) (gr : Group) : List (Nat × List Nat) :=
  (sortBy id gr.crews).filterMap (fun i =>
    let slots := gr.slots.filter (fun o => o / 64 == i && ((s.thread? gr.core o).map (·.guard g)).getD false)
    if slots.isEmpty then none else some (i, slots))

/-- What stops an instruction that acts once per crew: every thread traps or waits, an abort consumes only for the thread that
read. -/
def State.stopCrew (s : State) (core : Nat) (slots : List Nat) (st : Stop) : State :=
  match st with
  | .trap _ _ | .misaligned _ | .park _ => slots.foldl (fun s o => s.stop core o st) s
  | _ => match slots.head? with
    | some o => s.stop core o st
    | none => s

/-- Advances some threads. -/
def Core.advanceAll (c : Core) (len : Nat) (slots : List Nat) : Core := slots.foldl (fun c o => c.advance o len) c

/-- Runs an instruction that acts once per crew; threads whose guard is false advance. -/
def State.runCrews (s : State) (len : Nat) (g : Guard) (f : State → Nat → Nat → List Nat → Thread → State) : State :=
  match s.cur with
  | none => s
  | some gr =>
    let off := gr.slots.filter (fun o => !((s.thread? gr.core o).map (·.guard g)).getD false)
    let by_ := s.byCrew g gr
    let s := s.modCore gr.core (·.advanceAll len off)
    by_.foldl (fun s e => match (e.2.head?).bind (s.thread? gr.core) with
      | some t => f s gr.core e.1 e.2 t
      | none => s) s

/-- Pending loads of a crew's threads that write v registers of some map entries. -/
def Core.loadsInto (c : Core) (crew lo hi : Nat) : List Nat :=
  (c.loads.filter (fun l => l.slot / 64 == crew && l.dests.any (fun d => decide (lo * 8 ≤ d.1.toNat) && decide (d.1.toNat < hi * 8)
    && decide (d.1.toNat < 0xE0)))).map (·.id)

/-- Drops the latch entries of a crew's threads for some map entries (22 R443). -/
def Core.dropLatches (c : Core) (crew lo hi : Nat) : Core :=
  { c with latch := c.latch.filter (fun l => !(l.1 / 64 == crew && decide (lo * 8 ≤ l.2.1.toNat) && decide (l.2.1.toNat < hi * 8))) }

/-- The physical block of a map entry. -/
def Crew.entry (x : Crew) (i : Nat) : Option Nat := (x.rbm.toList[i]?).getD none

/-- Replaces map entries e to e + n - 1 with those of another map. -/
def mapOnto (mine theirs : Vector (Option Nat) 28) (e n : Nat) : Vector (Option Nat) 28 :=
  Vector.ofFn (fun i : Fin 28 => if e ≤ i.val ∧ i.val < e + n then theirs.get i else mine.get i)

/-- The crew of a block whose index within the block is a number (04 R105). After a regroup a crew can hold threads of several indices: it is the crew
of the thread with this one that stands first in the core's list of threads (DESIGN CHOICE, log 104). -/
def Core.partnerCrew (c : Core) (lid block k : Nat) : Option Nat :=
  (c.threads.find? (fun e => e.2.lid == lid && e.2.block == block && e.2.lvid1 == k)).map (fun e => e.1 / 64)

/-- The checks of SHMAP: the partner's map (04 R106) (DEDUCED, log 38). -/
def shmapCheck (x : XOps) (s : State) (core crew slot : Nat) (t : Thread) : Except Stop (Crew × Crew) := do
  let c := s.core core
  let v ← s.src32 core slot t x.lit x.a
  let e := (x.imm.extractLsb' 0 5).toNat
  let n := (x.imm.extractLsb' 5 5).toNat + 1
  need (decide (v.toNat < (s.rcd t.lid).size 1)) causeIllegalOperand
  match c.crew? crew, (c.partnerCrew t.lid t.block v.toNat).bind (fun i => (c.crew? i).map (fun y => (i, y))) with
  | some me, some (i, other) => do
    need (i != crew) causeIllegalOperand
    need (decide (e + n ≤ 28)) causeIllegalOperand
    need ((List.range n).all (fun k => (me.entry (e + k)).isSome && (other.entry (e + k)).isSome)) causeIllegalOperand
    match c.loadsInto crew e (e + n) with
    | [] => .ok (me, other)
    | ids => .error (.park (.loads ids))
  | _, _ => trap causeIllegalOperand

/-- SHMAP of a crew (04 R105, 22 R458). Where its guarded threads in the group hold different values of A, the lowest lane's counts, and they all go on
or trap with it (DESIGN CHOICE, log 102). A block that has been shared before and that one crew alone still maps keeps its full/empty bits (DESIGN
CHOICE, log 103). -/
def shmapCrew (x : XOps) (s : State) (core crew : Nat) (slots : List Nat) (t : Thread) : State :=
  match shmapCheck x s core crew (slots.headD 0) t with
  | .error st => s.stopCrew core slots st
  | .ok (me, other) =>
    let e := (x.imm.extractLsb' 0 5).toNat
    let n := (x.imm.extractLsb' 5 5).toNat + 1
    let rbm := mapOnto me.rbm other.rbm e n
    s.modCore core (fun c =>
      let c := c.advanceAll x.len slots
      let new := (List.range n).filterMap (fun k => if me.entry (e + k) = other.entry (e + k) then none else other.entry (e + k))
      let fresh := new.filter (fun p => !c.shared.contains p)
      let c := (if new.isEmpty then c else c.dropLatches crew e (e + n)).modCrew crew (fun y => { y with rbm := rbm })
      Core.tidy { c with shared := c.shared ++ fresh })

/-- SHMAP. -/
def execShmap (x : XOps) (s : State) : Next := done (s.holding x (·.runCrews x.len x.g (shmapCrew x)))

/-- The held crew that is served next: first come, first served (02 R57). -/
def Core.nextHeld (c : Core) : Option (Nat × Nat) :=
  (c.crews.foldl (fun (best : Option (Nat × Nat × Nat)) e => match e.2.held with
    | none => best
    | some (n, k) => match best with
      | none => some (e.1, n, k)
      | some (i, _, k') => if k < k' ∨ (k = k' ∧ e.1 < i) then some (e.1, n, k) else best) none).map (fun b => (b.1, b.2.1))

/-- Grants one held crew's request when its blocks are free; when every crew of the core is held, the emergency reserve serves it
(02 R57). -/
def State.grantOne (s : State) (core : Nat) : Option State :=
  let c := s.core core
  match c.nextHeld with
  | none => none
  | some (i, n) =>
    match c.crew? i with
    | none => none
    | some x =>
      let want := n - x.entries
      let ordinary := s.ordinaryFree c
      let all := c.crews.all (fun e => e.2.held.isSome)
      if want ≤ ordinary ∨ (all ∧ want ≤ s.freeBlocks c) then
        let s := s.mapEntries core i x.entries want
        some (s.modCrew core i (fun y => { y with held := none }))
      else none

/-- Grants requests in turn; `fuel` bounds the crews. -/
def State.grantFrom (s : State) (core : Nat) : Nat → State
  | 0 => s
  | n + 1 => match s.grantOne core with
    | some s => State.grantFrom s core n
    | none => s

/-- Grants what can be granted on a core. -/
def State.grant (s : State) (core : Nat) : State := s.grantFrom core 32

/-- RBACQ_GRANT (02 R57). -/
def execRbacqGrant (core : Nat) (s : State) : Next := done (s.grant core)

/-- The count of RBACQ and RBREL (22 R442). -/
def State.rbCount (s : State) (core slot : Nat) (t : Thread) (x : XOps) : Except Stop Nat := do
  let v ← s.src32 core slot t x.lit x.a
  .ok (v + x.imm).toNat

/-- RBACQ of a crew (22 R443). -/
def rbacqCrew (x : XOps) (s : State) (core crew : Nat) (slots : List Nat) (t : Thread) : State :=
  let check : Except Stop Nat := do
    let n ← s.rbCount core (slots.headD 0) t x
    need (decide (1 ≤ n) && decide (n ≤ (s.rcd t.lid).rbmax)) causeIllegalOperand
    .ok n
  match check with
  | .error st => s.stopCrew core slots st
  | .ok n =>
    let s := s.modCore core (·.advanceAll x.len slots)
    let m := (((s.core core).crew? crew).map Crew.entries).getD 0
    if m < n then
      let (k, s) := s.fresh
      (s.modCrew core crew (fun y => { y with held := some (n, k) })).grant core
    else s

/-- RBACQ. -/
def execRbacq (x : XOps) (s : State) : Next := done (s.runCrews x.len x.g (rbacqCrew x))

/-- RBREL of a crew (22 R443). -/
def rbrelCrew (x : XOps) (s : State) (core crew : Nat) (slots : List Nat) (t : Thread) : State :=
  let m := (((s.core core).crew? crew).map Crew.entries).getD 0
  let check : Except Stop Nat := do
    let n ← s.rbCount core (slots.headD 0) t x
    need (decide ((s.rcd t.lid).rbinit ≤ n) && decide (n ≤ 28)) causeIllegalOperand
    match (s.core core).loadsInto crew n m with
    | [] => .ok n
    | ids => .error (.park (.loads ids))
  match check with
  | .error st => s.stopCrew core slots st
  | .ok n =>
    let s := s.modCore core (·.advanceAll x.len slots)
    if n < m then
      (s.modCore core (fun c => ((c.dropLatches crew n m).modCrew crew (fun y => { y with rbm := unmapFrom y.rbm n })).tidy)).grant core
    else s

/-- RBREL. -/
def execRbrel (x : XOps) (s : State) : Next := done (s.runCrews x.len x.g (rbrelCrew x))

end Sys2Proof.Machine
end

