-- ==== Sys2Proof/Machine/Exit.lean ====
section
/-! DEFINITION. EXIT and the retirement of a block (02 R58, R59, 20 R387), and the end of a failed launch (02 R46). -/

namespace Sys2Proof.Machine
open Sys2Proof

/-- Removes an exiting thread from every join mask of its crew (02 R58). -/
def Core.leaveJoins (c : Core) (slot : Nat) : Core :=
  (List.range 8).foldl (fun c n => c.leaveJoin slot (BitVec.ofNat 3 n)) c

/-- What a crew's remaining threads may complete when one exits: the marble at BSYNC, cross-lane rendezvous. -/
def State.afterExit (s : State) (core crew : Nat) : State :=
  match (s.core core).slotsIn crew with
  | [] => s
  | o :: _ =>
    let s := match s.thread? core o with
      | some t => s.passAtBsync core o t
      | none => s
    s.settleCross core crew

/-- A crew whose last thread has gone ceases to exist; the marble it held passes (02 R58). -/
def State.dropCrew (s : State) (core crew lid : Nat) : State :=
  match (s.core core).crew? crew with
  | none => s
  | some x =>
    let held := (s.launch? lid).bind (·.marble) == some x.order
    let s := (s.modCore core (fun c => Core.tidy { c with crews := c.crews.filter (fun e => e.1 != crew) })).modLaunch lid
      (fun l => { l with passed := l.passed.filter (· != x.order) })
    (if held then s.passMarble lid else s).grant core

/-- A block without threads drains under the tracker; its deferred stores are released (02 R59, 20 R387). -/
def State.retire (s : State) (core lid block : Nat) : State :=
  let s := s.modCore core (fun c => (c.modBlock lid block (fun b => { b with retiring := true, arrivals := 0 })))
  let s := s.modCore core (fun c => { c with tracker := c.tracker ++ [(lid, block)] })
  s.releaseDeferred core lid block

/-- Frees a thread (02 R58, R59, 20 R387). -/
def State.freeThread (s : State) (core slot : Nat) : State :=
  match s.thread? core slot with
  | none => s
  | some t =>
    let crew := slot / 64
    let s := s.abandon core slot false
    let s := s.modCore core (fun c =>
      ({ c with threads := c.threads.filter (fun e => e.1 != slot), latch := c.latch.filter (fun l => l.1 != slot) }).leaveJoins slot)
    let s := s.afterExit core crew
    let s := if (s.rcd t.lid).rbk then s.settleCheckpoint core t.lid t.block else s.settleBarrier core t.lid t.block
    let s := if ((s.core core).slotsIn crew).isEmpty then s.dropCrew core crew t.lid else s
    let s := s.settleRgrp core t.lid t.block
    if ((s.core core).slotsOf t.lid t.block).isEmpty then s.retire core t.lid t.block else s

/-- A thread whose region is over leaves. The last live thread of a crew waits until the crew's marble may pass; any other is freed at once (02 R58,
08 R199). -/
def State.leave (s : State) (core slot : Nat) (t : Thread) : State :=
  if (s.core core).slotsIn (slot / 64) = [slot] then
    match s.marbleDone core slot t true with
    | .error st => s.stop core slot st
    | .ok _ => s.freeThread core slot
  else s.freeThread core slot

/-- EXIT of a thread whose loads' faults are recorded: it commits and ends its region; in handler mode the suspended region is discarded (20
R387). -/
def State.exitNow (s : State) (core slot : Nat) (t : Thread) : State :=
  match t.mode, s.commitCheck core slot t with
  | .user, .error st => s.stop core slot st
  | .user, .ok _ => (s.commitTo core slot none).leave core slot t
  | .handler, _ => (s.modThread core slot (fun t => { t with region := none })).leave core slot t

/-- EXIT of a thread (20 R387): the last thread of a block waits for a tracker entry. -/
def exitOne (s : State) (core slot : Nat) (t : Thread) : State :=
  let c := s.core core
  if c.slotsOf t.lid t.block = [slot] ∧ 16 ≤ c.tracker.length then s.stop core slot (.park .tracker)
  else
    let s := if t.mode = .user then s.recordFaults core slot else s
    match s.thread? core slot with
    | none => s
    | some t => s.exitNow core slot t

/-- EXIT. -/
def execExit (g : Guard) (s : State) : Next := done (s.runSeq 4 g exitOne)
/-- EXIT, X-form. -/
def execExitX (x : XOps) (s : State) : Next := done (s.runSeq x.len x.g exitOne)

/-- Stops a resident block at its threads' next boundaries (02 R46): pending registers are abandoned, granules discarded; its dispatched tasks end
with it. The stores that it holds for its checkpoint have been made, and remain: they are performed. -/
def State.stopBlock (s : State) (core lid index : Nat) : State :=
  let s := ((s.core core).slotsOf lid index).foldl (fun s slot => s.abandon core slot false) s
  (s.releaseDeferred core lid index).evict core lid index

/-- Stores that pre-empted blocks of a launch hold for their checkpoints remain too (02 R46): they are performed at the point of coherence, as by a
core. -/
def State.releaseSaved (s : State) (l : Launch) (core : Nat) : State :=
  (l.saved.flatMap (fun v => v.blocks.flatMap (fun b => b.1.deferred))).foldl (fun s b => s.performStore core { b with hint := 3 }) s

/-- Writes back the shares of a launch on every core that holds one. -/
def State.publishAll (s : State) (lid : Nat) : State := s.cores.foldl (fun s e => s.publishShare e.1 lid) s

/-- Stops the blocks of a failed launch: its resident blocks, and its unplaced ones; the launches behind it are cancelled. The lines of its shares are
written back, since stores already made remain (02 R46). -/
def State.stopLaunch (s : State) (lid : Nat) : State :=
  match s.launch? lid with
  | none => s
  | some l =>
    match l.ended with
    | some (3, _, _) =>
      let s := (s.residents lid).foldl (fun s e => s.stopBlock e.1 lid e.2) s
      let s := (s.releaseSaved l 0).publishAll lid
      let s := { s with cores := s.cores.map (fun (e : Nat × Core) => (e.1, e.2.forget lid)) }
      (s.modLaunch lid (fun l => { l with saved := [] })).cancelWaiting lid
    | _ => s

/-- LAUNCH_FAILURE (02 R46). -/
def execLaunchFailure (lid : Nat) (s : State) : Next := done (s.stopLaunch lid)

end Sys2Proof.Machine
end

