-- ==== Sys2Proof/Machine/FloatAlu.lean ====
section
/-! DEFINITION. The float family: the float mould (20 R362, R363), FSETP (20 R392) and FCVT (14 R282). -/

namespace Sys2Proof.Machine
open Sys2Proof

/-- The float type of SUB[2:0]. -/
def floatTy (x : XOps) : Fmt := fmtOf (x.sub.extractLsb' 0 3).toNat
/-- The rounding mode of SUB[4:3]. -/
def floatRnd (x : XOps) : Rnd := rndOf (x.sub.extractLsb' 3 2)
/-- SUB[5]: flush. -/
def floatFlush (x : XOps) : Bool := x.sub.getLsbD 5

/-- A prepared element of source number k (A 0, B 1, C 2): flush, |x|, -x by IMM (20 R362, 03 R77). -/
def floatSrc (x : XOps) (k : Nat) (b : Nat) : Nat :=
  (floatTy x).prepare (floatFlush x) (x.imm.getLsbD (2 * k + 1)) (x.imm.getLsbD (2 * k)) b

/-- A register computed element by element: one for FP32, two for a pair type (14 R278). -/
def floatElems (x : XOps) (f : Nat → Nat) (g : Nat → Nat) : Word :=
  if (x.sub.extractLsb' 0 3).toNat = 0 then BitVec.ofNat 32 (f 0)
  else BitVec.ofNat 16 (g 1) ++ BitVec.ofNat 16 (g 0)

/-- Element e of a source register for the type. -/
def floatElem (x : XOps) (w : Word) (e : Nat) : Nat :=
  if (x.sub.extractLsb' 0 3).toNat = 0 then w.toNat else (w.extractLsb' (16 * e) 16).toNat

/-- An operation of the float mould on registers (20 R362). -/
def floatOp1 (x : XOps) (op : Fmt → Rnd → Nat → Nat) (a : Word) : Word :=
  let f := fun e => (floatTy x).finish (floatFlush x) (op (floatTy x) (floatRnd x) (floatSrc x 0 (floatElem x a e)))
  floatElems x f f

/-- Two sources. -/
def floatOp2 (x : XOps) (op : Fmt → Rnd → Nat → Nat → Nat) (a b : Word) : Word :=
  let f := fun e => (floatTy x).finish (floatFlush x)
    (op (floatTy x) (floatRnd x) (floatSrc x 0 (floatElem x a e)) (floatSrc x 1 (floatElem x b e)))
  floatElems x f f

/-- Three sources. -/
def floatOp3 (x : XOps) (op : Fmt → Rnd → Nat → Nat → Nat → Nat) (a b c : Word) : Word :=
  let f := fun e => (floatTy x).finish (floatFlush x)
    (op (floatTy x) (floatRnd x) (floatSrc x 0 (floatElem x a e)) (floatSrc x 1 (floatElem x b e)) (floatSrc x 2 (floatElem x c e)))
  floatElems x f f

/-- A float instruction of one source. -/
def floatUn (x : XOps) (op : Fmt → Rnd → Nat → Nat) (s : State) (core slot : Nat) (t : Thread) : Except Stop (List Write) := do
  (s.core core).checkMapped slot [x.d]
  let a ← s.src32 core slot t x.lit x.a
  .ok (wr32 x.d (floatOp1 x op a))

/-- A float instruction of two sources. -/
def floatBin (x : XOps) (op : Fmt → Rnd → Nat → Nat → Nat) (s : State) (core slot : Nat) (t : Thread) :
    Except Stop (List Write) := do
  (s.core core).checkMapped slot [x.d]
  let a ← s.src32 core slot t x.lit x.a
  let b ← s.src32 core slot t x.lit x.b
  .ok (wr32 x.d (floatOp2 x op a b))

/-- A float instruction of three sources. -/
def floatTern (x : XOps) (op : Fmt → Rnd → Nat → Nat → Nat → Nat) (s : State) (core slot : Nat) (t : Thread) :
    Except Stop (List Write) := do
  (s.core core).checkMapped slot [x.d]
  let a ← s.src32 core slot t x.lit x.a
  let b ← s.src32 core slot t x.lit x.b
  let c ← s.src32 core slot t x.lit x.c
  .ok (wr32 x.d (floatOp3 x op a b c))

/-- FSETP: FP32 sources, flushed and modified, compared exactly (20 R392). -/
def floatCmp (x : XOps) (s : State) (core slot : Nat) (t : Thread) : Except Stop (List Write) := do
  let a ← s.src32 core slot t x.lit x.a
  let b ← s.src32 core slot t x.lit x.b
  let a := floatSrc x 0 a.toNat
  let b := floatSrc x 1 b.toNat
  .ok [.pred (x.d.extractLsb' 0 3) (floatCond (x.d.extractLsb' 3 3) (fp32.isNan a || fp32.isNan b) (fp32.lt a b) (fp32.eq a b))]

/-- A value to convert: a float value or an integer (14 R282). -/
inductive CvtVal where
  | flt (v : FVal)
  | int (v : Int)
  deriving DecidableEq, Repr

/-- Reads the source of an FCVT by its type code (03 R77, 14 R282). -/
def cvtRead (ty : Nat) (a : Word) : CvtVal :=
  match ty with
  | 0 => .flt (fp32.decode a.toNat)
  | 1 => .flt (bf16.decode (a.toNat % 65536))
  | 2 => .flt (fp16.decode (a.toNat % 65536))
  | 3 => .int a.toInt
  | 4 => .int (a.toNat : Int)
  | 5 => .int (a.extractLsb' 0 16).toInt
  | _ => .int (a.extractLsb' 0 8).toInt

/-- Range of an integer type code. -/
def cvtRange (ty : Nat) : Int × Int :=
  match ty with
  | 3 => (-2147483648, 2147483647)
  | 4 => (0, 4294967295)
  | 5 => (-32768, 32767)
  | _ => (-128, 127)

/-- The result of an out-of-range conversion without SAT (14 R282). -/
def cvtInvalid (ty : Nat) : Word :=
  match ty with
  | 3 => 0x80000000
  | 4 => 0xFFFFFFFF
  | 5 => 0xFFFF8000
  | _ => 0xFFFFFF80

/-- An integer as a result of an integer type: its low bits, sign-extended (UINT32 keeps all 32). -/
def cvtInt (ty : Nat) (v : Int) : Word :=
  match ty with
  | 5 => (BitVec.ofInt 16 v).signExtend 32
  | 6 => (BitVec.ofInt 8 v).signExtend 32
  | _ => BitVec.ofInt 32 v

/-- A finite value rounded to a float type; with SAT it never reaches infinity (14 R282). -/
def cvtRound (t : Fmt) (mode : Rnd) (sat neg : Bool) (m : Nat) (e : Int) : Nat :=
  let r := t.round mode neg m e
  if sat ∧ r = t.inf neg then t.maxFinite neg else r

/-- FCVT (14 R282). -/
def cvt (dst src : Nat) (mode : Rnd) (sat : Bool) (a : Word) : Word :=
  let t := fmtOf dst
  match cvtRead src a with
  | .flt v =>
    if dst < 3 then
      BitVec.ofNat 32 (match v with
        | .nan => if sat then 0 else t.nan
        | .inf neg => if sat then t.maxFinite neg else t.inf neg
        | .fin neg m e => cvtRound t mode sat neg m e)
    else
      let (lo, hi) := cvtRange dst
      match v with
      | .nan => if sat then 0 else cvtInvalid dst
      | .inf neg => if sat then cvtInt dst (if neg then lo else hi) else cvtInvalid dst
      | .fin neg m e =>
        let i := toInt mode neg m e
        if lo ≤ i ∧ i ≤ hi then cvtInt dst i
        else if sat then cvtInt dst (clampInt lo hi i) else cvtInvalid dst
  | .int v =>
    if dst < 3 then BitVec.ofNat 32 (cvtRound t mode sat (decide (v < 0)) v.natAbs 0)
    else
      let (lo, hi) := cvtRange dst
      cvtInt dst (if sat then clampInt lo hi v else v)

/-- FCVT on a register. -/
def cvtOf (x : XOps) (s : State) (core slot : Nat) (t : Thread) : Except Stop (List Write) := do
  (s.core core).checkMapped slot [x.d]
  let a ← s.src32 core slot t x.lit x.a
  .ok (wr32 x.d (cvt (x.sub.extractLsb' 0 3).toNat (x.imm.extractLsb' 0 3).toNat (floatRnd x) (x.sub.getLsbD 5) a))

/-- FADD (20 R388). -/
def execFadd (o : SBin) (s : State) : Next := done (s.holding o.toX (·.runGroup (sLen o.lit) o.g (floatBin o.toX Fmt.add)))
/-- FADD, X-form (20 R388). -/
def execFaddX (x : XOps) (s : State) : Next := done (s.holding x (·.runGroup x.len x.g (floatBin x Fmt.add)))
/-- FMUL (20 R388). -/
def execFmul (o : SBin) (s : State) : Next := done (s.holding o.toX (·.runGroup (sLen o.lit) o.g (floatBin o.toX Fmt.mul)))
/-- FMUL, X-form (20 R388). -/
def execFmulX (x : XOps) (s : State) : Next := done (s.holding x (·.runGroup x.len x.g (floatBin x Fmt.mul)))
/-- FMIN (20 R391). -/
def execFmin (o : SBin) (s : State) : Next :=
  done (s.holding o.toX (·.runGroup (sLen o.lit) o.g (floatBin o.toX (fun t _ => t.min))))
/-- FMIN, X-form (20 R391). -/
def execFminX (x : XOps) (s : State) : Next := done (s.holding x (·.runGroup x.len x.g (floatBin x (fun t _ => t.min))))
/-- FMAX (20 R391). -/
def execFmax (o : SBin) (s : State) : Next :=
  done (s.holding o.toX (·.runGroup (sLen o.lit) o.g (floatBin o.toX (fun t _ => t.max))))
/-- FMAX, X-form (20 R391). -/
def execFmaxX (x : XOps) (s : State) : Next := done (s.holding x (·.runGroup x.len x.g (floatBin x (fun t _ => t.max))))
/-- FFMA (20 R388). -/
def execFfma (x : XOps) (s : State) : Next := done (s.holding x (·.runGroup x.len x.g (floatTern x Fmt.fma)))
/-- FSETP (20 R392). -/
def execFsetp (o : SCmp) (s : State) : Next := done (s.holding o.toX (·.runGroup 4 o.g (floatCmp o.toX)))
/-- FSETP, X-form (20 R392). -/
def execFsetpX (x : XOps) (s : State) : Next := done (s.holding x (·.runGroup x.len x.g (floatCmp x)))
/-- FCVT (20 R389). -/
def execFcvt (x : XOps) (s : State) : Next := done (s.holding x (·.runGroup x.len x.g (cvtOf x)))

end Sys2Proof.Machine
end

