-- ==== Sys2Proof/Machine/Fspec.lean ====
section
/-! DEFINITION. The FSPEC family (20 R393 to R395) and the sigmoid of the spinner (17 R326, R327). Each function is the exact
mathematical one, rounded once: quotients and roots with their remainder, the others from fixed-point series whose error is
far below the distance of any result from a rounding boundary (PRESUMED, log 15). -/

namespace Sys2Proof.Machine
open Sys2Proof

/-- Fraction bits of the fixed-point numbers. -/
def fxBits : Nat := 832

/-- Fixed-point one. -/
def fxOne : Nat := 2 ^ fxBits

/-- Integer square root by bits b - 1 downward, from a root r so far. -/
def isqrtFrom (n : Nat) : Nat → Nat → Nat
  | 0, r => r
  | b + 1, r => if (r + 2 ^ b) * (r + 2 ^ b) ≤ n then isqrtFrom n b (r + 2 ^ b) else isqrtFrom n b r

/-- Integer square root. -/
def isqrt (n : Nat) : Nat := isqrtFrom n (bitLen n / 2 + 1) 0

/-- Series of e^r from the term r^k / k!. -/
def expSum (r : Nat) : Nat → Nat → Nat → Nat
  | 0, _, _ => 0
  | fuel + 1, k, term => term + expSum r fuel (k + 1) (term * r / fxOne / (k + 1))

/-- e^r of a fixed-point r below 1. -/
def fxExpSmall (r : Nat) : Nat := expSum r 160 0 fxOne

/-- Squares a fixed-point number n times. -/
def fxSquares : Nat → Nat → Nat
  | 0, x => x
  | n + 1, x => fxSquares n (x * x / fxOne)

/-- e^y of a fixed-point y of at most 128. -/
def fxExp (y : Nat) : Nat := fxSquares 8 (fxExpSmall (y / 256))

/-- Series of atanh from the power z^(2i+1). -/
def atanhSum (z2 : Nat) : Nat → Nat → Nat → Nat
  | 0, _, _ => 0
  | fuel + 1, k, p => p / k + atanhSum z2 fuel (k + 2) (p * z2 / fxOne)

/-- atanh of a fixed-point z of at most 1/3. -/
def fxAtanh (z : Nat) : Nat := atanhSum (z * z / fxOne) 270 1 z

/-- Half of ln 2. -/
def fxHalfLn2 : Nat := fxAtanh (fxOne / 3)

/-- Series of atan (1/n), from the power 1/n^k. -/
def atanSum (n2 : Nat) : Nat → Nat → Nat → Int
  | 0, _, _ => 0
  | fuel + 1, k, p => (p / k : Nat) - atanSum n2 fuel (k + 2) (p / n2)

/-- Pi/2, by Machin's formula. -/
def fxHalfPi : Nat := (8 * atanSum 25 200 1 (fxOne / 5) - 2 * atanSum (239 * 239) 60 1 (fxOne / 239)).toNat

/-- Alternating series of sine and cosine from the term r^k / k!. -/
def trigSum (r2 : Nat) : Nat → Nat → Nat → Int
  | 0, _, _ => 0
  | fuel + 1, k, term => (term : Int) - trigSum r2 fuel (k + 2) (term * r2 / fxOne / ((k + 1) * (k + 2)))

/-- sin r of a fixed-point r in [0, pi/2]. -/
def fxSin (r : Nat) : Int := trigSum (r * r / fxOne) 100 1 r

/-- cos r of a fixed-point r in [0, pi/2]. -/
def fxCos (r : Nat) : Int := trigSum (r * r / fxOne) 100 0 fxOne

/-- A finite magnitude m * 2^e as fixed-point; exact for every value of the vector formats. -/
def fxOf (m : Nat) (e : Int) : Nat := m * 2 ^ (e + fxBits).toNat

/-- Rounds a fixed-point value that is not exact. -/
def Fmt.roundFx (t : Fmt) (mode : Rnd) (v : Int) : Nat := t.round mode (decide (v < 0)) v.natAbs (-(fxBits : Int)) true

/-- 1 / x (20 R394). -/
def Fmt.rcp (t : Fmt) (mode : Rnd) (b : Nat) : Nat :=
  match t.decode b with
  | .nan => t.nan
  | .inf n => t.zero n
  | .fin n m e =>
    if m = 0 then t.inf n
    else t.round mode n (2 ^ 120 / m) (-120 - e) (2 ^ 120 % m != 0)

/-- An even exponent for a root: (m, e / 2). -/
def evenExp (m : Nat) (e : Int) : Nat × Int := if e % 2 = 0 then (m, e / 2) else (2 * m, (e - 1) / 2)

/-- 1 / sqrt x (20 R394). -/
def Fmt.rsq (t : Fmt) (mode : Rnd) (b : Nat) : Nat :=
  match t.decode b with
  | .nan => t.nan
  | .inf n => if n then t.nan else t.zero false
  | .fin n m e =>
    if m = 0 then t.inf n
    else if n then t.nan
    else
      let (m, h) := evenExp m e
      let q := isqrt (2 ^ 240 / m)
      t.round mode false q (-120 - h) (q * q * m != 2 ^ 240)

/-- sqrt x (20 R394). -/
def Fmt.sqrt (t : Fmt) (mode : Rnd) (b : Nat) : Nat :=
  match t.decode b with
  | .nan => t.nan
  | .inf n => if n then t.nan else t.inf false
  | .fin n m e =>
    if m = 0 then t.zero n
    else if n then t.nan
    else
      let (m, h) := evenExp m e
      let q := isqrt (m * 2 ^ 120)
      t.round mode false q (h - 60) (q * q != m * 2 ^ 120)

/-- 2^x (20 R394). Beyond 2,000 every format has overflowed or underflowed. -/
def Fmt.ex2 (t : Fmt) (mode : Rnd) (b : Nat) : Nat :=
  match t.decode b with
  | .nan => t.nan
  | .inf n => if n then t.zero false else t.inf false
  | .fin n m e =>
    let v : Int := if n then -(fxOf m e : Int) else (fxOf m e : Int)
    let i := v / (fxOne : Int)
    let f := (v % (fxOne : Int)).toNat
    if i < -2000 then t.round mode false 1 (-2000) true
    else if 2000 < i then t.round mode false 1 2000 false
    else if f = 0 then t.round mode false 1 i false
    else t.round mode false (fxExpSmall (2 * fxHalfLn2 * f / fxOne)) (i - fxBits) true

/-- log2 x (20 R394). -/
def Fmt.lg2 (t : Fmt) (mode : Rnd) (b : Nat) : Nat :=
  match t.decode b with
  | .nan => t.nan
  | .inf n => if n then t.nan else t.inf false
  | .fin n m e =>
    if m = 0 then t.inf true
    else if n then t.nan
    else
      let l := bitLen m - 1
      let k := e + l
      if m = 2 ^ l then t.round mode (decide (k < 0)) k.natAbs 0 false
      else
        let z := (m - 2 ^ l) * fxOne / (m + 2 ^ l)
        t.roundFx mode (k * (fxOne : Int) + (fxAtanh z * fxOne / fxHalfLn2 : Nat))

/-- Quadrant and remainder of a magnitude by pi/2. -/
def trigReduce (m : Nat) (e : Int) : Nat × Nat := (fxOf m e / fxHalfPi % 4, fxOf m e % fxHalfPi)

/-- sin x (20 R394). -/
def Fmt.sin (t : Fmt) (mode : Rnd) (b : Nat) : Nat :=
  match t.decode b with
  | .nan => t.nan
  | .inf _ => t.nan
  | .fin n m e =>
    if m = 0 then t.zero n
    else
      let (q, r) := trigReduce m e
      let v := if q % 2 = 0 then fxSin r else fxCos r
      t.roundFx mode (if (2 ≤ q : Bool) != n then -v else v)

/-- cos x (20 R394). -/
def Fmt.cos (t : Fmt) (mode : Rnd) (b : Nat) : Nat :=
  match t.decode b with
  | .nan => t.nan
  | .inf _ => t.nan
  | .fin _ m e =>
    if m = 0 then t.round mode false 1 0 false
    else
      let (q, r) := trigReduce m e
      let v := if q % 2 = 0 then fxCos r else fxSin r
      t.roundFx mode (if q = 1 ∨ q = 2 then -v else v)

/-- tanh x (20 R394). From 64 on it lies within 2^-180 of 1. -/
def Fmt.tanh (t : Fmt) (mode : Rnd) (b : Nat) : Nat :=
  match t.decode b with
  | .nan => t.nan
  | .inf n => t.round mode n 1 0 false
  | .fin n m e =>
    if m = 0 then t.zero n
    else if 64 * fxOne ≤ fxOf m e then t.round mode n (2 ^ 180 - 1) (-180) true
    else
      let x := fxExp (2 * fxOf m e)
      t.round mode n ((x - fxOne) * fxOne / (x + fxOne)) (-(fxBits : Int)) true

/-- S of a field: floor(65,536 * sigmoid(zq / 256) + 1/2) (17 R327). At -256 and 256 the formula gives 17,625 and 47,911, which the table of 18 R337
prints as 17,626 and 47,910: the formula is taken (DEDUCED, log 90). -/
def sigmoidS (zq : Int) : Nat :=
  let x := fxExp (zq.natAbs * fxOne / 256)
  let num := if zq < 0 then fxOne else x
  (131072 * num + (x + fxOne)) / (2 * (x + fxOne))

/-- FRCP (20 R394). -/
def execFrcp (x : XOps) (s : State) : Next := done (s.holding x (·.runGroup x.len x.g (floatUn x Fmt.rcp)))
/-- FRSQ (20 R394). -/
def execFrsq (x : XOps) (s : State) : Next := done (s.holding x (·.runGroup x.len x.g (floatUn x Fmt.rsq)))
/-- FSQRT (20 R394). -/
def execFsqrt (x : XOps) (s : State) : Next := done (s.holding x (·.runGroup x.len x.g (floatUn x Fmt.sqrt)))
/-- FEX2 (20 R394). -/
def execFex2 (x : XOps) (s : State) : Next := done (s.holding x (·.runGroup x.len x.g (floatUn x Fmt.ex2)))
/-- FLG2 (20 R394). -/
def execFlg2 (x : XOps) (s : State) : Next := done (s.holding x (·.runGroup x.len x.g (floatUn x Fmt.lg2)))
/-- FSIN (20 R394). -/
def execFsin (x : XOps) (s : State) : Next := done (s.holding x (·.runGroup x.len x.g (floatUn x Fmt.sin)))
/-- FCOS (20 R394). -/
def execFcos (x : XOps) (s : State) : Next := done (s.holding x (·.runGroup x.len x.g (floatUn x Fmt.cos)))
/-- FTANH (20 R394). -/
def execFtanh (x : XOps) (s : State) : Next := done (s.holding x (·.runGroup x.len x.g (floatUn x Fmt.tanh)))

end Sys2Proof.Machine
end

