-- ==== Sys2Proof/Machine/Accum.lean ====
section
/-! DEFINITION. The arithmetic of the matrix unit: EX48 and its round-to-odd (14 R287, R288), alignment of float groups (14 R289),
partial products (14 R291), sums (15 R309), and the conversions of a drain (14 R292, R295). -/

namespace Sys2Proof.Machine
open Sys2Proof

/-- EX48 (14 R287). -/
def ex48 : Fmt := { e := 10, f := 37 }

/-- Round-to-odd of (-1)^neg * m * 2^e (14 R288): an exact zero is +0. -/
def exRound (neg : Bool) (m : Nat) (e : Int) : Nat :=
  if m = 0 then 0
  else
    let q := max (e + bitLen m - 1 - 37) ex48.qmin
    let n := m * 2 ^ (e - q).toNat
    let d := 2 ^ (q - e).toNat
    let k := if n % d = 0 then n / d else n / d ||| 1
    let sign := if neg then 2 ^ 47 else 0
    if k < 2 ^ 37 then sign + k
    else
      let x := (q - ex48.qmin + 1).toNat
      if 1023 ≤ x then ex48.inf neg else sign + x * 2 ^ 37 + (k - 2 ^ 37)

/-- A sum in EX48 (14 R288). -/
def exAdd (a b : Nat) : Nat :=
  match ex48.decode a, ex48.decode b with
  | .nan, _ => ex48.nan
  | _, .nan => ex48.nan
  | .inf x, .inf y => if x = y then ex48.inf x else ex48.nan
  | .inf x, _ => ex48.inf x
  | _, .inf y => ex48.inf y
  | .fin n1 m1 e1, .fin n2 m2 e2 =>
    let (n, m, e) := exactAdd .rne n1 m1 e1 n2 m2 e2
    exRound n m e

/-- One level of a tree sum (15 R309). -/
def pairUp : List Nat → List Nat
  | a :: b :: r => exAdd a b :: pairUp r
  | l => l

/-- The tree sum of partials (15 R309); `fuel` bounds the levels. -/
def treeFrom : Nat → List Nat → Nat
  | 0, l => l.headD 0
  | n + 1, l => if l.length ≤ 1 then l.headD 0 else treeFrom n (pairUp l)

/-- The tree sum. -/
def treeSum (l : List Nat) : Nat := treeFrom 12 l

/-- Round-to-odd of a magnitude to an integer (14 R289). -/
def oddShift (m : Nat) (sh : Int) : Nat :=
  if 0 ≤ sh then m * 2 ^ sh.toNat
  else
    let d := 2 ^ (-sh).toNat
    if m % d = 0 then m / d else m / d ||| 1

/-- Class of a float element: 1 NaN, 2 +Inf, 3 -Inf, else 0. -/
def floatMark (v : FVal) : Nat :=
  match v with
  | .nan => 1
  | .inf n => if n then 3 else 2
  | .fin _ _ _ => 0

/-- The scale exponents of the nonzero finite elements of a group. -/
def topExp (l : List FVal) : Option Int :=
  l.foldl (fun (a : Option Int) v => match v with
    | .fin _ m e => if m = 0 then a else some (max e (a.getD e))
    | _ => a) none

/-- An element as the group aligns it (14 R289); `top` is the largest exponent of a last place. -/
def alignOne (t : Fmt) (w : Nat) (top : Int) (v : FVal) : Int :=
  match v with
  | .fin n m e =>
    let a := oddShift m (e - top + w - 1 - (t.f + 1))
    if n then -(a : Int) else a
  | _ => 0

/-- A group of sixteen float elements aligned to W bits (14 R289). -/
def alignGroup (t : Fmt) (w : Nat) (l : List Nat) : Grp :=
  let vs := l.map t.decode
  let top := (topExp vs).getD 0
  { vals := vs.map (alignOne t w top), marks := vs.map floatMark, exp := top + t.f - w + 2, scale := 0x3F800000 }

/-- The signs of infinite products, and whether a NaN arises, in a float partial (14 R291). -/
def specialOf (a : Int × Nat) (b : Int × Nat) : Option (Option Bool) :=
  if a.2 = 1 ∨ b.2 = 1 then some none
  else if a.2 = 0 ∧ b.2 = 0 then none
  else if (a.2 = 0 ∧ a.1 = 0) ∨ (b.2 = 0 ∧ b.1 = 0) then some none
  else
    let na := if a.2 = 0 then decide (a.1 < 0) else a.2 == 3
    let nb := if b.2 = 0 then decide (b.1 < 0) else b.2 == 3
    some (some (na != nb))

/-- The dot product of two lists. -/
def dot : List Int → List Int → Int
  | x :: xs, y :: ys => x * y + dot xs ys
  | _, _ => 0

/-- A float partial (14 R291). -/
def floatPartial (a b : Grp) : Nat :=
  let sp := ((a.vals.zip a.marks).zip (b.vals.zip b.marks)).filterMap (fun e => specialOf e.1 e.2)
  if sp.isEmpty then
    let p := dot a.vals b.vals
    exRound (decide (p < 0)) p.natAbs (a.exp + b.exp)
  else if sp.contains none ∨ (sp.contains (some true) ∧ sp.contains (some false)) then ex48.nan
  else ex48.inf (sp.contains (some true))

/-- An integer scaled by two FP32 block scales, rounded once; an invalid scale gives NaN (14 R285, R291). -/
def scaled (p : Int) (sa sb : BitVec 32) : Nat :=
  match fp32.decode sa.toNat, fp32.decode sb.toNat with
  | .fin na ma ea, .fin nb mb eb =>
    if ma = 0 ∨ mb = 0 then ex48.nan
    else exRound ((decide (p < 0)) != (na != nb)) (p.natAbs * ma * mb) (ea + eb)
  | _, _ => ex48.nan

/-- An NQ partial (14 R291). -/
def nqPartial (a b : Grp) : Nat := scaled (dot a.vals b.vals) a.scale b.scale

/-- What a row of A adds to the accumulator of a column: the tree sum of its partials (15 R309). -/
def rowTimes (nq : Bool) (a b : List Grp) : Nat :=
  treeSum ((a.zip b).map (fun e => if nq then nqPartial e.1 e.2 else floatPartial e.1 e.2))

/-- The sixteen sums over subsets of four elements (15 R310). -/
def tableOf (l : List Int) : List Int :=
  (List.range 16).map (fun idx => (l.zipIdx.map (fun e => if idx / 2 ^ e.2 % 2 = 1 then e.1 else 0)).foldl (· + ·) 0)

/-- A list cut into fours. -/
def fours : List Int → List (List Int)
  | a :: b :: c :: d :: r => [a, b, c, d] :: fours r
  | _ => []

/-- A list cut into groups of a length; `fuel` bounds their number. -/
def chunksFrom {α : Type} (n : Nat) : Nat → List α → List (List α)
  | 0, _ => []
  | f + 1, l => if l.isEmpty then [] else l.take n :: chunksFrom n f (l.drop n)

/-- A list cut into groups of a length. -/
def chunks {α : Type} (n : Nat) (l : List α) : List (List α) := chunksFrom n l.length l

/-- The index that the bits of four weights make; bit i belongs to weight i (15 R311). -/
def idxOf (bit : Int → Nat) (l : List Int) : Nat := (l.zipIdx.map (fun e => bit e.1 * 2 ^ e.2)).foldl (· + ·) 0

/-- P of a block of weights against a row's table block (15 R311): weights as two bits, 0 to 3; q planes; zero point. -/
def tableTimes (tab : List Int) (q : Nat) (zb : Int) (ws : List Int) : Int :=
  ((fours ws).zip (chunks 16 tab)).foldl (fun p e =>
    let at_ := fun i => (e.2[i]?).getD 0
    let p := p - 2 * at_ (idxOf (fun w => (w / 2 % 2).toNat) e.1) - zb * at_ 15
    if q = 2 then p + at_ (idxOf (fun w => (w % 2).toNat) e.1) else p) 0

/-- What a row of the table adds to a column: blocks of weights with their scales. -/
def tableRow (row : List Grp) (q : Nat) (zb : Int) (ws : List (List Int × BitVec 32)) : Nat :=
  treeSum ((row.zip ws).map (fun e => scaled (tableTimes e.1.vals q zb e.2.1) e.1.scale e.2.2))

/-- Whether block scale bits are invalid (14 R285). -/
def badScale (s : BitVec 32) : Bool :=
  match fp32.decode s.toNat with
  | .fin _ m _ => m == 0
  | _ => true

/-- A rational number (-1)^neg * num / den. -/
structure Ratio where
  num : Int
  den : Nat
  deriving DecidableEq, Repr

/-- m * 2^e as a rational. -/
def ratOf (n : Bool) (m : Nat) (e : Int) : Ratio :=
  { num := (if n then -1 else 1) * (m * 2 ^ e.toNat : Nat), den := 2 ^ (-e).toNat }

/-- a < b. -/
def Ratio.lt (a b : Ratio) : Bool := decide (a.num * b.den < b.num * a.den)

/-- a / b for b that is not 0. -/
def Ratio.div (a b : Ratio) : Ratio :=
  { num := a.num * b.den * (if b.num < 0 then -1 else 1), den := a.den * b.num.natAbs }

/-- An integer times a rational. -/
def Ratio.scale (k : Int) (a : Ratio) : Ratio := { a with num := k * a.num }

/-- Round to nearest even. -/
def Ratio.near (a : Ratio) : Int :=
  let q := a.num / (a.den : Int)
  let r := a.num % (a.den : Int)
  if 2 * r < a.den then q else if (a.den : Int) < 2 * r then q + 1 else if q % 2 = 0 then q else q + 1

/-- The format of a float destination code (15 R299). -/
def dstFmt (fmt : Nat) : Fmt := if fmt = 4 then bf16 else if fmt = 5 then fp16 else fp32

/-- |clamp bound| of a record as a magnitude m * 2^e; none where it bounds nothing (14 R292). -/
def clampBound (w : BitVec 32) : Option (Nat × Int) :=
  match fp32.decode w.toNat with
  | .fin _ m e => if m = 0 then none else some (m, e)
  | _ => none

/-- The bound in force for a float destination: its largest finite value where the record's is 0, NaN or larger. -/
def floatBound (t : Fmt) (w : BitVec 32) : Nat × Int :=
  let largest : Nat × Int := (2 ^ (t.f + 1) - 1, (t.emax : Int) - 2 + t.qmin)
  match clampBound w with
  | none => largest
  | some (m, e) => if (ratOf false largest.1 largest.2).lt (ratOf false m e) then largest else (m, e)

/-- A drained value for a float destination (14 R292). -/
def drainFloat (t : Fmt) (clamp : BitVec 32) (v : Nat) : Nat :=
  let b := floatBound t clamp
  match ex48.decode v with
  | .nan => t.nan
  | .inf n => t.round .rne n b.1 b.2
  | .fin n m e => if (ratOf false b.1 b.2).lt (ratOf false m e) then t.round .rne n b.1 b.2 else t.round .rne n m e

/-- The ends of the range of a p-bit code. -/
def codeRange (p : Nat) : Int × Int := (-(2 ^ (p - 1) : Nat), (2 ^ (p - 1) : Nat) - 1)

/-- A drained value for an NQ destination of p bits with a zero point and a block scale (14 R292). -/
def drainNq (p : Nat) (z : Int) (scale clamp : BitVec 32) (v : Nat) : Int :=
  let (lo, hi) := codeRange p
  match fp32.decode scale.toNat with
  | .fin ns ms es =>
    if ms = 0 then z
    else
      let sc := ratOf ns ms es
      let put := fun x : Ratio => clampInt lo hi ((x.div sc).near + z)
      match ex48.decode v, clampBound clamp with
      | .nan, _ => z
      | .inf n, none => if n = ns then hi else lo
      | .inf n, some (m, e) => put (ratOf n m e)
      | .fin n m e, none => put (ratOf n m e)
      | .fin n m e, some (bm, be) => put (if (ratOf false bm be).lt (ratOf false m e) then ratOf n bm be else ratOf n m e)
  | _ => z

/-- Whether a value violates a bound register (14 R295): NaN, below LO or above HI. -/
def violates (b : Bound) (v : FVal) : Bool :=
  let below := fun (x : Nat) => match fp32.decode x, v with
    | .inf n, .inf k => n != k && k
    | .inf n, _ => !n
    | .fin _ _ _, .inf k => k
    | .fin n m e, .fin n' m' e' => (ratOf n' m' e').lt (ratOf n m e)
    | _, _ => false
  let above := fun (x : Nat) => match fp32.decode x, v with
    | .inf n, .inf k => n != k && !k
    | .inf n, _ => n
    | .fin _ _ _, .inf k => !k
    | .fin n m e, .fin n' m' e' => (ratOf n m e).lt (ratOf n' m' e')
    | _, _ => false
  match v with
  | .nan => true
  | _ => below b.lo.toNat || above b.hi.toNat

/-- Whether a value lies below LO or is NaN: which end a clamp takes. -/
def takesLo (b : Bound) (v : FVal) : Bool :=
  match v with
  | .nan => true
  | _ => violates { b with hi := 0x7F800000 } v

/-- An FP32 limit in a float destination format, rounded toward the inside (14 R295). -/
def limitFloat (t : Fmt) (lo : Bool) (w : BitVec 32) : Nat :=
  match fp32.decode w.toNat with
  | .nan => t.nan
  | .inf n => t.inf n
  | .fin n m e => if m = 0 then t.zero n else t.round (if lo then .rup else .rdn) n m e

/-- An FP32 limit as a code of an NQ destination (14 R295). -/
def limitNq (p : Nat) (z : Int) (scale : BitVec 32) (lo : Bool) (w : BitVec 32) : Int :=
  let (a, b) := codeRange p
  match fp32.decode scale.toNat with
  | .fin ns ms es =>
    if ms = 0 then z
    else
      let codes := (List.range (2 ^ p)).map (fun (i : Nat) => a + (i : Int))
      let ok := fun r : Int =>
        let x := (ratOf ns ms es).scale (r - z)
        match fp32.decode w.toNat with
        | .inf n => n == lo
        | .fin n m e => if lo then !x.lt (ratOf n m e) else !(ratOf n m e).lt x
        | .nan => false
      if lo then ((codes.find? ok).getD b) else ((codes.reverse.find? ok).getD a)
  | _ => z

end Sys2Proof.Machine
end

