-- ==== Sys2Proof/Machine/Records.lean ====
section
/-! DEFINITION. Shape records (15 R299 to R302): their fields, the record cache, and the elements of the box a record describes. -/

namespace Sys2Proof.Machine
open Sys2Proof

/-- The field of n bits at a byte offset and a bit of a record. -/
def recField (w : BitVec 1536) (off lo n : Nat) : Nat := w.toNat / 2 ^ (8 * off + lo) % 2 ^ n

/-- A signed field of n bits. -/
def recSigned (w : BitVec 1536) (off n : Nat) : Int := (BitVec.ofNat n (recField w off 0 n)).toInt

/-- Bytes of an element of a format code (15 R301). -/
def elemStep (fmt : Nat) : Nat := if fmt = 4 ∨ fmt = 5 then 2 else if fmt = 6 then 4 else 1

/-- NQ formats. -/
def isNq (fmt : Nat) : Bool := 1 ≤ fmt && fmt ≤ 3

/-- The block length of a record's BLK. -/
def Shape.blen (r : Shape) : Nat := 16 * 2 ^ r.blk

/-- The fields of a record (15 R299). A record without scales has zero point 0 (14 R285). -/
def shapeOf (w : BitVec 1536) : Shape where
  base := BitVec.ofNat 64 (recField w 0 0 64)
  scpad := recField w 8 17 1 = 1
  wrap := recField w 8 16 1 = 1
  rank := recField w 8 10 3
  blk := recField w 8 8 2
  planes := recField w 8 4 4
  fmt := recField w 8 0 4
  ext := (List.range 5).map (fun d => recField w (0x10 + 4 * d) 0 32)
  str := (List.range 4).map (fun d => recSigned w (0x28 + 8 * d) 64)
  box := (List.range 5).map (fun d => recField w (0x48 + 2 * d) 0 16)
  org := (List.range 5).map (fun d => recSigned w (0x58 + 4 * d) 32)
  sva := BitVec.ofNat 64 (recField w 0x70 0 64)
  zp := if recField w 0x78 0 2 = 0 then 0 else recSigned w 0x79 8
  sfmt := recField w 0x78 0 2
  clamp := BitVec.ofNat 32 (recField w 0x80 0 32)
  chk := recField w 0x84 8 1 = 1
  bidx := recField w 0x84 0 6
  oobv := BitVec.ofNat 32 (recField w 0x88 0 32)
  ret := recField w 0x90 16 2
  ord := (List.range 5).map (fun i => recField w 0x90 (3 * i) 3)

/-- The reserved bits of a record (15 R299): offset, lowest bit, number. -/
def shapeReserved : List (Nat × Nat × Nat) :=
  [(0x08, 18, 46), (0x08, 13, 3), (0x24, 0, 32), (0x52, 0, 48), (0x6C, 0, 32), (0x78, 16, 48), (0x78, 2, 6), (0x84, 9, 23), (0x84, 6, 2),
   (0x8C, 0, 32), (0x90, 18, 46), (0x90, 15, 1), (0x98, 0, 320)]

/-- Whether a record is malformed (15 R300, 14 R285, R296). -/
def shapeBad (w : BitVec 1536) : Bool :=
  let r := shapeOf w
  let p := nqPlanes r.fmt
  let lo : Int := -(2 ^ (p - 1) : Nat)
  let hi : Int := (2 ^ (p - 1) : Nat) - 1
  let dim := fun (l : List Nat) (d : Nat) => (l[d]?).getD 0
  let oob := (BitVec.ofNat 8 r.oobv.toNat).toInt
  shapeReserved.any (fun f => recField w f.1 f.2.1 f.2.2 != 0)
  || 7 ≤ r.fmt || r.rank == 0 || 6 ≤ r.rank
  || (List.range 5).any (fun d => if d < r.rank then dim r.ext d == 0 || dim r.box d == 0 else dim r.ext d != 1 || dim r.box d != 1)
  || !(List.range r.rank).all (fun d => (r.ord.take r.rank).contains d) || (r.ord.drop r.rank).any (· != 0)
  || r.sfmt == 3
  || (if isNq r.fmt then
        r.planes == 0 || decide (p < r.planes) || decide (recSigned w 0x79 8 < lo) || decide (hi < recSigned w 0x79 8)
        || decide (oob < lo) || decide (hi < oob) || r.base.toNat % r.blen != 0
      else r.planes != 0 || r.base.toNat % elemStep r.fmt != 0)

/-- What a read of a record or of a list finds: a value, or what stops the instruction, with the state after the read. -/
inductive Got (α : Type) where
  | ok (s : State) (v : α)
  | stop (s : State) (st : Stop)

/-- Reads n bytes within a 64-byte piece on the KR path (15 R299, 17 R323). A piece behind a fabric window is asked for and waited
for. -/
def State.krRead (s : State) (core : Nat) (t : Thread) (ptr : DWord) (n : Nat) : Got Nat :=
  let ctx := s.ctxOf t
  match s.resolve core t.lid ctx (s.core core).tlb false .other ptr n .read .kr with
  | .error f => .stop (s.sawFault ctx f) (if f.kind.aborts then .abort f else .trap f.kind.cause (some f))
  | .ok (.mem pa leaf, e) =>
    (match (s.fillTlb core e).readKr core ctx leaf pa n 0 [] with
    | (s, .error k) =>
      .stop s (.abort { kind := k, va := ptr, write := false, path := .kr, level := 0, pa := pa })
    | (s, .ok (v, _)) => .ok s v)
  | .ok (.fabric w off, e) =>
    let s := s.fillTlb core e
    let va := (ptr.extractLsb' 0 56).toNat
    (match tget (s.core core).constant (fabricKey ctx va) with
    | some d => .ok s (lineBytes d (va % 64) n)
    | none =>
      .stop (s.sendFabric ctx (.line core true (fabricKey ctx va) t.pc) ptr w (off / 64 * 64) 64 .read) (.park (.fill s.seq)))
  | .ok (_, e) =>
    .stop s (.trap causeProtection (some { kind := .permission, va := ptr, write := false, path := .kr, level := foundLevel e }))

/-- Reads n 64-byte pieces from an aligned address upward on the KR path. -/
def State.krPieces (s : State) (core : Nat) (t : Thread) (ptr : DWord) : Nat → Got Nat
  | 0 => .ok s 0
  | n + 1 =>
    match s.krRead core t ptr 64 with
    | .stop s st => .stop s st
    | .ok s v =>
      match State.krPieces s core t (addOff ptr 64) n with
      | .stop s st => .stop s st
      | .ok s r => .ok s (v + 2 ^ 512 * r)

/-- Reads a shape record through the record cache of 32 entries, least recently used first out (15 R302). -/
def State.readShape (s : State) (core : Nat) (t : Thread) (ptr : DWord) : Got (BitVec 1536) :=
  let ctx := s.ctxOf t
  match (s.core core).records.find? (fun e => e.1 == ctx && e.2.1 == ptr) with
  | some e =>
    .ok (s.modCore core (fun c => { c with records := e :: c.records.filter (fun x => !(x.1 == ctx && x.2.1 == ptr)) })) e.2.2
  | none =>
    match s.krPieces core t ptr 3 with
    | .stop s st => .stop s st
    | .ok s v =>
      let w := BitVec.ofNat 1536 v
      .ok (s.modCore core (fun c => { c with records := ((ctx, ptr, w) :: c.records).take 32 })) w

/-- SRINV of a thread (15 R302). -/
def srinvOf (x : XOps) (s : State) (core slot : Nat) (t : Thread) : Except Stop (State → State) := do
  let ctx := s.ctxOf t
  if x.a = 0xF8 then .ok (fun s => s.modCore core (fun c => { c with records := c.records.filter (fun e => e.1 != ctx) }))
  else
    let p ← s.src64 core slot t x.lit x.a
    .ok (fun s => s.modCore core (fun c => { c with
      records := c.records.filter (fun e => !(e.1 == ctx && e.2.1.extractLsb' 0 56 == p.extractLsb' 0 56)) }))

/-- SRINV of a thread. -/
def srinvOne (x : XOps) (s : State) (core slot : Nat) (t : Thread) : State := s.finish core x.len slot (srinvOf x s core slot t)

/-- SRINV. -/
def execSrinv (x : XOps) (s : State) : Next := done (s.runSeq x.len x.g (srinvOne x))

/-- A dimension of a list of a record. -/
def dimOf (l : List Nat) (d : Nat) : Nat := (l[d]?).getD 1

/-- The index of an element of the box; none out of bounds (15 R301). -/
def Shape.index (r : Shape) (j : List Nat) : Option (List Nat) :=
  let ids := (List.range 5).map (fun d =>
    let x : Int := (r.org[d]?).getD (0 : Int) + (((j[d]?).getD 0 : Nat) : Int)
    if r.wrap then x % (dimOf r.ext d : Int) else x)
  if ids.zipIdx.all (fun e => decide (0 ≤ e.1) && decide (e.1 < (dimOf r.ext e.2 : Int))) then some (ids.map Int.toNat) else none

/-- The distance of an element from BASE (15 R301). -/
def Shape.dist (r : Shape) (i : List Nat) : Int :=
  (elemStep r.fmt * (i.headD 0) : Nat) + ((r.str.zip (i.drop 1)).map (fun e => e.1 * (e.2 : Int))).foldl (· + ·) 0

/-- The number of a scale among those of the scale tensor (15 R301). -/
def Shape.scaleAt (r : Shape) (i : List Nat) : Nat :=
  let e := dimOf r.ext
  let x := fun d => (i[d]?).getD 0
  let b := r.blen
  x 0 / b + (e 0 + b - 1) / b * (x 1 + e 1 * (x 2 + e 2 * (x 3 + e 3 * x 4)))

/-- Elements of a box. -/
def Shape.count (r : Shape) : Nat := r.box.foldl (· * ·) 1

/-- The u-th element of a box, the first dimension fastest. -/
def Shape.elem (r : Shape) (u : Nat) : List Nat :=
  (r.box.foldl (fun (a : List Nat × Nat) n => (a.1 ++ [a.2 % max n 1], a.2 / max n 1)) ([], u)).1

/-- An in-bounds element of the scale block of an element of the box (15 R301): its first one. -/
def Shape.inBlock (r : Shape) (j : List Nat) : Option (List Nat) :=
  match r.index j with
  | some i => some i
  | none =>
    let b := r.blen
    let j0 := j.headD 0 / b * b
    ((List.range b).filter (fun k => decide (j0 + k < dimOf r.box 0))).findSome? (fun k => r.index ((j0 + k) :: j.drop 1))

end Sys2Proof.Machine
end

