-- ==== Sys2Proof/Machine/Engine.lean ====
section
/-! DEFINITION. The task table (15 R303 to R307) and the accesses of engine tasks: pointers, elements of records, scales (14 R286,
15 R301), bytes that land (08 R194), and how a task is suspended or ended (10 R242). -/

namespace Sys2Proof.Machine
open Sys2Proof

/-- Why an engine task does not go on: a fault, or bytes asked for through a fabric window. -/
inductive EngStop where
  | fault (s : State) (f : FaultInfo)
  | wait (s : State)

/-- What a part of a task gives. -/
abbrev Eng (α : Type) := Except EngStop α

/-- The context of a task. -/
def State.taskCtx (s : State) (t : Task) : Nat := (s.rcd t.lid).ctx

/-- A fault of a task's access. -/
def Task.fault (t : Task) (k : FaultKind) (va : DWord) (w : Bool) (pa : Nat := 0) : FaultInfo :=
  { kind := k, va := va, write := w, path := t.op.path, level := 0, pa := pa }

/-- Resolves a pointer of a task's access (10 R233, R242); `fits`: the translation has a format that the access takes (14 R286). -/
def State.taskPlace (s : State) (core : Nat) (t : Task) (ptr : DWord) (n : Nat) (a : Acc) (fits : Tlb → Bool := fun _ => true) :
    Eng (State × Target × Option Tlb) :=
  match s.resolve core t.lid (s.taskCtx t) (s.core core).walkAhead false .engine ptr n a t.op.path fits with
  | .error f => .error (.fault (s.sawFault (s.taskCtx t) f) f)
  | .ok (x, e) => .ok (s.fillAhead core e, x, e)

/-- Asks for n bytes at a fabric window for a task, once (19 R344). -/
def State.askTask (s : State) (core : Nat) (t : Task) (ptr : DWord) (w : DWord × DWord) (off n : Nat) : State :=
  if s.fabric.any (fun f => f.for_ == .task core t.id && f.va == ptr) then s
  else s.sendFabric (s.taskCtx t) (.task core t.id) ptr w off n .read

/-- The bytes of a window that have arrived for a task. -/
def Task.arrived (t : Task) (ptr : DWord) (n : Nat) : Option Nat :=
  (List.range n).foldr (fun i a => match a, tget t.got ((ptr.extractLsb' 0 56).toNat + i) with
    | some v, some b => some (b.toNat + 256 * v)
    | _, _ => none) (some 0)

/-- Changes a task. -/
def Core.modTask (c : Core) (id : Nat) (f : Task → Task) : Core :=
  { c with tasks := c.tasks.map (fun t => if t.id = id then f t else t) }

/-- A task of a core. -/
def Core.task? (c : Core) (id : Nat) : Option Task := c.tasks.find? (fun t => t.id == id)

/-- The copy of a 64-byte piece that a task's path holds: in the spinner's configuration buffers, or in the read and stream buffers of the running
task (08 R170, 15 R306). -/
def State.held (s : State) (core : Nat) (t : Task) (pa : Nat) : Option (BitVec 512) :=
  if t.op.path = .gb then tget (s.core core).gbuffers (pieceKey (s.taskCtx t) pa)
  else ((s.core core).task? t.id).bind (fun k => tget k.copies (pa / 64))

/-- A piece as the path of a task now holds it. -/
def State.holdPiece (s : State) (core : Nat) (t : Task) (pa : Nat) (d : BitVec 512) : State :=
  if t.op.path = .gb then s.modCore core (fun c => { c with gbuffers := tset c.gbuffers (pieceKey (s.taskCtx t) pa) d })
  else s.modCore core (·.modTask t.id (fun k => { k with copies := tset k.copies (pa / 64) d }))

/-- A path's copies of a piece that a task of it writes are gone: within one path the core's accesses are coherent (08 R173). -/
def State.dropPiece (s : State) (core : Nat) (path : Path) (pa : Nat) : State :=
  s.modCore core (fun c => { c with tasks := c.tasks.map (fun k =>
    if k.copies.isEmpty ∨ k.op.path ≠ path then k else { k with copies := tdel k.copies (pa / 64) }) })

/-- Whether a read that a copy could serve is served by it: the next digit of the core's `reuse` (DESIGN CHOICE, log 18). -/
def State.reuses (s : State) (core : Nat) : Bool := (s.core core).reuse % 2 == 1

/-- Reads n bytes of memory in one granule for a task at the point of coherence, as part of a request for a block of a line (09 R202). -/
def State.taskFresh (s : State) (core : Nat) (t : Task) (ptr : DWord) (leaf : DWord) (pa n cls : Nat) (blk : Nat × Nat) : Eng (State × Nat) :=
  let s := s.pull (pa / 128)
  match s.readPa (s.taskCtx t) (leafMac leaf) pa n with
  | .error k => .error (.fault s (t.fault k ptr false pa))
  | .ok v =>
    let s := s.l2Access blk.1 blk.2 false (pathReq leaf cls)
    match s.readPa (s.taskCtx t) (leafMac leaf) (pa / 64 * 64) 64 with
    | .ok d => .ok (s.holdPiece core t pa (BitVec.ofNat 512 d), v)
    | .error _ => .ok (s, v)

/-- Reads n bytes of memory in one granule for a task, from a copy that its path holds or afresh (08 R170). -/
def State.taskMem (s : State) (core : Nat) (t : Task) (ptr : DWord) (leaf : DWord) (pa n cls : Nat) (blk : Nat × Nat) : Eng (State × Nat) :=
  let copy := s.held core t pa
  let used := s.reuses core
  let s := if copy.isSome then s.modCore core (fun c => { c with reuse := c.reuse / 2 }) else s
  match copy with
  | some d => if used then .ok (s, d.toNat / 256 ^ (pa % 64) % 256 ^ n) else s.taskFresh core t ptr leaf pa n cls blk
  | none => s.taskFresh core t ptr leaf pa n cls blk

/-- Reads n bytes of a resolved place; they lie in one granule, one core store or one piece of a window (08 R171). `blk` is the block that the
request asks for: the bytes themselves where it is none. -/
def State.taskGet (s : State) (core : Nat) (t : Task) (ptr : DWord) (n : Nat) (ret : Option Nat) (x : Target) (blk : Option (Nat × Nat) := none) :
    Eng (State × Nat) :=
  match x with
  | .store c off =>
    match (s.core c).badIn off n with
    | some w => .error (.fault s (t.fault w.2 ptr false))
    | none => .ok (s, (s.core c).store.getN off n)
  | .mem pa leaf => s.taskMem core t ptr leaf pa n (ret.getD (leafRet leaf)) (blk.getD (pa, n))
  | .fabric w off =>
    match t.arrived ptr n with
    | some v => .ok (s, v)
    | none =>
      match s.farBad w off n with
      | some k => .error (.fault s (t.fault k ptr false))
      | none => .error (.wait (s.askTask core t ptr w off n))
  | _ => .error (.fault s (t.fault .permission ptr false))

/-- The retain class of the record that a task writes through (09 R202). -/
def Task.destRet (t : Task) : Option Nat :=
  match t.op with
  | .cpy _ d _ _ _ => some d.ret
  | .mdrain _ _ d _ => some d.ret
  | _ => none

/-- Writes n bytes of a resolved place. -/
def State.taskPut (s : State) (core : Nat) (t : Task) (ptr : DWord) (n v : Nat) (x : Target) : Eng State :=
  match x with
  | .store c off => .ok (s.modCore c (·.writeStore off n v))
  | .mem pa leaf =>
    match s.writePa (s.taskCtx t) (leafMac leaf) pa n v with
    | .error k => .error (.fault s (t.fault k ptr true pa))
    | .ok s => .ok ((s.dropPiece core t.op.path pa).l2Write pa n leaf (t.destRet.getD (leafRet leaf)))
  | .fabric w off => .ok (s.sendFabric (s.taskCtx t) (.task core t.id) ptr w off n (.write v))
  | _ => .error (.fault s (t.fault .permission ptr true))

/-- The place of a plain element of a record or of a scale: a page of FMT 1 to 3 is a PERMISSION fault, behind a window too (14 R286). -/
def State.plainPlace (s : State) (core : Nat) (t : Task) (ptr : DWord) (n : Nat) (a : Acc) : Eng (State × Target) := do
  let (s, x, _) ← s.taskPlace core t ptr n a (fun e => !leafNq e.leaf)
  .ok (s, x)

/-- Reads n bytes at a pointer: at once where it is aligned to n, else byte by byte. -/
def State.taskReadFrom (s : State) (core : Nat) (t : Task) (ret : Nat) (ptr : DWord) : Nat → Eng (State × Nat)
  | 0 => .ok (s, 0)
  | k + 1 => do
    let (s, x) ← s.plainPlace core t ptr 1 .read
    let (s, v) ← s.taskGet core t ptr 1 (some ret) x
    let (s, r) ← State.taskReadFrom s core t ret (addOff ptr 1) k
    .ok (s, v + 256 * r)

/-- Reads an n-byte element. -/
def State.taskRead (s : State) (core : Nat) (t : Task) (ret : Nat) (ptr : DWord) (n : Nat) : Eng (State × Nat) :=
  if ptr.toNat % n = 0 then do
    let (s, x) ← s.plainPlace core t ptr n .read
    s.taskGet core t ptr n (some ret) x
  else s.taskReadFrom core t ret ptr n

/-- Writes k bytes one by one. -/
def State.taskWriteFrom (s : State) (core : Nat) (t : Task) (ptr : DWord) (v : Nat) : Nat → Eng State
  | 0 => .ok s
  | k + 1 => do
    let (s, x) ← s.plainPlace core t ptr 1 .write
    let s ← s.taskPut core t ptr 1 (v % 256) x
    State.taskWriteFrom s core t (addOff ptr 1) (v / 256) k

/-- Writes an n-byte element. -/
def State.taskWrite (s : State) (core : Nat) (t : Task) (ptr : DWord) (n v : Nat) : Eng State :=
  if ptr.toNat % n = 0 then do
    let (s, x) ← s.plainPlace core t ptr n .write
    s.taskPut core t ptr n v x
  else s.taskWriteFrom core t ptr v n

/-- Reads p planes of an element of an NQ tile in a scratchpad, most significant first (15 R301). -/
def State.padPlanes (s : State) (core : Nat) (t : Task) (base fmt blen e : Nat) : Nat → Nat → Eng Nat
  | 0, _ => .ok 0
  | q + 1, k => do
    let (off, bit) := nqBit base fmt blen e k
    let (_, b) ← s.taskGet core t (BitVec.ofNat 64 off) 1 none (.store core off)
    let r ← State.padPlanes s core t base fmt blen e q (k + 1)
    .ok (b / 2 ^ bit % 2 * 2 ^ q + r)

/-- Writes the planes of an element of an NQ tile in a scratchpad. -/
def State.putPlanes (s : State) (target base fmt blen e v : Nat) : Nat → Nat → State
  | 0, _ => s
  | q + 1, k =>
    let (off, bit) := nqBit base fmt blen e k
    let b := (s.core target).store.getN off 1
    State.putPlanes (s.modCore target (·.writeStore off 1 (b - b / 2 ^ bit % 2 * 2 ^ bit + v / 2 ^ q % 2 * 2 ^ bit))) target base fmt blen e v
      q (k + 1)

/-- A number of p bits as a signed value. -/
def signOf (p v : Nat) : Int := if 2 ^ (p - 1) ≤ v then (v : Int) - (2 ^ p : Nat) else v

/-- The value at the planes that a record exposes (14 R284). -/
def exposed (p q : Nat) (x : Int) : Int := x / (2 ^ (p - q) : Nat) * (2 ^ (p - q) : Nat)

/-- The bytes of a scratchpad element lie below SPAD: its offset, or the fault (15 R301) (DEDUCED, log 48). -/
def State.padOff (s : State) (t : Task) (r : Shape) (d : Int) (w : Bool) : Eng Nat :=
  let o : Int := (r.base.toNat : Int) + d
  let spad := (s.rcd t.lid).spad
  let bad := Except.error (EngStop.fault s (t.fault .bounds (BitVec.ofInt 64 o) w))
  if o < 0 then bad
  else
    let o := o.toNat
    let last := if isNq r.fmt then (nqBit 0 r.fmt r.blen o (nqPlanes r.fmt - 1)).1 + 1 else o + elemStep r.fmt
    if spad < last then bad else .ok o

/-- The page of an NQ element must have the record's format and block length (14 R286). -/
def nqPage (r : Shape) (leaf : DWord) : Bool := leafFmt leaf == r.fmt && leafBlen leaf == r.blen

/-- The place of an NQ element of a record: its page has the record's format and block length, behind a window too; nothing else holds one (14
R286). -/
def State.nqPlace (s : State) (core : Nat) (t : Task) (r : Shape) (ptr : DWord) (a : Acc) : Eng (State × Target) := do
  let (s, x, e) ← s.taskPlace core t ptr 1 a (fun e => nqPage r e.leaf)
  if e.isSome then .ok (s, x) else .error (.fault s (t.fault .permission ptr a.writes))

/-- The first q planes from plane k on of an element of an NQ page, read on a task's path, most significant first (10 R227). -/
def State.taskPlanes (s : State) (core : Nat) (t : Task) (r : Shape) (ptr leaf : DWord) (frame e : Nat) : Nat → Nat → Eng (State × Nat)
  | 0, _ => .ok (s, 0)
  | q + 1, k => do
    let (pa, bit) := nqBit frame r.fmt r.blen e k
    let (s, b) ← s.taskMem core t ptr leaf pa 1 r.ret (pa, 1)
    let (s, v) ← State.taskPlanes s core t r ptr leaf frame e q (k + 1)
    .ok (s, b / 2 ^ bit % 2 * 2 ^ q + v)

/-- Writes an element of an NQ page on a task's path. -/
def State.taskPutElem (s : State) (core : Nat) (t : Task) (r : Shape) (ptr leaf : DWord) (frame e : Nat) (v : Int) : Eng State :=
  let pas := (Target.elem frame e leaf).touched 1
  match s.writeElem (s.taskCtx t) leaf frame e v with
  | .error k => .error (.fault s (t.fault k ptr true (s.firstBad (s.taskCtx t) (leafMac leaf) pas)))
  | .ok s => .ok (pas.foldl (fun s pa => (s.dropPiece core t.op.path pa).l2Write pa 1 leaf r.ret) s)

/-- The raw fill of an element out of bounds (15 R299) (DEDUCED, log 46). -/
def Shape.fill (r : Shape) : Int :=
  let v := r.oobv.toNat
  if isNq r.fmt then (BitVec.ofNat 8 v).toInt
  else if r.fmt = 0 then (v % 256 : Nat) else if r.fmt = 6 then v else (v % 65536 : Nat)

/-- Reads an element of a record's box: bits of a float or byte, the signed value of an NQ element (15 R301). A SCPAD record reads
the scratchpad of the issuing block at `spb`. -/
def State.elemRead (s : State) (core spb : Nat) (t : Task) (r : Shape) (j : List Nat) : Eng (State × Int) :=
  let p := nqPlanes r.fmt
  match r.index j with
  | none => .ok (s, r.fill)
  | some i => do
    let d := r.dist i
    if r.scpad then
      let o ← s.padOff t r d false
      if isNq r.fmt then
        let v ← s.padPlanes core t spb r.fmt r.blen o p 0
        .ok (s, signOf p v)
      else
        let (s, v) ← s.taskGet core t (BitVec.ofNat 64 o) (elemStep r.fmt) none (.store core (spb + o))
        .ok (s, v)
    else
      let ptr := addOff r.base d
      if isNq r.fmt then
        let (s, x) ← s.nqPlace core t r ptr .read
        match x with
        | .elem frame e leaf => do
          let (s, v) ← s.taskPlanes core t r ptr leaf frame e p 0
          .ok (s, signOf p v)
        | x => do
          let (s, v) ← s.taskGet core t ptr 1 r.ret x
          .ok (s, sbyte v)
      else
        let (s, v) ← s.taskRead core t r.ret ptr (elemStep r.fmt)
        .ok (s, v)

/-- The value of an NQ element at q planes, or the bits of another. -/
def planesOf (r : Shape) (q : Nat) (v : Int) : Int := if isNq r.fmt then exposed (nqPlanes r.fmt) q v else v

/-- Writes an element of a record's box to memory, or to a scratchpad at `spb` of core `target`; the number is the bits written, 0
out of bounds (15 R301, R316). -/
def State.elemWrite (s : State) (core target spb : Nat) (t : Task) (r : Shape) (j : List Nat) (v : Int) : Eng (State × Nat) :=
  let p := nqPlanes r.fmt
  let n := elemStep r.fmt
  match r.index j with
  | none => .ok (s, 0)
  | some i => do
    let d := r.dist i
    if r.scpad then
      let o ← s.padOff t r d true
      if isNq r.fmt then .ok (s.putPlanes target spb r.fmt r.blen o (v % (2 ^ p : Nat)).toNat p 0, p)
      else .ok (s.modCore target (·.writeStore (spb + o) n (v % (256 ^ n : Nat)).toNat), 8 * n)
    else
      let ptr := addOff r.base d
      if isNq r.fmt then
        let (s, x) ← s.nqPlace core t r ptr .write
        match x with
        | .elem frame e leaf => do
          let s ← s.taskPutElem core t r ptr leaf frame e v
          .ok (s, p)
        | x => do
          let s ← s.taskPut core t ptr 1 (v % 256).toNat x
          .ok (s, p)
      else
        let s ← s.taskWrite core t ptr n (v % (256 ^ n : Nat)).toNat
        .ok (s, 8 * n)

/-- The scale of an element's block as FP32 bits (14 R285, 15 R301). -/
def State.scaleOf (s : State) (core : Nat) (t : Task) (r : Shape) (j : List Nat) : Eng (State × BitVec 32) :=
  if r.sfmt = 0 then .ok (s, 0x3F800000)
  else match r.inBlock j with
    | none => .ok (s, 0x3F800000)
    | some i => do
      let n := if r.sfmt = 1 then 4 else 1
      let (s, v) ← s.taskRead core t r.ret (addOff r.sva (n * r.scaleAt i : Nat)) n
      if r.sfmt = 1 then .ok (s, BitVec.ofNat 32 v)
      else .ok (s, if v = 255 then 0x7FC00000 else if v = 0 then 0x00400000 else BitVec.ofNat 32 (v * 2 ^ 23))

/-- The engine that runs a task (15 R305). -/
def TaskOp.engine : TaskOp → Engine
  | .cpy _ _ _ _ _ => .copy
  | .gath _ _ _ _ _ | .scat _ _ _ _ _ => .gather
  | _ => .matrix

/-- The matrix units that a task names: slots 0 and 1, sets 0 and 1 as 2 and 3, and the spinner as 4. -/
def TaskOp.units : TaskOp → List Nat
  | .mbld slot _ | .mlut slot _ _ => [slot]
  | .mma slot set _ _ _ | .mlma slot set _ _ _ => [slot, 2 + set]
  | .mdrain set _ _ _ => [2 + set]
  | .gbsweep slot _ _ => [slot, 4]
  | _ => []

/-- The B slot and accumulator set that a task names (15 R314): the spinner's holder may change while a sweep is suspended (17 R334). -/
def TaskOp.named (o : TaskOp) : List Nat := o.units.filter (· != 4)

/-- The destination that orders copies and gathers of a block (15 R305). -/
def TaskOp.dest : TaskOp → Option DWord
  | .cpy _ _ d _ _ => some d
  | .gath d _ _ _ _ => some d
  | .scat d _ _ _ _ => some d
  | _ => none

/-- Whether two tasks conflict (15 R305, 17 R332). -/
def Task.conflicts (a b : Task) : Bool :=
  a.lid == b.lid && a.block == b.block && a.op.engine == b.op.engine
    && (match a.op.engine with
      | .matrix => a.op.units.any b.op.units.contains
      | _ => a.op.dest == b.op.dest)

/-- Whether a waiting task is ready: its wait object's PH differs from the phase sampled (15 R305). -/
def Core.taskReady (c : Core) (t : Task) : Bool :=
  match t.wait, c.block? t.lid t.block with
  | some (o, ph), some b => objPh (c.store.get32 (b.spbase + o + 4)) != ph
  | _, _ => true

/-- Whether a task is eligible (15 R305). -/
def Core.eligible (c : Core) (t : Task) : Bool :=
  t.state == .waiting && c.taskReady t && !c.tasks.any (fun u => decide (u.id < t.id) && u.conflicts t)

/-- Whether an engine runs a task. -/
def Core.busy (c : Core) (e : Engine) : Bool := c.tasks.any (fun t => t.op.engine == e && t.state == .running)

/-- The task of highest class among some, and among those the earliest issued (15 R305). -/
def bestTask (l : List Task) : Option Task :=
  l.foldl (fun best t => match best with
    | none => some t
    | some b => if b.cls < t.cls ∨ (b.cls = t.cls ∧ t.id < b.id) then some t else some b) none

/-- Whether a core still works on a task's block: it is placed, and its island's clock runs. Dispatched tasks of a block that rolls back are let finish
(10 R252). -/
def State.taskLive (s : State) (core : Nat) (t : Task) : Bool :=
  ((s.core core).block? t.lid t.block).isSome && (s.island (core / 2)).running

/-- Whether a waiting task's block waits for its rollback, which discards the task (10 R252). -/
def Core.rollingTask (c : Core) (t : Task) : Bool := ((c.block? t.lid t.block).map (·.rolling)).getD false

/-- The eligible tasks of an engine that can have their matrix units (15 R298, R305). -/
def State.eligibleTasks (s : State) (core : Nat) (e : Engine) : List Task :=
  (s.core core).tasks.filter (fun t => t.op.engine == e && (s.core core).eligible t && s.taskLive core t && !(s.core core).rollingTask t
    && s.swapRoom core t.lid t.block t.op.units)

/-- The tasks of an engine in a state. -/
def Core.tasksIn (c : Core) (e : Engine) (st : TaskState) : List Task := c.tasks.filter (fun t => t.op.engine == e && t.state == st)

/-- Whether a task names no B slot or accumulator set of the tasks that are suspended for a higher class: what they have there stays (15
R314). -/
def Core.spares (c : Core) (t : Task) : Bool := (c.tasksIn t.op.engine .yielded).all (fun y => y.id == t.id || !t.op.named.any y.op.named.contains)

/-- The eligible tasks that a running or suspended task gives way to: of higher class, naming neither its slot and set nor those of a
suspended one (15 R314). -/
def State.above? (s : State) (core : Nat) (y : Task) : List Task :=
  (s.eligibleTasks core y.op.engine).filter (fun t => decide (y.cls < t.cls) && !t.op.named.any y.op.named.contains && (s.core core).spares t)

/-- The task that an idle engine takes up next: one that RESOLVE resumed; then the best eligible one, unless a suspended matrix task has at least
its class or names its slot or set; then the suspended one of highest class. A task gets its units back first, which may have been swapped out (10
R242, 15 R298, R305, R314). -/
def State.nextTask (s : State) (core : Nat) (e : Engine) : Option Task :=
  let c := s.core core
  let room := fun t : Task => s.taskLive core t && s.swapRoom core t.lid t.block t.op.units && c.spares t
  if c.busy e then none
  else match (c.tasksIn e .resumed).find? room with
    | some t => some t
    | none =>
      match bestTask ((c.tasksIn e .yielded).filter room) with
      | some y => (match bestTask (s.above? core y) with
        | some t => some t
        | none => some y)
      | none => bestTask ((s.eligibleTasks core e).filter c.spares)

/-- Words of core stores and bytes of memory that hold no value: a read of them consumes an abort of a kind (10 R250) (DEDUCED, log 33). -/
def State.lose (s : State) (words : List (Nat × Nat)) (bytes : List Nat) (k : FaultKind) : State :=
  let s := words.foldl (fun s w => s.modCore w.1 (fun c => { c with bad := tset c.bad w.2 k })) s
  { s with bad := s.bad.filter (fun b => !bytes.contains b.1) ++ bytes.map (fun b => (b, k)) }

/-- What n bytes that a task writes at a pointer are: words of a core store, or bytes of memory by their location or behind a window by their key. -/
def State.landing (s : State) (core : Nat) (t : Task) (ptr : DWord) (n : Nat) : List (Nat × Nat) × List Nat :=
  match s.resolve core t.lid (s.taskCtx t) (s.core core).walkAhead false .engine ptr n .write t.op.path with
  | .ok (.store c off, _) => ((List.range n).map (fun i => (c, (off + i) / 4)), [])
  | .ok (.fabric w off, _) => ([], (List.range n).map (fun i => farKey w (off + i)))
  | .ok (x, _) => ([], (x.touched n).filterMap (fun pa => match s.locate pa with
    | .ok l => some l.key
    | .error _ => none))
  | .error _ => ([], [])

/-- The same of bytes that may lie on two pages. -/
def State.landingFrom (s : State) (core : Nat) (t : Task) (ptr : DWord) (n : Nat) : List (Nat × Nat) × List Nat :=
  let l := (List.range n).map (fun i => s.landing core t (addOff ptr (i : Nat)) 1)
  (l.flatMap (·.1), l.flatMap (·.2))

/-- The bytes of an element of a scratchpad tile by their offset: every plane's of an NQ element (15 R301). -/
def Shape.padBytes (r : Shape) (o : Nat) : List Nat :=
  if isNq r.fmt then (List.range (nqPlanes r.fmt)).map (fun k => (nqBit 0 r.fmt r.blen o k).1) else (List.range (elemStep r.fmt)).map (o + ·)

/-- What an element of a destination would be at scratchpads of cores. -/
def State.elemLanding (s : State) (core : Nat) (t : Task) (r : Shape) (pads : List (Nat × Nat)) (u : Nat) : List (Nat × Nat) × List Nat :=
  match r.index (r.elem u) with
  | none => ([], [])
  | some i =>
    if r.scpad then
      match s.padOff t r (r.dist i) true with
      | .ok o => (pads.flatMap (fun p => (r.padBytes o).map (fun b => (p.1, (p.2 + b) / 4))), [])
      | .error _ => ([], [])
    else if isNq r.fmt then s.landing core t (addOff r.base (r.dist i)) 1
    else s.landingFrom core t (addOff r.base (r.dist i)) (elemStep r.fmt)

/-- Elements that land together in a copy: eight of an NQ format, whose bits share bytes, else one. -/
def Shape.together (r : Shape) : Nat := if isNq r.fmt then 8 else 1

/-- Blocks of a unit of the lowest level bound to PAIR, QUAD or DIE (15 R316). -/
def LaunchRec.lowUnit (r : LaunchRec) : Option Nat :=
  let ls := (r.levels.take (r.top + 1)).drop 3
  match (List.range ls.length).find? (fun i => let d := ((ls[i]?).map (·.2.1)).getD 0; decide (3 ≤ d) && decide (d ≤ 5)) with
  | .none => .none
  | .some i => .some (((ls.take (i + 1)).map (·.1)).foldl (· * ·) 1)

/-- The receiver block's scratchpad on a core; none without exactly one receiver (15 R316). -/
def State.receiver (s : State) (t : Task) (target : Nat) : Option Nat :=
  let mine := (s.core target).blocks.filter (fun b => b.lid == t.lid)
  let them := match (s.rcd t.lid).lowUnit with
    | none => mine
    | some n => mine.filter (fun b => b.index / max n 1 == t.block / max n 1)
  match them with
  | [b] => some b.spbase
  | _ => none

/-- The cores of the issuing quadrant that a peer mask names (15 R315). -/
def peers (core : Nat) (mask : BitVec 16) : List Nat :=
  ((List.range 16).filter (fun c => mask.getLsbD c)).map (fun c => core / 16 * 16 + c)

/-- The scratchpad of a task's block. -/
def State.taskPad (s : State) (core : Nat) (t : Task) : Nat := (((s.core core).block? t.lid t.block).map (·.spbase)).getD 0

/-- The scratchpads at which a copy with a peer mask lands, by core (15 R315, R316). -/
def State.pads (s : State) (core : Nat) (t : Task) (mask : BitVec 16) : List (Nat × Nat) :=
  if mask = 0 then [(core, s.taskPad core t)] else (peers core mask).filterMap (fun c => (s.receiver t c).map (fun b => (c, b)))

/-- A request of a gather or scatter: source and destination pointers and bytes (09 R207, 15 R317). Each element has three: what it has in the
first, the second and the third 128-byte line of its source. -/
def Task.piece (t : Task) (u : Nat) : DWord × DWord × Nat :=
  let at_ := fun (src d : DWord) (sz : Nat) =>
    let o := src.toNat % 128
    let lo := if u % 3 = 0 then 0 else u % 3 * 128 - o
    (addOff src (lo : Nat), addOff d (lo : Nat), min sz ((u % 3 + 1) * 128 - o) - lo)
  let x := fun sz : Nat => ((t.idx[u / 3]?).getD 0) * (sz : Int)
  match t.op with
  | .gath d a _ _ sz => at_ (addOff a (x sz)) (addOff d (u / 3 * sz : Nat)) sz
  | .scat d a _ _ sz => at_ (addOff a (u / 3 * sz : Nat)) (addOff d (x sz)) sz
  | _ => (0, 0, 0)

/-- The units of a task that have not been done. -/
def Task.todo (t : Task) (n : Nat) : List Nat := (List.range n).filter (fun u => decide (t.steps ≤ u) && !t.done.contains u)

/-- What a task still had to write into core stores and memory (DEDUCED, log 33); of a scatter whose index list has not been read nobody knows where
(21 R397). -/
def State.undelivered (s : State) (core : Nat) (t : Task) : List (Nat × Nat) × List Nat :=
  let l := match t.op with
    | .cpy _ d _ _ mask => ((t.todo (d.count / d.together)).flatMap (fun u => (List.range d.together).map (fun i => u * d.together + i))).map
        (s.elemLanding core t d (s.pads core t mask))
    | .mdrain _ _ d _ => (t.todo d.count).map (s.elemLanding core t d [(core, s.taskPad core t)])
    | .gath d _ _ n sz =>
      if t.idx.length < n then (List.range n).map (fun i => s.landingFrom core t (addOff d (i * sz : Nat)) sz)
      else (t.todo (3 * n)).map (fun u => s.landingFrom core t (t.piece u).2.1 (t.piece u).2.2)
    | .scat _ _ _ n _ => (t.todo (if t.idx.length = n then 3 * n else 0)).map (fun u => s.landingFrom core t (t.piece u).2.1 (t.piece u).2.2)
    | _ => []
  ((l.flatMap (·.1)).eraseDups, (l.flatMap (·.2)).eraseDups)

/-- The result of a task that ends by an abort is lost: what it did not write, or the states of its spinner (10 R249, R250). -/
def State.loseResult (s : State) (core : Nat) (t : Task) (k : FaultKind) : State :=
  let w := s.undelivered core t
  let s := s.lose w.1 w.2 k
  match t.op with
  | .gbsweep _ _ _ => s.modCore core (·.modBlock t.lid t.block (fun b => { b with spin := { b.spin with lost := some k } }))
  | _ => s

/-- The fault record of a task (10 R240). -/
def State.taskRec (s : State) (core : Nat) (t : Task) (f : FaultInfo) : FaultRec where
  addr := f.addr
  pc := t.pc
  block := t.block
  kind := f.kind
  core := core
  path := f.path
  write := f.write
  eng := true
  tid := 0
  ctx := s.taskCtx t

/-- A task meets a fault (10 R242): a repairable one suspends it at its page, another ends it with ERR. -/
def State.taskFault (s : State) (core : Nat) (t : Task) (f : FaultInfo) : State :=
  if f.kind.repairable then
    (s.recordPage (s.taskRec core t f)).modCore core (·.modTask t.id (fun t => { t with state := .faulted (pageOf f.va), copies := [] }))
  else
    let s := s.record (s.taskRec core t f)
    let s := if f.kind.aborts then s.loseResult core t f.kind else s
    s.endTask core t true

end Sys2Proof.Machine
end

