-- ==== Sys2Proof/Machine/Matrix.lean ====
section
/-! DEFINITION. What engine tasks do once dispatched: copies (15 R315, R316), gathers and scatters (15 R317, 21 R397), and the tasks of
the matrix unit (15 R308 to R312). -/

namespace Sys2Proof.Machine
open Sys2Proof

/-- Counts landed bits into PEND of the object of each receiver (08 R194, 15 R316): what does not fill a byte waits for more. -/
def State.landed (s : State) (core : Nat) (t : Task) (off bits : Nat) (pads : List (Nat × Nat)) : State :=
  let n := t.part + bits
  let s := if n / 8 = 0 then s else pads.foldl (fun s p => s.modCore p.1 (·.engineBytes (p.2 + off) (n / 8))) s
  s.modCore core (·.modTask t.id (fun t => { t with part := n % 8 }))

/-- Bits of a whole copy that fill no byte: the spec names no count, and a free value rounds (DESIGN CHOICE, log 20). -/
def State.roundPart (s : State) (core : Nat) (t : Task) : State :=
  match t.op with
  | .cpy _ _ _ (some off) mask =>
    if t.part = 0 then s
    else
      let (k, s) := s.draw
      if (Config.freeWord k).getLsbD 0 then
        (s.pads core t mask).foldl (fun s p => s.modCore p.1 (·.engineBytes (p.2 + off) 1)) s
      else s
  | _ => s

/-- Reads some elements of a source. -/
def State.readAll (core spb : Nat) (t : Task) (r : Shape) : List Nat → State → Eng (State × List Int)
  | [], s => .ok (s, [])
  | u :: us, s => do
    let (s, v) ← s.elemRead core spb t r (r.elem u)
    let (s, vs) ← State.readAll core spb t r us s
    .ok (s, planesOf r r.planes v :: vs)

/-- Writes some elements of a destination; the number is the bits written. -/
def State.writeAll (core target spb : Nat) (t : Task) (r : Shape) : List (Nat × Int) → State → Eng (State × Nat)
  | [], s => .ok (s, 0)
  | (u, v) :: us, s => do
    let (s, n) ← s.elemWrite core target spb t r (r.elem u) v
    let (s, m) ← State.writeAll core target spb t r us s
    .ok (s, n + m)

/-- Lands some elements of a copy at each of its receivers; the number is the bits at one of them. -/
def State.landAll (core : Nat) (t : Task) (d : Shape) (es : List (Nat × Int)) : List (Nat × Nat) → State → Eng (State × Nat)
  | [], s => .ok (s, 0)
  | (target, spb) :: rest, s => do
    let (s, n) ← State.writeAll core target spb t d es s
    let (s, _) ← State.landAll core t d es rest s
    .ok (s, n)

/-- One unit of a copy (15 R315, R316). -/
def State.cpyUnit (s : State) (core : Nat) (t : Task) (src d : Shape) (recv : Option Nat) (mask : BitVec 16) (u : Nat) : Eng State := do
  let k := d.together
  let us := (List.range k).map (fun i => u * k + i)
  let (s, vs) ← State.readAll core (s.taskPad core t) t src us s
  let pads := s.pads core t mask
  let s := if mask ≠ 0 ∧ pads.length ≠ (peers core mask).length then s.modCore core (·.modTask t.id (fun t => { t with err := true })) else s
  let (s, n) ← State.landAll core t d (us.zip vs) pads s
  match recv with
  | some o => .ok (if d.scpad ∧ n ≠ 0 then s.landed core t o n pads else s)
  | none => .ok s

/-- The place of some bytes of a gather or scatter that lie in one line, or of a window: on an NQ page the bytes of the frame itself (10 R227),
which ends below the page's end for NQ2 and NQ4; beyond it the access is a PERMISSION fault (DEDUCED, log 19). -/
def State.bytePlace (s : State) (core : Nat) (t : Task) (ptr : DWord) (n : Nat) (a : Acc) : Eng (State × Target) := do
  let (s, x, _) ← s.taskPlace core t ptr n a (fun e => match e.target (ptr.extractLsb' 0 56).toNat with
    | .elem _ i leaf => decide (i + n ≤ frameSize (leafFmt leaf) e.size)
    | _ => true)
  match x with
  | .elem frame i leaf => .ok (s, .mem (frame + i) leaf)
  | x => .ok (s, x)

/-- A target some bytes on. -/
def Target.shift (x : Target) (i : Nat) : Target :=
  match x with
  | .mem pa leaf => .mem (pa + i) leaf
  | .elem frame e leaf => .elem frame (e + i) leaf
  | .fabric w off => .fabric w (off + i)
  | .store c off => .store c (off + i)
  | .control die off => .control die (off + i)

/-- The block of a request of the gather engine: the whole line of an index list, or the smallest aligned block of an element's bytes (09
R205, R207). -/
def gatherBlock (x : Target) (n : Nat) (whole : Bool) : Nat × Nat :=
  match x with
  | .mem pa _ => if whole then (pa / 128 * 128, 128) else Cover.request [] pa n
  | _ => (0, 0)

/-- One request of the gather engine: n bytes of one line, at once (09 R207). -/
def State.spanRead (s : State) (core : Nat) (t : Task) (ptr : DWord) (n : Nat) (whole : Bool) : Eng (State × Nat) := do
  let (s, x) ← s.bytePlace core t ptr n .read
  let blk := gatherBlock x n whole
  let k := min n (64 - ptr.toNat % 64)
  let (s, v) ← s.taskGet core t ptr k none x (some blk)
  if k < n then do
    let (s, w) ← s.taskGet core t (addOff ptr (k : Nat)) (n - k) none (x.shift k) (some blk)
    .ok (s, v + 256 ^ k * w)
  else .ok (s, v)

/-- The places of n bytes that a gather or scatter writes, by granules: pointer, bytes before it, bytes; `fuel` bounds their number. -/
def State.spanPlaces (core : Nat) (t : Task) (ptr : DWord) (n : Nat) : Nat → Nat → State → Eng (State × List (DWord × Nat × Nat × Target))
  | 0, _, s => .ok (s, [])
  | fuel + 1, o, s =>
    if n ≤ o then .ok (s, [])
    else do
      let p := addOff ptr (o : Nat)
      let k := min (n - o) (64 - p.toNat % 64)
      let (s, x) ← s.bytePlace core t p k .write
      let (s, r) ← State.spanPlaces core t ptr n fuel (o + k) s
      .ok (s, (p, o, k, x) :: r)

/-- Writes bytes at such places and counts those that land in the scratchpad of the task's block (08 R194, 15 R317). -/
def State.spanPut (core : Nat) (t : Task) (v : Nat) : List (DWord × Nat × Nat × Target) → State → Eng State
  | [], s => .ok s
  | (p, o, k, x) :: r, s => do
    let s ← s.taskPut core t p k (v / 256 ^ o % 256 ^ k) x
    let spb := s.taskPad core t
    let s := match x, t.signal with
      | .store c off, some g =>
        if c = core ∧ spb ≤ off ∧ off < spb + (s.rcd t.lid).spad then s.modCore core (·.engineBytes (spb + g) k) else s
      | _, _ => s
    State.spanPut core t v r s

/-- The index list of a gather or scatter, and its length. -/
def TaskOp.list : TaskOp → DWord × Nat
  | .gath _ _ i n _ => (i, n)
  | .scat _ _ i n _ => (i, n)
  | _ => (0, 0)

/-- Reads what is left of an index list, one line at a time (09 R207, 21 R397); `fuel` bounds the lines. -/
def State.readIndexes (core id : Nat) : Nat → State → Eng State
  | 0, s => .ok s
  | fuel + 1, s =>
    match (s.core core).task? id with
    | none => .ok s
    | some t =>
      let left := t.op.list.2 - t.idx.length
      if left = 0 then .ok s
      else do
        let p := addOff t.op.list.1 (4 * t.idx.length : Nat)
        let k := min left ((128 - p.toNat % 128) / 4)
        let (s, v) ← s.spanRead core t p (4 * k) true
        let new := (List.range k).map (fun i => (BitVec.ofNat 32 (v / 2 ^ (32 * i))).toInt)
        State.readIndexes core id fuel (s.modCore core (·.modTask id (fun t => { t with idx := t.idx ++ new })))

/-- The index list, read at dispatch. -/
def State.readList (s : State) (core : Nat) (t : Task) : Eng State := State.readIndexes core t.id (t.op.list.2 / 32 + 2) s

/-- One request of a gather or scatter with the bytes it brings (15 R317, 21 R397): every page that they go to is found before one of them
lands (DEDUCED, log 19). -/
def State.gathUnit (s : State) (core : Nat) (t : Task) (u : Nat) : Eng State := do
  let (src, d, n) := t.piece u
  if n = 0 then .ok s
  else do
    let (s, v) ← s.spanRead core t src n false
    let (s, ps) ← State.spanPlaces core t d n 4 0 s
    State.spanPut core t v ps s

/-- Reads a group of elements of a column or row: floats aligned to w bits, NQ elements at q planes less the zero point, with the
block's scale (14 R284, R289). -/
def State.readGroup (s : State) (core : Nat) (t : Task) (r : Shape) (w q row first : Nat) : Eng (State × Grp) := do
  let n := if isNq r.fmt then r.blen else 16
  let us := (List.range n).map (fun i => first + i)
  let read := fun (acc : State × List Int) (k : Nat) => do
    let (s, v) ← acc.1.elemRead core (acc.1.taskPad core t) t r [k, row]
    Except.ok (s, acc.2 ++ [v])
  let (s, vs) ← us.foldlM read (s, [])
  if isNq r.fmt then
    let (s, sc) ← s.scaleOf core t r [first, row]
    .ok (s, { vals := vs.map (fun v => planesOf r q v - r.zp), marks := [], exp := 0, scale := sc })
  else .ok (s, alignGroup (dstFmt r.fmt) w (vs.map Int.toNat))

/-- Reads a whole column or row as its groups. -/
def State.readLine (s : State) (core : Nat) (t : Task) (r : Shape) (w q row : Nat) : Eng (State × List Grp) := do
  let n := if isNq r.fmt then r.blen else 16
  let read := fun (acc : State × List Grp) (g : Nat) => do
    let (s, v) ← acc.1.readGroup core t r w q row (g * n)
    Except.ok (s, acc.2 ++ [v])
  (List.range (dimOf r.box 0 / n)).foldlM read (s, [])

/-- Reads some columns or rows. -/
def State.readLines (s : State) (core : Nat) (t : Task) (r : Shape) (w q : Nat) (rows : List Nat) : Eng (State × List (List Grp)) :=
  let read := fun (acc : State × List (List Grp)) (row : Nat) => do
    let (s, v) ← acc.1.readLine core t r w q row
    Except.ok (s, acc.2 ++ [v])
  rows.foldlM read (s, [])

/-- Sets a B slot of a task's block. -/
def State.setSlot (s : State) (core : Nat) (t : Task) (slot : Nat) (x : Slot) : State :=
  s.modCore core (·.modBlock t.lid t.block (fun b => { b with slots := if slot = 0 then (x, b.slots.2) else (b.slots.1, x) }))

/-- A B slot of a task's block. -/
def State.slotOf (s : State) (core : Nat) (t : Task) (slot : Nat) : Slot :=
  match (s.core core).block? t.lid t.block with
  | none => Slot.none
  | some b => if slot = 0 then b.slots.1 else b.slots.2

/-- An accumulator set of a task's block. -/
def State.accOf (s : State) (core : Nat) (t : Task) (set : Nat) : AccSet :=
  match (s.core core).block? t.lid t.block with
  | none => []
  | some b => if set = 0 then b.acc.1 else b.acc.2

/-- Sets it. -/
def State.setAcc (s : State) (core : Nat) (t : Task) (set : Nat) (x : AccSet) : State :=
  s.modCore core (·.modBlock t.lid t.block (fun b => { b with acc := if set = 0 then (x, b.acc.2) else (b.acc.1, x) }))

/-- Adds a value to acc[m][n]; +0 is not listed (15 R309). -/
def accAdd (a : AccSet) (m n v : Nat) : AccSet :=
  if v = 0 then a
  else
    let k := m * 256 + n
    let r := exAdd (((tget a k).getD 0).toNat) v
    if r = 0 then tdel a k else tset a k (BitVec.ofNat 48 r)

/-- The descriptor that a tile leaves (15 R308). -/
def Shape.tile (r : Shape) : SlotDesc := .tile r.fmt (dimOf r.box 0) r.zp r.blen (dimOf r.box 1)

/-- The descriptor that a lookup table leaves (15 R310). -/
def Shape.table (r : Shape) : SlotDesc := .table (dimOf r.box 1) (dimOf r.box 0) r.blen r.zp

/-- MBLD (15 R308). -/
def State.runMbld (s : State) (core : Nat) (t : Task) (slot : Nat) (r : Shape) : Eng State := do
  let (s, cols) ← s.readLines core t r 16 r.planes (List.range (dimOf r.box 1))
  .ok (s.setSlot core t slot { desc := r.tile, cols := cols })

/-- Rows of a step (15 R297). -/
def stepRows (k : Nat) : List Nat := [4 * k, 4 * k + 1, 4 * k + 2, 4 * k + 3]

/-- Adds rows of results to a set. -/
def accRows (a : AccSet) (f : Nat → Nat → Nat) (rows cols : List Nat) : AccSet :=
  rows.foldl (fun a m => cols.foldl (fun a n => accAdd a m n (f m n)) a) a

/-- One step of an MMA (15 R309). Columns at and above N give +0 (DEDUCED, log 45). -/
def State.mmaStep (s : State) (core : Nat) (t : Task) (slot set : Nat) (zero : Bool) (w : Nat) (r : Shape) (k : Nat) : Eng State := do
  let sl := s.slotOf core t slot
  let (s, rows) ← s.readLines core t r w w (stepRows k)
  let a := if zero ∧ k = 0 then [] else s.accOf core t set
  let f := fun m n => rowTimes (isNq r.fmt) ((rows[m - 4 * k]?).getD []) ((sl.cols[n]?).getD [])
  .ok (s.setAcc core t set (accRows a f (stepRows k) (List.range sl.cols.length)))

/-- MLUT (15 R310). -/
def State.runMlut (s : State) (core : Nat) (t : Task) (slot q : Nat) (r : Shape) : Eng State := do
  let (s, rows) ← s.readLines core t r 0 q (List.range (dimOf r.box 1))
  .ok (s.setSlot core t slot { desc := r.table, cols := rows.map (·.map (fun g => { g with vals := (fours g.vals).flatMap tableOf })) })

/-- Reads a column of weights as two-bit numbers with block scales (15 R311). -/
def State.readWeights (s : State) (core : Nat) (t : Task) (r : Shape) (n : Nat) : Eng (State × List (List Int × BitVec 32)) := do
  let b := r.blen
  let read := fun (acc : State × List Int) (k : Nat) => do
    let (s, v) ← acc.1.elemRead core (acc.1.taskPad core t) t r [k, n]
    Except.ok (s, acc.2 ++ [v % 4])
  let block := fun (acc : State × List (List Int × BitVec 32)) (g : Nat) => do
    let (s, ws) ← ((List.range b).map (fun i => g * b + i)).foldlM read (acc.1, [])
    let (s, sc) ← s.scaleOf core t r [g * b, n]
    Except.ok (s, acc.2 ++ [(ws, sc)])
  (List.range (dimOf r.box 0 / b)).foldlM block (s, [])

/-- One step of an MLMA (15 R311). Columns at and above N give +0. -/
def State.mlmaStep (s : State) (core : Nat) (t : Task) (slot set : Nat) (zero : Bool) (q : Nat) (r : Shape) (k : Nat) : Eng State := do
  let sl := s.slotOf core t slot
  let read := fun (acc : State × List (List (List Int × BitVec 32))) (n : Nat) => do
    let (s, w) ← acc.1.readWeights core t r n
    Except.ok (s, acc.2 ++ [w])
  let cols := List.range (dimOf r.box 1)
  let (s, ws) ← cols.foldlM read (s, [])
  let a := if zero ∧ k = 0 then [] else s.accOf core t set
  let f := fun m n => tableRow ((sl.cols[m]?).getD []) q r.zp ((ws[n]?).getD [])
  .ok (s.setAcc core t set (accRows a f (stepRows k) cols))

/-- Counts a violation into the issuing thread's `s.bndcnt`, if it lives (14 R295). -/
def State.countBound (s : State) (core : Nat) (t : Task) : State :=
  match (s.core core).threads.find? (fun e => e.2.lid == t.lid && e.2.block == t.block && (e.2.lvid0, e.2.lvid1) == t.tid) with
  | none => s
  | some e => s.modThread core e.1 (fun x => { x with bndcnt := satInc x.bndcnt })

/-- The address of an element of a destination, as a fault register names it. -/
def State.elemAddr (s : State) (core : Nat) (t : Task) (r : Shape) (j : List Nat) : DWord :=
  match r.index j with
  | none => 0
  | some i =>
    if r.scpad then 0x00FF000000000000 + BitVec.ofNat 64 (s.taskPad core t) + BitVec.ofInt 64 ((r.base.toNat : Int) + r.dist i)
    else addOff r.base (r.dist i)

/-- What a violated bound does beside the value it gives (14 R295). -/
inductive Violation where
  | none
  | count
  | trap (at_ : BitVec 32) (va : DWord)
  deriving DecidableEq, Repr

/-- The value written for a converted element, and what the bound register does (14 R295). -/
def State.checkBound (s : State) (core : Nat) (t : Task) (r : Shape) (b : Bound) (scale : BitVec 32) (j : List Nat) (v : Int) :
    Violation × Int :=
  let p := nqPlanes r.fmt
  if !r.chk || b.act == 0 then (.none, v)
  else
    let val : FVal := if isNq r.fmt then
        (match fp32.decode scale.toNat with
        | .fin n m e => if v - r.zp = 0 ∨ m = 0 then .fin false 0 0 else .fin ((decide (v - r.zp < 0)) != n) ((v - r.zp).natAbs * m) e
        | x => if v - r.zp = 0 then .nan else x)
      else (dstFmt r.fmt).decode v.toNat
    if !violates b val then (.none, v)
    else if b.act = 1 then (.count, v)
    else if b.act = 2 then
      let lo := takesLo b val
      let w := if lo then b.lo else b.hi
      (.none, if isNq r.fmt then limitNq p r.zp scale lo w else (limitFloat (dstFmt r.fmt) lo w : Nat))
    else (.trap (BitVec.ofNat 32 ((j[1]?).getD 0 * 256 + j.headD 0)) (s.elemAddr core t r j), v)

/-- A violated bound takes its effect once its element has been written (14 R295). -/
def State.violated (s : State) (core : Nat) (t : Task) (v : Violation) : State :=
  match v with
  | .none => s
  | .count => s.countBound core t
  | .trap at_ va => s.modCore core (·.modTask t.id (fun t => { t with viol := some (t.viol.getD (at_, va)) }))

/-- One element of a drain (14 R292, 15 R312). -/
def State.drainUnit (s : State) (core : Nat) (t : Task) (set : Nat) (r : Shape) (b : Bound) (u : Nat) : Eng State :=
  let j := r.elem u
  match r.index j with
  | none => .ok s
  | some _ => do
    let v := ((tget (s.accOf core t set) ((j[1]?).getD 0 * 256 + j.headD 0)).getD 0).toNat
    let (s, sc) ← if isNq r.fmt then s.scaleOf core t r j else .ok (s, 0x3F800000)
    let x : Int := if isNq r.fmt then drainNq (nqPlanes r.fmt) r.zp sc r.clamp v else (drainFloat (dstFmt r.fmt) r.clamp v : Nat)
    let (e, x) := s.checkBound core t r b sc j x
    let (s, _) ← s.elemWrite core core (s.taskPad core t) t r j x
    .ok (s.violated core t e)

end Sys2Proof.Machine
end

