-- ==== Sys2Proof/Machine/Sweep.lean ====
section
/-! DEFINITION. The update rule of the spinner (17 R326 to R328) and the colour step of a GBSWEEP (17 R327, R333). -/

namespace Sys2Proof.Machine
open Sys2Proof

/-- Mix64 (17 R328). -/
def mix64 (z : DWord) : DWord :=
  let z := (z ^^^ (z >>> 30)) * 0xBF58476D1CE4E5B9
  let z := (z ^^^ (z >>> 27)) * 0x94D049BB133111EB
  z ^^^ (z >>> 31)

/-- R(i) under CTR (17 R328). -/
def ctrNoise (seed : DWord) (swc : Word) (i : Nat) : BitVec 16 :=
  (mix64 (seed + 0x9E3779B97F4A7C15 * BitVec.ofNat 64 (swc.toNat * 4096 + i + 1))).extractLsb' 48 16

/-- R(i) (17 R328); PHYS draws a free value (DESIGN CHOICE, log 8). -/
def State.noise (s : State) (src : SpinSrc) (swc : Word) (i : Nat) : BitVec 16 × State :=
  match src with
  | .phys =>
    let (k, s) := s.draw
    (Config.noise k, s)
  | .ctr seed => (ctrNoise seed swc i, s)
  | .fix r => (r, s)

/-- zq of a field (17 R327): 256 * β * u rounded once and clamped. -/
def fieldZq (beta : Word) (u : Int) : Int :=
  match fp32.decode beta.toNat with
  | .fin n m e => clampInt (-32768) 32767 ((ratOf n m e).scale (256 * u)).near
  | _ => 0

/-- The value of a variable against a 16-bit draw (17 R327). -/
def sampled (beta : Word) (u : Int) (r : BitVec 16) : Bool := decide (r.toNat < sigmoidS (fieldZq beta u))

/-- Reads k 64-byte pieces of a tile, each afresh: no copy of an earlier colour step serves it (17 R333). Pages have FMT 0, behind a window too. -/
def State.readTileFrom (core : Nat) (t : Task) (ptr : DWord) : Nat → State → Eng (State × List (BitVec 512))
  | 0, s => .ok (s, [])
  | k + 1, s => do
    let (s, x, _) ← s.taskPlace core t ptr 64 .read (fun e => leafFmt e.leaf == 0)
    let (s, v) ← match x with
      | .mem pa leaf => s.taskFresh core t ptr leaf pa 64 (leafRet leaf) (pa, 64)
      | x => s.taskGet core t ptr 64 none x
    let (s, r) ← State.readTileFrom core t (addOff ptr 64) k s
    .ok (s, BitVec.ofNat 512 v :: r)

/-- The byte of a tile for a target and a source of it (17 R324). -/
def tileByte (l : List (BitVec 512)) (i j : Nat) : Int :=
  let o := i * 192 + j
  sbyte (((l[o / 64]?).getD 0).toNat / 256 ^ (o % 64))

/-- Reads every tile of a configuration. -/
def State.readTiles (core : Nat) (t : Task) : List (BitVec 64 × Nat × Nat) → State → Eng (State × List (List (BitVec 512) × Nat × Nat))
  | [], s => .ok (s, [])
  | (p, tgt, src) :: r, s => do
    let (s, l) ← State.readTileFrom core t p 768 s
    let (s, ls) ← State.readTiles core t r s
    .ok (s, (l, tgt, src) :: ls)

/-- The field of variable i (17 R326). -/
def fieldOf (cfg : SpinCfg) (tiles : List (List (BitVec 512) × Nat × Nat)) (x : BitVec 4096) (i : Nat) : Int :=
  let sum := (tiles.filter (fun e => e.2.1 == i / 256)).foldl (fun a e =>
    (List.range 192).foldl (fun a j =>
      let v := e.2.2 * 192 + j
      if v < cfg.n ∧ x.getLsbD v then a + tileByte e.1 (i % 256) j else a) a) 0
  (cfg.bias[i]?).getD 0 + 2 ^ cfg.wsh * sum

/-- Sets or clears bit i. -/
def setBit {w : Nat} (x : BitVec w) (i : Nat) (b : Bool) : BitVec w := if b then x ||| (1#w <<< i) else x &&& ~~~(1#w <<< i)

/-- The unclamped variables of a colour. -/
def colourOf (sp : Spin) (cfg : SpinCfg) (c : Nat) : List Nat :=
  (List.range cfg.n).filter (fun i => (cfg.cmap[i]?).getD 0 == c && !sp.clm.getLsbD i)

/-- One colour step of a GBSWEEP, and the end of its sweep after the last colour (17 R327): the next one reads the tiles afresh (17 R333). -/
def State.sweepStep (s : State) (core : Nat) (t : Task) (beta : Word) : Eng State :=
  match ((s.core core).block? t.lid t.block).map (·.spin) with
  | none => .ok s
  | some sp =>
    match sp.cfg with
    | none => .ok s
    | some cfg => do
      let (s, tiles) ← State.readTiles core t cfg.tiles s
      let (s, x) := (colourOf sp cfg t.steps).foldl (fun (acc : State × BitVec 4096) i =>
        let (r, s) := acc.1.noise sp.src sp.swc i
        (s, setBit acc.2 i (sampled beta (fieldOf cfg tiles sp.x i) r))) (s, sp.x)
      let last := cfg.c ≤ t.steps + 1
      let cnt := if last ∧ sp.ste then (List.range cfg.n).foldl (fun l i =>
          let o := ((tget l i).getD 0 : BitVec 16)
          if x.getLsbD i ∧ o ≠ 0xFFFF then tset l i (o + 1) else l) sp.cnt
        else sp.cnt
      let sp := { sp with x := x, cnt := cnt, swc := if last then sp.swc + 1 else sp.swc }
      .ok (s.modCore core (fun c =>
        (c.modBlock t.lid t.block (fun b => { b with spin := sp })).modTask t.id (fun t =>
          if last then { t with steps := 0, sweeps := t.sweeps + 1, got := [] } else { t with steps := t.steps + 1, got := [] })))

end Sys2Proof.Machine
end

