-- ==== Sys2Proof/Machine/Tasks.lean ====
section
/-! DEFINITION. How tasks run: dispatch, progress, landing bytes, faults, suspension, completion, walks ahead (10 R231, R242, 08 R194,
15 R305 to R307, R314), and the instructions that issue them with their checks (14 R290, R296, 15 R303, R304, 20 R384, 21 R398, R427);
MCLS (15 R313) and BOUND (14 R294). -/

namespace Sys2Proof.Machine
open Sys2Proof

/-- The steps or units of a task: of one sweep for a GBSWEEP. -/
def State.taskSize (s : State) (core : Nat) (t : Task) : Nat :=
  match t.op with
  | .cpy _ d _ _ _ => d.count / d.together
  | .gath _ _ _ n _ | .scat _ _ _ n _ => 3 * n
  | .mbld _ _ | .mlut _ _ _ => 1
  | .mma _ _ _ _ a => dimOf a.box 1 / 4
  | .mlma slot _ _ _ _ => (s.slotOf core t slot).cols.length / 4
  | .mdrain _ _ d _ => d.count
  | .gbsweep _ _ _ => ((((s.core core).block? t.lid t.block).bind (·.spin.cfg)).map (·.c)).getD 0

/-- Whether steps or units are left. -/
def State.taskLeft (s : State) (core : Nat) (t : Task) : Bool :=
  match t.op with
  | .gbsweep _ n _ => decide (t.sweeps < n)
  | _ => decide (t.steps < s.taskSize core t)

/-- A step or unit in order is done. -/
def State.stepped (s : State) (core id : Nat) : State := s.modCore core (·.modTask id (fun t => { t with steps := t.steps + 1 }))

/-- The next step or unit of a task (15 R308 to R317) (DEDUCED, log 47). -/
def State.taskStep (s : State) (core : Nat) (t : Task) : Eng State :=
  let next := fun (s : State) => s.stepped core t.id
  if t.done.contains t.steps then
    .ok (s.modCore core (·.modTask t.id (fun t => { t with steps := t.steps + 1, done := t.done.filter (· != t.steps) })))
  else if t.idx.length < t.op.list.2 then s.readList core t
  else match t.op with
    | .cpy src d _ recv mask => (s.cpyUnit core t src d recv mask t.steps).map next
    | .gath _ _ _ _ _ | .scat _ _ _ _ _ => (s.gathUnit core t t.steps).map next
    | .mbld slot r => (s.runMbld core t slot r).map next
    | .mlut slot q r => (s.runMlut core t slot q r).map next
    | .mma slot set zero w r => (s.mmaStep core t slot set zero w r t.steps).map next
    | .mlma slot set zero q r => (s.mlmaStep core t slot set zero q r t.steps).map next
    | .mdrain set _ d b => (s.drainUnit core t set d b t.steps).map next
    | .gbsweep _ _ beta => s.sweepStep core t beta

/-- Up to n steps or units of a task. -/
def State.taskRun (core id : Nat) : Nat → State → Eng State
  | 0, s => .ok s
  | n + 1, s =>
    match (s.core core).task? id with
    | none => .ok s
    | some t => if s.taskLeft core t then (s.taskStep core t).bind (State.taskRun core id n) else .ok s

/-- Steps that surely suffice to finish a task. -/
def State.taskFuel (s : State) (core : Nat) (t : Task) : Nat :=
  match t.op with
  | .gbsweep _ n _ => n * s.taskSize core t + 1
  | _ => s.taskSize core t + 2

/-- The violated trap of a finished drain (14 R295): its issuing thread takes it, or the launch fails when the thread has exited. -/
def State.giveViolation (s : State) (core : Nat) (t : Task) : State :=
  match t.viol with
  | none => s
  | some v =>
    match (s.core core).threads.find? (fun e => e.2.lid == t.lid && e.2.block == t.block && (e.2.lvid0, e.2.lvid1) == t.tid) with
    | none => s.failLaunch t.lid causeValueBound t.block
    | some e => s.modThread core e.1 (fun x => { x with boundTrap := some v })

/-- A task completes (15 R307): MDRAIN empties its set where asked, a GBSWEEP's slot is empty (17 R332) and its states are whole again. -/
def State.finishTask (s : State) (core : Nat) (t : Task) : State :=
  let s := match t.op with
    | .mdrain set true _ _ => s.setAcc core t set []
    | .gbsweep slot _ _ =>
      (s.setSlot core t slot Slot.none).modCore core (·.modBlock t.lid t.block (fun b => { b with spin := { b.spin with lost := none } }))
    | _ => s
  ((s.roundPart core t).giveViolation core t).endTask core t t.err

/-- Whether a task waits for an answer through a fabric window. -/
def State.taskWaits (s : State) (core id : Nat) : Bool := s.fabric.any (fun f => f.for_ == .task core id)

/-- Runs a task to its end: it completes when its writes are performed (15 R307). -/
def State.completeTask (s : State) (core : Nat) (t : Task) : State :=
  match State.taskRun core t.id (s.taskFuel core t) s with
  | .error (.fault s f) => (match (s.core core).task? t.id with
    | some t => s.taskFault core t f
    | none => s)
  | .error (.wait s) => s
  | .ok s => match (s.core core).task? t.id with
    | none => s
    | some t => if s.taskWaits core t.id ∨ s.taskLeft core t then s else s.finishTask core t

/-- A task that its engine is working on. -/
def State.runningTask (s : State) (core id : Nat) : Option Task :=
  if (s.island (core / 2)).running then ((s.core core).task? id).filter (fun t => t.state == .running) else none

/-- TASK_COMPLETION (15 R307). -/
def execTaskCompletion (core task : Nat) (s : State) : Next :=
  match s.runningTask core task with
  | none => done s
  | some t => done (s.completeTask core t)

/-- ENGINE_TASK_FAULT (10 R242): the task goes on to the faulting page; nothing happens where no page of it faults. -/
def execEngineTaskFault (core task : Nat) (s : State) : Next :=
  match s.runningTask core task with
  | none => done s
  | some t =>
    match State.taskRun core t.id (s.taskFuel core t) s with
    | .error (.fault s f) => (match (s.core core).task? t.id with
      | some t => done (s.taskFault core t f)
      | none => done s)
    | _ => done s

/-- The places of n bytes that a task writes at a pointer, each one number whatever address names it; none where a page does not translate. -/
def State.placesOf (s : State) (core : Nat) (t : Task) (ptr : DWord) (n : Nat) : Option (List Nat) :=
  (List.range n).foldr (fun (i : Nat) l => match l, s.bytePlace core t (addOff ptr (i : Nat)) 1 .write with
    | some l, .ok (_, x) => some (x.place 0 :: l)
    | _, _ => none) (some [])

/-- Whether unit u of a task may land before the units that come first: of a scatter, none of them writes one of its bytes, by whatever address (15
R317). -/
def State.mayLand (s : State) (core : Nat) (t : Task) (u : Nat) : Bool :=
  match t.op with
  | .scat _ _ _ _ _ =>
    let p := s.placesOf core t (t.piece u).2.1 (t.piece u).2.2
    (t.todo u).all (fun k => match p, s.placesOf core t (t.piece k).2.1 (t.piece k).2.2 with
      | some p, some q => !p.any q.contains
      | _, _ => false)
  | .gath _ _ _ _ _ | .cpy _ _ _ _ _ => true
  | _ => false

/-- ENGINE_BYTE_LANDS (08 R194, 15 R316): a unit of a copy or gather lands, in any order. -/
def execEngineByteLands (core task elem : Nat) (s : State) : Next :=
  match s.runningTask core task with
  | none => done s
  | some t =>
    if elem < t.steps ∨ s.taskSize core t ≤ elem ∨ t.done.contains elem ∨ t.idx.length < t.op.list.2 ∨ !s.mayLand core t elem then done s
    else
      let r := match t.op with
        | .cpy src d _ recv mask => s.cpyUnit core t src d recv mask elem
        | _ => s.gathUnit core t elem
      match r with
      | .ok s => done (s.modCore core (·.modTask task (fun t => { t with done := elem :: t.done })))
      | .error (.wait s) => done s
      | .error (.fault s f) => (match (s.core core).task? task with
        | some t => done (s.taskFault core t f)
        | none => done s)

/-- A task is dispatched: its block becomes the holder of its units (15 R298), and a gather's index list is read (21 R397). -/
def State.dispatch (s : State) (core : Nat) (t : Task) : State :=
  let s := s.modCore core (fun c => t.op.units.foldl (fun c u => c.hold t.lid t.block u) (c.modTask t.id (fun t => { t with state := .running })))
  match s.readList core t with
  | .ok s => s
  | .error (.wait s) => s
  | .error (.fault s f) => match (s.core core).task? t.id with
    | some t => s.taskFault core t f
    | none => s

/-- TASK_DISPATCH (15 R305). -/
def execTaskDispatch (core : Nat) (engine : Engine) (s : State) : Next :=
  if (s.island (core / 2)).running then
    match s.nextTask core engine with
    | none => done s
    | some t => done (s.dispatch core t)
  else done s

/-- Whether a matrix task is suspended for a higher class: MMA, MLMA and GBSWEEP are (15 R314). -/
def TaskOp.yields : TaskOp → Bool
  | .mma _ _ _ _ _ | .mlma _ _ _ _ _ | .gbsweep _ _ _ => true
  | _ => false

/-- MATRIX_TASK_SUSPEND (15 R314): the running task goes on for some steps and is suspended at the boundary, if it is not over. -/
def execMatrixTaskSuspend (core steps : Nat) (s : State) : Next :=
  match (s.core core).tasks.find? (fun t => t.state == .running && t.op.yields) with
  | none => done s
  | some t =>
    if !(s.island (core / 2)).running ∨ (s.above? core t).isEmpty then done s
    else match State.taskRun core t.id steps s with
      | .error (.fault s f) => (match (s.core core).task? t.id with
        | some t => done (s.taskFault core t f)
        | none => done s)
      | .error (.wait s) => done s
      | .ok s => (match (s.core core).task? t.id with
        | none => done s
        | some t =>
          if s.taskLeft core t then done (s.modCore core (·.modTask t.id (fun t => { t with state := .yielded, copies := [] }))) else done s)

/-- The records whose pages a task walks, with the elements of a unit: both of a copy (10 R231). -/
def TaskOp.shapes : TaskOp → List (Shape × Nat)
  | .cpy src d _ _ _ => [(src, d.together), (d, d.together)]
  | .mbld _ r | .mlut _ _ r => [(r, 1)]
  | .mma _ _ _ _ r | .mlma _ _ _ _ r => [(r, 4 * dimOf r.box 0)]
  | .mdrain _ _ r _ => [(r, 1)]
  | _ => []

/-- The u-th element of a box in the record's traversal order, innermost first (15 R299). -/
def Shape.walkElem (r : Shape) (u : Nat) : List Nat :=
  let l := ((r.ord.take r.rank).foldl (fun (a : List (Nat × Nat) × Nat) d =>
    (a.1 ++ [(d, a.2 % max (dimOf r.box d) 1)], a.2 / max (dimOf r.box d) 1)) ([], u)).1
  (List.range 5).map (fun d => (tget l d).getD 0)

/-- The pages of a record ahead of the current one of a task, at most eight (10 R231). -/
def Shape.pagesAhead (r : Shape) (done : Nat) : List DWord :=
  if r.scpad then []
  else
    let us := (List.range r.count).drop done
    let ps := us.filterMap (fun u => (r.index (r.walkElem u)).map (fun i => addOff r.base (r.dist i)))
    ((ps.foldl (fun (l : List DWord) p => if l.any (fun q => pageOf q == pageOf p) then l else l ++ [p]) []).drop 1).take 8

/-- The pages of a task ahead of its current ones. -/
def Task.pagesAhead (t : Task) : List DWord := t.op.shapes.flatMap (fun e => e.1.pagesAhead (t.steps * e.2))

/-- WALK_AHEAD (10 R231): a walk that faults is dropped. -/
def execWalkAhead (core task : Nat) (s : State) : Next :=
  match s.runningTask core task with
  | none => done s
  | some t => done ((t.pagesAhead.filter (fun p => decide ((p.extractLsb' 0 56).toNat < vaEnd))).foldl (fun s p =>
      match s.fresh? (s.taskCtx t) (p.extractLsb' 0 56).toNat (p.extractLsb' 56 8).toNat with
      | .ok e => s.fillAhead core (some e)
      | .error _ => s.sawWalk (s.taskCtx t) p) s)

/-- The operands of a task instruction (15 R304): pointers, the CPY receiver, and signal and wait objects. -/
structure TaskArgs where
  ptrs : List DWord
  recv : Option Nat
  signal : Option Nat
  wait : Option Nat

/-- An optional object offset. -/
def State.objArg (s : State) (core slot : Nat) (t : Thread) (x : XOps) (code : BitVec 8) : Except Stop (Option Nat) :=
  if code = 0xF8 then .ok none else do
    let v ← s.src32 core slot t x.lit code
    .ok (some v.toNat)

/-- Reads the pointers of a task instruction. -/
def State.ptrArgs (s : State) (core slot : Nat) (t : Thread) (x : XOps) : List (BitVec 8 × Nat) → Except Stop (List (DWord × Nat))
  | [] => .ok []
  | (c, a) :: r => do
    let p ← s.src64 core slot t x.lit c
    let l ← State.ptrArgs s core slot t x r
    .ok ((p, a) :: l)

/-- The operands and their checks in the order of 15 R303: unmapped registers, alignment, offsets. -/
def State.taskArgs (s : State) (core slot : Nat) (t : Thread) (x : XOps) (pairs : List (BitVec 8 × Nat)) (recv : BitVec 8) :
    Except Stop TaskArgs := do
  (s.core core).checkMapped slot (pairs.flatMap (fun p => pairOf p.1) ++ [recv, x.c])
  let ptrs ← s.ptrArgs core slot t x pairs
  let rv ← s.objArg core slot t x recv
  let sg ← s.objArg core slot t x x.c
  let w := (x.imm.extractLsb' 16 16).toNat * 16
  let wt := if w = 0 then none else some w
  (match ptrs.find? (fun p => p.1.toNat % p.2 != 0) with
    | some p => .error (.misaligned p.1)
    | none => .ok ())
  need ([rv, sg].all (fun o => o.getD 0 % 16 == 0)) causeMisaligned
  need ([rv, sg, wt].all (fun o => match o with
    | some o => decide (o < (s.rcd t.lid).spad)
    | none => true)) causeBounds
  .ok { ptrs := ptrs.map (·.1), recv := rv, signal := sg, wait := wt }

/-- Puts a task into the table (15 R303); the descriptor it will leave is remembered (15 R308). -/
def State.queueTask (s : State) (core : Nat) (k : Task) : State :=
  let (id, s) := s.fresh
  let leave := fun (b : Block) (slot : Nat) (d : SlotDesc) => { b with issued := if slot = 0 then (d, b.issued.2) else (b.issued.1, d) }
  s.modCore core (fun c => ({ c with tasks := c.tasks ++ [{ k with id := id }] }).modBlock k.lid k.block (fun b =>
    match k.op with
    | .mbld slot r => leave b slot r.tile
    | .mlut slot _ r => leave b slot r.table
    | .gbsweep slot _ _ => leave b slot .empty
    | _ => b))

/-- A task as it is issued. -/
def State.newTask (s : State) (core : Nat) (t : Thread) (a : TaskArgs) (op : TaskOp) : Task where
  id := 0
  op := op
  lid := t.lid
  block := t.block
  tid := (t.lvid0, t.lvid1)
  pc := t.pc
  signal := a.signal
  wait := a.wait.map (fun o => (o, objPh ((s.core core).store.get32 (s.spbase core t + o + 4))))
  cls := (((s.core core).block? t.lid t.block).map (·.cls.toNat)).getD 0
  state := .waiting
  steps := 0
  done := []
  sweeps := 0
  viol := none
  idx := []
  got := []
  copies := []
  part := 0
  err := false

/-- A task instruction once its operands and checks have passed: it takes an entry of the table, or waits for one (15 R303). -/
def State.enqueue (s : State) (core slot len : Nat) (was : Bool) (t : Thread) (k : Task) : State :=
  if (s.core core).tasks.length < 64 then (s.past core slot len was t).queueTask core k
  else s.halt core slot was t (.park (.entry k len))

/-- A task instruction of a thread (15 R303): the region is committed; then operands and checks; then an entry of the table, or a wait
for one. -/
def State.issueNew (s : State) (core slot : Nat) (x : XOps) (args : State → Except Stop TaskArgs) (build : State → TaskArgs → Got TaskOp) :
    State :=
  s.commitThen core slot (fun t was s =>
    match args s with
    | .error st => s.halt core slot was t st
    | .ok a =>
      match build s a with
      | .stop s st => s.halt core slot was t st
      | .ok s op =>
        match (a.wait.map (fun o => (s.core core).objectWhole (s.spbase core t + o))).getD (.ok ()) with
        | .error st => s.halt core slot was t st
        | .ok _ => s.enqueue core slot x.len was t (s.newTask core t a op))

/-- A task instruction of a thread: one that has waited for an entry of the table takes it. -/
def State.issueTask (s : State) (core slot : Nat) (t : Thread) (x : XOps) (args : State → Except Stop TaskArgs)
    (build : State → TaskArgs → Got TaskOp) : State :=
  match t.park with
  | some (.entry k len) =>
    if (s.core core).tasks.length < 64 then (s.modCore core (·.goOn slot len)).queueTask core k else s
  | _ => s.issueNew core slot x args build

/-- A built task, if a check of its operands holds. -/
def buildIf (s : State) (ok : Bool) (cause : Nat) (op : TaskOp) : Got TaskOp := if ok then .ok s op else .stop s (.trap cause none)

/-- The record of the first pointer, for the matrix instructions; a malformed one traps with RECORD (15 R303). -/
def withRecord (core : Nat) (t : Thread) (s : State) (a : TaskArgs) (f : State → Shape → Got TaskOp) : Got TaskOp :=
  match s.readShape core t (a.ptrs.headD 0) with
  | .stop s st => .stop s st
  | .ok s w => if shapeBad w then .stop s (.trap causeRecord none) else f s (shapeOf w)

/-- Whether a format is a float the macros take. -/
def macroFloat (fmt : Nat) : Bool := fmt == 4 || fmt == 5

/-- Bits of a B element (14 R296). -/
def elemBits (fmt : Nat) : Nat := if isNq fmt then nqPlanes fmt else 16

/-- Box dimensions 2 to 4 are 1. -/
def Shape.flat (r : Shape) : Bool := (r.box.drop 2).all (· == 1)

/-- A whole number of scale blocks in a row of K (14 R296). -/
def Shape.whole (r : Shape) : Bool := !isNq r.fmt || dimOf r.box 0 % r.blen == 0

/-- M of an A box fits (14 R296). -/
def Shape.rowsOk (r : Shape) : Bool := dimOf r.box 1 % 4 == 0 && decide (1 ≤ dimOf r.box 1) && decide (dimOf r.box 1 ≤ 256)

/-- MBLD's checks (14 R296, 15 R308). -/
def mbldBuild (x : XOps) (core : Nat) (t : Thread) (s : State) (a : TaskArgs) : Got TaskOp :=
  withRecord core t s a (fun s r =>
    buildIf s ((macroFloat r.fmt || isNq r.fmt) && r.whole && dimOf r.box 0 * elemBits r.fmt == 1536 && decide (dimOf r.box 1 ≤ 256) && r.flat)
      causeIllegalInstruction (.mbld (x.sub.extractLsb' 0 1).toNat r))

/-- The plane count that MMA's field names for a format; none where it does not fit (14 R290). -/
def mmaPlanes (imm : Nat) (r : Shape) : Option Nat :=
  let low := imm % 16
  if imm % 32 = 0 then some (if r.fmt = 4 then 12 else if r.fmt = 5 then 14 else r.planes)
  else if 16 ≤ imm % 32 then (if macroFloat r.fmt ∧ 1 ≤ low ∧ low ≤ 8 then some (low + 8) else none)
  else if isNq r.fmt ∧ low ≤ 8 ∧ low ≤ r.planes then some low
  else none

/-- The descriptor that the block's last issued task on a slot leaves (15 R308). -/
def State.issuedDesc (s : State) (core : Nat) (t : Thread) (slot : Nat) : SlotDesc :=
  match (s.core core).block? t.lid t.block with
  | none => .empty
  | some b => if slot = 0 then b.issued.1 else b.issued.2

/-- MMA's checks (14 R296, 15 R309). -/
def mmaBuild (x : XOps) (core : Nat) (t : Thread) (s : State) (a : TaskArgs) : Got TaskOp :=
  let slot := (x.sub.extractLsb' 0 1).toNat
  withRecord core t s a (fun s r =>
    match s.issuedDesc core t slot, mmaPlanes x.imm.toNat r with
    | .tile fmt k _ blen _, some w =>
      buildIf s ((macroFloat r.fmt && macroFloat fmt || isNq r.fmt && isNq fmt && r.blen == blen) && r.whole && dimOf r.box 0 == k && r.rowsOk)
        causeIllegalInstruction (.mma slot (x.sub.extractLsb' 1 1).toNat (x.sub.getLsbD 2) w r)
    | _, _ => .stop s (.trap causeIllegalInstruction none))

/-- MLUT's checks (15 R310). -/
def mlutBuild (x : XOps) (core : Nat) (t : Thread) (s : State) (a : TaskArgs) : Got TaskOp :=
  withRecord core t s a (fun s r =>
    let q := if x.imm.toNat % 16 = 0 then r.planes else x.imm.toNat % 16
    buildIf s (isNq r.fmt && decide (q ≤ r.planes) && r.whole && r.rowsOk && decide (dimOf r.box 1 * dimOf r.box 0 ≤ 6144))
      causeIllegalInstruction (.mlut (x.sub.extractLsb' 0 1).toNat q r))

/-- MLMA's checks (15 R311). -/
def mlmaBuild (x : XOps) (core : Nat) (t : Thread) (s : State) (a : TaskArgs) : Got TaskOp :=
  let slot := (x.sub.extractLsb' 0 1).toNat
  withRecord core t s a (fun s r =>
    match s.issuedDesc core t slot with
    | .table _ k blen _ =>
      let q := if x.imm.toNat % 16 = 0 then 2 else x.imm.toNat % 16
      buildIf s (r.fmt == 1 && dimOf r.box 0 == k && r.blen == blen && decide (q ≤ 2) && decide (q ≤ r.planes) && decide (dimOf r.box 1 ≤ 256))
        causeIllegalInstruction (.mlma slot (x.sub.extractLsb' 1 1).toNat (x.sub.getLsbD 2) q r)
    | _ => .stop s (.trap causeIllegalInstruction none))

/-- An NQ box whose origin and width are whole blocks. -/
def Shape.blocks (r : Shape) : Bool := !isNq r.fmt || (((r.org[0]?).getD 0) % (r.blen : Int) == 0 && dimOf r.box 0 % r.blen == 0)

/-- MDRAIN's checks (15 R312); the bound register's value is taken at issue (14 R293). -/
def mdrainBuild (x : XOps) (core : Nat) (t : Thread) (s : State) (a : TaskArgs) : Got TaskOp :=
  withRecord core t s a (fun s r =>
    let b := (((s.core core).block? t.lid t.block).bind (fun b => tget b.bounds r.bidx)).getD Bound.init
    buildIf s (r.fmt != 0 && decide (dimOf r.box 0 ≤ 256) && decide (dimOf r.box 1 ≤ 256) && r.flat && r.blocks)
      causeIllegalInstruction (.mdrain (x.sub.extractLsb' 1 1).toNat (x.sub.getLsbD 2) r b))

/-- CPY's checks (15 R315, 20 R384): both records are read before either is found malformed (15 R303). -/
def cpyBuild (x : XOps) (core : Nat) (t : Thread) (s : State) (a : TaskArgs) : Got TaskOp :=
  match s.readShape core t (a.ptrs.headD 0) with
  | .stop s st => .stop s st
  | .ok s dw =>
    match s.readShape core t ((a.ptrs[1]?).getD 0) with
    | .stop s st => .stop s st
    | .ok s sw =>
      let d := shapeOf dw
      let src := shapeOf sw
      let mask := x.imm.extractLsb' 0 16
      if shapeBad dw || shapeBad sw then .stop s (.trap causeRecord none) else
      buildIf s (d.fmt == src.fmt && d.box == src.box && d.blocks && src.blocks && (mask == 0 || d.scpad) && (a.recv.isNone || d.scpad))
        causeIllegalOperand (.cpy src d (a.ptrs.headD 0) a.recv mask)

/-- n and s of GATH and SCAT. -/
def gathSize (x : XOps) : Nat × Nat := ((x.imm.extractLsb' 8 8).toNat + 1, (x.imm.extractLsb' 0 8).toNat + 1)

/-- GATH as a task (21 R396, R397). -/
def gathBuild (x : XOps) (s : State) (a : TaskArgs) : Got TaskOp :=
  .ok s (.gath (a.ptrs.headD 0) ((a.ptrs[1]?).getD 0) ((a.ptrs[2]?).getD 0) (gathSize x).1 (gathSize x).2)

/-- SCAT as a task (22 R453). -/
def scatBuild (x : XOps) (s : State) (a : TaskArgs) : Got TaskOp :=
  .ok s (.scat (a.ptrs.headD 0) ((a.ptrs[1]?).getD 0) ((a.ptrs[2]?).getD 0) (gathSize x).1 (gathSize x).2)

/-- A task instruction with one record in A. -/
def recordTask (x : XOps) (build : XOps → Nat → Thread → State → TaskArgs → Got TaskOp) (s : State) (core slot : Nat) (t : Thread) : State :=
  s.issueTask core slot t x (fun s => s.taskArgs core slot t x [(x.a, 64)] 0xF8) (build x core t)

/-- CPY of a thread (DEDUCED, log 27). -/
def cpyOne (x : XOps) (s : State) (core slot : Nat) (t : Thread) : State :=
  s.issueTask core slot t x (fun s => s.taskArgs core slot t x [(x.d, 64), (x.a, 64)] x.b) (cpyBuild x core t)

/-- GATH or SCAT of a thread. -/
def gathOne (x : XOps) (build : XOps → State → TaskArgs → Got TaskOp) (s : State) (core slot : Nat) (t : Thread) : State :=
  s.issueTask core slot t x (fun s => s.taskArgs core slot t x [(x.d, 1), (x.a, 1), (x.b, 4)] 0xF8) (build x)

/-- CPY. -/
def execCpy (x : XOps) (s : State) : Next := done (s.runSeq x.len x.g (cpyOne x))
/-- GATH. -/
def execGath (x : XOps) (s : State) : Next := done (s.runSeq x.len x.g (gathOne x gathBuild))
/-- SCAT. -/
def execScat (x : XOps) (s : State) : Next := done (s.runSeq x.len x.g (gathOne x scatBuild))
/-- MBLD. -/
def execMbld (x : XOps) (s : State) : Next := done (s.runSeq x.len x.g (recordTask x mbldBuild))
/-- MMA. -/
def execMma (x : XOps) (s : State) : Next := done (s.runSeq x.len x.g (recordTask x mmaBuild))
/-- MLUT. -/
def execMlut (x : XOps) (s : State) : Next := done (s.runSeq x.len x.g (recordTask x mlutBuild))
/-- MLMA. -/
def execMlma (x : XOps) (s : State) : Next := done (s.runSeq x.len x.g (recordTask x mlmaBuild))
/-- MDRAIN. -/
def execMdrain (x : XOps) (s : State) : Next := done (s.runSeq x.len x.g (recordTask x mdrainBuild))

/-- MCLS of a thread (15 R313). -/
def mclsOne (x : XOps) (s : State) (core slot : Nat) (t : Thread) : State :=
  s.finish core x.len slot (.ok (fun s => s.modCore core (·.modBlock t.lid t.block (fun b => { b with cls := x.imm.extractLsb' 0 2 }))))

/-- MCLS. -/
def execMcls (x : XOps) (s : State) : Next := done (s.runSeq x.len x.g (mclsOne x))

/-- BOUND of a thread (14 R294). -/
def boundOf (x : XOps) (s : State) (core slot : Nat) (t : Thread) : Except Stop (State → State) := do
  (s.core core).checkMapped slot [x.a, x.b]
  let lo ← s.src32 core slot t x.lit x.a
  let hi ← s.src32 core slot t x.lit x.b
  need (!fp32.isNan lo.toNat && !fp32.isNan hi.toNat && !fp32.lt hi.toNat lo.toNat) causeIllegalOperand
  .ok (fun s => s.modCore core (·.modBlock t.lid t.block (fun b =>
    { b with bounds := tset b.bounds (x.imm.extractLsb' 0 6).toNat { act := x.imm.extractLsb' 8 2, hi := hi, lo := lo } })))

/-- BOUND of a thread. -/
def boundOne (x : XOps) (s : State) (core slot : Nat) (t : Thread) : State := s.finish core x.len slot (boundOf x s core slot t)

/-- BOUND. -/
def execBound (x : XOps) (s : State) : Next := done (s.holding x (·.runSeq x.len x.g (boundOne x)))

end Sys2Proof.Machine
end

