-- ==== Sys2Proof/Machine/Spinner.lean ====
section
/-! DEFINITION. The instructions of the spinner (17 R321 to R332, 21 R399, R400). -/

namespace Sys2Proof.Machine
open Sys2Proof

/-- The GBSWEEP tasks of a thread's block (17 R331). -/
def State.sweeps (s : State) (core : Nat) (t : Thread) : List Nat :=
  ((s.core core).tasks.filter (fun k => k.lid == t.lid && k.block == t.block && (match k.op with
    | .gbsweep _ _ _ => true
    | _ => false))).map (·.id)

/-- Whether a thread that executes a spinner instruction has waited there for the sweeps issued before it: it has waited for them, for room, or for a
piece that the instruction itself reads through a window. The fetch of the instruction is another wait. -/
def Thread.swept (t : Thread) : Bool :=
  match t.park with
  | some (.tasks _) | some .spinner | some (.writes _) => true
  | _ => false

/-- A wait for a piece behind a window, as a spinner instruction that has waited for its sweeps waits for it. -/
def Stop.sweptPark (st : Stop) : Stop :=
  match st with
  | .park (.fill r) => .park (.writes [r])
  | st => st

/-- A spinner instruction of a thread (17 R331): the region is committed; the sweeps issued before it end; the block becomes the holder
(17 R322); then it acts in full. What stops it leaves the spinner as it was. -/
def State.spinDo (s : State) (core slot len : Nat) (act : State → Got Spin) : State :=
  s.commitThen core slot (fun t was s =>
    match (if t.swept then [] else s.sweeps core t) with
    | i :: ids => s.halt core slot was t (.park (.tasks (i :: ids)))
    | [] =>
      if !s.swapRoom core t.lid t.block [4] then s.halt core slot was t (.park .spinner)
      else match act s with
        | .stop s st => s.halt core slot was t st.sweptPark
        | .ok s sp =>
          (s.modCore core (fun c => (c.hold t.lid t.block 4).modBlock t.lid t.block (fun b => { b with spin := sp }))).past core slot len was t)

/-- What a thread waits for while a lower lane of its group waits at a spinner instruction: the same, and where it belongs to another block, the sweeps
of its own (17 R331). -/
def State.turnPark (s : State) (core : Nat) (lower : Thread) (p : Park) (t : Thread) : Park :=
  if t.lid = lower.lid ∧ t.block = lower.block then p
  else match p, s.sweeps core t with
    | .tasks ids, own => .tasks (ids ++ own)
    | p, [] => p
    | _, own => .tasks own

/-- One thread of an instruction whose threads act in ascending lane order, each in full: while a lower lane waits, the higher ones wait with
it. -/
def State.turnOne (core len : Nat) (g : Guard) (f : State → Nat → Nat → Thread → State) (acc : State × Option (Thread × Park)) (slot : Nat) :
    State × Option (Thread × Park) :=
  match acc.1.thread? core slot with
  | none => acc
  | some t =>
    if !t.guard g then (acc.1.modCore core (·.advance slot len), acc.2)
    else match acc.2 with
      | some (lower, p) => (acc.1.stop core slot (.park (acc.1.turnPark core lower p t)), some (lower, p))
      | none =>
        let s := f acc.1 core slot t
        (s, ((s.thread? core slot).bind (·.park)).map (fun p => (t, p)))

/-- Runs such an instruction (17 R331). -/
def State.runInTurn (s : State) (len : Nat) (g : Guard) (f : State → Nat → Nat → Thread → State) : State :=
  match s.cur with
  | none => s
  | some gr => (gr.slots.foldl (State.turnOne gr.core len g f) (s, none)).1

/-- The spinner state of a thread's block. -/
def State.spin (s : State) (core : Nat) (t : Thread) : Spin :=
  (((s.core core).block? t.lid t.block).map (·.spin)).getD Spin.init

/-- A value, or what stops the instruction, without a change of the state. -/
def got {α : Type} (s : State) (r : Except Stop α) (f : α → Got Spin) : Got Spin :=
  match r with
  | .error st => .stop s st
  | .ok a => f a

/-- The access of a thread on the GB path stands under a task of its own block. -/
def State.gbTask (s : State) (core : Nat) (t : Thread) : Task :=
  s.newTask core t { ptrs := [], recv := none, signal := none, wait := none } (.gbsweep 0 1 0)

/-- Reads n bytes of a 64-byte piece on the GB path (17 R330); a piece behind a fabric window is asked for and waited for. -/
def State.gbPiece (s : State) (core : Nat) (t : Thread) (ptr : DWord) (n : Nat) : Got Nat :=
  let k := s.gbTask core t
  let fail := fun (s : State) (f : FaultInfo) => Got.stop s (if f.kind.aborts then .abort f else .trap f.kind.cause (some f))
  match s.bytePlace core k ptr n .read with
  | .error (.fault s f) => fail s f
  | .error (.wait s) => .stop s (.park (.writes []))
  | .ok (s, .fabric w off) =>
    let ctx := s.ctxOf t
    let va := (ptr.extractLsb' 0 56).toNat
    (match tget (s.core core).constant (gbKey ctx va) with
    | some d => .ok s (lineBytes d (va % 64) n)
    | none =>
      .stop (s.sendFabric ctx (.line core true (gbKey ctx va) t.pc) ptr w (off / 64 * 64) 64 .read) (.park (.fill s.seq)))
  | .ok (s, x) =>
    match s.taskGet core k ptr n none x with
    | .error (.fault s f) => fail s f
    | .error (.wait s) => .stop s (.park (.writes []))
    | .ok (s, v) => .ok s v

/-- Reads n bytes on the GB path, piece by piece (DEDUCED, log 66); `fuel` bounds the pieces. -/
def State.gbFrom (core : Nat) (t : Thread) (ptr : DWord) : Nat → Nat → State → Got (List Nat)
  | 0, _, s => .ok s []
  | fuel + 1, n, s =>
    if n = 0 then .ok s []
    else
      let k := min n (64 - ptr.toNat % 64)
      match s.gbPiece core t ptr k with
      | .stop s st => .stop s st
      | .ok s v =>
        match State.gbFrom core t (addOff ptr (k : Nat)) fuel (n - k) s with
        | .stop s st => .stop s st
        | .ok s r => .ok s ((List.range k).map (fun i => v / 256 ^ i % 256) ++ r)

/-- Reads n bytes on the GB path. -/
def State.gbBytes (core : Nat) (t : Thread) (ptr : DWord) (n : Nat) (s : State) : Got (List Nat) := State.gbFrom core t ptr (n / 64 + 2) n s

/-- A little-endian number of bytes. -/
def leNat (l : List Nat) : Nat := l.foldr (fun b a => b + 256 * a) 0

/-- A configuration record (17 R323), before its lists are read. -/
structure CfgRec where
  cmap : DWord
  bias : DWord
  tlist : DWord
  n : Nat
  c : Nat
  ntile : Nat
  wsh : Nat
  keepcl : Bool
  keepst : Bool
  deriving DecidableEq, Repr

/-- Bits lo to lo + n - 1 at a byte offset of a number. -/
def field (v off lo n : Nat) : Nat := v / 2 ^ (8 * off + lo) % 2 ^ n

/-- The fields of a configuration record; none where it is malformed (17 R323, R325). -/
def cfgRec (v : Nat) : Option CfgRec :=
  let n := field v 0x18 0 13
  let c := field v 0x18 16 5
  let nt := field v 0x1C 0 9
  let reserved := [(0x18, 21, 11), (0x18, 13, 3), (0x1C, 9, 23), (0x20, 3, 29), (0x24, 2, 30), (0x28, 0, 192)]
  if reserved.any (fun f => field v f.1 f.2.1 f.2.2 != 0) ∨ n = 0 ∨ 4096 < n ∨ c = 0 ∨ 16 < c ∨ 352 < nt then none
  else some {
    cmap := BitVec.ofNat 64 (field v 0 0 64), bias := BitVec.ofNat 64 (field v 8 0 64), tlist := BitVec.ofNat 64 (field v 16 0 64)
    n, c, ntile := nt, wsh := field v 0x20 0 3, keepcl := field v 0x24 1 1 = 1, keepst := field v 0x24 0 1 = 1 }

/-- A tile list entry (17 R324): pointer, target and source chunks; whether a reserved bit is set or a chunk out of range. -/
def tileEntry (r : CfgRec) (l : List Nat) : (DWord × Nat × Nat) × Bool :=
  let v := leNat l
  let tgt := field v 8 8 4
  let src := field v 8 0 5
  ((BitVec.ofNat 64 (field v 0 0 64), tgt, src),
    field v 8 12 52 != 0 || field v 8 5 3 != 0 || decide ((r.n + 191) / 192 ≤ src) || decide ((r.n + 255) / 256 ≤ tgt))

/-- GBCFG once its lists have been read (17 R325, R330). -/
def cfgApply (s : State) (sp : Spin) (r : CfgRec) (cmap bias tl : List Nat) : Got Spin :=
  let tiles := (chunks 16 tl).map (tileEntry r)
  if tiles.any (·.2) || cmap.any (fun b => decide (r.c ≤ b)) then .stop s (.trap causeRecord none)
  else if tiles.any (fun e => e.1.1.toNat % 64 != 0) then .stop s (.trap causeMisaligned none)
  else
    let cfg : SpinCfg := {
      n := r.n, c := r.c, wsh := r.wsh, cmap := cmap
      bias := (chunks 2 bias).map (fun l => (BitVec.ofNat 16 (leNat l)).toInt)
      tiles := tiles.map (·.1) }
    .ok s { sp with
      cfg := some cfg
      x := if r.keepst then sp.x &&& BitVec.ofNat 4096 (2 ^ r.n - 1) else 0
      lost := if r.keepst then sp.lost else none
      clm := if r.keepcl then sp.clm else 0
      clv := if r.keepcl then sp.clv else 0
      cnt := [], ste := false }

/-- GBCFG (17 R330), its checks in the order of 21 R399. -/
def gbcfgAct (x : XOps) (core slot : Nat) (t : Thread) (s : State) : Got Spin :=
  got s (do
    (s.core core).checkMapped slot (pairOf x.a)
    let p ← s.src64 core slot t x.lit x.a
    needAligned p 64
    .ok p) (fun p =>
  match s.krPieces core t p 1 with
  | .stop s st => .stop s st
  | .ok s v =>
    match cfgRec v with
    | none => .stop s (.trap causeRecord none)
    | some r =>
      if r.bias.toNat % 2 ≠ 0 ∨ r.tlist.toNat % 16 ≠ 0 then .stop s (.trap causeMisaligned none)
      else match State.gbBytes core t r.cmap r.n s with
        | .stop s st => .stop s st
        | .ok s cmap => match State.gbBytes core t r.bias (2 * r.n) s with
          | .stop s st => .stop s st
          | .ok s bias => match State.gbBytes core t r.tlist (16 * r.ntile) s with
            | .stop s st => .stop s st
            | .ok s tl => cfgApply s (s.spin core t) r cmap bias tl)

/-- GBCFG of a thread. -/
def gbcfgOne (x : XOps) (s : State) (core slot : Nat) (t : Thread) : State := s.spinDo core slot x.len (gbcfgAct x core slot t)

/-- The object of a spinner instruction and the configuration, for `n` bytes that depend on it (17 R329, 21 R399). -/
def State.spinObject (s : State) (core slot : Nat) (t : Thread) (x : XOps) (bytes : Nat → Nat) : Except Stop (Nat × SpinCfg) := do
  (s.core core).checkMapped slot [x.a]
  let a ← s.src32 core slot t x.lit x.a
  let o := (a + x.imm).toNat
  need (o % 16 == 0) causeMisaligned
  match (s.spin core t).cfg with
  | none => trap causeRecord
  | some cfg => do
    need (decide (o + bytes cfg.n ≤ (s.rcd t.lid).spad)) causeBounds
    .ok (s.spbase core t + o, cfg)

/-- Bytes of a bit vector of n variables. -/
def bitBytes (n : Nat) : Nat := (n + 7) / 8

/-- The bits of n bytes in the core store, or the lost word among them (10 R249). -/
def Core.storeBits (c : Core) (off n : Nat) : Except Stop (BitVec 4096) :=
  match c.badIn off n with
  | some w => .error (.ecc (w.1 * 4) w.2)
  | none => .ok (BitVec.ofNat 4096 (c.store.getN off n))

/-- The bits of the first n variables. -/
def lowBits (n : Nat) : BitVec 4096 := BitVec.ofNat 4096 (2 ^ n - 1)

/-- GBSET (17 R330): the states are whole again (10 R250; DEDUCED, log 33). -/
def gbsetAct (x : XOps) (core slot : Nat) (t : Thread) (s : State) : Got Spin :=
  let sp := s.spin core t
  got s (do
    let (o, cfg) ← s.spinObject core slot t x bitBytes
    let v ← (s.core core).storeBits o (bitBytes cfg.n)
    .ok (v, cfg)) (fun e =>
    let free := ~~~sp.clm &&& lowBits e.2.n
    .ok s { sp with x := (sp.x &&& ~~~free) ||| (e.1 &&& free), lost := none })

/-- GBSET of a thread. -/
def gbsetOne (x : XOps) (s : State) (core slot : Nat) (t : Thread) : State := s.spinDo core slot x.len (gbsetAct x core slot t)

/-- GBCLAMP (17 R330). -/
def gbclampAct (x : XOps) (core slot : Nat) (t : Thread) (s : State) : Got Spin :=
  let sp := s.spin core t
  got s (do
    let (o, cfg) ← s.spinObject core slot t x (fun n => 512 + bitBytes n)
    let m ← (s.core core).storeBits o (bitBytes cfg.n)
    let v ← (s.core core).storeBits (o + 512) (bitBytes cfg.n)
    .ok (m, v, cfg)) (fun e =>
    let set := e.1 &&& lowBits e.2.2.n
    .ok s { sp with clm := e.1, clv := e.2.1, x := (sp.x &&& ~~~set) ||| (e.2.1 &&& set) })

/-- GBCLAMP of a thread. -/
def gbclampOne (x : XOps) (s : State) (core slot : Nat) (t : Thread) : State := s.spinDo core slot x.len (gbclampAct x core slot t)

/-- A spinner whose sweep ended by an abort gives its reader an aborted value (10 R249, R250). -/
def Spin.whole (sp : Spin) (t : Thread) : Except Stop Unit :=
  match sp.lost with
  | none => .ok ()
  | some k => .error (.taint { order := 0, regs := [], treg := none, va := t.pc, kind := k, write := false, path := .gb, level := 0 })

/-- GBREAD (17 R330). -/
def gbreadAct (x : XOps) (core slot : Nat) (t : Thread) (s : State) : Got Spin :=
  let sp := s.spin core t
  let counts := x.sub.getLsbD 0
  got s (do
    let e ← s.spinObject core slot t x (fun n => if counts then 2 * n else bitBytes n)
    sp.whole t
    .ok e) (fun e =>
    let v := if counts then leNat ((List.range e.2.n).flatMap (fun i =>
        let c := ((tget sp.cnt i).getD 0 : BitVec 16).toNat
        [c % 256, c / 256])) else sp.x.toNat % 2 ^ e.2.n
    .ok (s.modCore core (·.writeStore e.1 (if counts then 2 * e.2.n else bitBytes e.2.n) v)) sp)

/-- GBREAD of a thread. -/
def gbreadOne (x : XOps) (s : State) (core slot : Nat) (t : Thread) : State := s.spinDo core slot x.len (gbreadAct x core slot t)

/-- GBSTAT (17 R330). -/
def gbstatAct (x : XOps) (core : Nat) (t : Thread) (s : State) : Got Spin :=
  let sp := s.spin core t
  .ok s { sp with cnt := if x.sub.getLsbD 0 then [] else sp.cnt, ste := x.sub.getLsbD 1 }

/-- GBSTAT of a thread. -/
def gbstatOne (x : XOps) (s : State) (core slot : Nat) (t : Thread) : State := s.spinDo core slot x.len (gbstatAct x core t)

/-- GBSEED (17 R330). -/
def gbseedAct (x : XOps) (core slot : Nat) (t : Thread) (s : State) : Got Spin :=
  let sp := s.spin core t
  got s (if x.sub = 0 then do
      need (!(s.rcd t.lid).det) causeIllegalOperand
      .ok SpinSrc.phys
    else if x.sub = 1 then do
      (s.core core).checkMapped slot (pairOf x.a)
      let v ← s.src64 core slot t x.lit x.a
      .ok (SpinSrc.ctr v)
    else do
      (s.core core).checkMapped slot [x.a]
      let v ← s.src32 core slot t x.lit x.a
      .ok (SpinSrc.fix (v.setWidth 16))) (fun src => .ok s { sp with src := src, swc := 0 })

/-- GBSEED of a thread. -/
def gbseedOne (x : XOps) (s : State) (core slot : Nat) (t : Thread) : State := s.spinDo core slot x.len (gbseedAct x core slot t)

/-- GBSWEEP's checks after those of its objects (17 R332, 21 R399). -/
def gbsweepBuild (x : XOps) (core slot : Nat) (t : Thread) (s : State) (_ : TaskArgs) : Got TaskOp :=
  match s.src32 core slot t x.lit x.a with
  | .error st => .stop s st
  | .ok b =>
    if (s.spin core t).cfg.isNone then .stop s (.trap causeRecord none)
    else buildIf s (b.toNat / 2 ^ 23 % 256 != 255) causeIllegalOperand
      (.gbsweep (x.sub.extractLsb' 0 1).toNat ((x.imm.extractLsb' 0 16).toNat + 1) b)

/-- GBSWEEP of a thread. -/
def gbsweepOne (x : XOps) (s : State) (core slot : Nat) (t : Thread) : State :=
  s.issueTask core slot t x (fun s => do
    (s.core core).checkMapped slot [x.a]
    s.taskArgs core slot t x [] 0xF8) (gbsweepBuild x core slot t)

/-- GBCFG. -/
def execGbcfg (x : XOps) (s : State) : Next := done (s.runInTurn x.len x.g (gbcfgOne x))
/-- GBSET. -/
def execGbset (x : XOps) (s : State) : Next := done (s.runInTurn x.len x.g (gbsetOne x))
/-- GBCLAMP. -/
def execGbclamp (x : XOps) (s : State) : Next := done (s.runInTurn x.len x.g (gbclampOne x))
/-- GBREAD. -/
def execGbread (x : XOps) (s : State) : Next := done (s.runInTurn x.len x.g (gbreadOne x))
/-- GBSTAT. -/
def execGbstat (x : XOps) (s : State) : Next := done (s.runInTurn x.len x.g (gbstatOne x))
/-- GBSEED. -/
def execGbseed (x : XOps) (s : State) : Next := done (s.runInTurn x.len x.g (gbseedOne x))
/-- GBSWEEP. -/
def execGbsweep (x : XOps) (s : State) : Next := done (s.runSeq x.len x.g (gbsweepOne x))

end Sys2Proof.Machine
end

