-- ==== Sys2Proof/Machine/System.lean ====
section
/-! DEFINITION. System registers (04 R113 to R115, 22 R456), the trap instructions and ERET (10 R246), cache and translation control
(20 R381 to R383, 10 R232, R254), and LNCH (21 R424). -/

namespace Sys2Proof.Machine
open Sys2Proof

/-- `s.lvid`i (02 R34): the block's index counts from level 2 upward. -/
def Thread.lvid (t : Thread) (r : LaunchRec) (i : Nat) : Nat :=
  if r.top ≤ i then 0
  else if i = 0 then t.lvid0
  else if i = 1 then t.lvid1
  else t.block / ((((r.levels.take (i + 1)).drop 3).map (·.1)).foldl (· * ·) 1) % r.size (i + 1)

/-- `s.lvsz`i (02 R34). -/
def LaunchRec.lvsz (r : LaunchRec) (i : Nat) : Nat := if r.top < i then 0 else r.size i

/-- The value of a system register as a thread reads it (04 R113). -/
def State.sysReg (s : State) (core slot : Nat) (t : Thread) (n : Nat) : Word :=
  let c := s.core core
  let r := s.rcd t.lid
  let bp := c.bpRegs r.ctx
  if 0x10 ≤ n ∧ n < 0x18 then BitVec.ofNat 32 (t.lvid r (n - 0x10))
  else if 0x18 ≤ n ∧ n < 0x20 then BitVec.ofNat 32 (r.lvsz (n - 0x18))
  else if 0x80 ≤ n then
    match (c.crew? (slot / 64)).bind (fun x => (x.rbm.toList[n - 0x80]?).getD none) with
    | some p => BitVec.ofNat 32 p
    | none => 0xFFFFFFFF
  else match n with
    | 0x00 => BitVec.ofNat 32 (slot % 64)
    | 0x01 => BitVec.ofNat 32 (slot / 64)
    | 0x02 => BitVec.ofNat 32 t.tid
    | 0x03 => BitVec.ofNat 32 t.block
    | 0x04 => BitVec.ofNat 32 core
    | 0x05 => BitVec.ofNat 32 (quadOf core)
    | 0x06 => BitVec.ofNat 32 (dieOf core)
    | 0x08 => (s.cycle core).extractLsb' 0 32
    | 0x09 => t.cyclehi
    | 0x20 => t.fstat
    | 0x21 => t.faddr.extractLsb' 0 32
    | 0x22 => t.faddr.extractLsb' 32 32
    | 0x23 => t.fidx
    | 0x24 => t.trapc
    | 0x25 => t.epc.extractLsb' 0 32
    | 0x26 => t.epc.extractLsb' 32 32
    | 0x30 => bp.count
    | 0x31 => bp.head
    | 0x32 => bp.base
    | 0x33 => bp.lost
    | 0x38 => if s.hasMarble core slot t then 1 else 0
    | 0x40 => t.stacklim
    | 0x41 => BitVec.ofNat 32 (s.spbase core t)
    | 0x42 => BitVec.ofNat 32 r.spad
    | 0x50 => t.rgflags
    | 0x60 => t.bndcnt
    | 0x70 => BitVec.ofNat 32 t.lid
    | _ => 0

/-- The register number of GETS and SETS. -/
def sysNum (x : XOps) : Nat := (x.imm.extractLsb' 0 12).toNat

/-- GETS of a thread (21 R402). -/
def getsOf (x : XOps) (s : State) (core slot : Nat) (t : Thread) : Except Stop (List Write) := do
  (s.core core).checkMapped slot [x.d]
  let w := s.sysReg core slot t (sysNum x)
  .ok (wr32 x.d w ++ (if sysNum x = 8 then [.cyclehi ((s.cycle core).extractLsb' 32 32)] else []))

/-- GETS. -/
def execGets (x : XOps) (s : State) : Next := done (s.runGroup x.len x.g (getsOf x))

/-- The registers that only handler mode writes (04 R113). -/
def sysHandler (n : Nat) : Bool := (0x20 ≤ n && n ≤ 0x26) || n == 0x40

/-- A write of a register of a thread's own (22 R456): bits shown as — stay 0 (00 R5). -/
def Thread.setSys (t : Thread) (n : Nat) (w : Word) : Thread :=
  match n with
  | 0x20 => { t with fstat := w &&& 0xFFFCFFFF }
  | 0x21 => { t with faddr := t.faddr.extractLsb' 32 32 ++ w }
  | 0x22 => { t with faddr := w ++ t.faddr.extractLsb' 0 32 }
  | 0x23 => { t with fidx := w }
  | 0x24 => { t with trapc := w }
  | 0x25 => { t with epc := t.epc.extractLsb' 32 32 ++ w }
  | 0x26 => { t with epc := w ++ t.epc.extractLsb' 0 32 }
  | 0x40 => { t with stacklim := w }
  | 0x50 => { t with rgflags := w &&& 1 }
  | 0x60 => { t with bndcnt := w }
  | _ => t

/-- A write of a register of a context on a core (04 R115, 22 R456). -/
def BpRegs.set (r : BpRegs) (n : Nat) (w : Word) : BpRegs :=
  match n with
  | 0x30 => { r with count := w }
  | 0x31 => { r with head := w &&& 0x7FF }
  | 0x32 => { r with base := w }
  | 0x33 => { r with lost := w }
  | _ => r

/-- SETS of a thread (22 R456). -/
def setsOne (x : XOps) (s : State) (core slot : Nat) (t : Thread) : State :=
  let n := sysNum x
  s.finish core x.len slot (do
    need (!(sysHandler n && t.mode == .user)) causePrivilege
    let w ← s.src32 core slot t x.lit x.a
    .ok (fun s =>
      if 0x30 ≤ n ∧ n ≤ 0x33 then s.modCore core (fun c => c.setBp (s.ctxOf t) ((c.bpRegs (s.ctxOf t)).set n w))
      else s.modThread core slot (·.setSys n w)))

/-- SETS. -/
def execSets (x : XOps) (s : State) : Next := done (s.runSeq x.len x.g (setsOne x))

/-- ERET of a thread (10 R246). -/
def eretOne (len : Nat) (s : State) (core slot : Nat) (t : Thread) : State :=
  s.finish core len slot (do
    need (t.mode == .handler) causePrivilege
    need (t.epc.extractLsb' 0 2 == 0) causeMisaligned
    .ok (fun s => s.modThread core slot Thread.leave))

/-- ERET. -/
def execEret (x : XOps) (s : State) : Next := done (s.runSeq x.len x.g (eretOne x.len))

/-- A trap that an instruction takes on purpose: `s.epc` holds the next instruction, `s.fstat` the code (10 R244, R246). -/
def trapOne (cause code len : Nat) (s : State) (core slot : Nat) (t : Thread) : State :=
  ((s.modCore core (·.advance slot len)).modThread core slot (fun t => { t with fstat := BitVec.ofNat 32 code })).takeTrap
    core slot cause (t.pc + BitVec.ofNat 64 len)

/-- SVC. -/
def execSvc (x : XOps) (s : State) : Next := done (s.runSeq x.len x.g (trapOne causeSvc (x.imm.extractLsb' 0 16).toNat x.len))
/-- BRK. -/
def execBrk (g : Guard) (s : State) : Next := done (s.runSeq 4 g (trapOne causeBrk 0 4))
/-- BRK, X-form. -/
def execBrkX (x : XOps) (s : State) : Next := done (s.runSeq x.len x.g (trapOne causeBrk 0 x.len))
/-- TRAP. -/
def execTrap (o : STrap) (s : State) : Next := done (s.runSeq 4 o.g (trapOne causeTrap o.code.toNat 4))
/-- TRAP, X-form. -/
def execTrapX (x : XOps) (s : State) : Next := done (s.runSeq x.len x.g (trapOne causeTrap (x.imm.extractLsb' 0 8).toNat x.len))

/-- The part of a range of addresses on one 64 KiB piece that CCTL acts on: first and last line by physical address, and whether the
piece lies on an NQ page (20 R382). None where its walk or the bounds check gives nothing. -/
def State.cctlPiece (s : State) (ctx rid lo hi piece : Nat) : Option (Nat × Nat × Bool) :=
  let at_ := max lo (piece * 65536)
  if 0x00FD000000000000 ≤ at_ then none
  else match s.fresh? ctx at_ rid with
    | .error _ => none
    | .ok e =>
      let (w0, w1) := e.bound
      let whole := decide (rid = 0) && leafRid e.leaf == 0
      let good := w0.extractLsb' 56 8 == 0 && w1.extractLsb' 59 4 == 0 && w1.getLsbD 63 && w1.getLsbD 56 && leafRid e.leaf == rid
      let a := if whole then at_ else max at_ (w0.extractLsb' 0 56).toNat
      let b := let h := min hi (piece * 65536 + 65536)
        if whole then h else min h (w1.extractLsb' 0 56).toNat
      if leafMigrating e.leaf .read ∨ leafTier e.leaf = 2 ∨ !(whole || (rid != 0 && good)) ∨ b ≤ a then none
      else
        let o := a - e.va
        let z := b - 1 - e.va
        if leafNq e.leaf then
          let bb := nqPlanes (leafFmt e.leaf) * leafBlen e.leaf / 8
          some ((leafFrame e.leaf + o / leafBlen e.leaf * bb) / 128, (leafFrame e.leaf + z / leafBlen e.leaf * bb) / 128, true)
        else some ((leafFrame e.leaf + o) / 128, (leafFrame e.leaf + z) / 128, false)

/-- The line ranges of n pieces from one upward. -/
def State.cctlPieces (s : State) (ctx rid lo hi first n : Nat) : List (Nat × Nat × Bool) :=
  (List.range n).filterMap (fun i => s.cctlPiece ctx rid lo hi (first + i))

/-- The line ranges of a CCTL range: n bytes from a pointer, widened to whole lines (20 R382). -/
def State.cctlRange (s : State) (ctx : Nat) (ptr : DWord) (n : Nat) : List (Nat × Nat × Bool) :=
  let va := (ptr.extractLsb' 0 56).toNat
  let rid := (ptr.extractLsb' 56 8).toNat
  let lo := va / 128 * 128
  let hi := (va + n + 127) / 128 * 128
  if n = 0 then [] else s.cctlPieces ctx rid lo hi (lo / 65536) ((hi - 1) / 65536 + 1 - lo / 65536)

/-- What the walks of a CCTL range do beside finding its pages (08 R189). -/
def State.cctlWalks (s : State) (ctx : Nat) (ptr : DWord) (n : Nat) : State :=
  let va := (ptr.extractLsb' 0 56).toNat
  let lo := va / 128 * 128
  let hi := (va + n + 127) / 128 * 128
  if n = 0 then s
  else (List.range ((hi - 1) / 65536 + 1 - lo / 65536)).foldl (fun s i =>
    s.sawWalk ctx (ptr.extractLsb' 56 8 ++ BitVec.ofNat 56 (max lo ((lo / 65536 + i) * 65536)))) s

/-- Whether a line lies in one of the ranges; an NQ page's lines count for operation 5 alone. -/
def inRanges (rs : List (Nat × Nat × Bool)) (nq : Bool) (addr : Nat) : Bool :=
  rs.any (fun r => decide (r.1 ≤ addr) && decide (addr ≤ r.2.1) && (nq || !r.2.2))

/-- Writes back the lines of a launch's share that a test picks: update-only ones are sent (20 R382). -/
def State.wbLines (s : State) (core lid : Nat) (p : Nat → Bool) : State :=
  ((s.core core).lines.filter (fun l => l.lid == lid && p l.addr)).foldl
    (fun s l => if l.upd.isSome then s.sendLine core l else s.writeBack core l) s

/-- Drops the clean lines of a launch's share that a test picks. -/
def Core.dropLines (c : Core) (lid : Nat) (p : Nat → Bool) : Core :=
  { c with lines := c.lines.filter (fun l => !(l.lid == lid && p l.addr && l.dirty == 0 && l.upd.isNone)) }

/-- Operation 5 on one line of a slice: dirty sectors go to DRAM or the CXL device, the line is dropped, and a pin's promise breaks with
cause EVICT. The numbers are those of CXL writes to wait for (20 R382, R383). -/
def State.l2wbLine (acc : State × List Nat) (l : L2Line) : State × List Nat :=
  let s := l.pins.foldl (fun s p => s.delay p 1) acc.1
  let s := { s with l2 := s.l2.filter (fun x => !(x.slice == l.slice && x.addr == l.addr)) }
  match s.locate (l.addr * 128) with
  | .ok k =>
    if l.dirty ≠ 0 ∧ k.cxl then
      ({ s with cxlAwait := s.cxlAwait ++ [(s.seq, l.slice / 64)], seq := s.seq + 1 }, acc.2 ++ [s.seq])
    else (s, acc.2)
  | .error _ => (s, acc.2)

/-- Operation 5 on ranges: pending update-only copies are pulled first. -/
def State.l2wb (s : State) (rs : List (Nat × Nat × Bool)) : State × List Nat :=
  let held := s.cores.flatMap (fun e => (e.2.lines.filter (fun l => l.upd.isSome && inRanges rs true l.addr)).map (·.addr))
  let s := held.foldl State.pull s
  (s.l2.filter (fun l => inRanges rs true l.addr)).foldl State.l2wbLine (s, [])

/-- The operands of a CCTL: its pointer and its count (20 R381). -/
def cctlArgs (x : XOps) (s : State) (core slot : Nat) (t : Thread) : Except Stop (DWord × Nat) := do
  let op := (x.sub.extractLsb' 0 3).toNat
  need (!(op == 5 && t.mode == .user)) causePrivilege
  if op = 3 ∨ op = 4 then .ok (0, 0)
  else do
    (s.core core).checkMapped slot (baseCodes x ++ [x.b])
    let p ← s.address core slot t x x.imm.toInt
    let n ← s.src32 core slot t x.lit x.b
    .ok (p, n.toNat)

/-- CCTL of a thread (20 R382, R383) (DEDUCED, log 53). -/
def cctlOne (x : XOps) (s : State) (core slot : Nat) (t : Thread) : State :=
  s.finish core x.len slot (do
    let (p, n) ← cctlArgs x s core slot t
    let rs := s.cctlRange (s.ctxOf t) p n
    let all := fun _ : Nat => true
    let mine := inRanges rs false
    .ok (fun s =>
      let s := s.cctlWalks (s.ctxOf t) p n
      match (x.sub.extractLsb' 0 3).toNat with
      | 0 => s.wbLines core t.lid mine
      | 1 => s.modCore core (·.dropLines t.lid mine)
      | 2 => (s.wbLines core t.lid mine).modCore core (·.dropLines t.lid mine)
      | 3 => s.wbLines core t.lid all
      | 4 => s.modCore core (·.dropLines t.lid all)
      | _ =>
        let (s, ids) := s.l2wb rs
        if ids.isEmpty then s else s.modThread core slot (fun t => { t with park := some (.writes ids) })))

/-- CCTL. -/
def execCctl (x : XOps) (s : State) : Next := done (s.holding x (·.runSeq x.len x.g (cctlOne x)))

/-- ICINV of a thread (10 R254): a piece asked for through a window before it is not taken when it comes (21 R406). -/
def icinvOne (x : XOps) (s : State) (core slot : Nat) (t : Thread) : State :=
  (s.modCore core (·.advance slot x.len)).fence (x.imm.extractLsb' 0 3).toNat core t.lid 0x40

/-- ICINV. -/
def execIcinv (x : XOps) (s : State) : Next := done (s.runSeq x.len x.g (icinvOne x))

/-- What a TLBINV names (10 R232): all, a context, or the page of an address in one. -/
inductive TlbSet where
  | all
  | ctx (c : Nat)
  | page (c va : Nat)
  deriving DecidableEq, Repr

/-- Whether a translation belongs to it. -/
def TlbSet.hits (k : TlbSet) (e : Tlb) : Bool :=
  match k with
  | .all => true
  | .ctx c => e.ctx == c
  | .page c va => e.ctx == c && decide (e.va ≤ va) && decide (va < e.va + e.size)

/-- The operands of TLBINV and its checks (10 R232, 22 R469). -/
def tlbinvArgs (x : XOps) (s : State) (core slot : Nat) (t : Thread) : Except Stop TlbSet := do
  let op := (x.sub.extractLsb' 0 2).toNat
  need (t.mode == .handler) causePrivilege
  let set ← match op with
    | 0 => do
      (s.core core).checkMapped slot (pairOf x.a ++ [x.b])
      let p ← s.src64 core slot t none x.a
      let c ← s.src32 core slot t none x.b
      .ok (TlbSet.page c.toNat (p.extractLsb' 0 56).toNat)
    | 1 => do
      let c ← s.src32 core slot t none x.a
      .ok (TlbSet.ctx c.toNat)
    | _ => .ok TlbSet.all
  let own := s.ctxOf t
  let svc := (s.ctxctl own).getLsbD 2
  match set with
  | .all => do
    need svc causeProtection
    .ok set
  | .ctx c | .page c _ => do
    need (decide (c ≤ 63)) causeIllegalOperand
    need (svc || c == own) causeProtection
    .ok set

/-- Window requests that used a translation which goes: TLBINV waits for their end (10 R232). -/
def State.usedBy (s : State) (gone : List Tlb) : List Nat :=
  (s.fabric.filter (fun f => gone.any (fun e =>
    e.ctx == f.ctx && decide (e.va ≤ (f.va.extractLsb' 0 56).toNat) && decide ((f.va.extractLsb' 0 56).toNat < e.va + e.size)))).map (·.id)

/-- Drops the translations of a set everywhere, with those that were dropped. -/
def State.dropTlbs (s : State) (k : TlbSet) : State × List Tlb :=
  ({ s with cores := s.cores.map (fun (e : Nat × Core) => (e.1, { e.2 with
      tlb := e.2.tlb.filter (fun x => !k.hits x)
      walkAhead := e.2.walkAhead.filter (fun x => !k.hits x) })) },
   s.cores.flatMap (fun e => (e.2.tlb ++ e.2.walkAhead).filter k.hits))

/-- TLBINV of a thread (10 R232): it waits for the accesses that used what it drops. -/
def tlbinvOne (x : XOps) (s : State) (core slot : Nat) (t : Thread) : State :=
  s.finish core x.len slot (do
    let k ← tlbinvArgs x s core slot t
    .ok (fun s =>
      let (s, gone) := s.dropTlbs k
      let ids := s.usedBy gone
      if ids.isEmpty ∧ !s.storesHeld core slot t gone then s
      else s.modThread core slot (fun t => { t with park := some (.flushed ids gone) })))

/-- TLBINV. -/
def execTlbinv (x : XOps) (s : State) : Next := done (s.holding x (·.runSeq x.len x.g (tlbinvOne x)))

/-- LNCH of a thread (21 R424): its checks come first; the region commits, the stores of its core are published, and the request goes to its die. -/
def lnchOne (x : XOps) (s : State) (core slot : Nat) (t : Thread) : State :=
  let ptr : Except Stop DWord := do
    (s.core core).checkMapped slot (baseCodes x)
    let p ← s.address core slot t x x.imm.toInt
    needAligned p 256
    .ok p
  match ptr with
  | .error st => s.stop core slot st
  | .ok p =>
    s.commitStay core slot (fun s =>
      match s.needMarble core slot t with
      | .error st => s.stop core slot st
      | .ok _ =>
        let (id, s) := (s.publishShare core t.lid).fresh
        let r : Request := { id, die := dieOf core, va := p, ctx := s.ctxOf t, from_ := .thread core slot }
        { s with waiting := s.waiting ++ [r] }.modThread core slot (fun t => { t with park := some (.lnch id (x.d.setWidth 3) x.len) }))

/-- LNCH. -/
def execLnch (x : XOps) (s : State) : Next := done (s.runSeq x.len x.g (lnchOne x))

end Sys2Proof.Machine
end

