-- ==== Sys2Proof/Machine/Launch.lean ====
section
/-! DEFINITION. The launch controllers: launch requests and their acceptance (02 R35 to R42), the dispatch order, placement and
resumption of blocks (02 R43 to R52), block and launch completion (02 R47, R59). -/

namespace Sys2Proof.Machine
open Sys2Proof

/-- A launch record as the controller copies it (02 R35); `v` is its 256 bytes, least significant first. -/
def launchRec (v : Nat) : LaunchRec where
  entry := BitVec.ofNat 64 (field v 0x00 0 64)
  traph := BitVec.ofNat 64 (field v 0x08 0 64)
  param := BitVec.ofNat 64 (field v 0x10 0 64)
  top := field v 0x18 8 3
  mcls := BitVec.ofNat 2 (field v 0x18 6 2)
  cls := field v 0x18 4 2
  reg := field v 0x18 2 1 == 1
  rbk := field v 0x18 1 1 == 1
  det := field v 0x18 0 1 == 1
  nlog := field v 0x1C 0 9
  levels := (List.range 8).map (fun i => (field v (0x20 + 8 * i) 0 32, field v (0x20 + 8 * i) 32 3, field v (0x20 + 8 * i) 36 3))
  resv := field v 0x60 16 8
  rbmax := field v 0x60 8 8
  rbinit := field v 0x60 0 8
  spad := field v 0x64 0 32
  l1kib := field v 0x68 0 16
  sbuf := field v 0x6C 0 32
  preds := ((List.range 4).map (fun j => field v (0x70 + 4 * j) 0 32)).filter (· != 0)
  lid := field v 0x80 0 32
  owner := BitVec.ofNat 16 (field v 0x84 16 16)
  ctx := field v 0x84 0 6
  stack := BitVec.ofNat 64 (field v 0x88 0 64)
  stkb := BitVec.ofNat 32 (field v 0x90 0 32)
  tkind := field v 0x98 62 2
  tgt := BitVec.ofNat 64 (field v 0x98 0 62)
  cval := BitVec.ofNat 64 (field v 0xA0 0 64)

/-- The reserved bits of a record, and STATUS, which is zero on submission: offset, lowest bit, number (02 R35, R36). -/
def launchReserved : List (Nat × Nat × Nat) :=
  [(0x18, 11, 21), (0x18, 3, 1), (0x1C, 9, 23), (0x60, 24, 8), (0x68, 16, 16), (0x84, 6, 10), (0x94, 0, 32), (0xA8, 0, 64), (0xB0, 0, 640)]
  ++ (List.range 8).flatMap (fun i => [(0x20 + 8 * i, 39, 25), (0x20 + 8 * i, 35, 1)])

/-- The domain of level i. -/
def LaunchRec.dom (r : LaunchRec) (i : Nat) : Nat := ((r.levels[i]?).map (·.2.1)).getD 0

/-- The scope of level i. -/
def LaunchRec.scope (r : LaunchRec) (i : Nat) : Nat := ((r.levels[i]?).map (·.2.2)).getD 0

/-- The user levels of a record. -/
def LaunchRec.users (r : LaunchRec) : List Nat := (List.range (r.top + 1)).drop 3

/-- The level conditions (02 R31, R32, R36). -/
def LaunchRec.levelsBad (r : LaunchRec) : Bool :=
  decide (r.top < 2)
  || (r.levels.drop (r.top + 1)).any (fun l => l.1 != 0 || l.2.1 != 0 || l.2.2 != 0)
  || [0, 1, 2].any (fun i => r.dom i != i || r.scope i != i)
  || r.size 0 != 1 || r.size 1 == 0 || decide (64 < r.size 1) || r.size 2 == 0 || decide (32 < r.size 2)
  || r.users.any (fun i => r.size i == 0 || r.dom i == 1 || r.dom i == 2 || decide (r.scope i < 2) || decide (r.scope i < r.dom i))
  || decide (2 ^ 24 < r.blocks)
  || r.users.any (fun i => r.dom i != 0 && r.users.any (fun j => decide (i < j) && r.dom j != 0 && decide (r.dom j < r.dom i)))

/-- The resource and alignment conditions (02 R36). -/
def LaunchRec.sizesBad (r : LaunchRec) : Bool :=
  decide (r.rbmax < r.rbinit) || decide (r.resv < r.rbmax - r.rbinit)
  || (r.reg && decide (r.sbuf < 512 * r.size 1 * r.size 2))
  || decide (0x200000 < r.spad + r.sbuf + r.size 2 * r.rbinit * 2048 + r.l1kib * 1024)
  || (r.det && r.nlog == 0) || (!r.det && r.nlog != 0) || decide (256 < r.nlog)
  || r.tkind == 3 || r.preds.contains r.lid || r.lid == 0
  || r.rbinit == 0 || decide (28 < r.rbinit) || r.rbmax == 0 || decide (28 < r.rbmax) || decide (28 < r.resv)
  || decide (r.l1kib < 256) || decide (1024 < r.l1kib) || r.l1kib % 64 != 0
  || r.spad % 256 != 0 || r.sbuf % 32 != 0 || r.stkb.toNat % 16 != 0
  || r.entry.toNat % 4 != 0 || r.param.toNat % 8 != 0 || r.stack.toNat % 16 != 0
  || (r.tkind == 1 && r.tgt.toNat % 8 != 0) || (r.tkind == 2 && r.tgt.toNat / 2 ^ 32 != 0)

/-- Cores of an instance of a domain (02 R31). -/
def domCores (dom : Nat) : Nat := if dom = 3 then 2 else if dom = 4 then 16 else 64

/-- The gang-launched levels of a record, outermost first: cores of the domain, blocks of a unit (02 R33). -/
def LaunchRec.gangs (r : LaunchRec) : List (Nat × Nat) :=
  (r.users.filter (fun i => decide (3 ≤ r.dom i) && decide (r.dom i ≤ 5))).reverse.map (fun i =>
    (domCores (r.dom i), (((r.levels.take (i + 1)).drop 3).map (·.1)).foldl (· * ·) 1))

/-- A unit of a gang-launched level of a DET record does not map onto logical cores inside one domain (02 R48, R50). -/
def LaunchRec.detBad (r : LaunchRec) : Bool :=
  r.det && r.gangs.any (fun g =>
    if r.nlog ≤ g.2 then decide (g.1 < r.nlog)
    else (List.range (min (r.blocks / g.2) r.nlog)).any (fun u =>
      (List.range g.2).any (fun j => (u * g.2 + j) % r.nlog / g.1 != u * g.2 % r.nlog / g.1)))

/-- A record that is malformed for what it holds (02 R32, R36, R48). -/
def launchBad (v : Nat) : Bool :=
  let r := launchRec v
  launchReserved.any (fun f => field v f.1 f.2.1 f.2.2 != 0) || r.levelsBad || r.sizesBad || r.detBad

/-- An access of a controller or of the host to translated memory of a context: its physical address and leaf, and the translation
(02 R38, 19 R339). Windows and element pages give none. -/
def State.plain (s : State) (ctx : Nat) (ptr : DWord) (n : Nat) (a : Acc) (path : Path) : Option (Nat × DWord) :=
  if 0x00FD000000000000 ≤ (ptr.extractLsb' 0 56).toNat then none
  else match s.xlate [] ctx ptr n a path with
    | .error _ => none
    | .ok e =>
      if leafTier e.leaf = 2 ∨ leafNq e.leaf then none
      else some (leafFrame e.leaf + ((ptr.extractLsb' 0 56).toNat - e.va), e.leaf)

/-- Reads n bytes of plain memory at the point of coherence, granule by granule; `m` pieces of at most 64 bytes. -/
def State.readRun (s : State) (ctx : Nat) (mac : Bool) (pa n : Nat) : Nat → Except FaultKind Nat
  | 0 => .ok 0
  | m + 1 =>
    let k := min n (64 - pa % 64)
    if k = 0 then .ok 0
    else match s.readPa ctx mac pa k with
      | .error e => .error e
      | .ok v =>
        match State.readRun s ctx mac (pa + k) (n - k) m with
        | .error e => .error e
        | .ok r => .ok (v + 256 ^ k * r)

/-- Writes n bytes of plain memory at the point of coherence. -/
def State.writeRun (s : State) (ctx : Nat) (mac : Bool) (pa n v : Nat) : Nat → Except FaultKind State
  | 0 => .ok s
  | m + 1 =>
    let k := min n (64 - pa % 64)
    if k = 0 then .ok s
    else match s.writePa ctx mac pa k v with
      | .error e => .error e
      | .ok s => State.writeRun s ctx mac (pa + k) (n - k) (v / 256 ^ k) m

/-- Reads the 256 bytes of a launch record (02 R37): at its point of coherence (DEDUCED, log 52). -/
def State.readRecord (s : State) (ctx : Nat) (va : DWord) : State × Option Nat :=
  let found := s.plain ctx va 256 .read .kr
  let s := s.sawWalk ctx va
  match found with
  | none => (s, none)
  | some (pa, leaf) =>
    let s := (s.pull (pa / 128)).pull (pa / 128 + 1)
    match s.readRun ctx (leafMac leaf) pa 256 4 with
    | .ok v =>
      let r := pathReq leaf (leafRet leaf)
      ((s.l2Access pa 128 false r).l2Access (pa + 128) 128 false r, some v)
    | .error _ => (s, none)

/-- A controller's store of 8 bytes in a context, on a page of any format (10 R227) or through a window (19 R344), where `waits` names who has
its answer; the Boolean says whether it was made, or sent. -/
def State.store8 (s : State) (ctx : Nat) (va : DWord) (v : DWord) (waits : FabFor) : State × Bool :=
  let found := s.resolve 0 0 ctx [] false .other va 8 .write .ls
  let s := s.sawWalk ctx va
  match found with
  | .error _ => (s, false)
  | .ok (.fabric win off, _) => (s.sendFabric ctx waits va win off 8 (.write v.toNat), true)
  | .ok (target, _) =>
    let s := (linesOf (target.touched 8)).foldl State.pull s
    match s.slotWrite ctx target 0 8 v.toNat false with
    | .ok (s, _) => (s, true)
    | .error _ => (s, false)

/-- Writes STATUS of a record (02 R42); one that cannot be written stays as it is. -/
def State.setStatus (s : State) (ctx : Nat) (va : DWord) (v : DWord) : State :=
  let found := s.plain ctx (addOff va 0xA8) 8 .write .ls
  let s := s.sawWalk ctx (addOff va 0xA8)
  match found with
  | none => s
  | some (pa, leaf) =>
    let s := s.pull (pa / 128)
    match s.slotWrite ctx (.mem pa leaf) 0 8 v.toNat false with
    | .ok (s, _) => s
    | .error _ => s

/-- What a controller answers to a request. -/
inductive Verdict where
  | accept
  | refuse (reason : Nat)
  deriving DecidableEq, Repr

/-- Answers a request (02 R39, 21 R424): a fabric message, or the predicate of LNCH. In a DET launch a request refused for a full
table is sent again. -/
def State.reply (s : State) (r : Request) (v : Verdict) : State :=
  match r.from_ with
  | .host m => match v with
    | .accept => s
    | .refuse n => s.answer m (.refuse m n)
  | .thread core slot =>
    match s.thread? core slot with
    | none => s
    | some t =>
      match t.park with
      | some (.lnch id pd len) =>
        if id ≠ r.id then s
        else if v = .refuse 1 ∧ (s.rcd t.lid).det then { s with waiting := s.waiting ++ [r] }
        else s.modCore core (fun c => (c.goOn slot len).modThread slot (·.setPred pd (v == .accept)))
      | _ => s

/-- Launches a die's table holds. -/
def State.tableLoad (s : State) (die : Nat) : Nat := (s.launches.filter (fun l => l.die == die)).length

/-- The RBK block that a LNCH came from: launch and block. -/
def State.rbkFrom (s : State) (r : Request) : Option (Nat × Nat) :=
  match r.from_ with
  | .host _ => none
  | .thread core slot => (s.thread? core slot).bind (fun t => if (s.rcd t.lid).rbk then some (t.lid, t.block) else none)

/-- The LIDs accepted from an RBK block since its checkpoint, each with whether a rollback has still to repeat its LNCH (10 R252). -/
def State.lnchList (s : State) (k : Nat × Nat) : List (Nat × Bool) :=
  match s.launch? k.1 with
  | some l => (l.lnch.filter (fun e => e.1 == k.2)).map (·.2)
  | none => []

/-- A LNCH that a rollback repeats has been answered: its entry stays on the list (10 R252). -/
def State.repeated (s : State) (q : Option (Nat × Nat)) (lid : Nat) : State :=
  match q with
  | some k => s.modLaunch k.1 (fun l => { l with lnch := l.lnch.map (fun e => if e.1 = k.2 ∧ e.2.1 = lid then (e.1, e.2.1, false) else e) })
  | none => s

/-- Whether a record may name its context for a request (02 R38): the requester's, or one bound to the host's owner key; and it is
enabled (10 R229). -/
def State.ctxAllowed (s : State) (q : Request) (ctx : Nat) : Bool :=
  (s.ctxctl ctx).getLsbD 0
  && (ctx == q.ctx || (match q.from_ with
    | .host m => s.owner ctx == m.tag
    | .thread _ _ => false))

/-- A launch as it enters a table (02 R39). -/
def newLaunch (r : LaunchRec) (q : Request) (order : Nat) : Launch where
  rcd := r
  va := q.va
  home := q.ctx
  die := q.die
  order := order
  next := 0
  done := 0
  ended := none
  await := none
  timedep := false
  passed := []
  marble := if r.det then some (0, 0) else none
  logical := []
  saved := []
  lnch := []

/-- Accepts a launch: it takes a table entry and STATUS becomes 1 (02 R39, R42). -/
def State.accept (s : State) (q : Request) (r : LaunchRec) : State :=
  let (n, s) := s.fresh
  let s := { s with launches := s.launches ++ [newLaunch r q n] }
  let s := match s.rbkFrom q with
    | some k => s.modLaunch k.1 (fun l => { l with lnch := l.lnch ++ [(k.2, r.lid, false)] })
    | none => s
  (s.setStatus q.ctx q.va 1).reply q .accept

/-- Decides one request (02 R38 to R41) (DEDUCED, log 51). The first LNCH of a listed LID after a rollback of its block is the one that the rollback
repeats: it is answered as before, also at a full table (10 R252, 21 R425). -/
def State.decideReq (s : State) (q : Request) : State :=
  let list := ((s.rbkFrom q).map s.lnchList).getD []
  let held := (list.filter (·.2)).map (·.1)
  let full := decide (1024 ≤ s.tableLoad q.die)
  if full && held.isEmpty then s.reply q (.refuse 1)
  else if q.va.toNat % 256 ≠ 0 then s.reply q (.refuse 2)
  else match s.readRecord q.ctx q.va with
    | (s, none) => s.reply q (.refuse (if full then 1 else 3))
    | (s, some v) =>
      let r := launchRec v
      if held.contains r.lid then (s.repeated (s.rbkFrom q) r.lid).reply q .accept
      else if full then s.reply q (.refuse 1)
      else if launchBad v ∨ !s.ctxAllowed q r.ctx ∨ (s.launch? r.lid).isSome then (s.setStatus q.ctx q.va 5).reply q (.refuse 2)
      else if 4096 ≤ list.length then s.reply q (.refuse 1)
      else s.accept q r

/-- ACCEPTANCE_TOKEN (02 R40): the die that holds the token decides the requests that wait at it and passes it on. -/
def execAcceptanceToken (s : State) : Next :=
  let die := s.token
  let mine := s.waiting.filter (fun q => q.die == die)
  let s := { s with waiting := s.waiting.filter (fun q => q.die != die), token := (die + 1) % 4 }
  done (mine.foldl State.decideReq s)

/-- Whether an inbound message passes its port (19 R340, R341, R354). -/
def State.inbound (s : State) (m : Sender) : Bool := s.boot == .running && s.portUp m.port && s.admits m.port m.tag

/-- A flit that passes ends a run of failed replays on its port (19 R342). -/
def State.heard (s : State) (port : Nat) : State := { s with replays := tdel s.replays port }

/-- What a message that passes its port does; one that does not is dropped and counted (19 R341). -/
def State.receive (s : State) (m : Sender) (f : State → State) : Next :=
  if s.inbound m then done (f (s.heard m.port)) else if s.portUp m.port then done (s.countDrop m.port) else done s

/-- LAUNCH (02 R38): the request waits at the controller of its die. -/
def execLaunch (m : Sender) (die : Nat) (va : BitVec 64) (ctx : Nat) (s : State) : Next :=
  s.receive m (fun s =>
    let (id, s) := s.fresh
    { s with waiting := s.waiting ++ [({ id, die := die % 4, va, ctx := ctx % 64, from_ := .host m } : Request)] })

/-- Whether the controllers may use a core: its island has no OPP 0 requested, and it still takes new blocks (02 R48, 19 R351, R357). -/
def State.usable (s : State) (core : Nat) : Bool := s.oppWanted (core / 2) != 0 && !s.retired.contains core

/-- Whether a core takes new blocks of a launch: one of RBK = 1 needs its shadow area, too (10 R253). -/
def State.takes (s : State) (core : Nat) (r : LaunchRec) : Bool :=
  s.usable core && (!r.rbk || (s.cw4 (dieOf core) (0x61000 + core % 64 * 8)).getLsbD 0)

/-- A core with an L1 share for a launch (02 R48). The launch starts on it with its first block, which is a refresh: no copy that a path holds
is read again (08 R178, 19 R339). -/
def Core.withShare (c : Core) (r : LaunchRec) : Core :=
  if (tget c.shares r.lid).isSome then c
  else { c with shares := c.shares ++ [(r.lid, r.l1kib)], constant := [], icache := [], gbuffers := [] }

/-- A core with blocks put at free scratchpads, their bases in order; none when one finds no room (04 R87). -/
def State.withBlocks (s : State) (c : Core) : List Block → Option (Core × List Nat)
  | [] => some (c, [])
  | b :: rest =>
    match s.pickSpad c (s.rcd b.lid).spad with
    | none => none
    | some i =>
      let base := i * 256
      (State.withBlocks s { c with blocks := c.blocks ++ [{ b with spbase := base }], place := c.place / 8192 } rest).map (fun x => (x.1, base :: x.2))

/-- Whether a core has room for blocks of a launch with so many crews and register blocks; the scratchpad bases they take, and the place
of what follows (02 R48). -/
def State.roomAt (s : State) (core : Nat) (r : LaunchRec) (bs : List Block) (crews regs place : Nat) : Option (List Nat × Nat) :=
  let c := s.core core
  if s.takes core r ∧ c.crews.length + c.claimedCrews + crews ≤ 32 then
    match s.withBlocks { (c.withShare r) with place := place } bs with
    | none => none
    | some (c', bases) =>
      if s.blockBytes c' + c'.l1Bytes ≤ 0x200000 ∧ regs + s.reserve c' ≤ s.freeBlocks c' then some (bases, c'.place) else none
  else none

/-- The same from the core's own place, or from the lowest one where the first leaves too little. -/
def State.room (s : State) (core : Nat) (r : LaunchRec) (bs : List Block) (crews regs : Nat) : Option (List Nat × Nat) :=
  match s.roomAt core r bs crews regs (s.core core).place with
  | some x => some x
  | none => s.roomAt core r bs crews regs 0

/-- Creates a crew of a new block with its threads (02 R27, R29). -/
def State.newCrewOf (r : LaunchRec) (core block : Nat) (s : State) (i : Nat) : State :=
  let (n, s) := s.fresh
  let (crew, c) := (s.core core).takeCrew (s.core core).freeCrews
  let s := s.setCore core (
    let c := c.setCrew crew (newCrew r.lid (block * r.size 2 + i, 0) n)
    (List.range (r.size 1)).foldl (fun c lane => c.setThread (crew * 64 + lane) (newThread r block lane i)) c)
  s.mapEntries core crew 0 r.rbinit

/-- Places a new block on a core: its scratchpad reads 0, its crews are made, and its parameter block is read (02 R27, R48, R475,
04 R88). -/
def State.putBlock (s : State) (core lid index : Nat) : Option State :=
  let r := s.rcd lid
  match s.room core r [newBlock r index 0 0] (r.size 2) (r.size 2 * r.rbinit) with
  | none => none
  | some (bases, place) =>
    let base := bases.headD 0
    let (n, s) := s.fresh
    let s := s.modCore core (fun c => { (c.withShare r) with
      blocks := c.blocks ++ [newBlock r index base n]
      store := c.store.clear base r.spad
      place := place
      bad := c.bad.filter (fun w => decide (w.1 * 4 < base) || decide (base + r.spad ≤ w.1 * 4)) })
    let s := (List.range (r.size 2)).foldl (State.newCrewOf r core index) s
    some (s.startBlock core lid index)

/-- The checkpoints of saved blocks follow them to the core where they resume (10 R251, R252) (DEDUCED, log 54). -/
def State.moveCheckpoints (s : State) (core : Nat) (sv : Saved) : State :=
  let mine := fun v : Saved => v.blocks.any (fun b => sv.blocks.any (fun x => x.1.lid == b.1.lid && x.1.index == b.1.index))
  let vs := s.cores.flatMap (fun e => e.2.checkpoints.filter mine)
  if vs.isEmpty then s
  else { s with cores := s.cores.map (fun (e : Nat × Core) => (e.1, { e.2 with checkpoints := e.2.checkpoints.filter (fun v => !mine v) })) }
    |>.modCore core (fun c => { c with checkpoints := c.checkpoints ++ vs })

/-- A thread as it resumes at a cycle of its new island: each resolved time register other than an IDLE one takes it (05 R138). -/
def Thread.resumedAt (t : Thread) (now : BitVec 29) : Thread :=
  { t with tregs := t.tregs.map (fun w => if tstate w = 0 ∨ tpending w then w else tstate w ++ now) }

/-- Resumes saved blocks on a core (02 R52, 10 R255); one saved before its first instruction reads its parameter block again. -/
def State.putSaved (s : State) (core lid : Nat) (sv : Saved) : Option State :=
  let r := s.rcd lid
  let regs := ((sv.crews.flatMap (fun e => e.2.rbm.toList.filterMap id)).eraseDups).length
  let (n, s) := s.fresh
  let sv := { sv with
    blocks := sv.blocks.map (fun b => ({ b.1 with placed := n, paramPage := none, paramFill := none }, b.2))
    threads := sv.threads.map (fun e => (e.1, e.2.resumedAt (s.now29 core))) }
  match s.room core r (sv.blocks.map (·.1)) sv.crews.length regs with
  | none => none
  | some (bases, place) =>
    let s := (s.modCore core (fun c => { (c.withShare r) with place := place })).install core bases sv
    let s := s.moveCheckpoints core sv
    some ((sv.blocks.filter (fun b => !b.1.started)).foldl (fun s b => s.startBlock core lid b.1.index) s)

/-- What a placement puts on a core: a new block, or a saved record. -/
inductive Item where
  | fresh (block : Nat)
  | saved (block : Nat) (sv : Saved)
  deriving DecidableEq, Repr

/-- The block by which an item is placed. -/
def Item.block : Item → Nat
  | .fresh b => b
  | .saved b _ => b

/-- The blocks of an item: a cohort may have several. -/
def Item.blocks : Item → List Nat
  | .fresh b => [b]
  | .saved _ v => v.blocks.map (·.1.index)

/-- Items that belong together with some, directly or through others, as they have blocks of one unit of n (02 R33, 12 R275): after k rounds. -/
def Item.groupFrom (n : Nat) (all : List Item) : Nat → List Item → List Item
  | 0, g => g
  | k + 1, g => Item.groupFrom n all k (all.filter (fun i => g.any (fun j => i.blocks.any (fun x => j.blocks.any (fun y => x / n == y / n)))))

/-- Items in the groups that belong together; `fuel` bounds their number. -/
def Item.groups (n : Nat) : Nat → List Item → List (List Item)
  | 0, _ | _, [] => []
  | fuel + 1, i :: rest =>
    let g := Item.groupFrom n (i :: rest) (rest.length + 1) [i]
    g :: Item.groups n fuel ((i :: rest).filter (!g.contains ·))

/-- Puts an item on a core, if it has room. -/
def State.putItem (s : State) (core lid : Nat) : Item → Option State
  | .fresh b => s.putBlock core lid b
  | .saved _ sv => s.putSaved core lid sv

/-- Crews resident on a core. -/
def State.crewCount (s : State) (core : Nat) : Nat := (s.core core).crews.length

/-- Puts items one by one, each on the core with room that has the fewest crews, ties to the lower number (02 R49). -/
def State.spread (s : State) (lid : Nat) (cores : List Nat) : List Item → Option State
  | [] => some s
  | i :: rest =>
    match (sortBy s.crewCount cores).findSome? (fun c => s.putItem c lid i) with
    | none => none
    | some s => State.spread s lid cores rest

/-- Puts items under gang-launched levels, outermost first: each unit, with those that a cohort ties to it, into the lowest-numbered domain instance
that holds all of it (02 R33, R49, 12 R275). -/
def State.placeIn (lid : Nat) : List (Nat × Nat) → List Nat → List Item → State → Option State
  | [], cores, items, s => s.spread lid cores items
  | (dom, n) :: rest, cores, items, s =>
    (Item.groups n items.length items).foldl (fun (acc : Option State) g =>
      match acc with
      | none => none
      | some s => ((cores.map (· / dom)).eraseDups).findSome? (fun d => State.placeIn lid rest (cores.filter (fun c => c / dom == d)) g s)) (some s)

/-- Puts items of a DET launch: each on its logical core (02 R50). -/
def State.placeDet (s : State) (lid : Nat) (logical : List Nat) : List Item → Option State
  | [] => some s
  | i :: rest =>
    match (logical[i.block % max 1 logical.length]?).bind (fun c => s.putItem c lid i) with
    | none => none
    | some s => State.placeDet s lid logical rest

/-- Assigns n logical cores in groups of `size` to groups of the same size among physical cores, each group by `inner`. -/
def assignBy (size : Nat) (inner : List Nat → Nat → Option (List Nat)) : Nat → List Nat → Nat → Option (List Nat)
  | _, _, 0 => some []
  | 0, _, _ => none
  | fuel + 1, pool, n =>
    let k := min size n
    match ((pool.map (· / size)).eraseDups).findSome? (fun g => (inner (pool.filter (fun c => c / size == g)) k).map (fun l => (g, l))) with
    | none => none
    | some (g, l) => (assignBy size inner fuel (pool.filter (fun c => c / size != g)) (n - k)).map (l ++ ·)

/-- The physical cores of logical cores 0 to n - 1 (02 R50). -/
def assignDet (pool : List Nat) (n : Nat) : Option (List Nat) :=
  let pair := fun (p : List Nat) (k : Nat) => if p.length < k then none else some (p.take k)
  assignBy 64 (assignBy 16 (assignBy 2 pair 8) 4) 4 pool n

/-- Whether each predecessor of a launch is satisfied (02 R43). It is asked anew at every placement: one that has ended is unsatisfied again while a
later launch with its LID is held (DESIGN CHOICE, log 81). -/
def State.satisfied (s : State) (l : Launch) : Bool := l.rcd.preds.all (fun p => (s.launch? p).isNone)

/-- Whether a launch takes part in dispatch (02 R43, R44). -/
def State.dispatches (s : State) (l : Launch) : Bool :=
  l.ended.isNone && s.satisfied l && !s.susp l.rcd.ctx && (decide (l.next < l.rcd.blocks) || !l.saved.isEmpty)

/-- The launch whose turn it is (02 R44): highest class, then earliest accepted. -/
def State.headLaunch (s : State) : Option Launch :=
  (sortBy (fun l : Launch => (3 - l.rcd.cls) * 2 ^ 64 + l.order) (s.launches.filter s.dispatches)).head?

/-- A saved record as an item. -/
def Saved.item (v : Saved) : Item := .saved (((v.blocks.head?).map (·.1.index)).getD 0) v

/-- The items a launch places next (02 R33, R52): saved blocks first, and a gang-launched unit whole, with those that a cohort ties to it (12 R275).
None while a block of such a unit is still resident. -/
def State.nextItems (s : State) (l : Launch) : Option (List Item) :=
  let n := max 1 l.rcd.gang
  match l.saved with
  | v :: _ =>
    if n = 1 then some [v.item]
    else
      let items := Item.groupFrom n (l.saved.map Saved.item) l.saved.length [v.item]
      if (s.residents l.rcd.lid).any (fun e => items.any (fun i => i.blocks.any (fun b => b / n == e.2 / n))) then none else some items
  | [] => some ((List.range (min n (l.rcd.blocks - l.next))).map (fun i => .fresh (l.next + i)))

/-- A launch after some of its items have been placed. -/
def Launch.placedItems (l : Launch) (items : List Item) : Launch :=
  items.foldl (fun l i => match i with
    | .fresh _ => { l with next := l.next + 1 }
    | .saved _ v => { l with saved := l.saved.filter (· != v) }) l

/-- A DET launch at its dispatch has its logical cores assigned (02 R48, R50); none while they do not fit. -/
def State.assigned (s : State) (l : Launch) : Option (State × Launch) :=
  if l.rcd.det ∧ l.logical = [] then
    let pool := (List.range 256).filter s.usable
    let (pool, assign) := takeBy pool.length pool s.assign
    match assignDet pool l.rcd.nlog with
    | none => none
    | some m => some ({ (s.modLaunch l.rcd.lid (fun l => { l with logical := m })) with assign := assign }, { l with logical := m })
  else some (s, l)

/-- Places the next block or unit of the launch whose turn it is, if there is room. -/
def State.placeNext (s : State) : Option State :=
  match s.headLaunch with
  | none => none
  | some l =>
    match s.assigned l with
    | none => none
    | some (s, l) =>
      match s.nextItems l with
      | none => none
      | some items =>
        let lid := l.rcd.lid
        let placed := if l.rcd.det then s.placeDet lid l.logical items
          else State.placeIn lid l.rcd.gangs (List.range 256) items s
        placed.map (fun s => s.modLaunch lid (fun l => l.placedItems items))

/-- The resident blocks that leave with a block: those of its gang-launched unit and of its cohort (02 R45, 12 R275). -/
def State.unitOf (s : State) (lid block : Nat) : List (Nat × Nat) :=
  let bs := s.together lid block
  (s.residents lid).filter (fun e => bs.contains e.2)

/-- Bytes of the records of some resident blocks of a launch: a cohort has one. -/
def State.recordBytes (s : State) (lid : Nat) (es : List (Nat × Nat)) : Nat :=
  (es.foldl (fun (acc : Nat × List Nat) e =>
    if acc.2.contains e.2 then acc
    else
      let bs := (s.core e.1).cohort lid e.2
      (acc.1 + (s.snapshot e.1 bs true).size, acc.2 ++ bs.map (·.index))) (0, [])).1

/-- Whether the records of a block's unit fit the save area (10 R255): else it is no victim. -/
def State.recordFits (s : State) (lid block : Nat) : Bool :=
  let ctx := (s.rcd lid).ctx
  decide (s.savedBytes ctx + s.recordBytes lid (s.unitOf lid block) ≤ s.saveArea ctx)

/-- The block that a class 3 launch pre-empts next (02 R45): of the lowest class, most recently placed (DEDUCED, log 55). -/
def State.victim (s : State) : Option (Nat × Nat) :=
  let all := s.cores.flatMap (fun e => e.2.blocks.filterMap (fun b =>
    if (s.rcd b.lid).cls < 3 ∧ !b.retiring ∧ s.recordFits b.lid b.index then some ((s.rcd b.lid).cls, b.placed, b.lid, b.index) else none))
  (all.foldl (fun (best : Option (Nat × Nat × Nat × Nat)) b => match best with
    | none => some b
    | some x => if b.1 < x.1 ∨ (b.1 = x.1 ∧ x.2.1 < b.2.1) then some b else best) none).map (fun b => (b.2.2.1, b.2.2.2))

/-- The head of the order pre-empts one unit of a lower class, if it is of class 3 (02 R45). -/
def State.makeRoom (s : State) : Option State :=
  match s.headLaunch with
  | none => none
  | some l =>
    if l.rcd.cls < 3 then none
    else match s.victim with
      | none => none
      | some (lid, b) =>
        let s' := s.preemptUnit lid b
        if (s'.unitOf lid b).length < (s.unitOf lid b).length then some s' else none

/-- BLOCK_PLACEMENT (02 R44 to R52): the next block or unit is placed; a class 3 launch without room pre-empts a victim. -/
def execBlockPlacement (s : State) : Next :=
  match s.placeNext with
  | some s => done s
  | none => done (s.makeRoom.getD s)

/-- Whether a fabric request carries a store, RED or ATOM, or a broken-promise report, of a launch; of a block of it on a core where one is given. -/
def FabReq.writesOf (lid : Nat) (at_ : Option (Nat × Nat)) (f : FabReq) : Bool :=
  let here := fun (c b : Nat) => at_.all (fun e => e.1 == c && e.2 == b)
  match f.for_ with
  | .write c l b _ _ _ => l == lid && here c b
  | .load c _ _ _ l b _ _ _ => f.write && l == lid && here c b
  | .report c _ l b _ _ => l == lid && here c b
  | _ => false

/-- Whether stores, REDs or ATOMs of a block are on their way through a window, those that its exited threads have dropped too (02 R59, 20 R387). -/
def State.windowStores (s : State) (core lid block : Nat) : Bool := s.fabric.any (·.writesOf lid (some (core, block)))

/-- Whether nothing of a block is left under the tracker (02 R59). -/
def State.drained (s : State) (core : Nat) (b : Block) : Bool :=
  b.retiring && !(s.core core).tasks.any (fun k => k.lid == b.lid && k.block == b.index) && !s.windowStores core b.lid b.index

/-- With the launch's last block on a core its share goes, written back (02 R48, 04 R87). -/
def State.freeShare (s : State) (core lid : Nat) : State :=
  if (s.core core).blocks.any (fun b => b.lid == lid) then s
  else (s.publishShare core lid).modCore core (fun c => { c with
    shares := tdel c.shares lid
    lines := c.lines.filter (fun l => l.lid != lid) })

/-- The shares of a launch on the cores that none of its blocks will return to: a pre-empted one may complete elsewhere (04 R87). -/
def State.freeShares (s : State) (lid : Nat) : State :=
  (s.cores.filter (fun e => (tget e.2.shares lid).isSome)).foldl (fun s e => s.freeShare e.1 lid) s

/-- A completed block leaves its core; with the launch's last block there its share goes too, and those on other cores once no block of the
launch is saved (02 R48, R59, 04 R87). -/
def State.completeBlock (s : State) (core lid block : Nat) : State :=
  let s := s.evict core lid block
  let s := s.modCore core (fun c => { c with
    tracker := c.tracker.filter (fun k => k != (lid, block))
    checkpoints := c.checkpoints.filter (fun v => !v.blocks.any (fun b => b.1.lid == lid && b.1.index == block)) })
  let s := s.freeShare core lid
  let s := if ((s.launch? lid).map (·.saved.isEmpty)).getD true then s.freeShares lid else s
  (s.modLaunch lid (fun l => { l with done := l.done + 1 })).grant core

/-- BLOCK_COMPLETION (02 R59). -/
def execBlockCompletion (lid block : Nat) (s : State) : Next :=
  match s.home? lid block with
  | none => done s
  | some core =>
    match (s.core core).block? lid block with
    | none => done s
    | some b => done (if s.drained core b then s.completeBlock core lid block else s)

/-- Whether a launch has nothing left to run: all blocks complete, or it ended early and is off its cores (02 R46, R47). -/
def State.isOver (s : State) (l : Launch) : Bool :=
  match l.ended with
  | none => l.done == l.rcd.blocks
  | some _ => (s.residents l.rcd.lid).isEmpty && l.saved.isEmpty

/-- Writes of a launch that SYS visibility awaits: CXL writes under way and its own through windows (02 R47, 08 R182). -/
def State.launchAwaits (s : State) (lid : Nat) : List Nat :=
  s.cxlAwait.map (·.1) ++ (s.fabric.filter (·.writesOf lid none)).map (·.id)

/-- The final STATUS of a launch (02 R42). -/
def Launch.status (l : Launch) : DWord :=
  let (st, code, blk) := l.ended.getD (2, 0, 0)
  BitVec.ofNat 64 (blk * 2 ^ 32 + code * 2 ^ 16 + (if l.timedep then 16 else 0) + st)

/-- The record of a fault that no thread or task met: a completion store, or an access from outside (02 R47, 10 R234, R248). The spec
states no PC, block, core or thread for it, and they are free values (DESIGN CHOICE, log 8) (DESIGN CHOICE, log 59). -/
def State.recordLoose (s : State) (addr : DWord) (kind : FaultKind) (write : Bool) (ctx : Nat) : State :=
  let (a, s) := s.draw
  let (b, s) := s.draw
  let (c, s) := s.draw
  let (d, s) := s.draw
  let w := Config.freeWord c
  s.record {
    addr := addr
    pc := Config.freeWord a ++ Config.freeWord b
    block := (Config.freeWord d).toNat
    kind := kind
    core := w.toNat % 256
    path := .ls
    write := write
    eng := false
    tid := w.toNat / 256 % 2048
    ctx := ctx }

/-- Sends the completion of a launch (02 R47): a store on a page of any kind (19 R344), or a message. -/
def State.sendCompletion (s : State) (l : Launch) : State :=
  let v := if l.ended.isNone then l.rcd.cval else 0xFFFFFFFFFFFFFFFF
  match l.rcd.tkind with
  | 1 => match s.store8 l.rcd.ctx l.rcd.tgt v (.completion l.die) with
    | (s, true) => s
    | (s, false) => s.recordLoose l.rcd.tgt .completion true l.rcd.ctx
  | 2 => s.send (s.owner l.rcd.ctx) (.complete (s.owner l.rcd.ctx) (l.rcd.tgt.extractLsb' 0 16) (l.rcd.tgt.extractLsb' 16 16) l.rcd.lid l.status l.rcd.cval)
  | _ => s

/-- Ends a launch: its shares, STATUS, the completion, and its table entry (02 R39, R42, R43, R47, 04 R87). -/
def State.finishLaunch (s : State) (l : Launch) : State :=
  let s := s.freeShares l.rcd.lid
  let s := s.setStatus l.home l.va l.status
  let s := s.sendCompletion l
  let s := if l.ended.isSome then s.cancelWaiting l.rcd.lid else s
  { s with launches := s.launches.filter (fun x => x.rcd.lid != l.rcd.lid) }

/-- LAUNCH_COMPLETION (02 R47): the launch's writes are made visible at SYS scope, and once they are, it ends. -/
def execLaunchCompletion (lid : Nat) (s : State) : Next :=
  match s.launch? lid with
  | none => done s
  | some l =>
    if !s.isOver l then done s
    else
      let s := if l.await.isNone then s.cores.foldl (fun s e => s.publishShare e.1 lid) s else s
      let ids := (l.await.getD (s.launchAwaits lid)).filter (s.launchAwaits lid).contains
      if ids.isEmpty then done (s.finishLaunch l) else done (s.modLaunch lid (fun l => { l with await := some ids }))

end Sys2Proof.Machine
end

