-- ==== Sys2Proof/Machine/Fabric.lean ====
section
/-! DEFINITION. Messages at the package's ports: host accesses (19 R338, R339), windows and their answers (19 R342 to R345), control
requests (19 R358), RDMA (19 R350), link loss and protocol violations (19 R342, R348). -/

namespace Sys2Proof.Machine
open Sys2Proof

/-- The little-endian bytes of a number. -/
def bytesOf (v n : Nat) : List Byte := (List.range n).map (fun i => BitVec.ofNat 8 (v / 256 ^ i))

/-- The number that little-endian bytes stand for. -/
def natOf (l : List Byte) : Nat := l.foldr (fun b a => b.toNat + 256 * a) 0

/-- How an access from outside ends: performed, with the value read; failed; or sent on through a window. -/
inductive Outer where
  | ok (s : State) (v : Nat)
  | fail (s : State)
  | sent (s : State)

/-- Does something for each part of n bytes at an address that lies in one 128-byte line. -/
def eachLine (f : Nat → Nat → State → State) (pa n : Nat) (s : State) : State :=
  (List.range (n / 128 + 2)).foldl (fun s i =>
    let a := max pa ((pa / 128 + i) * 128)
    let b := min (pa + n) ((pa / 128 + i + 1) * 128)
    if a < b then f a (b - a) s else s) s

/-- One access from outside on one 64 KiB piece of a context's memory with RID 0 (19 R339, R345): at the point of coherence like a bypass-hinted
one, after the checks of an LS access; `w` is the value to write. `relay` names who waits where the page lies behind a window. -/
def State.outerPiece (s : State) (ctx : Nat) (va n : Nat) (w : Option Nat) (relay : FabFor) : Outer :=
  let ptr := BitVec.ofNat 64 (va % 2 ^ 56)
  let lose := fun (s : State) (k : FaultKind) (pa : Nat) =>
    Outer.fail (if k.aborts then s.recordLoose (if k = .unmappedPa then BitVec.ofNat 64 pa else ptr) k w.isSome ctx else s)
  let found := s.resolve 0 0 ctx [] false .other ptr n (if w.isSome then .write else .read) .ls
  if vaEnd ≤ va ∨ n = 0 then .fail s
  else
    let s := s.sawWalk ctx ptr
    match found with
    | .error f => lose s f.kind f.pa
    | .ok (.mem pa leaf, _) =>
      let s := eachLine (fun a _ s => s.pull (a / 128)) pa n s
      (match w with
      | none => match s.readRun ctx (leafMac leaf) pa n (n / 64 + 2) with
        | .ok v => .ok (eachLine (fun a k s => s.l2Access a k false (lsReq leaf 3)) pa n s) v
        | .error k => lose s k pa
      | some x => match s.writeRun ctx (leafMac leaf) pa n x (n / 64 + 2) with
        | .ok s => .ok (eachLine (fun a k s => s.l2Write a k leaf (leafRet leaf)) pa n s) 0
        | .error k => lose s k pa)
    | .ok (.elem frame e leaf, _) =>
      let pas := (Target.elem frame e leaf).touched n
      let s := (linesOf pas).foldl State.pull s
      (match w with
      | none => match s.readElems ctx leaf frame e n with
        | .ok v => .ok (pas.foldl (fun s pa => s.l2Access pa 1 false (lsReq leaf 3)) s) v
        | .error k => lose s k (s.firstBad ctx (leafMac leaf) pas)
      | some x => match s.slotWrite ctx (.elem frame e leaf) 0 n x false with
        | .ok (s, _) => .ok s 0
        | .error k => lose s k (s.firstBad ctx (leafMac leaf) pas))
    | .ok (.fabric win off, _) => .sent (s.sendFabric ctx relay ptr win off n (match w with | none => .read | some x => .write x))
    | .ok _ => .fail s

/-- An access from outside of n bytes: whole or not at all (19 R339, R345) (DEDUCED, log 60). -/
def State.outer (s : State) (ctx : Nat) (va n : Nat) (w : Option Nat) (relay : FabFor) : Outer :=
  let k := min n (65536 - va % 65536)
  if k = n then s.outerPiece ctx va n w relay
  else match s.outerPiece ctx va k w relay with
    | .ok s1 v => match s1.outerPiece ctx (va + k) (n - k) (w.map (· / 256 ^ k)) relay with
      | .ok s v' => .ok s (v + 256 ^ k * v')
      | _ => .fail s
    | .fail s => .fail s
    | .sent _ => .fail s

/-- Answers an inbound message with how its access ended. -/
def answerOuter (m : Sender) (n : Nat) (write : Bool) (r : Outer) : State :=
  match r with
  | .fail s => s.answer m (.rsp m none)
  | .sent s => s
  | .ok s v => s.answer m (if write then .ack m else .rsp m (some (bytesOf v n)))

/-- The checks of an MRD or MWR, or of an RDMA access with the pair's context and owner (19 R338, R339). One of no byte fails them (DESIGN CHOICE, log
106). -/
def State.hostMay (s : State) (tag : BitVec 16) (ctx : Nat) (va : DWord) (n : Nat) : Bool :=
  (s.ctxctl ctx).getLsbD 0 && (tag == 0 || tag == s.owner ctx) && decide (1 ≤ n) && decide (n ≤ 256)
  && decide (va.toNat % 256 + n ≤ 256)

/-- The address of an access with RID 0: VA[55:0]. -/
def hostVa (va : DWord) : Nat := (va.extractLsb' 0 56).toNat

/-- MRD (19 R339). -/
def execMrd (m : Sender) (ctx : Nat) (va : BitVec 64) (n : Nat) (s : State) : Next :=
  s.receive m (fun s => answerOuter m n false
    (if s.hostMay m.tag (ctx % 64) va n then s.outer (ctx % 64) (hostVa va) n none (.host m none) else .fail s))

/-- MWR (19 R339). -/
def execMwr (m : Sender) (ctx : Nat) (va : BitVec 64) (data : List (BitVec 8)) (s : State) : Next :=
  s.receive m (fun s => answerOuter m data.length true
    (if s.hostMay m.tag (ctx % 64) va data.length then s.outer (ctx % 64) (hostVa va) data.length (some (natOf data)) (.host m none) else .fail s))

/-- Whether a control request is of 4 or 8 bytes, aligned, on a die of the package, and tagged 0 (19 R338, R358): one that names another die is
answered with an abort (DESIGN CHOICE, log 106). -/
def cwOk (m : Sender) (die off n : Nat) : Bool := m.tag == 0 && (n == 4 || n == 8) && off % n == 0 && decide (die < 4)

/-- The answer to a read of the control window: an abort for another size or alignment (19 R358). -/
def State.crdAnswer (s : State) (m : Sender) (die off n : Nat) : Msg :=
  .rsp m (if cwOk m die off n then some (bytesOf (s.cwRead die off n) n) else none)

/-- CRD (19 R338, R358). The management port (port 18 here, DESIGN CHOICE, log 58) reads the window without keys, as with tag 0. -/
def execCrd (m : Sender) (die off n : Nat) (s : State) : Next :=
  if m.port = 18 then done { s with outbox := s.outbox ++ [s.crdAnswer { m with tag := 0 } die off n] }
  else s.receive m (fun s => s.answer m (s.crdAnswer m die off n))

/-- CWR (19 R358): answered after it has taken effect. -/
def execCwr (m : Sender) (die off n : Nat) (value : BitVec 64) (s : State) : Next :=
  s.receive m (fun s =>
    if cwOk m die off n then (s.cwWrite die off n value.toNat).answer m (.ack m) else s.answer m (.rsp m none))

/-- The local range that an export entry opens to a request (19 R343, R345); none where a check fails. -/
def State.export? (s : State) (tag : BitVec 16) (ctx xidx off n : Nat) (write : Bool) : Option Nat :=
  let (w0, w1) := s.windowEntry ctx xidx
  if w1.getLsbD 63 && w1.getLsbD 62 && w1.extractLsb' 56 4 == 0 && w1.extractLsb' 32 8 == 0 && w1.extractLsb' 24 8 == 0
      && w1.extractLsb' 40 16 == tag && !s.revoking.contains (ctx, xidx)
      && decide (off + n ≤ (w1.extractLsb' 0 24).toNat * 65536) && (if write then w1.getLsbD 61 else w1.getLsbD 60) then
    some ((w0.extractLsb' 0 56).toNat + off)
  else none

/-- An inbound window request (19 R345). -/
def State.windowAccess (s : State) (m : Sender) (ctx xidx off n : Nat) (w : Option Nat) : Outer :=
  let found := s.export? m.tag ctx xidx off n w.isSome
  let s := s.sawEntry ctx xidx
  match found with
  | none => .fail s
  | some va => s.outer ctx va n w (.host m (some (ctx, xidx)))

/-- WRD (19 R345). -/
def execWrd (m : Sender) (ctx xidx off n : Nat) (s : State) : Next :=
  s.receive m (fun s => answerOuter m n false (s.windowAccess m (ctx % 64) (xidx % 256) off n none))

/-- WWR (19 R345). -/
def execWwr (m : Sender) (ctx xidx off : Nat) (data : List (BitVec 8)) (s : State) : Next :=
  s.receive m (fun s => answerOuter m data.length true
    (s.windowAccess m (ctx % 64) (xidx % 256) off data.length (some (natOf data))))

/-- A fabric request by its number. -/
def State.request? (s : State) (id : Nat) : Option FabReq := s.fabric.find? (fun f => f.id == id)

/-- Takes a request out. -/
def State.dropRequest (s : State) (id : Nat) : State := { s with fabric := s.fabric.filter (fun f => f.id != id) }

/-- The record of a window store or RED that was aborted (08 R189, 19 R342, 22 R462). -/
def FabReq.storeRec (f : FabReq) (core block tid : Nat) (pc : DWord) : FaultRec where
  addr := f.va
  pc := pc
  block := block
  kind := .revoked
  core := core
  path := .ls
  write := true
  eng := false
  tid := tid
  ctx := f.ctx

/-- A piece asked for through a window does not come: threads that wait for it meet the abort, and so does the start of a block (02 R475). -/
def State.abortLine (s : State) (f : FabReq) (core : Nat) (kr : Bool) : State :=
  let fault : FaultInfo := { kind := .revoked, va := f.va, write := false, path := if kr then .kr else .ifetch, level := 0 }
  let s := ((s.core core).blocks.filter (fun b => b.paramFill == some f.id)).foldl (fun s b => s.paramFault core b.lid b.index fault) s
  ((s.core core).threads.filter (fun e => e.2.park == some (.fill f.id))).foldl (fun s e => s.stop core e.1 (.abort fault)) s

/-- The loads that a window request serves: its own, and those that share it (09 R205). -/
def Core.servedBy (c : Core) (load : Nat) (share : Option (Nat × Nat × Nat)) : List Load :=
  c.loads.filter (fun l => l.id == load || (share.isSome && l.req == share))

/-- A report of a broken promise has been written or lost: its load takes its final state (05 R134, R135). -/
def State.reported (s : State) (core load : Nat) : State := if s.reporting core load then s else s.settleEnding core load

/-- A report that is lost to an abort, with the record of its request (05 R134, 19 R342). -/
def State.abortReport (s : State) (f : FabReq) (core block load : Nat) (words : List Nat) : State :=
  let w := fun i => (words[i]?).getD 0
  let pc := BitVec.ofNat 64 (w 2 + 2 ^ 32 * w 3)
  let s := s.record { f.storeRec core block (w 7 % 2048) pc with write := f.write }
  (s.modCore core (·.loseReport f.ctx)).reported core load

/-- A request ends with an abort: its requester receives an abort completion, and a record of kind 9 is written (19 R342, R345, 10
R248), also where the loads that it serves have been abandoned; of a completion store kind 10 (02 R47; DEDUCED, log 91). A PREF writes none (22
R440). -/
def State.abortRequest (s : State) (f : FabReq) : State :=
  let s := s.dropRequest f.id
  match f.for_ with
  | .load core load kind share _ block _ tid pc =>
    (match (s.core core).servedBy load share with
    | [] => if kind = .pref then s else s.record { f.storeRec core block tid pc with write := f.write, path := kind.path }
    | ls => ls.foldl (fun s l => s.abortLoad core l.id .revoked 0) s)
  | .write core _ block _ tid pc => s.record (f.storeRec core block tid pc)
  | .task core task =>
    match (s.core core).task? task with
    | none => s
    | some t => s.taskFault core t (t.fault .revoked f.va f.write)
  | .line core kr _ _ => s.abortLine f core kr
  | .report core _ _ block load words => s.abortReport f core block load words
  | .completion _ => s.recordLoose f.va .completion true f.ctx
  | .host m _ => (s.recordLoose f.va .revoked f.write f.ctx).answer m (.rsp m none)
  | .rdma port qp =>
    let s := s.recordLoose f.va .revoked f.write f.ctx
    { s with outbox := s.outbox ++ [.rdma port qp none] }

/-- FABRIC_REQUEST_TIMEOUT (19 R342): only a request whose time is over expires. -/
def execFabricRequestTimeout (req : Nat) (s : State) : Next :=
  match s.request? req with
  | none => done s
  | some f => if f.expires ≤ s.time then done (s.abortRequest f) else done s

/-- The VALID word of a report's slot has come through a window: the report is dropped, or written (05 R134). Where `s.bphead` or the area has
moved meanwhile, it is asked for anew (DEDUCED, log 79). -/
def State.reportOn (s : State) (f : FabReq) (core slot lid block load : Nat) (words : List Nat) (valid : Bool) : State :=
  let r := (s.core core).bpRegs f.ctx
  if r.base = 0 then s
  else if (f.va.extractLsb' 0 56).toNat ≠ r.slot + 0x1C then s.writeReport core slot lid block load f.ctx words
  else if valid then s.modCore core (·.loseReport f.ctx)
  else match s.xlate (s.core core).tlb f.ctx (BitVec.ofNat 64 r.slot) 32 .write .ls with
    | .error _ => (s.sawWalk f.ctx (BitVec.ofNat 64 r.slot)).modCore core (·.loseReport f.ctx)
    | .ok e =>
      match e.target r.slot with
      | .fabric w off =>
        ((s.fillTlb core (some e)).sendFabric f.ctx (.report core slot lid block load words) (BitVec.ofNat 64 r.slot) w off 32
          (.write (ofWords words))).modCore core (·.nextReport f.ctx)
      | _ => s.writeReport core slot lid block load f.ctx words

/-- The bytes of a load that a window read serves, which start at the read's own address (09 R205). -/
def Load.windowData (l : Load) (f : FabReq) (data : List Byte) : BitVec 128 :=
  let i := (l.va.toNat % 128) - (f.va.toNat % 128)
  extend l.size l.signed (overlay l.overlaid l.size (natOf ((data.drop i).take l.size)))

/-- The bytes of a window read reach their requester (19 R344). -/
def State.deliverWindow (s : State) (f : FabReq) (data : List Byte) : State :=
  let s := s.dropRequest f.id
  let v := natOf data
  match f.for_ with
  | .load core load _ share _ _ _ _ _ =>
    ((s.core core).servedBy load share).foldl (fun s l =>
      s.modCore core (·.modLoad l.id (fun l => { l with data := some (l.windowData f data) }))) s
  | .write _ _ _ _ _ _ | .completion _ => s
  | .report core slot lid block load words =>
    (if f.write then s else s.reportOn f core slot lid block load words (v / 2 ^ 31 % 2 == 1)).reported core load
  | .task core task =>
    if f.write then s
    else s.modCore core (·.modTask task (fun t => { t with
      got := t.got ++ (data.take f.size).zipIdx.map (fun e => ((f.va.extractLsb' 0 56).toNat + e.2, e.1)) }))
  | .line core kr key _ =>
    let s := s.modCore core (fun c =>
      if kr then { c with constant := tset c.constant key (BitVec.ofNat 1024 (v % 256 ^ 64)) }
      else { c with icache := tset c.icache key (BitVec.ofNat 1024 (v % 256 ^ 64)) })
    ((s.core core).blocks.filter (fun b => b.paramFill == some f.id)).foldl (fun s b => s.startBlock core b.lid b.index) s
  | .host m _ => s.answer m (if f.write then .ack m else .rsp m (some (data.take f.size)))
  | .rdma port qp => { s with outbox := s.outbox ++ [.rdma port qp (some (if f.write then [] else data.take f.size))] }

/-- RSP (19 R338, R341, R342): data or an acknowledgement, or an abort; one that answers no request held is discarded, and so is one that comes
after its request has expired. -/
def execRsp (m : Sender) (req : Nat) (data : Option (List (BitVec 8))) (s : State) : Next :=
  s.receive m (fun s => match s.request? req with
    | none => s
    | some f =>
      if f.expires ≤ s.time then s.abortRequest f
      else match data with
        | none => s.abortRequest f
        | some d => s.deliverWindow f d)

/-- A link goes down (19 R340, R342, R348): PKSTAT.UP reads 0, and an error interrupt tells of it. The requests on the link find no answer and
expire. -/
def State.linkDown (s : State) (port : Nat) : State :=
  if port < 18 then
    let off := 0x70000 + port * 0x40 + 0x24
    { s.setCw4 (portDie port) off (s.cw4 (portDie port) off &&& ~~~(1#32)) with replays := tdel s.replays port }.errorInterrupt errUnit port
  else s

/-- LINK_DOWN (19 R342). -/
def execLinkDown (port : Nat) (s : State) : Next := done (s.linkDown port)

/-- Flits in a row that have failed on a port. -/
def State.failedInRow (s : State) (port : Nat) : Nat := (tget s.replays port).getD 0

/-- LINK_REPLAY (19 R342): a flit fails and is replayed; the promises it delays will break with cause LINK_RETRY. The failure that follows a
flit's first one is a failed replay; after 16 of those in a row the link goes down (DEDUCED, log 92). -/
def execLinkReplay (port : Nat) (delayed : List LoadRef) (s : State) : Next :=
  let s := delayed.foldl (fun s r => s.delay r 4) s
  done (if 16 ≤ s.failedInRow port then s.linkDown port else { s with replays := tset s.replays port (s.failedInRow port + 1) })

/-- FABRIC_PROTOCOL_VIOLATION (19 R348): the request is dropped, and every context of its owner is killed. -/
def execFabricProtocolViolation (m : Sender) (s : State) : Next := s.receive m (fun s => s.killTag m.tag)

/-- The binding register of a queue pair (19 R350). -/
def State.qpBind (s : State) (port qp : Nat) : Word := s.cw4 (port / 2) (0x80000 + port % 2 * 0x10000 + qp * 8)

/-- What the answer to an RDMA access carries: data or an acknowledgement, or a remote access error. -/
def answerRdma (port qp n : Nat) (write : Bool) (r : Outer) : State :=
  match r with
  | .fail s => { s with outbox := s.outbox ++ [.rdma port qp none] }
  | .sent s => s
  | .ok s v => { s with outbox := s.outbox ++ [.rdma port qp (some (if write then [] else bytesOf v n))] }

/-- RDMA_ACCESS (19 R350). -/
def execRdmaAccess (port qp : Nat) (va : BitVec 64) (op : RdmaOp) (s : State) : Next :=
  if s.boot ≠ .running ∨ 8 ≤ port ∨ 256 ≤ qp then done s
  else
    let b := s.qpBind port qp
    let ctx := (b.extractLsb' 16 6).toNat
    let tag := b.extractLsb' 0 16
    let (n, w) := match op with
      | .read n => (n, none)
      | .write d => (d.length, some (natOf d))
    done (answerRdma port qp n w.isSome
      (if b.getLsbD 31 && s.hostMay tag ctx va n then s.outer ctx (hostVa va) n w (.rdma port qp) else .fail s))

end Sys2Proof.Machine
end

