-- ==== Sys2Proof/Machine/IntAlu.lean ====
section
/-! DEFINITION. The integer family: the integer mould (20 R360, R361) and MOV, compares, predicate logic, selects and bit
fields, each by its entry. S-forms are the X-forms of 03 R64. -/

namespace Sys2Proof.Machine
open Sys2Proof

/-- An element operation of every width. -/
abbrev Elem2 := (w : Nat) → BitVec w → BitVec w → BitVec w

/-- A 32-bit register computed by elements of the width in SUB[1:0] (20 R360); width 01 does not come here. -/
def elems2 (f : Elem2) (wd : BitVec 2) (a b : Word) : Word :=
  match wd.toNat with
  | 2 => f 16 (a.extractLsb' 16 16) (b.extractLsb' 16 16) ++ f 16 (a.extractLsb' 0 16) (b.extractLsb' 0 16)
  | 3 => f 8 (a.extractLsb' 24 8) (b.extractLsb' 24 8) ++ f 8 (a.extractLsb' 16 8) (b.extractLsb' 16 8)
      ++ f 8 (a.extractLsb' 8 8) (b.extractLsb' 8 8) ++ f 8 (a.extractLsb' 0 8) (b.extractLsb' 0 8)
  | _ => f 32 a b

/-- The width field. -/
def widthOf (x : XOps) : BitVec 2 := x.sub.extractLsb' 0 2

/-- Two sources, one result (20 R360). -/
def intBin (x : XOps) (f : Elem2) (s : State) (core slot : Nat) (t : Thread) : Except Stop (List Write) :=
  if widthOf x = 1 then do
    (s.core core).checkMapped slot (pairOf x.d)
    let a ← s.src64 core slot t x.lit x.a
    let b ← s.src64 core slot t x.lit x.b
    .ok (wr64 x.d (f 64 a b))
  else do
    (s.core core).checkMapped slot [x.d]
    let a ← s.src32 core slot t x.lit x.a
    let b ← s.src32 core slot t x.lit x.b
    .ok (wr32 x.d (elems2 f (widthOf x) a b))

/-- One source, one result. -/
def intUn (x : XOps) (f : (w : Nat) → BitVec w → BitVec w) (s : State) (core slot : Nat) (t : Thread) : Except Stop (List Write) :=
  if widthOf x = 1 then do
    (s.core core).checkMapped slot (pairOf x.d)
    let a ← s.src64 core slot t x.lit x.a
    .ok (wr64 x.d (f 64 a))
  else do
    (s.core core).checkMapped slot [x.d]
    let a ← s.src32 core slot t x.lit x.a
    .ok (wr32 x.d (elems2 (fun w a _ => f w a) (widthOf x) a a))

/-- The value of an element, signed or unsigned (20 R360). -/
def elemVal (unsigned : Bool) {w : Nat} (a : BitVec w) : Int := if unsigned then (a.toNat : Int) else a.toInt

/-- Narrows an exact result: saturating when SUB[3] is set (21 R405). -/
def narrow (sub : BitVec 6) (w : Nat) (r : Int) : BitVec w :=
  if sub.getLsbD 3 then
    BitVec.ofInt w (if sub.getLsbD 2 then clampInt 0 ((2 ^ w : Nat) - 1) r
      else clampInt (-(2 ^ (w - 1) : Nat)) ((2 ^ (w - 1) : Nat) - 1) r)
  else BitVec.ofInt w r

/-- IADD on an element (21 R405). -/
def iaddE (sub : BitVec 6) : Elem2 := fun w a b => narrow sub w (elemVal (sub.getLsbD 2) a + elemVal (sub.getLsbD 2) b)
/-- ISUB on an element (21 R405). -/
def isubE (sub : BitVec 6) : Elem2 := fun w a b => narrow sub w (elemVal (sub.getLsbD 2) a - elemVal (sub.getLsbD 2) b)
/-- IMUL on an element (21 R411). -/
def imulE : Elem2 := fun _ a b => a * b
/-- IMULH on an element: the high half of the signed product (21 R411). -/
def imulhE : Elem2 := fun w a b => BitVec.ofInt w (a.toInt * b.toInt / (2 ^ w : Nat))
/-- IMULHU on an element (21 R411). -/
def imulhuE : Elem2 := fun w a b => BitVec.ofNat w (a.toNat * b.toNat / 2 ^ w)
/-- IMIN on an element (21 R410). -/
def iminE : Elem2 := fun _ a b => if b.slt a then b else a
/-- IMAX on an element (21 R410). -/
def imaxE : Elem2 := fun _ a b => if a.slt b then b else a
/-- IMINU on an element (21 R410). -/
def iminuE : Elem2 := fun _ a b => if b.ult a then b else a
/-- IMAXU on an element (21 R410). -/
def imaxuE : Elem2 := fun _ a b => if a.ult b then b else a
/-- AND on an element (20 R364). -/
def andE : Elem2 := fun _ a b => a &&& b
/-- OR on an element (22 R432). -/
def orE : Elem2 := fun _ a b => a ||| b
/-- XOR on an element (22 R432). -/
def xorE : Elem2 := fun _ a b => a ^^^ b
/-- ANDN on an element (20 R364). -/
def andnE : Elem2 := fun _ a b => a &&& ~~~b
/-- SHL on an element, by the count modulo the width (22 R451). -/
def shlE : Elem2 := fun w a b => a <<< (b.toNat % w)
/-- SHR on an element (22 R451). -/
def shrE : Elem2 := fun w a b => a >>> (b.toNat % w)
/-- SAR on an element (22 R451). -/
def sarE : Elem2 := fun w a b => a.sshiftRight (b.toNat % w)
/-- ROTL on an element (22 R451). -/
def rotlE : Elem2 := fun w a b => a.rotateLeft (b.toNat % w)
/-- One bits of an element (22 R438). -/
def popcE (w : Nat) (a : BitVec w) : BitVec w := BitVec.ofNat w ((List.range w).foldl (fun n i => if a.getLsbD i then n + 1 else n) 0)
/-- Leading zeros of an element; its width for 0 (20 R376). -/
def clzE (w : Nat) (a : BitVec w) : BitVec w := BitVec.ofNat w (w - bitLen a.toNat)
/-- Trailing zeros of an element; its width for 0 (20 R376). -/
def ctzE (w : Nat) (a : BitVec w) : BitVec w := BitVec.ofNat w (((List.range w).find? (fun i => a.getLsbD i)).getD w)
/-- Bit reversal of an element (20 R376). -/
def brevE (w : Nat) (a : BitVec w) : BitVec w := a.reverse
/-- |x| modulo the width (21 R403). -/
def iabsE (w : Nat) (a : BitVec w) : BitVec w := if a.slt 0 then -a else a
/-- IDIV (21 R408). -/
def idivE (sub : BitVec 6) : Elem2 := fun w a b =>
  if b = 0 then BitVec.allOnes w
  else if sub.getLsbD 2 then a / b else BitVec.ofInt w (a.toInt.tdiv b.toInt)
/-- IREM (21 R408). -/
def iremE (sub : BitVec 6) : Elem2 := fun w a b =>
  if b = 0 then a else if sub.getLsbD 2 then a % b else BitVec.ofInt w (a.toInt.tmod b.toInt)
/-- LEA (21 R422). -/
def leaE (sh : Nat) : Elem2 := fun _ a b => a + (b <<< sh)

/-- A compare into a predicate (21 R412). -/
def intCmp (x : XOps) (s : State) (core slot : Nat) (t : Thread) : Except Stop (List Write) := do
  let pd := x.d.extractLsb' 0 3
  let cond := x.d.extractLsb' 3 3
  if widthOf x = 1 then
    let a ← s.src64 core slot t x.lit x.a
    let b ← s.src64 core slot t x.lit x.b
    .ok [.pred pd (intCond cond a b)]
  else
    let a ← s.src32 core slot t x.lit x.a
    let b ← s.src32 core slot t x.lit x.b
    .ok [.pred pd (intCond cond a b)]

/-- MOV: the source is B (21 R430). -/
def movOf (x : XOps) (s : State) (core slot : Nat) (t : Thread) : Except Stop (List Write) :=
  if widthOf x = 1 then do
    (s.core core).checkMapped slot (pairOf x.d)
    let b ← s.src64 core slot t x.lit x.b
    .ok (wr64 x.d b)
  else do
    (s.core core).checkMapped slot [x.d]
    let b ← s.src32 core slot t x.lit x.b
    .ok (wr32 x.d b)

/-- PLOP (22 R437). -/
def plopOf (x : XOps) (_ : State) (_ _ : Nat) (t : Thread) : Except Stop (List Write) :=
  .ok [.pred (x.d.extractLsb' 0 3) (predFn (x.a.extractLsb' 3 3) (t.pred (x.a.extractLsb' 0 3)) (t.pred (x.b.extractLsb' 0 3)))]

/-- IMAD on elements (21 R409). -/
def imadE (sub : BitVec 6) (w : Nat) (a b c : BitVec w) : BitVec w :=
  narrow sub w (elemVal (sub.getLsbD 2) a * elemVal (sub.getLsbD 2) b + elemVal (sub.getLsbD 2) c)

/-- IMAD (21 R409). -/
def imadOf (x : XOps) (s : State) (core slot : Nat) (t : Thread) : Except Stop (List Write) :=
  if widthOf x = 1 then do
    (s.core core).checkMapped slot (pairOf x.d)
    let a ← s.src64 core slot t x.lit x.a
    let b ← s.src64 core slot t x.lit x.b
    let c ← s.src64 core slot t x.lit x.c
    .ok (wr64 x.d (imadE x.sub 64 a b c))
  else do
    (s.core core).checkMapped slot [x.d]
    let a ← s.src32 core slot t x.lit x.a
    let b ← s.src32 core slot t x.lit x.b
    let c ← s.src32 core slot t x.lit x.c
    let f (w i : Nat) : BitVec w := imadE x.sub w (a.extractLsb' (w * i) w) (b.extractLsb' (w * i) w) (c.extractLsb' (w * i) w)
    .ok (wr32 x.d (match (widthOf x).toNat with
      | 2 => f 16 1 ++ f 16 0
      | 3 => f 8 3 ++ f 8 2 ++ f 8 1 ++ f 8 0
      | _ => f 32 0))

/-- SEL (22 R454): both sources are read whatever the predicate. -/
def selOf (x : XOps) (s : State) (core slot : Nat) (t : Thread) : Except Stop (List Write) :=
  intBin x (fun _ a b => if t.pred (x.c.extractLsb' 0 3) != x.c.getLsbD 3 then a else b) s core slot t

/-- Position and length of a bit field (20 R370). -/
def fieldPos (x : XOps) : Nat := (x.imm.extractLsb' 0 5).toNat
/-- Length of a bit field. -/
def fieldLen (x : XOps) : Nat := (x.imm.extractLsb' 5 5).toNat + 1

/-- BFX on an element: the field comes from the low 32 bits (20 R371). -/
def bfxE (x : XOps) (w : Nat) (a : BitVec w) : BitVec w :=
  let f := a.extractLsb' (fieldPos x) (fieldLen x)
  if x.sub.getLsbD 2 then f.setWidth w else f.signExtend w

/-- BFI on an element: the mask has 32 bits (20 R371). -/
def bfiE (x : XOps) : Elem2 := fun w a b =>
  let m : BitVec w := BitVec.ofNat w ((2 ^ fieldLen x - 1) * 2 ^ fieldPos x)
  (b &&& ~~~m) ||| ((a <<< fieldPos x) &&& m)

/-- MOV (21 R430). -/
def execMov (o : SMov) (s : State) : Next := done (s.holding o.toX (·.runGroup (sLen o.lit) o.g (movOf o.toX)))

/-- MOV, X-form (21 R430). -/
def execMovX (x : XOps) (s : State) : Next := done (s.holding x (·.runGroup x.len x.g (movOf x)))

/-- IADD (21 R405). -/
def execIadd (o : SBin) (s : State) : Next := done (s.holding o.toX (·.runGroup (sLen o.lit) o.g (intBin o.toX (iaddE o.toX.sub))))

/-- IADD, X-form (21 R405). -/
def execIaddX (x : XOps) (s : State) : Next := done (s.holding x (·.runGroup x.len x.g (intBin x (iaddE x.sub))))

/-- ISUB (21 R405). -/
def execIsub (o : SBin) (s : State) : Next := done (s.holding o.toX (·.runGroup (sLen o.lit) o.g (intBin o.toX (isubE o.toX.sub))))

/-- ISUB, X-form (21 R405). -/
def execIsubX (x : XOps) (s : State) : Next := done (s.holding x (·.runGroup x.len x.g (intBin x (isubE x.sub))))

/-- IMUL (21 R411). -/
def execImul (o : SBin) (s : State) : Next := done (s.holding o.toX (·.runGroup (sLen o.lit) o.g (intBin o.toX imulE)))

/-- IMUL, X-form (21 R411). -/
def execImulX (x : XOps) (s : State) : Next := done (s.holding x (·.runGroup x.len x.g (intBin x imulE)))

/-- IMULH (21 R411). -/
def execImulh (o : SBin) (s : State) : Next := done (s.holding o.toX (·.runGroup (sLen o.lit) o.g (intBin o.toX imulhE)))

/-- IMULH, X-form (21 R411). -/
def execImulhX (x : XOps) (s : State) : Next := done (s.holding x (·.runGroup x.len x.g (intBin x imulhE)))

/-- IMULHU (21 R411). -/
def execImulhu (o : SBin) (s : State) : Next := done (s.holding o.toX (·.runGroup (sLen o.lit) o.g (intBin o.toX imulhuE)))

/-- IMULHU, X-form (21 R411). -/
def execImulhuX (x : XOps) (s : State) : Next := done (s.holding x (·.runGroup x.len x.g (intBin x imulhuE)))

/-- IMIN (21 R410). -/
def execImin (o : SBin) (s : State) : Next := done (s.holding o.toX (·.runGroup (sLen o.lit) o.g (intBin o.toX iminE)))

/-- IMIN, X-form (21 R410). -/
def execIminX (x : XOps) (s : State) : Next := done (s.holding x (·.runGroup x.len x.g (intBin x iminE)))

/-- IMAX (21 R410). -/
def execImax (o : SBin) (s : State) : Next := done (s.holding o.toX (·.runGroup (sLen o.lit) o.g (intBin o.toX imaxE)))

/-- IMAX, X-form (21 R410). -/
def execImaxX (x : XOps) (s : State) : Next := done (s.holding x (·.runGroup x.len x.g (intBin x imaxE)))

/-- IMINU (21 R410). -/
def execIminu (o : SBin) (s : State) : Next := done (s.holding o.toX (·.runGroup (sLen o.lit) o.g (intBin o.toX iminuE)))

/-- IMINU, X-form (21 R410). -/
def execIminuX (x : XOps) (s : State) : Next := done (s.holding x (·.runGroup x.len x.g (intBin x iminuE)))

/-- IMAXU (21 R410). -/
def execImaxu (o : SBin) (s : State) : Next := done (s.holding o.toX (·.runGroup (sLen o.lit) o.g (intBin o.toX imaxuE)))

/-- IMAXU, X-form (21 R410). -/
def execImaxuX (x : XOps) (s : State) : Next := done (s.holding x (·.runGroup x.len x.g (intBin x imaxuE)))

/-- AND (20 R364). -/
def execAnd (o : SBin) (s : State) : Next := done (s.holding o.toX (·.runGroup (sLen o.lit) o.g (intBin o.toX andE)))

/-- AND, X-form (20 R364). -/
def execAndX (x : XOps) (s : State) : Next := done (s.holding x (·.runGroup x.len x.g (intBin x andE)))

/-- OR (22 R432). -/
def execOr (o : SBin) (s : State) : Next := done (s.holding o.toX (·.runGroup (sLen o.lit) o.g (intBin o.toX orE)))

/-- OR, X-form (22 R432). -/
def execOrX (x : XOps) (s : State) : Next := done (s.holding x (·.runGroup x.len x.g (intBin x orE)))

/-- XOR (22 R432). -/
def execXor (o : SBin) (s : State) : Next := done (s.holding o.toX (·.runGroup (sLen o.lit) o.g (intBin o.toX xorE)))

/-- XOR, X-form (22 R432). -/
def execXorX (x : XOps) (s : State) : Next := done (s.holding x (·.runGroup x.len x.g (intBin x xorE)))

/-- ANDN (20 R364). -/
def execAndn (o : SBin) (s : State) : Next := done (s.holding o.toX (·.runGroup (sLen o.lit) o.g (intBin o.toX andnE)))

/-- ANDN, X-form (20 R364). -/
def execAndnX (x : XOps) (s : State) : Next := done (s.holding x (·.runGroup x.len x.g (intBin x andnE)))

/-- SHL (22 R451). -/
def execShl (o : SBin) (s : State) : Next := done (s.holding o.toX (·.runGroup (sLen o.lit) o.g (intBin o.toX shlE)))

/-- SHL, X-form (22 R451). -/
def execShlX (x : XOps) (s : State) : Next := done (s.holding x (·.runGroup x.len x.g (intBin x shlE)))

/-- SHR (22 R451). -/
def execShr (o : SBin) (s : State) : Next := done (s.holding o.toX (·.runGroup (sLen o.lit) o.g (intBin o.toX shrE)))

/-- SHR, X-form (22 R451). -/
def execShrX (x : XOps) (s : State) : Next := done (s.holding x (·.runGroup x.len x.g (intBin x shrE)))

/-- SAR (22 R451). -/
def execSar (o : SBin) (s : State) : Next := done (s.holding o.toX (·.runGroup (sLen o.lit) o.g (intBin o.toX sarE)))

/-- SAR, X-form (22 R451). -/
def execSarX (x : XOps) (s : State) : Next := done (s.holding x (·.runGroup x.len x.g (intBin x sarE)))

/-- ROTL (22 R451). -/
def execRotl (o : SBin) (s : State) : Next := done (s.holding o.toX (·.runGroup (sLen o.lit) o.g (intBin o.toX rotlE)))

/-- ROTL, X-form (22 R451). -/
def execRotlX (x : XOps) (s : State) : Next := done (s.holding x (·.runGroup x.len x.g (intBin x rotlE)))

/-- POPC (22 R438). -/
def execPopc (o : SUn) (s : State) : Next := done (s.holding o.toX (·.runGroup 4 o.g (intUn o.toX popcE)))

/-- POPC, X-form (22 R438). -/
def execPopcX (x : XOps) (s : State) : Next := done (s.holding x (·.runGroup x.len x.g (intUn x popcE)))

/-- CLZ (20 R376). -/
def execClz (o : SUn) (s : State) : Next := done (s.holding o.toX (·.runGroup 4 o.g (intUn o.toX clzE)))

/-- CLZ, X-form (20 R376). -/
def execClzX (x : XOps) (s : State) : Next := done (s.holding x (·.runGroup x.len x.g (intUn x clzE)))

/-- CTZ (20 R376). -/
def execCtz (o : SUn) (s : State) : Next := done (s.holding o.toX (·.runGroup 4 o.g (intUn o.toX ctzE)))

/-- CTZ, X-form (20 R376). -/
def execCtzX (x : XOps) (s : State) : Next := done (s.holding x (·.runGroup x.len x.g (intUn x ctzE)))

/-- BREV (20 R376). -/
def execBrev (o : SUn) (s : State) : Next := done (s.holding o.toX (·.runGroup 4 o.g (intUn o.toX brevE)))

/-- BREV, X-form (20 R376). -/
def execBrevX (x : XOps) (s : State) : Next := done (s.holding x (·.runGroup x.len x.g (intUn x brevE)))

/-- IABS (21 R403). -/
def execIabs (o : SUn) (s : State) : Next := done (s.holding o.toX (·.runGroup 4 o.g (intUn o.toX iabsE)))

/-- IABS, X-form (21 R403). -/
def execIabsX (x : XOps) (s : State) : Next := done (s.holding x (·.runGroup x.len x.g (intUn x iabsE)))

/-- ISETP (21 R412). -/
def execIsetp (o : SCmp) (s : State) : Next := done (s.holding o.toX (·.runGroup 4 o.g (intCmp o.toX)))

/-- ISETP, X-form (21 R412). -/
def execIsetpX (x : XOps) (s : State) : Next := done (s.holding x (·.runGroup x.len x.g (intCmp x)))

/-- PLOP (22 R437). -/
def execPlop (o : SPlop) (s : State) : Next := done (s.holding o.toX (·.runGroup 4 o.g (plopOf o.toX)))

/-- PLOP, X-form (22 R437). -/
def execPlopX (x : XOps) (s : State) : Next := done (s.holding x (·.runGroup x.len x.g (plopOf x)))

/-- IMAD (21 R409). -/
def execImad (x : XOps) (s : State) : Next := done (s.holding x (·.runGroup x.len x.g (imadOf x)))

/-- IDIV (21 R408). -/
def execIdiv (x : XOps) (s : State) : Next := done (s.holding x (·.runGroup x.len x.g (intBin x (idivE x.sub))))

/-- IREM (21 R408). -/
def execIrem (x : XOps) (s : State) : Next := done (s.holding x (·.runGroup x.len x.g (intBin x (iremE x.sub))))

/-- LEA (21 R422). -/
def execLea (x : XOps) (s : State) : Next := done (s.holding x (·.runGroup x.len x.g (intBin x (leaE (x.imm.extractLsb' 0 3).toNat))))

/-- SEL (22 R454). -/
def execSel (x : XOps) (s : State) : Next := done (s.holding x (·.runGroup x.len x.g (selOf x)))

/-- BFX (20 R371). -/
def execBfx (x : XOps) (s : State) : Next := done (s.holding x (·.runGroup x.len x.g (intUn x (bfxE x))))

/-- BFI (20 R371). -/
def execBfi (x : XOps) (s : State) : Next := done (s.holding x (·.runGroup x.len x.g (intBin x (bfiE x))))

/-- NOP changes nothing but the PC (21 R431). -/
def execNop (g : Guard) (s : State) : Next := done (s.runGroup 4 g (fun _ _ _ _ => .ok []))

/-- NOP, X-form (21 R431). -/
def execNopX (x : XOps) (s : State) : Next := done (s.runGroup x.len x.g (fun _ _ _ _ => .ok []))

end Sys2Proof.Machine
end

