-- ==== Sys2Proof/Machine/Manage.lean ====
section
/-! DEFINITION. Memory traffic of its own and errors (08 R189, 09 R202, 22 R462, 10 R248, R249, 19 R351), reset, freeze, debug and
firmware (19 R352 to R355, 09 R219, R220, 08 R182). -/

namespace Sys2Proof

/-- The unit whose spare rows serve a row (19 R351). -/
def Row.unit : Row → Nat × Nat
  | .dram stack _ _ => (0, stack)
  | .sram core _ _ => (1, core)
  | .slice n _ _ => (2, n)

/-- The die of a row. -/
def Row.die : Row → Nat
  | .dram stack _ _ => stack / 4
  | .sram core _ _ => core / 64
  | .slice n _ _ => n / 64

end Sys2Proof

namespace Sys2Proof.Machine
open Sys2Proof

/-- Has a row tested (19 R351). -/
def State.testRow (s : State) (r : Row) : State := { s with tests := if s.tests.contains r then s.tests else s.tests ++ [r] }

/-- An uncorrectable error that a load or store line meets in a link buffer raises the error interrupt, as one in a memory does (10 R248). A link buffer
is no storage row, and nothing is tested (19 R351). -/
def State.linkError (s : State) (kind : AbortKind) (unit : Nat) : State :=
  if abortKind kind = .uncorrectable then s.errorInterrupt errUncorrectable unit else s

/-- UPDATE_ONLY_PACKET (08 R189): an update-only line leaves the share, and its packet is applied whole. -/
def execUpdateOnlyPacket (core lid line : Nat) (s : State) : Next :=
  match (s.core core).line? lid line with
  | none => done s
  | some l => done (s.sendLine core l)

/-- L1_WRITEBACK (09 R201, R202): the line that R201 names for replacement in a full set leaves the share, its dirty bytes written back, or an
update-only one sent. Another line is not replaced (DEDUCED, log 10). -/
def execL1Writeback (core lid line : Nat) (s : State) : Next :=
  let ways := (s.core core).l1Ways lid line
  done (if 8 ≤ ways.length ∧ (l1Victim ways).map (·.addr) = some line then s.flushLine core lid line true else s)

/-- STORE_ABORT (22 R462, R447): the stores or REDs that a line holds meet an abort at their point of coherence and are dropped with
one record; one of kind 8 raises the error interrupt (10 R248). -/
def execStoreAbort (core lid line : Nat) (kind : AbortKind) (s : State) : Next :=
  match (s.core core).line? lid line with
  | none => done s
  | some l =>
    if l.dirty = 0 ∧ l.upd.isNone then done s
    else done (((s.linkError kind core).modCore core (·.dropLine lid line)).recordPulled (l.abortRec core (abortKind kind))).1

/-- ABORT_COMPLETION (05 R125, 10 R248): one of kind 8 raises the error interrupt. -/
def execAbortCompletion (core load : Nat) (k : AbortKind) (s : State) : Next :=
  match (s.core core).load? load with
  | none => done s
  | some _ => done ((s.linkError k core).abortLoad core load (abortKind k) (s.loadPa core load))

/-- An error in a unit of a core, whose row is tested: rows are 64 bytes of the core store, and the slots, sets and spinner hold further ones, of which
a free value names the one (DESIGN CHOICE, log 56). -/
def State.coreError (s : State) (core : Nat) (row : Option Nat) : State :=
  let s := (s.count (.error (dieOf core) 1 1 1)).errorInterrupt errUncorrectable core
  match row with
  | some r => s.testRow (.sram core r false)
  | none =>
    let (k, s) := s.draw
    s.testRow (.sram core (32768 + (Config.freeWord k).toNat) false)

/-- A correctable error in a storage row of a core or slice is corrected and counted, and the row is tested (19 R351, R352). -/
def State.correctRow (s : State) (row : Row) : State := (s.count (.error row.die row.unit.1 0 1)).testRow row

/-- Bytes of memory that are lost, from a location upward. -/
def State.loseBytes (s : State) (k n : Nat) : State := { s with
  bad := s.bad.filter (fun (b : Nat × FaultKind) => !(k ≤ b.1 && b.1 < k + n)) ++ (List.range n).map (fun i => (k + i, FaultKind.uncorrectable))
  soft := s.soft.filter (fun b => !(k ≤ b && b < k + n)) }

/-- The row of a slice in which a line lies: each line has its own (DESIGN CHOICE, log 56). -/
def sliceRow (slice addr : Nat) : Row := .slice slice addr false

/-- UNCORRECTABLE_ERROR (10 R248, R249, 12 R272, 19 R351): what is lost gives a value to nobody; who reads it consumes an aborted value of kind
8. Of memory the whole granule is lost, which one symbol code covers (09 R221), and of a slice the sector, if it holds it (DEDUCED, log 28). The record of an engine task names the PC
of its instruction as the address: the spec names no pointer there (DESIGN CHOICE, log 88). -/
def execUncorrectableError (site : ErrSite) (s : State) : Next :=
  match site with
  | .memory pa =>
    match s.locate pa with
    | .error _ => done s
    | .ok l =>
      done ((((s.loseBytes (l.key / 64 * 64) 64).count (.error (l.slice / 64) 0 1 1)).errorInterrupt errUncorrectable pa).testRow (keyRow l.key))
  | .slice pa =>
    match s.locate pa with
    | .error _ => done s
    | .ok l =>
      if s.l2.any (fun x => x.slice == l.slice && x.addr == pa / 128 && (x.valid &&& sectorMask pa 1) != 0) then
        done ((((s.loseBytes (l.key / 32 * 32) 32).count (.error (l.slice / 64) 2 1 1)).errorInterrupt errUncorrectable pa).testRow
          (sliceRow l.slice (pa / 128)))
      else done s
  | .store core off =>
    if 256 ≤ core ∨ 0x200000 ≤ off then done s
    else done ((s.modCore core (fun c => { c with bad := tset c.bad (off / 4) .uncorrectable })).coreError core (some (off / 64)))
  | .task core task =>
    match (s.core core).task? task with
    | none => done s
    | some t =>
      if t.state = .waiting then done s
      else done ((s.coreError core none).taskFault core t (t.fault .uncorrectable t.pc false))
  | .regroup core =>
    match (s.core core).regroups with
    | [] => done s
    | g :: _ => done ((s.coreError core none).regroupLost core g)

/-- Whether a spare is left for a row. -/
def State.spareLeft (s : State) (row : Row) : Bool :=
  decide ((s.spares.filter (fun r => r.unit == row.unit)).length ≤ Config.moreSpares)

/-- Whether a load's data come through a row: from its DRAM row or slice, or into its core's store (19 R351). -/
def State.throughRow (s : State) (core : Nat) (l : Load) (row : Row) : Bool :=
  match row, l.req with
  | .sram c _ _, _ => c == core
  | .dram stack n _, some (_, pa, _) => (match s.locate pa with
    | .ok loc => l.source == 3 && !loc.cxl && keyRow loc.key == .dram stack n false
    | .error _ => false)
  | .slice n _ _, some (_, pa, _) => (match s.locate pa with
    | .ok loc => l.source == 3 && loc.slice == n
    | .error _ => false)
  | _, none => false

/-- The promised loads that a move of a row's contents may delay. -/
def State.onRow (s : State) (row : Row) : List LoadRef :=
  s.cores.flatMap (fun e => (e.2.loads.filter (fun l => tstate (s.loadTreg e.1 l) == 2 && s.throughRow e.1 l row)).map (fun l =>
    ({ core := e.1, load := l.id } : LoadRef)))

/-- A move of a row's contents delays a promise of a load through it or not, by a free value (19 R351; DESIGN CHOICE, log 37). -/
def State.moveRow (s : State) (r : LoadRef) : State :=
  let (k, s) := s.draw
  if (Config.freeWord k).getLsbD 0 then s.delay r 3 else s

/-- The firmware adds what it has counted to the lifetime records (19 R352). -/
def State.updateLife (s : State) : State := { s with life := s.life ++ s.tally, tally := [] }

/-- ROW_SELF_TEST (19 R351): the row is served from a spare while March C- runs on it. A test that passes makes the error a transient one; a
lasting error keeps the spare in service, or retires the frame or core where no spare is left, and the records are updated at once (19 R352). -/
def execRowSelfTest (row : Row) (passes : Bool) (s : State) : Next :=
  let s := s.draw.2
  let s := (s.onRow row).foldl State.moveRow { s with tests := s.tests.filter (· != row) }
  if passes then done (s.count (.error row.die row.unit.1 2 1))
  else
    let s := s.count (.error row.die row.unit.1 3 1)
    if s.spareLeft row then done ({ s with spares := s.spares ++ [row] }.count (.repair 1 0)).updateLife
    else match row with
      | .dram stack n _ => done ((s.count (.repair 0 1)).updateLife.send 0 (.notifyError 0 errRetire (stack * 65536 + n)))
      | .sram core _ _ => done { s.updateLife with retired := if s.retired.contains core then s.retired else s.retired ++ [core] }
      | .slice _ _ _ => done s.updateLife

/-- FREEZE (19 R353): every clock of the package stops; only a reset restarts it. -/
def execFreeze (s : State) : Next := done { s with frozen := true }

/-- Sets PKSTAT.UP of every port: the links are trained (19 R340, R354). -/
def State.trainLinks (s : State) : State :=
  (List.range 18).foldl (fun s p => s.setCw4 (portDie p) (0x70000 + p * 0x40 + 0x24) 1) s

/-- The boot ROM's decision (19 R354): the firmware starts and trains the links, or the device waits for an image. -/
def State.bootUp (s : State) : State :=
  if s.fwImage.verifies then { s.trainLinks with boot := .running } else { s with boot := .refused }

/-- A start with a firmware image (19 R352, R354): every register at its reset value, memory as at power-on (DESIGN CHOICE, log 2); what lies in
non-volatile storage or was replaced for good stays, and so does the course of the outside world (DEDUCED, log 57). -/
def State.restart (s : State) (image : FwImage) : State :=
  { State.reset with
    fwImage := image
    life := s.life
    spares := s.spares
    retired := s.retired
    agenda := s.agenda
    assign := s.assign
    free := s.free
    seq := s.seq }.bootUp

/-- RESET (19 R354). -/
def execReset (s : State) : Next := done (s.restart s.fwImage)

/-- FIRMWARE_IMAGE_LOAD (19 R354): a device whose firmware did not verify accepts a new image, which is verified in turn and then
loads the reset values. -/
def execFirmwareImageLoad (image : FwImage) (s : State) : Next :=
  match s.boot with
  | .refused => done (s.restart image)
  | _ => done s

/-- Whether an item of the lifetime records is one that only the firmware's sensors give: temperatures and voltages. -/
def sensed (i : LifeItem) : Bool :=
  match i with
  | .temperature _ _ _ | .voltage _ _ _ => true
  | _ => false

/-- LIFETIME_RECORD_UPDATE (19 R352): the firmware adds what its sensors say, and the errors, broken promises and repairs that the machine has
counted since (DESIGN CHOICE, log 67). -/
def execLifetimeRecordUpdate (items : List LifeItem) (s : State) : Next :=
  if s.boot = .running then done { s.updateLife with life := s.updateLife.life ++ items.filter sensed } else done s

/-- LIFETIME_RECORD_READ (19 R352): the management port reads them. -/
def execLifetimeRecordRead (s : State) : Next := done { s with outbox := s.outbox ++ [.lifetime s.life] }

/-- DEBUG_HALT (09 R219): the core's threads stand; it goes on taking replies. -/
def execDebugHalt (core : Nat) (s : State) : Next :=
  done { s with halted := if s.halted.contains core then s.halted else s.halted ++ [core] }

/-- DEBUG_RESUME (09 R219). -/
def execDebugResume (core : Nat) (s : State) : Next := done { s with halted := s.halted.filter (· != core) }

/-- CONTEXT_KEY_LOAD (09 R220): the management firmware loads a context's key. -/
def execContextKeyLoad (ctx : Nat) (key : BitVec 512) (s : State) : Next :=
  if s.boot = .running ∧ ctx < 64 then done { s with keys := tset s.keys ctx key } else done s

/-- CXL_WRITE_COMPLETION (08 R182): the device at a port completes the earliest write that awaits it. -/
def execCxlWriteCompletion (port : Nat) (s : State) : Next :=
  match s.cxlAwait.find? (fun e => e.2 == port) with
  | none => done s
  | some e => done { s with cxlAwait := s.cxlAwait.filter (· != e) }

/-- ROUTER_FAILURE (19 R348): an error interrupt; nothing is killed. -/
def execRouterFailure (unit : Nat) (s : State) : Next := done (s.errorInterrupt errUnit unit)

/-- The registers that an attestation report covers, in ascending address order: every CTXCTL, CTXWIN and PKEY (19 R355). -/
def State.attested (s : State) : List Byte :=
  (List.range 64).flatMap (fun c => bytesOf (s.cwRead 0 (0x50030 + c * 0x40) 4) 4)
  ++ (List.range 64).flatMap (fun c => bytesOf (s.cw8 0 (0x51000 + c * 8)).toNat 8)
  ++ (List.range 18).flatMap (fun p => (List.range 8).flatMap (fun e => bytesOf (s.cw4 (portDie p) (0x70000 + p * 0x40 + e * 4)).toNat 4))

/-- The 184 bytes of an attestation report (19 R355). -/
def State.attest (s : State) (nonce : BitVec 256) : List Byte :=
  let body := bytesOf Config.serial.toNat 16 ++ bytesOf s.fwImage.version.toNat 8 ++ bytesOf s.fwImage.sha.toNat 32
    ++ bytesOf (Config.sha256 s.attested).toNat 32 ++ bytesOf nonce.toNat 32
  body ++ bytesOf (Config.reportSignature body).toNat 64

/-- ATTESTATION_REQUEST (19 R355): from the management port (port 18 here), or from a host endpoint with tag 0 (DESIGN CHOICE, log 58). -/
def execAttestationRequest (m : Sender) (nonce : BitVec 256) (s : State) : Next :=
  if m.port = 18 then
    if s.boot = .running then done { s with outbox := s.outbox ++ [.report m (s.attest nonce)] } else done s
  else s.receive m (fun s => if m.tag = 0 then s.answer m (.report m (s.attest nonce)) else s)

end Sys2Proof.Machine
end

