-- ==== Sys2Proof/Machine/Dispatch.lean ====
section
/-! DEFINITION. The meaning of every instruction and happening, one arm each. -/

namespace Sys2Proof.Machine

/-- What an instruction or a happening does (each meaning stands in the file of its family). -/
def exec (i : Instr) (s : State) : Host.Outcome State Fault Refusal :=
  match i with
  | .nop x => Sys2Proof.Machine.execNop x s
  | .nopX x => Sys2Proof.Machine.execNopX x s
  | .mov x => Sys2Proof.Machine.execMov x s
  | .movX x => Sys2Proof.Machine.execMovX x s
  | .iadd x => Sys2Proof.Machine.execIadd x s
  | .iaddX x => Sys2Proof.Machine.execIaddX x s
  | .isub x => Sys2Proof.Machine.execIsub x s
  | .isubX x => Sys2Proof.Machine.execIsubX x s
  | .imul x => Sys2Proof.Machine.execImul x s
  | .imulX x => Sys2Proof.Machine.execImulX x s
  | .imulh x => Sys2Proof.Machine.execImulh x s
  | .imulhX x => Sys2Proof.Machine.execImulhX x s
  | .imulhu x => Sys2Proof.Machine.execImulhu x s
  | .imulhuX x => Sys2Proof.Machine.execImulhuX x s
  | .imin x => Sys2Proof.Machine.execImin x s
  | .iminX x => Sys2Proof.Machine.execIminX x s
  | .imax x => Sys2Proof.Machine.execImax x s
  | .imaxX x => Sys2Proof.Machine.execImaxX x s
  | .iminu x => Sys2Proof.Machine.execIminu x s
  | .iminuX x => Sys2Proof.Machine.execIminuX x s
  | .imaxu x => Sys2Proof.Machine.execImaxu x s
  | .imaxuX x => Sys2Proof.Machine.execImaxuX x s
  | .andS x => Sys2Proof.Machine.execAnd x s
  | .andX x => Sys2Proof.Machine.execAndX x s
  | .orS x => Sys2Proof.Machine.execOr x s
  | .orX x => Sys2Proof.Machine.execOrX x s
  | .xorS x => Sys2Proof.Machine.execXor x s
  | .xorX x => Sys2Proof.Machine.execXorX x s
  | .andn x => Sys2Proof.Machine.execAndn x s
  | .andnX x => Sys2Proof.Machine.execAndnX x s
  | .shl x => Sys2Proof.Machine.execShl x s
  | .shlX x => Sys2Proof.Machine.execShlX x s
  | .shr x => Sys2Proof.Machine.execShr x s
  | .shrX x => Sys2Proof.Machine.execShrX x s
  | .sar x => Sys2Proof.Machine.execSar x s
  | .sarX x => Sys2Proof.Machine.execSarX x s
  | .rotl x => Sys2Proof.Machine.execRotl x s
  | .rotlX x => Sys2Proof.Machine.execRotlX x s
  | .popc x => Sys2Proof.Machine.execPopc x s
  | .popcX x => Sys2Proof.Machine.execPopcX x s
  | .clz x => Sys2Proof.Machine.execClz x s
  | .clzX x => Sys2Proof.Machine.execClzX x s
  | .ctz x => Sys2Proof.Machine.execCtz x s
  | .ctzX x => Sys2Proof.Machine.execCtzX x s
  | .brev x => Sys2Proof.Machine.execBrev x s
  | .brevX x => Sys2Proof.Machine.execBrevX x s
  | .iabs x => Sys2Proof.Machine.execIabs x s
  | .iabsX x => Sys2Proof.Machine.execIabsX x s
  | .fadd x => Sys2Proof.Machine.execFadd x s
  | .faddX x => Sys2Proof.Machine.execFaddX x s
  | .fmul x => Sys2Proof.Machine.execFmul x s
  | .fmulX x => Sys2Proof.Machine.execFmulX x s
  | .fmin x => Sys2Proof.Machine.execFmin x s
  | .fminX x => Sys2Proof.Machine.execFminX x s
  | .fmax x => Sys2Proof.Machine.execFmax x s
  | .fmaxX x => Sys2Proof.Machine.execFmaxX x s
  | .isetp x => Sys2Proof.Machine.execIsetp x s
  | .isetpX x => Sys2Proof.Machine.execIsetpX x s
  | .fsetp x => Sys2Proof.Machine.execFsetp x s
  | .fsetpX x => Sys2Proof.Machine.execFsetpX x s
  | .plop x => Sys2Proof.Machine.execPlop x s
  | .plopX x => Sys2Proof.Machine.execPlopX x s
  | .bra x => Sys2Proof.Machine.execBra x s
  | .braX x => Sys2Proof.Machine.execBraX x s
  | .call x => Sys2Proof.Machine.execCall x s
  | .callX x => Sys2Proof.Machine.execCallX x s
  | .brx x => Sys2Proof.Machine.execBrx x s
  | .brxX x => Sys2Proof.Machine.execBrxX x s
  | .callx x => Sys2Proof.Machine.execCallx x s
  | .callxX x => Sys2Proof.Machine.execCallxX x s
  | .ret x => Sys2Proof.Machine.execRet x s
  | .retX x => Sys2Proof.Machine.execRetX x s
  | .exit x => Sys2Proof.Machine.execExit x s
  | .exitX x => Sys2Proof.Machine.execExitX x s
  | .yield x => Sys2Proof.Machine.execYield x s
  | .yieldX x => Sys2Proof.Machine.execYieldX x s
  | .joinS x => Sys2Proof.Machine.execJoin x s
  | .joinX x => Sys2Proof.Machine.execJoinX x s
  | .jleave x => Sys2Proof.Machine.execJleave x s
  | .jleaveX x => Sys2Proof.Machine.execJleaveX x s
  | .twait x => Sys2Proof.Machine.execTwait x s
  | .twaitX x => Sys2Proof.Machine.execTwaitX x s
  | .tclr x => Sys2Proof.Machine.execTclr x s
  | .tclrX x => Sys2Proof.Machine.execTclrX x s
  | .brk x => Sys2Proof.Machine.execBrk x s
  | .brkX x => Sys2Proof.Machine.execBrkX x s
  | .trap x => Sys2Proof.Machine.execTrap x s
  | .trapX x => Sys2Proof.Machine.execTrapX x s
  | .bsync x => Sys2Proof.Machine.execBsync x s
  | .bsyncX x => Sys2Proof.Machine.execBsyncX x s
  | .imad x => Sys2Proof.Machine.execImad x s
  | .idiv x => Sys2Proof.Machine.execIdiv x s
  | .irem x => Sys2Proof.Machine.execIrem x s
  | .lea x => Sys2Proof.Machine.execLea x s
  | .sel x => Sys2Proof.Machine.execSel x s
  | .bfx x => Sys2Proof.Machine.execBfx x s
  | .bfi x => Sys2Proof.Machine.execBfi x s
  | .ffma x => Sys2Proof.Machine.execFfma x s
  | .frcp x => Sys2Proof.Machine.execFrcp x s
  | .frsq x => Sys2Proof.Machine.execFrsq x s
  | .fsqrt x => Sys2Proof.Machine.execFsqrt x s
  | .fex2 x => Sys2Proof.Machine.execFex2 x s
  | .flg2 x => Sys2Proof.Machine.execFlg2 x s
  | .fsin x => Sys2Proof.Machine.execFsin x s
  | .fcos x => Sys2Proof.Machine.execFcos x s
  | .ftanh x => Sys2Proof.Machine.execFtanh x s
  | .fcvt x => Sys2Proof.Machine.execFcvt x s
  | .vote x => Sys2Proof.Machine.execVote x s
  | .shfl x => Sys2Proof.Machine.execShfl x s
  | .prfx x => Sys2Proof.Machine.execPrfx x s
  | .cred x => Sys2Proof.Machine.execCred x s
  | .jinit x => Sys2Proof.Machine.execJinit x s
  | .tyield x => Sys2Proof.Machine.execTyield x s
  | .tbr x => Sys2Proof.Machine.execTbr x s
  | .tget x => Sys2Proof.Machine.execTget x s
  | .tsetp x => Sys2Proof.Machine.execTsetp x s
  | .ld x => Sys2Proof.Machine.execLd x s
  | .st x => Sys2Proof.Machine.execSt x s
  | .ldk x => Sys2Proof.Machine.execLdk x s
  | .atom x => Sys2Proof.Machine.execAtom x s
  | .red x => Sys2Proof.Machine.execRed x s
  | .stcp x => Sys2Proof.Machine.execStcp x s
  | .pref x => Sys2Proof.Machine.execPref x s
  | .phase x => Sys2Proof.Machine.execPhase x s
  | .pfence x => Sys2Proof.Machine.execPfence x s
  | .regionI x => Sys2Proof.Machine.execRegion x s
  | .regionEnd x => Sys2Proof.Machine.execRegionEnd x s
  | .boinit x => Sys2Proof.Machine.execBoinit x s
  | .boarv x => Sys2Proof.Machine.execBoarv x s
  | .bowait x => Sys2Proof.Machine.execBowait x s
  | .botx x => Sys2Proof.Machine.execBotx x s
  | .feget x => Sys2Proof.Machine.execFeget x s
  | .feput x => Sys2Proof.Machine.execFeput x s
  | .shmap x => Sys2Proof.Machine.execShmap x s
  | .rbacq x => Sys2Proof.Machine.execRbacq x s
  | .rbrel x => Sys2Proof.Machine.execRbrel x s
  | .cpy x => Sys2Proof.Machine.execCpy x s
  | .gath x => Sys2Proof.Machine.execGath x s
  | .scat x => Sys2Proof.Machine.execScat x s
  | .srinv x => Sys2Proof.Machine.execSrinv x s
  | .mbld x => Sys2Proof.Machine.execMbld x s
  | .mma x => Sys2Proof.Machine.execMma x s
  | .mlut x => Sys2Proof.Machine.execMlut x s
  | .mlma x => Sys2Proof.Machine.execMlma x s
  | .mdrain x => Sys2Proof.Machine.execMdrain x s
  | .mcls x => Sys2Proof.Machine.execMcls x s
  | .gbcfg x => Sys2Proof.Machine.execGbcfg x s
  | .gbset x => Sys2Proof.Machine.execGbset x s
  | .gbclamp x => Sys2Proof.Machine.execGbclamp x s
  | .gbsweep x => Sys2Proof.Machine.execGbsweep x s
  | .gbread x => Sys2Proof.Machine.execGbread x s
  | .gbstat x => Sys2Proof.Machine.execGbstat x s
  | .gbseed x => Sys2Proof.Machine.execGbseed x s
  | .rgrp x => Sys2Proof.Machine.execRgrp x s
  | .gets x => Sys2Proof.Machine.execGets x s
  | .sets x => Sys2Proof.Machine.execSets x s
  | .cctl x => Sys2Proof.Machine.execCctl x s
  | .icinv x => Sys2Proof.Machine.execIcinv x s
  | .tlbinv x => Sys2Proof.Machine.execTlbinv x s
  | .eret x => Sys2Proof.Machine.execEret x s
  | .svc x => Sys2Proof.Machine.execSvc x s
  | .bound x => Sys2Proof.Machine.execBound x s
  | .tkpass x => Sys2Proof.Machine.execTkpass x s
  | .lnch x => Sys2Proof.Machine.execLnch x s
  | .kaleidoscopeMapsSwitch core => Sys2Proof.Machine.execKaleidoscopeMapsSwitch core s
  | .launch m die va ctx => Sys2Proof.Machine.execLaunch m die va ctx s
  | .acceptanceToken => Sys2Proof.Machine.execAcceptanceToken s
  | .blockPlacement => Sys2Proof.Machine.execBlockPlacement s
  | .preemption lid block => Sys2Proof.Machine.execPreemption lid block s
  | .launchFailure lid => Sys2Proof.Machine.execLaunchFailure lid s
  | .blockCompletion lid block => Sys2Proof.Machine.execBlockCompletion lid block s
  | .launchCompletion lid => Sys2Proof.Machine.execLaunchCompletion lid s
  | .rbacqGrant core => Sys2Proof.Machine.execRbacqGrant core s
  | .l2PromiseRequest core load => Sys2Proof.Machine.execL2PromiseRequest core load s
  | .dramBooking core load => Sys2Proof.Machine.execDramBooking core load s
  | .promiseDelivered core load cycle => Sys2Proof.Machine.execPromiseDelivered core load cycle s
  | .loadArrival core load => Sys2Proof.Machine.execLoadArrival core load s
  | .promiseBroken core load estimate => Sys2Proof.Machine.execPromiseBroken core load estimate s
  | .brokenReestimate core load estimate => Sys2Proof.Machine.execBrokenReestimate core load estimate s
  | .abortCompletion core load kind => Sys2Proof.Machine.execAbortCompletion core load kind s
  | .timedWake core => Sys2Proof.Machine.execTimedWake core s
  | .wakeOverflowReinsert core => Sys2Proof.Machine.execWakeOverflowReinsert core s
  | .islandClockStop island => Sys2Proof.Machine.execIslandClockStop island s
  | .islandClockRestart island => Sys2Proof.Machine.execIslandClockRestart island s
  | .islandRatioChange island again => Sys2Proof.Machine.execIslandRatioChange island again s
  | .stackCacheSpillFill core crew lane fill => Sys2Proof.Machine.execStackCacheSpillFill core crew lane fill s
  | .walkAhead core task => Sys2Proof.Machine.execWalkAhead core task s
  | .furesResolve die ctx page => Sys2Proof.Machine.execFuresResolve die ctx page s
  | .furesFail die ctx page => Sys2Proof.Machine.execFuresFail die ctx page s
  | .taskDispatch core engine => Sys2Proof.Machine.execTaskDispatch core engine s
  | .engineByteLands core task elem => Sys2Proof.Machine.execEngineByteLands core task elem s
  | .engineTaskFault core task => Sys2Proof.Machine.execEngineTaskFault core task s
  | .matrixTaskSuspend core steps => Sys2Proof.Machine.execMatrixTaskSuspend core steps s
  | .taskCompletion core task => Sys2Proof.Machine.execTaskCompletion core task s
  | .updateOnlyPacket core lid line => Sys2Proof.Machine.execUpdateOnlyPacket core lid line s
  | .l1Writeback core lid line => Sys2Proof.Machine.execL1Writeback core lid line s
  | .storeAbort core lid line kind => Sys2Proof.Machine.execStoreAbort core lid line kind s
  | .sliceRequestReturn core load => Sys2Proof.Machine.execSliceRequestReturn core load s
  | .uncorrectableError site => Sys2Proof.Machine.execUncorrectableError site s
  | .rowSelfTest row passes => Sys2Proof.Machine.execRowSelfTest row passes s
  | .amctlGo die region value => Sys2Proof.Machine.execAmctlGo die region value s
  | .addressMapCommit => Sys2Proof.Machine.execAddressMapCommit s
  | .l2quotaWrite die value => Sys2Proof.Machine.execL2quotaWrite die value s
  | .sactlApply die => Sys2Proof.Machine.execSactlApply die s
  | .slotEditApplied die => Sys2Proof.Machine.execSlotEditApplied die s
  | .ctxctlSuspend ctx => Sys2Proof.Machine.execCtxctlSuspend ctx s
  | .ctxctlResume ctx => Sys2Proof.Machine.execCtxctlResume ctx s
  | .killContext ctx => Sys2Proof.Machine.execKillContext ctx s
  | .killOwner owner => Sys2Proof.Machine.execKillOwner owner s
  | .fwrevRevoke ctx idx => Sys2Proof.Machine.execFwrevRevoke ctx idx s
  | .pkdropClear port => Sys2Proof.Machine.execPkdropClear port s
  | .controlRegisterWrite die off size value => Sys2Proof.Machine.execControlRegisterWrite die off size value s
  | .islopWrite island opp => Sys2Proof.Machine.execIslopWrite island opp s
  | .fabricRequestTimeout req => Sys2Proof.Machine.execFabricRequestTimeout req s
  | .linkReplay port delayed => Sys2Proof.Machine.execLinkReplay port delayed s
  | .linkDown port => Sys2Proof.Machine.execLinkDown port s
  | .mrd m ctx va n => Sys2Proof.Machine.execMrd m ctx va n s
  | .mwr m ctx va data => Sys2Proof.Machine.execMwr m ctx va data s
  | .crd m die off n => Sys2Proof.Machine.execCrd m die off n s
  | .cwr m die off n value => Sys2Proof.Machine.execCwr m die off n value s
  | .wrd m ctx xidx off n => Sys2Proof.Machine.execWrd m ctx xidx off n s
  | .wwr m ctx xidx off data => Sys2Proof.Machine.execWwr m ctx xidx off data s
  | .rsp m req data => Sys2Proof.Machine.execRsp m req data s
  | .fabricProtocolViolation m => Sys2Proof.Machine.execFabricProtocolViolation m s
  | .rdmaAccess port qp va op => Sys2Proof.Machine.execRdmaAccess port qp va op s
  | .attestationRequest m nonce => Sys2Proof.Machine.execAttestationRequest m nonce s
  | .freeze => Sys2Proof.Machine.execFreeze s
  | .reset => Sys2Proof.Machine.execReset s
  | .firmwareImageLoad image => Sys2Proof.Machine.execFirmwareImageLoad image s
  | .lifetimeRecordUpdate items => Sys2Proof.Machine.execLifetimeRecordUpdate items s
  | .lifetimeRecordRead => Sys2Proof.Machine.execLifetimeRecordRead s
  | .powerLimitLower island opp => Sys2Proof.Machine.execPowerLimitLower island opp s
  | .debugHalt core => Sys2Proof.Machine.execDebugHalt core s
  | .contextKeyLoad ctx key => Sys2Proof.Machine.execContextKeyLoad ctx key s
  | .debugResume core => Sys2Proof.Machine.execDebugResume core s
  | .cxlWriteCompletion port => Sys2Proof.Machine.execCxlWriteCompletion port s
  | .refreshPulledIn delayed => Sys2Proof.Machine.execRefreshPulledIn delayed s
  | .routerFailure unit => Sys2Proof.Machine.execRouterFailure unit s

end Sys2Proof.Machine
end

