-- ==== Sys2Proof/Machine/Internal.lean ====
section
/-! DEFINITION. What moves next (DESIGN CHOICE, log 1): what each step settles before anything moves, the happenings that the device makes of its own
accord, and the choice between them, the outside world's agenda and the issue of a group. -/

namespace Sys2Proof.Machine
open Sys2Proof

/-- The cores that have anything resident. -/
def State.busyCores (s : State) : List (Nat × Core) := s.cores.filter (fun e => !e.2.threads.isEmpty)

/-- A YIELD stops waiting for groups that are ready no longer, and its thread goes on when none is left (02 R55). -/
def State.settleYield (s : State) (core : Nat) : State :=
  let c := s.core core
  if c.threads.any (fun e => match e.2.park with
    | some (.yield _) => true
    | _ => false) then
    let now := (s.readyThreads core).map (fun e => (e.2.pc.toNat, e.2.lid))
    s.setCore core { c with threads := c.threads.map (fun (e : Nat × Thread) => match e.2.park with
      | some (.yield l) =>
        let l := l.filter now.contains
        (e.1, { e.2 with park := if l.isEmpty then none else some (.yield l) })
      | _ => e) }
  else s

/-- A thread at its boundary takes the VALUE_BOUND trap that waits for it (14 R295). -/
def State.takeBound (s : State) (core : Nat) (e : Nat × Thread) : State :=
  match e.2.boundTrap with
  | none => s
  | some (fidx, at_) =>
    (s.modThread core e.1 (fun t => { t with boundTrap := none, fidx := fidx, faddr := at_ })).takeTrap core e.1 causeValueBound e.2.pc

/-- The threads of a core that have such a trap and are ready. -/
def State.boundDue (s : State) (core : Nat) : List (Nat × Thread) :=
  if (s.core core).threads.any (fun e => e.2.boundTrap.isSome) then (s.readyThreads core).filter (fun e => e.2.boundTrap.isSome) else []

/-- Settles a core: rendezvous that changed masks or exits have completed, YIELDs, and traps at boundaries. -/
def State.settleCore (s : State) (core : Nat) : State :=
  let crews := (((s.core core).threads.filter (fun e => e.2.atCross)).map (·.1 / 64)).eraseDups
  let s := crews.foldl (fun s i => s.settleCross core i) s
  let blocks := (((s.core core).threads.filter (fun e => e.2.atRgrp.isSome)).map (fun e => (e.2.lid, e.2.block))).eraseDups
  let s := blocks.foldl (fun s b => s.settleRgrp core b.1 b.2) s
  let s := s.settleYield core
  (s.boundDue core).foldl (fun s e => s.takeBound core e) s

/-- Revoked entries that software has cleared since, and contexts that a kill has emptied, are forgotten (19 R346, R347). -/
def State.settleRevoked (s : State) : State :=
  { s with
    revoking := if s.revoking.isEmpty then [] else s.revoking.filter (fun e => (s.windowEntry e.1 e.2).2.getLsbD 63)
    killing := if s.killing.isEmpty then [] else s.killing.filter s.ctxResident }

/-- Rollbacks that wait on any core try again. -/
def State.settleRollbacks (s : State) : State :=
  ((s.cores.filter (fun e => e.2.blocks.any (·.rolling))).map (·.1)).foldl State.settleRolls s

/-- Marbles that wait at BSYNC pass where they can now (08 R199). -/
def State.settleMarbles (s : State) : State :=
  ((s.launches.filter (fun l => l.marble.isSome)).map (·.rcd.lid)).foldl State.settleMarble s

/-- What holds before anything moves in a step. -/
def State.settle (s : State) : State :=
  (((s.busyCores.map (·.1)).foldl State.settleCore s.serveWaits.settleRollbacks).settleMarbles).settleRevoked

/-- A launch that failed and is not off its cores yet. -/
def State.failing (s : State) : Option Instr :=
  (s.launches.find? (fun l => match l.ended with
    | some (3, _, _) => !(s.residents l.rcd.lid).isEmpty || !l.saved.isEmpty || s.cores.any (fun e => (tget e.2.shares l.rcd.lid).isSome)
    | _ => false)).map (fun l => .launchFailure l.rcd.lid)

/-- A launch that can complete now. -/
def State.completing (s : State) : Option Instr :=
  (s.launches.find? (fun l => s.isOver l && (match l.await with
    | none => true
    | some ids => !ids.any (s.launchAwaits l.rcd.lid).contains))).map (fun l => .launchCompletion l.rcd.lid)

/-- A block that can complete now. -/
def State.retiringNow (s : State) : Option Instr :=
  s.cores.findSome? (fun e => (e.2.blocks.find? (s.drained e.1)).map (fun b => .blockCompletion b.lid b.index))

/-- A core that can grant registers to a held crew. -/
def State.granting (s : State) : Option Instr :=
  (s.cores.find? (fun e => e.2.crews.any (fun c => c.2.held.isSome) && (s.grantOne e.1).isSome)).map (fun e => .rbacqGrant e.1)

/-- Whether a load resolves by default before its promise says so: a fault is to be recorded, or data have come for a broken promise, from a slice
or another core's store ahead of the promise, or from behind a link within the bound (05 R122, R125). -/
def State.resolvesNow (s : State) (core : Nat) (l : Load) : Bool :=
  let st := tstate (s.loadTreg core l)
  l.ending.isNone && (l.fault.isSome
  || l.data.isSome && !s.waitsAtSlice l
    && (st == 4 || (st == 1 && (l.source == 3 || l.source == 5 || decide (8 ≤ l.source))) || (st == 2 && (l.source == 1 || l.source == 2))))

/-- A load that resolves: the oldest of a core. -/
def State.arriving (s : State) : Option Instr :=
  (s.cores.filter (fun e => (s.island (e.1 / 2)).running)).findSome? (fun e =>
    (e.2.loads.find? (s.resolvesNow e.1)).map (fun l => .loadArrival e.1 l.id))

/-- What the engines of a core do next: a task yields, completes, or is dispatched. -/
def State.working (s : State) (e : Nat × Core) : Option Instr :=
  if e.2.tasks.isEmpty ∨ !(s.island (e.1 / 2)).running then none
  else if e.2.tasks.any (fun t => t.state == .running && t.op.yields && !(s.above? e.1 t).isEmpty) then some (.matrixTaskSuspend e.1 0)
  else match e.2.tasks.find? (fun t => t.state == .running && !s.taskWaits e.1 t.id) with
    | some t => some (.taskCompletion e.1 t.id)
    | none =>
      ([Engine.matrix, .copy, .gather].find? (fun k => (s.nextTask e.1 k).isSome)).map (fun k => .taskDispatch e.1 k)

/-- A block that has to leave its core: of a suspended context, or of a unit of which a block was pre-empted (10 R256, 02 R45). -/
def State.leaving (s : State) : Option Instr :=
  s.cores.findSome? (fun e => (e.2.blocks.find? (fun b =>
    let n := max 1 (s.rcd b.lid).gang
    let broken := match s.launch? b.lid with
      | some l => decide (1 < n) && l.saved.any (fun v => v.blocks.any (fun x => x.1.index / n == b.index / n))
      | none => false
    (s.susp (s.rcd b.lid).ctx || broken) && s.savable e.1 (e.2.cohort b.lid b.index))).map (fun b => .preemption b.lid b.index))

/-- An island whose requested point can come into force. -/
def State.switching (s : State) : Option Instr :=
  (s.cw.find? (fun e =>
    let off := e.1 / 4 * 8
    decide (0x72000 ≤ off) && decide (off < 0x72100) && e.2.getLsbD 31
      && (e.2.extractLsb' 0 4 != 0 || (let i := e.1 % 4 * 32 + (off - 0x72000) / 8
          (s.core (2 * i)).blocks.isEmpty && (s.core (2 * i + 1)).blocks.isEmpty)))).map (fun e =>
    .islandRatioChange (e.1 % 4 * 32 + (e.1 / 4 * 8 - 0x72000) / 8) [])

/-- A core with timed wakes to place anew: some have come within range, or their bucket is reached (05 R143). -/
def State.rewaking (s : State) : Option Instr :=
  (s.cores.find? (fun e => e.2.overflow.any (fun o => decide (o.1 < s.time + 1024)) || e.2.far.any (fun o => decide (o.1 ≤ s.time)))).map (fun e =>
    .wakeOverflowReinsert e.1)

/-- A row with an error is tested (19 R351): whether the test passes is a free value (DESIGN CHOICE, log 56). -/
def State.testing (s : State) : Option Instr := s.tests.head?.map (fun r => .rowSelfTest r ((Config.freeWord s.free).getLsbD 1))

/-- The happening that the device makes next of its own accord, if any. -/
def State.internal (s : State) : Option Instr :=
  if s.boot = .rom then some .reset
  else if s.boot = .refused then none
  else if !s.waiting.isEmpty then some .acceptanceToken
  else
    [fun _ : Unit => s.failing, fun _ => s.granting, fun _ => s.retiringNow, fun _ => s.completing,
      fun _ => if s.launches.isEmpty then none
        else if s.placeNext.isSome || s.makeRoom.isSome then some .blockPlacement else none,
      fun _ => (s.cores.find? (fun e => !e.2.regroups.isEmpty)).map (fun e => .kaleidoscopeMapsSwitch e.1),
      fun _ => s.cores.findSome? s.working,
      fun _ => s.arriving,
      fun _ => if s.amBusy.isEmpty then none else some .addressMapCommit,
      fun _ => s.slotPending.head?.map .slotEditApplied,
      fun _ => s.leaving,
      fun _ => (s.fabric.find? (fun f => decide (f.expires ≤ s.time))).map (fun f => .fabricRequestTimeout f.id),
      fun _ => s.rewaking, fun _ => s.testing,
      fun _ => s.switching].findSome? (fun f => f ())

/-- The issue of a group, if one is selected: the state in which its instruction runs, and the instruction. -/
def State.issueNext (s : State) : Option (State × Option Instr) := s.nextGroup.map s.prepare

/-- A happening: it runs with no group selected. -/
def State.happen (s : State) (i : Instr) : State × Option Instr := ({ s with cur := none }, some i)

/-- What moves by default: groups and the device's own happenings take turns, and either goes on where the other has nothing (DESIGN CHOICE, log 1). -/
def State.default (s : State) : State × Option Instr :=
  let s' := { s with flip := !s.flip }
  if s.flip then
    match s.internal with
    | some i => s'.happen i
    | none => (s'.issueNext).getD ({ s' with cur := none }, none)
  else
    match s'.issueNext with
    | some x => x
    | none => match s.internal with
      | some i => s'.happen i
      | none => ({ s' with cur := none }, none)

/-- Whether the package takes a happening of the outside world: one whose firmware has not started takes a reset or an image only (19 R354). -/
def State.takesTurn (s : State) (i : Instr) : Bool :=
  s.boot != .refused || (match i with
    | .reset | .firmwareImageLoad _ => true
    | _ => false)

/-- One byte of memory becomes erroneous (09 R221). With another one in its granule the symbol code cannot correct it, which is an uncorrectable
error (10 R248) (DESIGN CHOICE, log 77). -/
def State.upset (s : State) (pa : Nat) : State × Option Instr :=
  match s.locate pa with
  | .error _ => ({ s with cur := none }, none)
  | .ok l =>
    if s.bad.any (·.1 == l.key) ∨ s.soft.contains l.key then ({ s with cur := none }, none)
    else if s.soft.any (fun b => b / 64 == l.key / 64) then s.happen (.uncorrectableError (.memory pa))
    else ({ s with soft := s.soft ++ [l.key], cur := none }, none)

/-- The state in which a step acts and the instruction or happening that it runs, if any: what loads and timed wakes are due for comes
first; then the outside world's agenda; then the default. -/
def State.turn (s : State) : State × Option Instr :=
  match s.due with
  | some i => s.happen i
  | none =>
    let s := s.tick.settle
    match s.agenda with
    | .happen i :: rest =>
      if s.takesTurn i then { s with agenda := rest }.happen i else ({ s with agenda := rest, cur := none }, none)
    | .upset pa :: rest => { s with agenda := rest }.upset pa
    | .corrected row :: rest => ({ s with agenda := rest, cur := none }.correctRow row, none)
    | .issue core arith :: rest =>
      let s := { s with agenda := rest }
      match s.select core arith with
      | some g => s.prepare g
      | none => ({ s with cur := none }, none)
    | [] => s.default

/-- A frozen package moves only when the outside world resets it (19 R353). -/
def State.thaw (s : State) : Option State :=
  match s.agenda with
  | .happen .reset :: rest => some { s with agenda := rest, cur := none }
  | _ => none

end Sys2Proof.Machine
end

