-- ==== Sys2Proof/Machine/Place.lean ====
section
/-! DEFINITION. A program put where the next step fetches (DESIGN CHOICE, log 3): it stands for the loads and the launch by which a host places one. -/

namespace Sys2Proof.Machine
open Sys2Proof

/-- The address-map region that a placed program lies in: every row names one bit, QUAD, SLICE and the rest as 09 R209 has them. -/
def placeRegion : AmRegion where
  base := 0
  lim := 2 ^ 40
  ofs := 0
  cxl := false
  en := true
  rows := (List.range 42).map (fun i =>
    BitVec.ofNat 42 (2 ^ (if i < 4 then i + 1 else if i < 8 then i + 34 else if i = 8 then 0 else i - 4)))

/-- The launch of a placed program: one thread, 28 register blocks, a handler, a scratchpad. -/
def placeRec : LaunchRec := { LaunchRec.none with
  entry := 0x10000
  traph := 0x20000
  reg := true
  levels := [(1, 0, 0), (1, 1, 1), (1, 2, 2), (0, 0, 0), (0, 0, 0), (0, 0, 0), (0, 0, 0), (0, 0, 0)]
  rbmax := 28
  rbinit := 28
  spad := 0x1000
  l1kib := 256
  sbuf := 512
  lid := 1
  stack := 0x100000
  stkb := 1024 }

/-- Its table entry, with its only block placed. -/
def placeLaunch : Launch :=
  { newLaunch placeRec { id := 0, die := 0, va := 0x8000, ctx := 0, from_ := .host { port := 0, tag := 0, endpoint := 0 } } 0 with next := 1 }

/-- The core it runs on: one crew of one thread. -/
def placeCore : Core :=
  { Core.reset with
    blocks := [{ newBlock placeRec 0 0x100000 0 with started := true }]
    crews := [(0, { newCrew 1 (0, 0) 0 with rbm := Vector.ofFn (fun i : Fin 28 => some i.val) })]
    threads := [(0, newThread placeRec 0 0 0)]
    shares := [(1, 256)] }

/-- Writes n bytes of a number at a physical address; nothing where it is unmapped. -/
def State.poke (s : State) (ctx pa n v : Nat) : State :=
  match s.writePa ctx false pa n v with
  | .ok s => s
  | .error _ => s

/-- A machine with a program's thread about to fetch at 0x10000 on core 0: context 0 with one 64 GiB page at level 2 (10 R224). -/
def State.withThread (s : State) : State :=
  let s := { s with
    am := tset s.am 0 placeRegion
    launches := s.launches.filter (fun (l : Launch) => l.rcd.lid != 1) ++ [placeLaunch] }
  let s := (s.setCw8 0 0x50000 0x2001).setCw4 0 0x50030 1
  let s := s.setCore 0 placeCore
  (s.poke 0 0x2000 8 0x4001).poke 0 0x4000 8 0x1F

/-- Drops the piece of code that a PA lies in from a core's I-cache. -/
def State.forgetCode (s : State) (core ctx pa : Nat) : State :=
  s.modCore core (fun c => { c with icache := tdel c.icache (pieceKey ctx pa) })

/-- Writes words of four bytes where a launch fetches them, from a PC upward. -/
def State.pokeCode (s : State) (core lid : Nat) (pc : DWord) (v : Nat) : Nat → State
  | 0 => s
  | n + 1 =>
    let ctx := (s.rcd lid).ctx
    let s := match s.walk ctx (pc.extractLsb' 0 56).toNat with
      | .ok (leaf, size) =>
        let pa := leafFrame leaf + (pc.extractLsb' 0 56).toNat % size
        (s.poke ctx pa 4 (v % 2 ^ 32)).forgetCode core ctx pa
      | .error _ => s
    State.pokeCode s core lid (addOff pc 4) (v / 2 ^ 32) n

/-- The program's words stand where the next step fetches: where a group is ready, at its PC; else a thread is placed for them. -/
def State.withProgram (s : State) (v : Nat) : State :=
  let s := { s with agenda := [], flip := false, frozen := false }
  match s.nextGroup with
  | some g => s.pokeCode g.core g.lid g.pc v 5
  | none => (s.withThread).poke 0 0x10000 20 v

end Sys2Proof.Machine
end

