-- ==== Sys2Proof/Machine/Step.lean ====
section
/-! DEFINITION. The step of the package: the choice of what moves (Internal.lean), and its meaning. -/

namespace Sys2Proof.Machine

/-- Runs what a turn has chosen. -/
def run (t : State × Option Instr) : Host.Outcome State Fault Refusal :=
  match t with
  | (s, some i) => exec i s
  | (s, none) => .next s

/-- One step. A frozen package stands until the outside world resets it (19 R353). -/
def step (s : State) : Host.Outcome State Fault Refusal :=
  if s.frozen then
    match s.thaw with
    | some s' => exec .reset s'
    | none => .fault .frozen
  else run s.turn

/-- The state with an instruction's words where the next step fetches (DESIGN CHOICE, log 3). -/
def State.withFetchWord (s : State) (nbits w : Nat) : State := s.withProgram (w % 2 ^ nbits)

end Sys2Proof.Machine
end

