-- ==== Sys2Proof/Safety.lean ====
section
/-! DEFINITION. The terms in which claims speak of runs: completion, groups, frames, and what a step may change. -/

namespace Sys2Proof.Machine
open Sys2Proof

/-- The next step answers a state. -/
def Moves (s : State) : Prop := ∃ s', step s = .next s'

/-- The instruction or happening i answers a next state with a property. -/
def Completes (i : Instr) (s : State) (p : State → Prop) : Prop := ∃ s', exec i s = .next s' ∧ p s'

/-- A group of one thread has issued: the thread t in a slot of a core (02 R53). -/
structure Solo (s : State) (core slot : Nat) (t : Thread) : Prop where
  cur : ∃ lid pc, s.cur = some { core := core, lid := lid, pc := pc, slots := [slot] }
  thread : s.thread? core slot = some t
  crew : ((s.core core).crew? (slot / 64)).isSome

/-- A group has issued: its members are live and hold different lanes, in whose order they are listed (02 R53, R54). -/
structure Issued (s : State) (g : Group) : Prop where
  cur : s.cur = some g
  lanes : g.slots.Pairwise (fun a b => a % 64 < b % 64)
  live : ∀ slot ∈ g.slots, (s.thread? g.core slot).isSome
  crews : ∀ slot ∈ g.slots, ((s.core g.core).crew? (slot / 64)).isSome

/-- Nothing outside one core changed: memory, the control window, the launch tables and every other core are as before. -/
def OnlyCore (core : Nat) (s s' : State) : Prop :=
  s' = { s with cores := s'.cores } ∧ ∀ n, n ≠ core → s'.core n = s.core n

/-- A pending load of which register writes have superseded destinations, and whose lookahead window may have counted down (03 R71, 21 R417). -/
def LoadThinned (l l' : Load) : Prop :=
  ∃ kept : BitVec 8 → Bool, l' = { l with dests := l.dests.filter (fun e => kept e.1), la := l'.la } ∧ l'.la ≤ l.la

/-- Of a core nothing changed but what register writes and waits change: threads and operand latches, the k registers of crews, the words of its
store, the marks of lost words, of which some have gone, and the destinations and lookahead windows of its pending loads. -/
structure RegFrame (c c' : Core) : Prop where
  rest : c' = { c with
    threads := c'.threads, crews := c'.crews, store := c'.store, loads := c'.loads, bad := c'.bad, latch := c'.latch }
  crews : ∀ i, Option.Rel (fun x x' : Crew => x' = { x with k := x'.k }) (c.crew? i) (c'.crew? i)
  loads : ∃ f : Load → Load, (∀ l, LoadThinned l (f l)) ∧ c'.loads = c.loads.map f
  bad : ∃ kept : Nat → Bool, c'.bad = c.bad.filter (fun e => kept e.1)

/-- In a core no thread but the one in a slot changed, and no other's register has come into an operand latch. -/
structure OnlyThread (slot : Nat) (c c' : Core) : Prop where
  same : ∀ o, o ≠ slot → c'.thread? o = c.thread? o
  latch : ∀ e ∈ c'.latch, e.1 ≠ slot → e ∈ c.latch

/-- A thread whose marks of aborted loads have lost registers, or nothing: what becomes of a thread when another one writes a register that both
see (04 R100, R105, 10 R250). -/
def Thinned (t t' : Thread) : Prop :=
  ∃ marked : BitVec 8 → Bool, t' = { t with taints := t.taints.map (fun x => { x with regs := x.regs.filter marked }) }

/-- In a core the threads but the one in a slot are as before, but for what a write of a register that they see too does to them, and no other's
register has come into an operand latch. -/
structure OthersThinned (slot : Nat) (c c' : Core) : Prop where
  thinned : ∀ o, o ≠ slot → Option.Rel Thinned (c.thread? o) (c'.thread? o)
  latch : ∀ e ∈ c'.latch, e.1 ≠ slot → e ∈ c.latch

/-- Whether register writes of a thread are seen by no other: none is of a k register, and no register block of the core is shared. -/
def Own (c : Core) (ws : List (BitVec 8 × Word)) : Prop := ∀ p ∈ ws, (p.1.toNat < 0xE0 ∧ c.shared = []) ∨ 0xF0 ≤ p.1.toNat

/-- The register writes that an instruction of the thread in a slot made, and no others: codes below 0xE0 name its v registers, those
below 0xF0 its crew's k registers, and 0xF8 discards. Every byte of the core store outside the words written, every other k register,
every map entry and every join mask is as before. -/
structure Wrote (c c' : Core) (slot : Nat) (ws : List (BitVec 8 × Word)) : Prop where
  v : ∀ d w, (d, w) ∈ ws → d.toNat < 0xE0 → c'.readV slot d.toNat = some w
  k : ∀ d w, (d, w) ∈ ws → 0xE0 ≤ d.toNat → d.toNat < 0xF0 → c'.readK (slot / 64) (d.setWidth 4) = w
  store : ∀ b, (∀ d w a, (d, w) ∈ ws → d.toNat < 0xE0 → c.vOff slot d.toNat = some a → b < a ∨ a + 4 ≤ b) →
    c'.store.get b = c.store.get b
  others : ∀ crew n, (∀ d w, (d, w) ∈ ws → 0xE0 ≤ d.toNat → d.toNat < 0xF0 → crew = slot / 64 → d.setWidth 4 ≠ n) →
    c'.readK crew n = c.readK crew n
  maps : ∀ o n, c'.vOff o n = c.vOff o n
  joins : ∀ crew n, c'.readJ crew n = c.readJ crew n

/-- An instruction of one thread made register writes, left the thread as u, and did nothing else: the wait the thread stood in ended,
and the operand latches and marks of superseded registers were kept up, of other threads only where they see a register that was written. -/
structure Result (s s' : State) (core slot : Nat) (u : Thread) (ws : List (BitVec 8 × Word)) : Prop where
  device : OnlyCore core s s'
  frame : RegFrame (s.core core) (s'.core core)
  threads : OthersThinned slot (s.core core) (s'.core core)
  own : Own (s.core core) ws → OnlyThread slot (s.core core) (s'.core core)
  regs : Wrote (s.core core) (s'.core core) slot ws
  thread : ∃ t', s'.thread? core slot = some t' ∧ t' = { u with park := none, taints := t'.taints }

/-- A thread that a trap finds in user mode, with a handler in its launch record (10 R244). -/
def Handled (s : State) (t : Thread) : Prop := t.mode = .user ∧ (s.rcd t.lid).traph ≠ 0

/-- A thread has taken a trap (10 R244): its cause and its exception PC are saved, it runs in handler mode at the handler's address,
and nothing else changed. u is the thread with what the instruction wrote before. -/
structure Trapped (s s' : State) (core slot : Nat) (u : Thread) (cause : Nat) (epc : DWord) : Prop where
  device : OnlyCore core s s'
  frame : RegFrame (s.core core) (s'.core core)
  threads : OnlyThread slot (s.core core) (s'.core core)
  regs : Wrote (s.core core) (s'.core core) slot []
  thread : ∃ t', s'.thread? core slot = some t' ∧ t' = { u with
    trapc := BitVec.ofNat 32 cause, epc := epc, mode := .handler, pc := (s.rcd u.lid).traph, park := none }

/-- A thread whose PC has moved by n bytes. -/
def Thread.past (t : Thread) (n : Nat) : Thread := { t with pc := t.pc + BitVec.ofNat 64 n }

/-- Every v register that a list of codes names lies in a mapped entry (02 R56). -/
def MappedAll (c : Core) (slot : Nat) (codes : List (BitVec 8)) : Prop :=
  ∀ d ∈ codes, d.toNat < 0xE0 → (c.vOff slot d.toNat).isSome

/-- What only the boot, the error handling, the management controller and a debugger may change. -/
structure Vault where
  boot : Boot
  fwImage : FwImage
  frozen : Bool
  life : List LifeItem
  spares : List Row
  retired : List Nat
  halted : List Nat
  keys : List (Nat × BitVec 512)
  deriving DecidableEq, Repr

/-- That part of the state. -/
def State.vault (s : State) : Vault where
  boot := s.boot
  fwImage := s.fwImage
  frozen := s.frozen
  life := s.life
  spares := s.spares
  retired := s.retired
  halted := s.halted
  keys := s.keys

/-- A running package runs a management firmware whose signature the boot ROM has verified (19 R354). -/
def State.Trusted (s : State) : Prop := s.boot = .running → s.fwImage.verifies = true

end Sys2Proof.Machine
end

