-- ==== Sys2Proof/Certificates/Slice0/Obligations.lean ====
section
/-! DEFINITION. The statements about the model, from the numbered rules of spec/, and the tables in which they name instructions. -/

namespace Sys2Proof.Claims
open Sys2Proof Sys2Proof.Machine

/-- An operation on two elements of a width. -/
abbrev El2 := (w : Nat) → BitVec w → BitVec w → BitVec w

/-- An operation on one element of a width. -/
abbrev El1 := (w : Nat) → BitVec w → BitVec w

/-- An exact result as an element: modulo the width, or clamped to the range of the type with SUB[3]; SUB[2] names the unsigned type
(21 R405, R409). -/
def fitTo (sub : BitVec 6) (w : Nat) (r : Int) : BitVec w :=
  if sub.getLsbD 3 then
    if sub.getLsbD 2 then BitVec.ofInt w (max 0 (min (2 ^ w - 1) r))
    else BitVec.ofInt w (max (-(2 ^ (w - 1))) (min (2 ^ (w - 1) - 1) r))
  else BitVec.ofInt w r

/-- The number that an element stands for. -/
def valueOf (sub : BitVec 6) {w : Nat} (a : BitVec w) : Int := if sub.getLsbD 2 then a.toNat else a.toInt

/-- The integer instructions of two sources and one result, with their fields as an X-form, their length, and what they compute on each
element (20 R364, R371, 21 R405, R408, R410, R411, R422, 22 R432, R451). -/
def intBinary : Instr → Option (XOps × Nat × El2)
  | .iadd o => some (o.toX, sLen o.lit, fun _ a b => a + b)
  | .iaddX x => some (x, x.len, fun w a b => fitTo x.sub w (valueOf x.sub a + valueOf x.sub b))
  | .isub o => some (o.toX, sLen o.lit, fun _ a b => a - b)
  | .isubX x => some (x, x.len, fun w a b => fitTo x.sub w (valueOf x.sub a - valueOf x.sub b))
  | .imul o => some (o.toX, sLen o.lit, fun _ a b => a * b)
  | .imulX x => some (x, x.len, fun _ a b => a * b)
  | .imulh o => some (o.toX, sLen o.lit, fun w a b => BitVec.ofInt w ((a.toInt * b.toInt) / 2 ^ w))
  | .imulhX x => some (x, x.len, fun w a b => BitVec.ofInt w ((a.toInt * b.toInt) / 2 ^ w))
  | .imulhu o => some (o.toX, sLen o.lit, fun w a b => BitVec.ofNat w (a.toNat * b.toNat / 2 ^ w))
  | .imulhuX x => some (x, x.len, fun w a b => BitVec.ofNat w (a.toNat * b.toNat / 2 ^ w))
  | .imin o => some (o.toX, sLen o.lit, fun w a b => BitVec.ofInt w (min a.toInt b.toInt))
  | .iminX x => some (x, x.len, fun w a b => BitVec.ofInt w (min a.toInt b.toInt))
  | .imax o => some (o.toX, sLen o.lit, fun w a b => BitVec.ofInt w (max a.toInt b.toInt))
  | .imaxX x => some (x, x.len, fun w a b => BitVec.ofInt w (max a.toInt b.toInt))
  | .iminu o => some (o.toX, sLen o.lit, fun w a b => BitVec.ofNat w (min a.toNat b.toNat))
  | .iminuX x => some (x, x.len, fun w a b => BitVec.ofNat w (min a.toNat b.toNat))
  | .imaxu o => some (o.toX, sLen o.lit, fun w a b => BitVec.ofNat w (max a.toNat b.toNat))
  | .imaxuX x => some (x, x.len, fun w a b => BitVec.ofNat w (max a.toNat b.toNat))
  | .andS o => some (o.toX, sLen o.lit, fun _ a b => a &&& b)
  | .andX x => some (x, x.len, fun _ a b => a &&& b)
  | .orS o => some (o.toX, sLen o.lit, fun _ a b => a ||| b)
  | .orX x => some (x, x.len, fun _ a b => a ||| b)
  | .xorS o => some (o.toX, sLen o.lit, fun _ a b => a ^^^ b)
  | .xorX x => some (x, x.len, fun _ a b => a ^^^ b)
  | .andn o => some (o.toX, sLen o.lit, fun _ a b => a &&& ~~~b)
  | .andnX x => some (x, x.len, fun _ a b => a &&& ~~~b)
  | .shl o => some (o.toX, sLen o.lit, fun w a b => a <<< (b.toNat % w))
  | .shlX x => some (x, x.len, fun w a b => a <<< (b.toNat % w))
  | .shr o => some (o.toX, sLen o.lit, fun w a b => a >>> (b.toNat % w))
  | .shrX x => some (x, x.len, fun w a b => a >>> (b.toNat % w))
  | .sar o => some (o.toX, sLen o.lit, fun w a b => BitVec.ofInt w (a.toInt / 2 ^ (b.toNat % w)))
  | .sarX x => some (x, x.len, fun w a b => BitVec.ofInt w (a.toInt / 2 ^ (b.toNat % w)))
  | .rotl o => some (o.toX, sLen o.lit, fun w a b => (a <<< (b.toNat % w)) ||| (a >>> (w - b.toNat % w)))
  | .rotlX x => some (x, x.len, fun w a b => (a <<< (b.toNat % w)) ||| (a >>> (w - b.toNat % w)))
  | .idiv x => some (x, x.len, fun w a b =>
      if b = 0 then BitVec.allOnes w
      else BitVec.ofInt w ((valueOf x.sub a).tdiv (valueOf x.sub b)))
  | .irem x => some (x, x.len, fun w a b =>
      if b = 0 then a else BitVec.ofInt w ((valueOf x.sub a).tmod (valueOf x.sub b)))
  | .lea x => some (x, x.len, fun _ a b => a + (b <<< (x.imm.extractLsb' 0 3).toNat))
  | _ => none

/-- The integer instructions of one source (20 R376, 21 R403, 22 R438). -/
def intUnary : Instr → Option (XOps × Nat × El1)
  | .popc o => some (o.toX, 4, fun w a => BitVec.ofNat w ((List.range w).countP (fun i => a.getLsbD i)))
  | .popcX x => some (x, x.len, fun w a => BitVec.ofNat w ((List.range w).countP (fun i => a.getLsbD i)))
  | .clz o => some (o.toX, 4, fun w a => BitVec.ofNat w (((List.range w).find? (fun i => a.getLsbD (w - 1 - i))).getD w))
  | .clzX x => some (x, x.len, fun w a => BitVec.ofNat w (((List.range w).find? (fun i => a.getLsbD (w - 1 - i))).getD w))
  | .ctz o => some (o.toX, 4, fun w a => BitVec.ofNat w (((List.range w).find? (fun i => a.getLsbD i)).getD w))
  | .ctzX x => some (x, x.len, fun w a => BitVec.ofNat w (((List.range w).find? (fun i => a.getLsbD i)).getD w))
  | .brev o => some (o.toX, 4, fun _ a => a.reverse)
  | .brevX x => some (x, x.len, fun _ a => a.reverse)
  | .iabs o => some (o.toX, 4, fun w a => BitVec.ofInt w (a.toInt.natAbs : Int))
  | .iabsX x => some (x, x.len, fun w a => BitVec.ofInt w (a.toInt.natAbs : Int))
  | _ => none

/-- A register computed element by element: SUB[1:0] = 10 names two 16-bit elements, 11 four 8-bit ones, 00 one of 32 bits (20 R360). -/
def packed (f : El2) (sub : BitVec 6) (a b : Word) : Word :=
  if sub.extractLsb' 0 2 = 2 then
    f 16 (a.extractLsb' 16 16) (b.extractLsb' 16 16) ++ f 16 (a.extractLsb' 0 16) (b.extractLsb' 0 16)
  else if sub.extractLsb' 0 2 = 3 then
    f 8 (a.extractLsb' 24 8) (b.extractLsb' 24 8) ++ f 8 (a.extractLsb' 16 8) (b.extractLsb' 16 8)
      ++ f 8 (a.extractLsb' 8 8) (b.extractLsb' 8 8) ++ f 8 (a.extractLsb' 0 8) (b.extractLsb' 0 8)
  else f 32 a b

/-- The registers that a 64-bit result is written to: a pair, or none for the discard code (04 R104). -/
def pairWrites (d : BitVec 8) (w : DWord) : List (BitVec 8 × Word) :=
  if d = 0xF8 then [] else [(d, w.extractLsb' 0 32), (d + 1, w.extractLsb' 32 32)]

/-- A destination pair: an even v or k code, or the discard code (03 R68). -/
def PairDst (d : BitVec 8) : Prop := d.toNat % 2 = 0 ∧ d.toNat < 0xF0 ∨ d = 0xF8

/-- The field that BFX takes from a value and BFI puts into one: position IMM[4:0], length IMM[9:5] + 1 (20 R370). -/
def fieldAt (x : XOps) : Nat := x.imm.toNat % 32
/-- Its length. -/
def fieldBits (x : XOps) : Nat := x.imm.toNat / 32 % 32 + 1

/-- What BFX makes of A: the field zero-extended with SUB[2], else sign-extended (20 R371). -/
def takeField (x : XOps) : El1 := fun w a =>
  let v := a.toNat / 2 ^ fieldAt x % 2 ^ fieldBits x
  if x.sub.getLsbD 2 ∨ v < 2 ^ (fieldBits x - 1) then BitVec.ofNat w v else BitVec.ofInt w ((v : Int) - 2 ^ fieldBits x)

/-- What BFI makes of A and B: B with the field replaced by the low bits of A (20 R371). -/
def putField (x : XOps) : El2 := fun w a b =>
  BitVec.ofNat w (b.toNat - b.toNat / 2 ^ fieldAt x % 2 ^ fieldBits x * 2 ^ fieldAt x + a.toNat % 2 ^ fieldBits x * 2 ^ fieldAt x)

/-- The exact product and sum of IMAD on an element (21 R409). -/
def madOf (sub : BitVec 6) (w : Nat) (a b c : BitVec w) : BitVec w :=
  fitTo sub w (valueOf sub a * valueOf sub b + valueOf sub c)

/-- IMAD on a register (20 R360). -/
def packedMad (sub : BitVec 6) (a b c : Word) : Word :=
  let e (w i : Nat) : BitVec w := madOf sub w (a.extractLsb' (w * i) w) (b.extractLsb' (w * i) w) (c.extractLsb' (w * i) w)
  if sub.extractLsb' 0 2 = 2 then e 16 1 ++ e 16 0
  else if sub.extractLsb' 0 2 = 3 then e 8 3 ++ e 8 2 ++ e 8 1 ++ e 8 0
  else madOf sub 32 a b c

/-- The conditions of ISETP (03 R63). -/
def condition (c : BitVec 3) {w : Nat} (a b : BitVec w) : Bool :=
  if c = 0 then a == b
  else if c = 1 then a != b
  else if c = 2 then decide (a.toInt < b.toInt)
  else if c = 3 then decide (a.toInt ≤ b.toInt)
  else if c = 4 then decide (b.toInt < a.toInt)
  else if c = 5 then decide (b.toInt ≤ a.toInt)
  else if c = 6 then decide (a.toNat < b.toNat)
  else decide (b.toNat ≤ a.toNat)

/-- The functions of PLOP (03 R63). -/
def logic (f : BitVec 3) (a b : Bool) : Bool :=
  if f = 0 then a && b
  else if f = 1 then a || b
  else if f = 2 then xor a b
  else if f = 3 then a && !b
  else if f = 4 then a || !b
  else if f = 5 then !(a && b)
  else if f = 6 then !(a || b)
  else !(xor a b)

/-- ISETP with its fields and its length. -/
def intCompare : Instr → Option (XOps × Nat)
  | .isetp o => some (o.toX, 4)
  | .isetpX x => some (x, x.len)
  | _ => none

/-- PLOP with its fields and its length. -/
def predLogic : Instr → Option (XOps × Nat)
  | .plop o => some (o.toX, 4)
  | .plopX x => some (x, x.len)
  | _ => none

/-- MOV with its fields and its length. -/
def moves : Instr → Option (XOps × Nat)
  | .mov o => some (o.toX, sLen o.lit)
  | .movX x => some (x, x.len)
  | _ => none

/-- The float instructions of two sources, with their operation on patterns of a format (20 R388, R391). -/
def floatBinary : Instr → Option (XOps × Nat × (Fmt → Rnd → Nat → Nat → Nat))
  | .fadd o => some (o.toX, sLen o.lit, Fmt.add)
  | .faddX x => some (x, x.len, Fmt.add)
  | .fmul o => some (o.toX, sLen o.lit, Fmt.mul)
  | .fmulX x => some (x, x.len, Fmt.mul)
  | .fmin o => some (o.toX, sLen o.lit, fun t _ => t.min)
  | .fminX x => some (x, x.len, fun t _ => t.min)
  | .fmax o => some (o.toX, sLen o.lit, fun t _ => t.max)
  | .fmaxX x => some (x, x.len, fun t _ => t.max)
  | _ => none

/-- FSETP with its fields and its length. -/
def floatCompare : Instr → Option (XOps × Nat)
  | .fsetp o => some (o.toX, 4)
  | .fsetpX x => some (x, x.len)
  | _ => none

/-- The guard and the length of every instruction whose threads take no part in a rendezvous with a false guard (03 R70, 06 R159). -/
def guarded : Instr → Option (Guard × Nat)
  | .nop g | .ret g | .exit g | .yield g | .brk g | .bsync g => some (g, 4)
  | .mov o => some (o.g, sLen o.lit)
  | .iadd o | .isub o | .imul o | .imulh o | .imulhu o | .imin o | .imax o | .iminu o | .imaxu o | .andS o | .orS o | .xorS o
  | .andn o | .shl o | .shr o | .sar o | .rotl o | .fadd o | .fmul o | .fmin o | .fmax o => some (o.g, sLen o.lit)
  | .popc o | .clz o | .ctz o | .brev o | .iabs o => some (o.g, 4)
  | .isetp o | .fsetp o => some (o.g, 4)
  | .plop o => some (o.g, 4)
  | .bra o | .call o => some (o.g, 4)
  | .brx o | .callx o => some (o.g, 4)
  | .joinS o | .jleave o | .twait o | .tclr o => some (o.g, 4)
  | .trap o => some (o.g, 4)
  | .nopX x | .movX x | .iaddX x | .isubX x | .imulX x | .imulhX x | .imulhuX x | .iminX x | .imaxX x | .iminuX x | .imaxuX x
  | .andX x | .orX x | .xorX x | .andnX x | .shlX x | .shrX x | .sarX x | .rotlX x | .popcX x | .clzX x | .ctzX x | .brevX x | .iabsX x
  | .faddX x | .fmulX x | .fminX x | .fmaxX x | .isetpX x | .fsetpX x | .plopX x | .braX x | .callX x | .brxX x | .callxX x | .retX x
  | .exitX x | .yieldX x | .joinX x | .jleaveX x | .twaitX x | .tclrX x | .brkX x | .trapX x | .bsyncX x | .imad x | .idiv x | .irem x
  | .lea x | .sel x | .bfx x | .bfi x | .ffma x | .frcp x | .frsq x | .fsqrt x | .fex2 x | .flg2 x | .fsin x | .fcos x | .ftanh x
  | .fcvt x | .jinit x | .tyield x | .tbr x | .tget x | .tsetp x | .ld x | .st x | .ldk x | .atom x | .red x | .pref x | .phase x
  | .pfence x | .regionI x | .regionEnd x | .boinit x | .boarv x | .bowait x | .botx x | .feget x | .feput x | .shmap x | .rbacq x
  | .rbrel x | .cpy x | .gath x | .scat x | .srinv x | .mbld x | .mma x | .mlut x | .mlma x | .mdrain x | .mcls x | .gbcfg x | .gbset x
  | .gbclamp x | .gbsweep x | .gbread x | .gbstat x | .gbseed x | .rgrp x | .gets x | .sets x | .cctl x | .icinv x | .tlbinv x | .eret x
  | .svc x | .bound x | .tkpass x | .lnch x => some (x.g, x.len)
  | _ => none

/-- The relative branches, with guard, length and offset in bytes (06 R148). -/
def relBranch : Instr → Option (Guard × Nat × Int)
  | .bra o => some (o.g, 4, 4 * o.off.toInt)
  | .braX x => some (x.g, x.len, x.imm.toInt)
  | _ => none

/-- The branches to a register pair, with their fields and length. -/
def pairBranch : Instr → Option (XOps × Nat)
  | .brx o => some (o.toX, 4)
  | .brxX x => some (x, x.len)
  | _ => none

/-- The calls: guard, length, and target where it is readable and aligned (06 R148). -/
def calls (s : State) (core slot : Nat) (t : Thread) : Instr → Option (Guard × Nat × DWord)
  | .call o => some (o.g, 4, t.pc + BitVec.ofInt 64 (4 * o.off.toInt))
  | .callX x => some (x.g, x.len, t.pc + BitVec.ofInt 64 x.imm.toInt)
  | .callx o =>
    match s.src64 core slot t none o.toX.a with
    | .ok p => if p.extractLsb' 0 2 = 0 then some (o.g, 4, p) else none
    | .error _ => none
  | .callxX x =>
    match s.src64 core slot t none x.a with
    | .ok p => if p.extractLsb' 0 2 = 0 then some (x.g, x.len, p) else none
    | .error _ => none
  | _ => none

/-- The codes whose entries CALLX has to find mapped. -/
def callCodes : Instr → List (BitVec 8)
  | .callx o => [o.toX.a, o.toX.a + 1]
  | .callxX x => [x.a, x.a + 1]
  | _ => []

/-- RET, with guard and length. -/
def returns : Instr → Option (Guard × Nat)
  | .ret g => some (g, 4)
  | .retX x => some (x.g, x.len)
  | _ => none

/-- EXIT, with its guard. -/
def exits : Instr → Option Guard
  | .exit g => some g
  | .exitX x => some x.g
  | _ => none

/-- JOIN, with guard, mask and length. -/
def joins : Instr → Option (Guard × BitVec 3 × Nat)
  | .joinS o => some (o.g, o.n, 4)
  | .joinX x => some (x.g, x.a.setWidth 3, x.len)
  | _ => none

/-- JLEAVE, with guard, mask and length. -/
def leaves : Instr → Option (Guard × BitVec 3 × Nat)
  | .jleave o => some (o.g, o.n, 4)
  | .jleaveX x => some (x.g, x.a.setWidth 3, x.len)
  | _ => none

/-- TWAIT, with guard, time register and length. -/
def twaits : Instr → Option (Guard × BitVec 3 × Nat)
  | .twait o => some (o.g, o.n, 4)
  | .twaitX x => some (x.g, x.a.setWidth 3, x.len)
  | _ => none

/-- TCLR, with guard, time register and length. -/
def tclrs : Instr → Option (Guard × BitVec 3 × Nat)
  | .tclr o => some (o.g, o.n, 4)
  | .tclrX x => some (x.g, x.a.setWidth 3, x.len)
  | _ => none

/-- The instructions that trap on purpose: guard, length, cause and code (10 R243, R246). -/
def traps : Instr → Option (Guard × Nat × Nat × Nat)
  | .brk g => some (g, 4, 0x11, 0)
  | .brkX x => some (x.g, x.len, 0x11, 0)
  | .trap o => some (o.g, 4, 0x12, o.code.toNat)
  | .trapX x => some (x.g, x.len, 0x12, x.imm.toNat % 256)
  | .svc x => some (x.g, x.len, 0x10, x.imm.toNat % 65536)
  | _ => none

/-- YIELD, with guard and length. -/
def yields : Instr → Option (Guard × Nat)
  | .yield g => some (g, 4)
  | .yieldX x => some (x.g, x.len)
  | _ => none

/-- BSYNC, with guard and length. -/
def bsyncs : Instr → Option (Guard × Nat)
  | .bsync g => some (g, 4)
  | .bsyncX x => some (x.g, x.len)
  | _ => none

/-- NOP, with guard and length. -/
def nops : Instr → Option (Guard × Nat)
  | .nop g => some (g, 4)
  | .nopX x => some (x.g, x.len)
  | _ => none

/-- A crew's join masks after mask n of crew k has become m: mask and arrivals; everything else of the crews is as before. -/
def JoinIs (c c' : Core) (crew : Nat) (n : BitVec 3) (m : DWord × DWord) : Prop :=
  (∀ k j, c'.readJ k j = if k = crew ∧ j = n then m else c.readJ k j) ∧ (∀ k j, c'.readK k j = c.readK k j) ∧
    (∀ o j, c'.vOff o j = c.vOff o j) ∧ c'.store = c.store

/-- The FSPEC instructions and FCVT, with what they make of a register (20 R394, 14 R282). -/
def floatUnary : Instr → Option (XOps × (XOps → Word → Word))
  | .frcp x => some (x, fun x => floatOp1 x Fmt.rcp)
  | .frsq x => some (x, fun x => floatOp1 x Fmt.rsq)
  | .fsqrt x => some (x, fun x => floatOp1 x Fmt.sqrt)
  | .fex2 x => some (x, fun x => floatOp1 x Fmt.ex2)
  | .flg2 x => some (x, fun x => floatOp1 x Fmt.lg2)
  | .fsin x => some (x, fun x => floatOp1 x Fmt.sin)
  | .fcos x => some (x, fun x => floatOp1 x Fmt.cos)
  | .ftanh x => some (x, fun x => floatOp1 x Fmt.tanh)
  | .fcvt x => some (x, fun x => cvt (x.sub.extractLsb' 0 3).toNat (x.imm.extractLsb' 0 3).toNat (floatRnd x) (x.sub.getLsbD 5))
  | _ => none

end Sys2Proof.Claims

open Sys2Proof Sys2Proof.Machine Sys2Proof.Claims

/-- An integer instruction of two sources, or IMAD with three, computes its result element by element, writes it to D and changes nothing else (20
R360): one register of 32, 2 × 16 or 4 × 8 bits, or a pair of 64 bits (04 R104). IADD and ISUB are exact before they are reduced or clamped (21 R405);
IMAD writes the exact A × B + C, modulo the width or saturated (21 R409). A D of 0xF8 discards the result (03 R67). -/
def Obligations.IntBinaryResult : Prop :=
  (∀ i x len f, intBinary i = some (x, len, f) →
  ∀ s core slot t, Solo s core slot t → t.guard x.g = true →
    (x.sub.extractLsb' 0 2 ≠ 1 → ∀ a b, MappedAll (s.core core) slot [x.d] →
      s.src32 core slot t x.lit x.a = .ok a → s.src32 core slot t x.lit x.b = .ok b →
      Completes i s (fun s' => Result s s' core slot (t.past len) [(x.d, packed f x.sub a b)])) ∧
    (x.sub.extractLsb' 0 2 = 1 → ∀ a b, PairDst x.d → MappedAll (s.core core) slot [x.d, x.d + 1] →
      s.src64 core slot t x.lit x.a = .ok a → s.src64 core slot t x.lit x.b = .ok b →
      Completes i s (fun s' => Result s s' core slot (t.past len) (pairWrites x.d (f 64 a b))))) ∧
  (∀ x s core slot t, Solo s core slot t → t.guard x.g = true →
    (x.sub.extractLsb' 0 2 ≠ 1 → ∀ a b c, MappedAll (s.core core) slot [x.d] → s.src32 core slot t x.lit x.a = .ok a →
      s.src32 core slot t x.lit x.b = .ok b → s.src32 core slot t x.lit x.c = .ok c →
      Completes (.imad x) s (fun s' => Result s s' core slot (t.past x.len) [(x.d, packedMad x.sub a b c)])) ∧
    (x.sub.extractLsb' 0 2 = 1 → ∀ a b c, PairDst x.d → MappedAll (s.core core) slot [x.d, x.d + 1] →
      s.src64 core slot t x.lit x.a = .ok a → s.src64 core slot t x.lit x.b = .ok b → s.src64 core slot t x.lit x.c = .ok c →
      Completes (.imad x) s (fun s' => Result s s' core slot (t.past x.len) (pairWrites x.d (madOf x.sub 64 a b c)))))

/-- An integer instruction of two sources that names a register in an unmapped entry, as its destination or as source A, traps with
UNMAPPED_REGISTER (0x03), and nothing is written (02 R56, 20 R361); one that reads a register whose load is pending parks until the load
resolves (05 R140), and nothing else changes. -/
def Obligations.OperandStops : Prop :=
  ∀ i x len f, intBinary i = some (x, len, f) →
  ∀ s core slot t, Solo s core slot t → t.guard x.g = true →
    let c := s.core core
    let dests := if x.sub.extractLsb' 0 2 = 1 then pairOf x.d else [x.d]
    (¬MappedAll c slot dests → Handled s t → Completes i s (fun s' => Trapped s s' core slot t 0x03 t.pc)) ∧
    (MappedAll c slot dests → t.taintOf x.a = none →
      (x.a.toNat < 0xE0 → c.vOff slot x.a.toNat = none → c.blocking slot x.a = [] → Handled s t →
        Completes i s (fun s' => Trapped s s' core slot t 0x03 t.pc)) ∧
      (x.a.toNat < 0xF0 → c.blocking slot x.a ≠ [] →
        Completes i s (fun s' => OnlyCore core s s' ∧ RegFrame c (s'.core core) ∧ OnlyThread slot c (s'.core core) ∧
          Wrote c (s'.core core) slot [] ∧ ∃ t', s'.thread? core slot = some t' ∧
          t' = { t with park := some (.loads (c.blocking slot x.a)) })))

/-- The integer instructions of one source, at every width (20 R376, 21 R403, 22 R438). -/
def Obligations.IntUnaryResult : Prop :=
  ∀ i x len f, intUnary i = some (x, len, f) →
  ∀ s core slot t, Solo s core slot t → t.guard x.g = true →
    (x.sub.extractLsb' 0 2 ≠ 1 → ∀ a, MappedAll (s.core core) slot [x.d] → s.src32 core slot t x.lit x.a = .ok a →
      Completes i s (fun s' => Result s s' core slot (t.past len) [(x.d, packed (fun w a _ => f w a) x.sub a a)])) ∧
    (x.sub.extractLsb' 0 2 = 1 → ∀ a, PairDst x.d → MappedAll (s.core core) slot [x.d, x.d + 1] →
      s.src64 core slot t x.lit x.a = .ok a →
      Completes i s (fun s' => Result s s' core slot (t.past len) (pairWrites x.d (f 64 a))))

/-- MOV copies source B into D bit for bit (21 R430); SEL copies A where its predicate, as C names it, holds, and B elsewhere (22 R454).
Each writes a register or a pair. -/
def Obligations.MoveSelectResult : Prop :=
  (∀ i x len, moves i = some (x, len) →
    ∀ s core slot t, Solo s core slot t → t.guard x.g = true →
      (x.sub.extractLsb' 0 2 ≠ 1 → ∀ b, MappedAll (s.core core) slot [x.d] → s.src32 core slot t x.lit x.b = .ok b →
        Completes i s (fun s' => Result s s' core slot (t.past len) [(x.d, b)])) ∧
      (x.sub.extractLsb' 0 2 = 1 → ∀ b, PairDst x.d → MappedAll (s.core core) slot [x.d, x.d + 1] →
        s.src64 core slot t x.lit x.b = .ok b →
        Completes i s (fun s' => Result s s' core slot (t.past len) (pairWrites x.d b)))) ∧
  (∀ x, (Instr.sel x).wf = true →
    ∀ s core slot t, Solo s core slot t → t.guard x.g = true →
      (x.sub.extractLsb' 0 2 ≠ 1 → ∀ a b, MappedAll (s.core core) slot [x.d] → s.src32 core slot t x.lit x.a = .ok a →
        s.src32 core slot t x.lit x.b = .ok b →
        Completes (.sel x) s (fun s' => Result s s' core slot (t.past x.len)
          [(x.d, if xor (t.pred (x.c.extractLsb' 0 3)) (x.c.getLsbD 3) then a else b)])) ∧
      (x.sub.extractLsb' 0 2 = 1 → ∀ a b, MappedAll (s.core core) slot [x.d, x.d + 1] → s.src64 core slot t x.lit x.a = .ok a →
        s.src64 core slot t x.lit x.b = .ok b →
        Completes (.sel x) s (fun s' => Result s s' core slot (t.past x.len)
          (pairWrites x.d (if xor (t.pred (x.c.extractLsb' 0 3)) (x.c.getLsbD 3) then a else b)))))

/-- BFX takes the field at IMM[4:0] of IMM[9:5] + 1 bits out of A, sign-extended unless SUB[2]; BFI puts the low bits of A there in B
(20 R371). -/
def Obligations.BitFieldResult : Prop :=
  (∀ x, (Instr.bfx x).wf = true → ∀ s core slot t, Solo s core slot t → t.guard x.g = true →
    (x.sub.extractLsb' 0 2 = 0 → ∀ a, MappedAll (s.core core) slot [x.d] → s.src32 core slot t x.lit x.a = .ok a →
      Completes (.bfx x) s (fun s' => Result s s' core slot (t.past x.len) [(x.d, takeField x 32 a)])) ∧
    (x.sub.extractLsb' 0 2 = 1 → ∀ a, MappedAll (s.core core) slot [x.d, x.d + 1] → s.src64 core slot t x.lit x.a = .ok a →
      Completes (.bfx x) s (fun s' => Result s s' core slot (t.past x.len) (pairWrites x.d (takeField x 64 a))))) ∧
  (∀ x, (Instr.bfi x).wf = true → ∀ s core slot t, Solo s core slot t → t.guard x.g = true →
    (x.sub.extractLsb' 0 2 = 0 → ∀ a b, MappedAll (s.core core) slot [x.d] → s.src32 core slot t x.lit x.a = .ok a →
      s.src32 core slot t x.lit x.b = .ok b →
      Completes (.bfi x) s (fun s' => Result s s' core slot (t.past x.len) [(x.d, putField x 32 a b)])) ∧
    (x.sub.extractLsb' 0 2 = 1 → ∀ a b, MappedAll (s.core core) slot [x.d, x.d + 1] → s.src64 core slot t x.lit x.a = .ok a →
      s.src64 core slot t x.lit x.b = .ok b →
      Completes (.bfi x) s (fun s' => Result s s' core slot (t.past x.len) (pairWrites x.d (putField x 64 a b)))))

/-- A thread in which predicate n has become b and nothing else changed; a write to p7 is discarded (04 R99). -/
def Sys2Proof.Claims.PredIs (t u : Thread) (n : BitVec 3) (b : Bool) : Prop :=
  u = { t with preds := u.preds } ∧ ∀ m, u.pred m = if m = n ∧ n ≠ 7 then b else t.pred m

/-- ISETP compares A and B by its condition, signed or unsigned, and writes predicate D[2:0] alone; a write to p7 is discarded (21 R412,
03 R63). -/
def Obligations.IntCompareResult : Prop :=
  ∀ i x len, intCompare i = some (x, len) →
  ∀ s core slot t, Solo s core slot t → t.guard x.g = true →
    (x.sub.extractLsb' 0 2 ≠ 1 → ∀ a b, s.src32 core slot t x.lit x.a = .ok a → s.src32 core slot t x.lit x.b = .ok b →
      Completes i s (fun s' => ∃ u, PredIs (t.past len) u (x.d.extractLsb' 0 3) (condition (x.d.extractLsb' 3 3) a b) ∧
        Result s s' core slot u [])) ∧
    (x.sub.extractLsb' 0 2 = 1 → ∀ a b, s.src64 core slot t x.lit x.a = .ok a → s.src64 core slot t x.lit x.b = .ok b →
      Completes i s (fun s' => ∃ u, PredIs (t.past len) u (x.d.extractLsb' 0 3) (condition (x.d.extractLsb' 3 3) a b) ∧
        Result s s' core slot u []))

/-- PLOP writes its function of two predicates; p7 reads true, and a write to it is discarded (22 R437, 03 R63, 04 R99). -/
def Obligations.PredicateLogicResult : Prop :=
  (∀ t : Thread, t.pred 7 = true) ∧
  ∀ i x len, predLogic i = some (x, len) →
  ∀ s core slot t, Solo s core slot t → t.guard x.g = true →
    Completes i s (fun s' => ∃ u,
      PredIs (t.past len) u (x.d.extractLsb' 0 3)
        (logic (x.a.extractLsb' 3 3) (t.pred (x.a.extractLsb' 0 3)) (t.pred (x.b.extractLsb' 0 3))) ∧
      Result s s' core slot u [])

/-- FADD, FMUL, FMIN and FMAX write what the operation of their type makes of each element, prepared and finished as the float mould says, and FFMA
writes A × B + C of each element, rounded once; they change nothing else (20 R362, R388, R391). -/
def Obligations.FloatBinaryResult : Prop :=
  (∀ i x len op, floatBinary i = some (x, len, op) →
  ∀ s core slot t a b, Solo s core slot t → t.guard x.g = true → MappedAll (s.core core) slot [x.d] →
    s.src32 core slot t x.lit x.a = .ok a → s.src32 core slot t x.lit x.b = .ok b →
    Completes i s (fun s' => Result s s' core slot (t.past len) [(x.d, floatOp2 x op a b)])) ∧
  (∀ x s core slot t a b c, Solo s core slot t → t.guard x.g = true → MappedAll (s.core core) slot [x.d] →
    s.src32 core slot t x.lit x.a = .ok a → s.src32 core slot t x.lit x.b = .ok b → s.src32 core slot t x.lit x.c = .ok c →
    Completes (.ffma x) s (fun s' => Result s s' core slot (t.past x.len) [(x.d, floatOp3 x Fmt.fma a b c)]))

/-- The FSPEC family and FCVT write their function of A and change nothing else (20 R394, R389). -/
def Obligations.FloatUnaryResult : Prop :=
  ∀ i x op, floatUnary i = some (x, op) →
  ∀ s core slot t a, Solo s core slot t → t.guard x.g = true → MappedAll (s.core core) slot [x.d] →
    s.src32 core slot t x.lit x.a = .ok a →
    Completes i s (fun s' => Result s s' core slot (t.past x.len) [(x.d, op x a)])

/-- FSETP compares its prepared FP32 sources exactly, with -0 equal to +0; every comparison of a NaN but NE and NAN is false, and a write
to p7 is discarded (20 R392, 03 R63). -/
def Obligations.FloatCompareResult : Prop :=
  ∀ i x len, floatCompare i = some (x, len) →
  ∀ s core slot t a b, Solo s core slot t → t.guard x.g = true →
    s.src32 core slot t x.lit x.a = .ok a → s.src32 core slot t x.lit x.b = .ok b →
    let p := floatSrc x 0 a.toNat
    let q := floatSrc x 1 b.toNat
    let nan := fp32.isNan p || fp32.isNan q
    let c := x.d.extractLsb' 3 3
    Completes i s (fun s' => ∃ u,
      PredIs (t.past len) u (x.d.extractLsb' 0 3)
        (if c = 0 then !nan && fp32.eq p q
         else if c = 1 then nan || !fp32.eq p q
         else if c = 2 then !nan && fp32.lt p q
         else if c = 3 then !nan && (fp32.lt p q || fp32.eq p q)
         else if c = 4 then !nan && !(fp32.lt p q || fp32.eq p q)
         else if c = 5 then !nan && !fp32.lt p q
         else if c = 6 then !nan
         else nan) ∧
      Result s s' core slot u [])

/-- Every NaN result of FADD, FMUL and FFMA is the default NaN of its type; a NaN operand gives one, and so do the difference of two infinities and the
product of an infinity and zero; FMIN and FMAX return the other operand of a single NaN (14 R281, 20 R391). -/
def Obligations.NanResults : Prop :=
  (∀ ty mode a b, (fmtOf ty).isNan a = true ∨ (fmtOf ty).isNan b = true →
    (fmtOf ty).add mode a b = (fmtOf ty).nan ∧ (fmtOf ty).mul mode a b = (fmtOf ty).nan) ∧
  (∀ ty mode a b c, (fmtOf ty).isNan a = true ∨ (fmtOf ty).isNan b = true ∨ (fmtOf ty).isNan c = true →
    (fmtOf ty).fma mode a b c = (fmtOf ty).nan) ∧
  (∀ ty mode a b c, let f := fmtOf ty
    (f.isNan (f.add mode a b) = true → f.add mode a b = f.nan) ∧ (f.isNan (f.mul mode a b) = true → f.mul mode a b = f.nan) ∧
    (f.isNan (f.fma mode a b c) = true → f.fma mode a b c = f.nan)) ∧
  (∀ ty mode p q, let f := fmtOf ty
    f.add mode (f.inf p) (f.inf !p) = f.nan ∧ f.mul mode (f.inf p) (f.zero q) = f.nan ∧ f.mul mode (f.zero q) (f.inf p) = f.nan ∧
      ∀ c, f.fma mode (f.inf p) (f.zero q) c = f.nan ∧ f.fma mode (f.zero q) (f.inf p) c = f.nan) ∧
  (∀ ty a b, (fmtOf ty).isNan a = true → (fmtOf ty).isNan b = false → (fmtOf ty).min a b = b ∧ (fmtOf ty).max a b = b ∧
    (fmtOf ty).min b a = b ∧ (fmtOf ty).max b a = b) ∧
  (∀ x op a, (op = Fmt.add ∨ op = Fmt.mul) →
    ∀ b, (x.sub.extractLsb' 0 3).toNat = 0 → fp32.isNan a.toNat = true → floatOp2 x op a b = 0x7FC00000#32)

/-- A thread whose guard is false only advances past the instruction, whatever the instruction is (03 R70); the instructions that take
part in a cross-lane rendezvous all the same are VOTE, SHFL, PRFX, CRED and STCP (06 R159). NOP changes nothing but the PC (21 R431). -/
def Obligations.GuardAndNopResult : Prop :=
  (∀ i g len, guarded i = some (g, len) →
    ∀ s core slot t, Solo s core slot t → t.guard g = false →
      Completes i s (fun s' => Result s s' core slot (t.past len) [])) ∧
  (∀ i g len, nops i = some (g, len) →
    ∀ s core slot t, Solo s core slot t → Completes i s (fun s' => Result s s' core slot (t.past len) []))

/-- BRA moves the PC to the instruction's own address plus its offset; BRX to the pair it names, where that is a multiple of four, and
elsewhere the thread traps with MISALIGNED (0x04) at the BRX (06 R148, R149). -/
def Obligations.BranchResult : Prop :=
  (∀ i g len off, relBranch i = some (g, len, off) →
    ∀ s core slot t, Solo s core slot t → t.guard g = true →
      Completes i s (fun s' => Result s s' core slot { t with pc := t.pc + BitVec.ofInt 64 off } [])) ∧
  (∀ i x len, pairBranch i = some (x, len) →
    ∀ s core slot t p, Solo s core slot t → t.guard x.g = true → MappedAll (s.core core) slot [x.a, x.a + 1] →
      s.src64 core slot t none x.a = .ok p →
      (p.extractLsb' 0 2 = 0 → Completes i s (fun s' => Result s s' core slot { t with pc := p } [])) ∧
      (p.extractLsb' 0 2 ≠ 0 → Handled s t → Completes i s (fun s' => Trapped s s' core slot t 0x04 t.pc)))

/-- CALL and CALLX push the address behind them and move the PC to their target; the stack cache holds the newest eight; RET pops the
newest return address into the PC (04 R110, 06 R148). A CALL or CALLX that would push beyond s.stacklim traps with STACK_LIMIT (0x0A), and
so does a RET with an empty call stack; the trap changes nothing else (04 R111). -/
def Obligations.CallReturnResult : Prop :=
  (∀ i s core slot t g len p, calls s core slot t i = some (g, len, p) →
    Solo s core slot t → t.guard g = true → MappedAll (s.core core) slot (callCodes i) →
    (8 * (t.depth + 1) ≤ t.stacklim.toNat → t.cache.length < 8 →
      Completes i s (fun s' => Result s s' core slot
        { t with pc := p, depth := t.depth + 1, cache := (t.pc + BitVec.ofNat 64 len) :: t.cache } [])) ∧
    (t.stacklim.toNat < 8 * (t.depth + 1) → Handled s t → Completes i s (fun s' => Trapped s s' core slot t 0x0A t.pc))) ∧
  (∀ i g len, returns i = some (g, len) →
    ∀ s core slot t, Solo s core slot t → t.guard g = true →
      (∀ ra rest, 0 < t.depth → t.cache = ra :: rest →
        Completes i s (fun s' => Result s s' core slot { t with pc := ra, depth := t.depth - 1, cache := rest } [])) ∧
      (t.depth = 0 → Handled s t → Completes i s (fun s' => Trapped s s' core slot t 0x0A t.pc)))

/-- BRK, TRAP and SVC take their trap with the address of the next instruction in s.epc and their code in s.fstat; in handler mode, or
without a handler, the launch fails with the cause as its code (10 R244, R246, 02 R46). -/
def Obligations.TrapInstructions : Prop :=
  ∀ i g len cause code, traps i = some (g, len, cause, code) →
  ∀ s core slot t, Solo s core slot t → t.guard g = true →
    (Handled s t → Completes i s (fun s' =>
      Trapped s s' core slot { t with fstat := BitVec.ofNat 32 code } cause (t.pc + BitVec.ofNat 64 len))) ∧
    (¬Handled s t → ∀ l, s.launch? t.lid = some l → l.ended = none →
      Completes i s (fun s' => ∃ l', s'.launch? t.lid = some l' ∧ l'.ended = some (3, cause, t.block)))

/-- ERET returns to s.epc in user mode; in user mode it traps with PRIVILEGE (0x13) (10 R246). -/
def Obligations.ReturnFromTrap : Prop :=
  ∀ x s core slot t, Solo s core slot t → t.guard x.g = true →
    (t.mode = .handler → t.epc.extractLsb' 0 2 = 0 →
      Completes (.eret x) s (fun s' => Result s s' core slot { t with pc := t.epc, mode := .user } [])) ∧
    (Handled s t → Completes (.eret x) s (fun s' => Trapped s s' core slot t 0x13 t.pc))

/-- Of a core's threads but the one in a slot, those of its crew that wait at JOIN on mask n have gone behind it, and the others are as before (06
R153). -/
def Sys2Proof.Claims.Released (s s' : State) (core slot : Nat) (n : BitVec 3) : Prop :=
  (∀ o u k, o ≠ slot → o / 64 = slot / 64 → s.thread? core o = some u → u.park = some (.join n k) →
    ∃ u', s'.thread? core o = some u' ∧ u' = { u.past k with park := none }) ∧
  ∀ o, o ≠ slot → (∀ u k, o / 64 = slot / 64 → s.thread? core o = some u → u.park ≠ some (.join n k)) →
    s'.thread? core o = s.thread? core o

/-- JINIT loads a join mask with those lanes of A that hold a live thread and clears its arrivals; it traps with JOIN (0x0E) while the
mask has arrivals (06 R152, R155). JLEAVE clears the thread's bit in a join mask and in its arrivals, and goes on; where that leaves
arrivals missing, nobody is released, and where it leaves none missing, the threads that wait are released and the mask is cleared (06 R154). -/
def Obligations.JoinMaskResult : Prop :=
  (∀ x s core slot t v, Solo s core slot t → t.guard x.g = true → s.src64 core slot t x.lit x.a = .ok v →
    (((s.core core).readJ (slot / 64) (x.d.setWidth 3)).2 = 0 →
      Completes (.jinit x) s (fun s' => OnlyCore core s s' ∧ OnlyThread slot (s.core core) (s'.core core) ∧
        JoinIs (s.core core) (s'.core core) (slot / 64) (x.d.setWidth 3) (v &&& (s.core core).live (slot / 64), 0) ∧
        ∃ t', s'.thread? core slot = some t' ∧ t' = { t.past x.len with park := none })) ∧
    (((s.core core).readJ (slot / 64) (x.d.setWidth 3)).2 ≠ 0 → Handled s t →
      Completes (.jinit x) s (fun s' => Trapped s s' core slot t 0x0E t.pc))) ∧
  (∀ i g n len, leaves i = some (g, n, len) →
  ∀ s core slot t, Solo s core slot t → t.guard g = true →
    let m := ((s.core core).readJ (slot / 64) n).1
    let a := ((s.core core).readJ (slot / 64) n).2
    let b : DWord := 1#64 <<< (slot % 64)
    ((m &&& ~~~b = 0 ∨ a &&& ~~~b ≠ m &&& ~~~b) →
      Completes i s (fun s' => OnlyCore core s s' ∧ OnlyThread slot (s.core core) (s'.core core) ∧
        JoinIs (s.core core) (s'.core core) (slot / 64) n (m &&& ~~~b, a &&& ~~~b) ∧
        ∃ t', s'.thread? core slot = some t' ∧ t' = { t.past len with park := none })) ∧
    (m &&& ~~~b ≠ 0 → a &&& ~~~b = m &&& ~~~b →
      Completes i s (fun s' => OnlyCore core s s' ∧ JoinIs (s.core core) (s'.core core) (slot / 64) n (0, 0) ∧ Released s s' core slot n ∧
        ∃ t', s'.thread? core slot = some t' ∧ t' = { t.past len with park := none })))

/-- JOIN records the thread's arrival and waits while arrivals are missing; the last arrival goes on at once with every thread that waits, and
clears the mask; a thread outside the mask traps with JOIN (06 R153). -/
def Obligations.JoinResult : Prop :=
  ∀ i g n len, joins i = some (g, n, len) →
  ∀ s core slot t, Solo s core slot t → t.guard g = true →
    let m := ((s.core core).readJ (slot / 64) n).1
    let a := ((s.core core).readJ (slot / 64) n).2
    let b : DWord := 1#64 <<< (slot % 64)
    (m &&& b ≠ 0 → a ||| b ≠ m →
      Completes i s (fun s' => OnlyCore core s s' ∧ OnlyThread slot (s.core core) (s'.core core) ∧
        JoinIs (s.core core) (s'.core core) (slot / 64) n (m, a ||| b) ∧
        s'.thread? core slot = some { t with park := some (.join n len) })) ∧
    (m &&& b ≠ 0 → a ||| b = m →
      Completes i s (fun s' => OnlyCore core s s' ∧ JoinIs (s.core core) (s'.core core) (slot / 64) n (0, 0) ∧ Released s s' core slot n ∧
        ∃ t', s'.thread? core slot = some t' ∧ t' = { t.past len with park := none })) ∧
    (m &&& b = 0 → Handled s t → Completes i s (fun s' => Trapped s s' core slot t 0x0E t.pc))

/-- YIELD goes past itself and waits for every other group of the core that is ready; with none it does not wait (02 R55, 06 R158). -/
def Obligations.YieldResult : Prop :=
  ∀ i g len, yields i = some (g, len) →
  ∀ s core slot t, Solo s core slot t → t.guard g = true →
    let others := ((s.readyThreads core).filter (fun e => e.1 != slot)).map (fun e => (e.2.pc.toNat, e.2.lid))
    Completes i s (fun s' => OnlyCore core s s' ∧ OnlyThread slot (s.core core) (s'.core core) ∧
      ∃ t' p, s'.thread? core slot = some t' ∧ t' = { t.past len with park := p } ∧
        (others = [] → p = none) ∧
        (others ≠ [] → ∃ l, p = some (.yield l) ∧ ∀ k, k ∈ l ↔ k ∈ others))

/-- TWAIT goes on once its time register is resolved, and waits while it is PROBING, PROMISED or BROKEN; TCLR then also makes it IDLE
(05 R141, R124, 22 R467). -/
def Obligations.TimeRegisterWaits : Prop :=
  (∀ i g n len, twaits i = some (g, n, len) →
    ∀ s core slot t, Solo s core slot t → t.guard g = true →
      (tstate (t.treg n) = 0 ∨ tstate (t.treg n) = 3 ∨ tstate (t.treg n) = 5 ∨ tstate (t.treg n) = 7 →
        Completes i s (fun s' => Result s s' core slot (t.past len) [])) ∧
      (tstate (t.treg n) = 1 ∨ tstate (t.treg n) = 2 ∨ tstate (t.treg n) = 4 →
        Completes i s (fun s' => OnlyCore core s s' ∧ OnlyThread slot (s.core core) (s'.core core) ∧
          s'.thread? core slot = some { t with park := some (.time n) }))) ∧
  (∀ i g n len, tclrs i = some (g, n, len) →
    ∀ s core slot t, Solo s core slot t → t.guard g = true →
      (tstate (t.treg n) ≠ 1 → tstate (t.treg n) ≠ 2 → tstate (t.treg n) ≠ 4 →
        Completes i s (fun s' => ∃ u, (∀ m, u.treg m = if m = n then 0 else t.treg m) ∧
          u = { t.past len with tregs := u.tregs } ∧ Result s s' core slot u [])) ∧
      (tstate (t.treg n) = 1 ∨ tstate (t.treg n) = 2 ∨ tstate (t.treg n) = 4 →
        Completes i s (fun s' => OnlyCore core s s' ∧ OnlyThread slot (s.core core) (s'.core core) ∧
          s'.thread? core slot = some { t with park := some (.time n) })))

/-- The faults of a thread's loads are recorded: none is still to be (10 R238). -/
def Sys2Proof.Claims.NoFaults (s : State) (core slot : Nat) : Prop := ∀ l ∈ (s.core core).loads, l.slot = slot → l.fault = none

/-- No load of a crew is pending. -/
def Sys2Proof.Claims.NoLoads (c : Core) (crew : Nat) : Prop := ∀ l ∈ c.loads, l.slot / 64 ≠ crew

/-- No other thread of a thread's crew stands at a cross-lane instruction. -/
def Sys2Proof.Claims.NoneCrossing (s : State) (core slot : Nat) : Prop :=
  ∀ o u, o ≠ slot → o / 64 = slot / 64 → s.thread? core o = some u → u.atCross = false

/-- EXIT frees its thread, whatever else its crew does. It is stated for a thread with no open region and no pending load that is not the last of its
block and whose crew stands at no cross-lane instruction, in a launch without checkpoints; where it is the last of the crew that holds the marble, the
crew has no load pending and nothing is on its way through a fabric window (20 R387, 02 R58, 08 R199). -/
def Obligations.ExitFreesThread : Prop :=
  ∀ i g, exits i = some g →
  ∀ s core slot t, Solo s core slot t → t.guard g = true → t.openRegion = none → (s.rcd t.lid).rbk = false →
    (s.core core).slotsOf t.lid t.block ≠ [slot] → (∀ l ∈ (s.core core).loads, l.slot ≠ slot) → NoneCrossing s core slot →
    ((s.core core).slotsIn (slot / 64) = [slot] → s.hasMarble core slot t = true → s.fabric = [] ∧ NoLoads (s.core core) (slot / 64)) →
    Completes i s (fun s' => s'.thread? core slot = none)

/-- BSYNC: a thread that is not the last of its block to arrive waits, and is counted; at the last arrival every thread of the block goes on (20
R379). Stated for a thread with no open region and no fault to be recorded, in a launch that is neither deterministic nor checkpointed and has no
marble. -/
def Obligations.BlockBarrierResult : Prop :=
  ∀ i g len, bsyncs i = some (g, len) →
  ∀ s core slot t b, Solo s core slot t → t.guard g = true → t.openRegion = none → t.mode = .handler ∨ t.region = none →
    NoFaults s core slot → (s.rcd t.lid).rbk = false → (s.rcd t.lid).det = false →
    (∀ l ∈ s.launches, l.rcd.lid = t.lid → l.passed = [] ∧ l.marble = none) → (s.core core).block? t.lid t.block = some b →
    (b.arrivals + 1 < ((s.core core).slotsOf t.lid t.block).length →
      Completes i s (fun s' => OnlyCore core s s' ∧ OnlyThread slot (s.core core) (s'.core core) ∧
        s'.thread? core slot = some { t with park := some (.bsync len) } ∧
        (s'.core core).block? t.lid t.block = some { b with arrivals := b.arrivals + 1 })) ∧
    (b.arrivals + 1 = ((s.core core).slotsOf t.lid t.block).length →
      (∀ o ∈ (s.core core).slotsOf t.lid t.block, o ≠ slot → ∃ u k, s.thread? core o = some u ∧ u.park = some (.bsync k)) →
      Completes i s (fun s' => OnlyCore core s s' ∧
        (∃ t', s'.thread? core slot = some t' ∧ t' = { t.past len with park := none }) ∧
        (∀ o u k, o ≠ slot → o ∈ (s.core core).slotsOf t.lid t.block → s.thread? core o = some u → u.park = some (.bsync k) →
          ∃ u', s'.thread? core o = some u' ∧ u' = { u.past k with park := none, region := u'.region }) ∧
        (∀ o, o ∉ (s.core core).slotsOf t.lid t.block → s'.thread? core o = s.thread? core o) ∧
        (s'.core core).block? t.lid t.block = some { b with arrivals := 0 }))

namespace Sys2Proof.Claims

/-- The new value that an atomic operation of n bytes writes; none where it writes nothing (20 R366). -/
def atomicValue (op n : Nat) (old b c : Nat) : Option Nat :=
  let lt (x y : Nat) : Prop := (BitVec.ofNat (8 * n) x).toInt < (BitVec.ofNat (8 * n) y).toInt
  if op = 0 then some ((old + b) % 256 ^ n)
  else if op = 1 then some (if lt b old then b else old)
  else if op = 2 then some (if lt old b then b else old)
  else if op = 3 then some (min old b)
  else if op = 4 then some (max old b)
  else if op = 5 then some (Nat.land old b)
  else if op = 6 then some (Nat.lor old b)
  else if op = 7 then some (Nat.xor old b)
  else if op = 8 then some b
  else if op = 9 then (if old = c then some b else none)
  else if op = 10 then some (fp32.add .rne old b)
  else if op = 11 then some (fp32.min old b)
  else some (fp32.max old b)

/-- Byte k of a number. -/
def byteOf (v k : Nat) : Byte := BitVec.ofNat 8 (v / 256 ^ k)

/-- In one core store the n bytes at an offset hold a value, and every other byte of every core store is as before. -/
def StoreIs (s s' : State) (core off n v : Nat) : Prop :=
  ∀ m b, (s'.core m).store.get b =
    if m = core ∧ off ≤ b ∧ b < off + n then byteOf v (b - off) else (s.core m).store.get b

/-- Every byte of every core store is as before. -/
def StoresSame (s s' : State) : Prop := ∀ m, (s'.core m).store = (s.core m).store

/-- Memory at the point of coherence is as before, in every context. -/
def MemorySame (s s' : State) : Prop := s'.mem = s.mem ∧ s'.gran = s.gran ∧ s'.bad = s.bad

/-- No core holds a copy of a line of memory. -/
def NoCopies (s : State) (line : Nat) : Prop := ∀ e ∈ s.cores, ∀ l ∈ e.2.lines, l.addr ≠ line

/-- No core holds an update-only copy of a line that a walk of a pointer reads, so that the walk sends none (08 R189, 10 R224). -/
def WalkQuiet (s : State) (ctx : Nat) (ptr : DWord) : Prop :=
  ∀ pa ∈ s.lookedAt ctx (ptr.extractLsb' 0 56).toNat (ptr.extractLsb' 56 8).toNat, ∀ c ∈ s.cores, ∀ l ∈ c.2.lines,
    l.addr = pa / 128 → l.upd = none

/-- The same of the walk by which a translation was found. -/
def WalkClear (s : State) (e : Option Tlb) : Prop := ∀ x, e = some x → WalkQuiet s x.ctx x.ptr

/-- Nothing changed but what reads of page tables do at the slices: the lines they hold, corrected errors with the rows to be tested and the
counts, and what waits for a way (09 R202, R203, R221). -/
def SlicesOnly (s s' : State) : Prop :=
  s' = { s with l2 := s'.l2, sliceWait := s'.sliceWait, soft := s'.soft, tests := s'.tests, tally := s'.tally }

/-- On a page with MACs the MAC of the granule of a PA holds, so that a write of a part of a sector there is made (09 R202, R222). -/
def Sealed (s : State) (ctx : Nat) (leaf : DWord) (pa : Nat) : Prop := s.macFails ctx (leafMac leaf) pa = false

/-- Memory after a write of n bytes at a physical address in a context: a read there returns them, and every byte that lies elsewhere
and could be read before reads as before; one in the same granule under the physical address that the granule now has. -/
def WrittenAt (s s' : State) (ctx : Nat) (mac : Bool) (pa n v : Nat) : Prop :=
  s'.readPa ctx mac pa n = .ok (v % 256 ^ n) ∧
  ∀ a l l', s.locate pa = .ok l → s.locate a = .ok l' → l'.key < l.key ∨ l.key + n ≤ l'.key →
    (l'.key / 64 = l.key / 64 → a / 64 = pa / 64) →
    ∀ v', s.readPa ctx mac a 1 = .ok v' → s'.readPa ctx mac a 1 = .ok v'

/-- A thread whose instruction is over, but for its time registers and its marks of aborted loads. -/
def Gone (t t' : Thread) (len : Nat) : Prop :=
  t' = { t.past len with park := none, tregs := t'.tregs, taints := t'.taints }

/-- A thread of a core has gone past its instruction, and the other threads of the core are as before. -/
def Went (s s' : State) (core slot : Nat) (t : Thread) (len : Nat) : Prop :=
  (∃ t', s'.thread? core slot = some t' ∧ t' = { t.past len with park := none }) ∧
    OnlyThread slot (s.core core) (s'.core core)

/-- A thread of a core has gone past its instruction, and the other threads of the core are as before but for marks of registers that they see
too. -/
def WentBy (s s' : State) (core slot : Nat) (t : Thread) (len : Nat) : Prop :=
  (∃ t', s'.thread? core slot = some t' ∧ t' = { t.past len with park := none }) ∧
    OthersThinned slot (s.core core) (s'.core core)

/-- A load has entered its core (05 R117): it is listed behind the pending ones with its data, and with TE = 1 its time register is
PROBING with the cycle of issue. -/
structure Entered (s s' : State) (core slot : Nat) (t : Thread) (x : XOps) (kind : LoadKind) (ptr : DWord)
    (dests : List (BitVec 8 × Nat)) (data : Option (BitVec 128)) : Prop where
  load : ∃ l, (s'.core core).loads = ((s.core core).advance slot x.len).loads ++ [l] ∧ l.slot = slot ∧ l.kind = kind ∧ l.va = ptr ∧
    l.pc = t.pc ∧ l.dests = dests ∧ l.data = data ∧ l.la = x.la.toNat ∧ l.treg = (if x.te then some x.t else none)
  thread : ∃ t', s'.thread? core slot = some t' ∧ Gone t t' x.len ∧
    ∀ m, t'.treg m = if x.te ∧ m = x.t then 1#3 ++ s.now29 core else t.treg m
  threads : OthersThinned slot (s.core core) (s'.core core)
  others : kind ≠ .atom → OnlyThread slot (s.core core) (s'.core core)

/-- What an access of a thread needs before it is made: its registers are mapped, its time register is free, its address is readable and
a multiple of its size (05 R126, 21 R416). -/
structure Ready (s : State) (core slot : Nat) (t : Thread) (x : XOps) (n : Nat) (off : Int) (ptr : DWord) (codes : List (BitVec 8)) :
    Prop where
  guard : t.guard x.g = true
  mapped : MappedAll (s.core core) slot (codes ++ baseCodes x)
  free : x.te = true → tpending (t.treg x.t) = false
  address : s.address core slot t x off = .ok ptr
  aligned : ptr.toNat % n = 0

/-- The thread in a slot has no open region, no store in a suspended one and no fault of a load to be recorded, in a launch without checkpoints
and without ordered stores, and its block holds no store back. -/
def Plain (s : State) (core slot : Nat) (t : Thread) : Prop :=
  t.openRegion = none ∧ (∀ r, t.region = some r → r.stores = []) ∧ NoFaults s core slot ∧ (s.rcd t.lid).rbk = false ∧ (s.rcd t.lid).det = false ∧
    s.heldStores core t.lid t.block = []

/-- The size in bytes of a memory access (03 R78). -/
def bytesOfAccess (x : XOps) : Nat := 2 ^ (x.sub.extractLsb' 0 3).toNat

/-- A load's destination registers with the words they take: none for the discard code. -/
def loadDests (x : XOps) (n : Nat) : List (BitVec 8 × Nat) := if x.d = 0xF8 then [] else (codesOf x.d n).zipIdx

/-- What a load of n bytes brings: B and H sign-extended to 32 bits with SUB[3], else zero-extended (21 R416). -/
def loadValue (n : Nat) (signed : Bool) (v : Nat) : BitVec 128 :=
  if signed = true ∧ n = 1 then (BitVec.ofInt 32 (BitVec.ofNat 8 v).toInt).setWidth 128
  else if signed = true ∧ n = 2 then (BitVec.ofInt 32 (BitVec.ofNat 16 v).toInt).setWidth 128
  else BitVec.ofNat 128 (v % 256 ^ n)

end Sys2Proof.Claims

namespace Sys2Proof.Claims

/-- The cross-lane instructions that write registers, with the result of a participant that is alone: a register, a pair or a predicate
(06 R161, R162). q is the predicate input, a the source A. -/
inductive Alone where
  | word (w : Word)
  | pair (w : DWord)
  | bit (b : Bool)

/-- What each of them makes of one participant in a lane (06 R161, R162). -/
def aloneResult (i : Instr) (lane : Nat) (q : Bool) (a : Word) : Option Alone :=
  match i with
  | .vote x =>
    if x.sub.extractLsb' 0 2 = 2 then some (.pair (if q then 1#64 <<< lane else 0))
    else if x.sub.extractLsb' 0 2 = 3 then some (.bit true)
    else some (.bit q)
  | .shfl _ => some (.word a)
  | .prfx x => some (.word (if x.sub.getLsbD 0 ∧ q = true then 1 else 0))
  | .cred x => some (.word (if x.sub.extractLsb' 3 1 = 1 ∧ fp32.isNan a.toNat = true then 0x7FC00000 else a))
  | _ => none

/-- The registers that they write. -/
def aloneCodes : Instr → List (BitVec 8)
  | .vote x => if x.sub.extractLsb' 0 2 = 2 then [x.d, x.d + 1] else []
  | .shfl x | .prfx x | .cred x => [x.d]
  | _ => []

/-- The fields of a cross-lane instruction. -/
def crossOps : Instr → Option XOps
  | .vote x | .shfl x | .prfx x | .cred x | .stcp x => some x
  | _ => none

/-- The mask of a cross-lane instruction: its literal with TE = 1, else join mask T (03 R73). -/
def crossMask (s : State) (core slot : Nat) (x : XOps) : DWord :=
  if x.te then x.lit.getD 0 else ((s.core core).readJ (slot / 64) x.t).1

/-- The conditions of TBR (05 R144, R145): the state of the time register, and for AFTER its cycle against a threshold. -/
def timeCondition (c : BitVec 3) (w : Word) (now : BitVec 29) (b : Word) : Bool :=
  let st := w.extractLsb' 29 3
  let cyc := w.extractLsb' 0 29
  if c = 0 then st == 1
  else if c = 1 then st == 2
  else if c = 2 then st == 3 || st == 5
  else if c = 3 then st == 4
  else if c = 4 then st == 6
  else if c = 5 then st == 7
  else (st == 2 || st == 4) && decide (0 < (cyc - (now + b.extractLsb' 0 29)).toInt)

/-- The launch of the group that has issued is not deterministic, so that TBR, TGET and TSETP mark nothing (05 R146). -/
def NotDet (s : State) : Prop := ∀ g, s.cur = some g → (s.rcd g.lid).det = false

end Sys2Proof.Claims

namespace Sys2Proof.Claims

/-- A register of a thread outside some bytes of the core store, or no v register. -/
def Apart (c : Core) (slot : Nat) (d : BitVec 8) (p n : Nat) : Prop :=
  d.toNat < 0xE0 → ∃ o, c.vOff slot d.toNat = some o ∧ (o + 4 ≤ p ∨ p + n ≤ o)

/-- What a thread that is active at a cross-lane instruction brings to its rendezvous: the values it reads when it issues (06 R160, R161, R165). -/
def Brings (s : State) (core slot : Nat) (t : Thread) (i : Instr) (m : Member) : Prop :=
  let q (c : BitVec 8) : Bool := xor (t.pred (c.extractLsb' 0 3)) (c.getLsbD 3)
  match i with
  | .vote x | .prfx x => m.a = 0 ∧ m.b = 0 ∧ m.q = q x.a
  | .shfl x => ∃ a b, s.src32 core slot t x.lit x.a = .ok a ∧ s.src32 core slot t x.lit x.b = .ok b ∧ m.a = a.setWidth 64 ∧ m.b = b.setWidth 64 ∧
      m.q = false
  | .cred x => ∃ a, s.src32 core slot t x.lit x.a = .ok a ∧ m.a = a.setWidth 64 ∧ m.b = 0 ∧ m.q = false
  | .stcp x => s.address core slot t x x.imm.toInt = .ok m.a ∧
      (∃ v, s.srcN core slot t x.lit x.b (2 ^ (x.sub.extractLsb' 0 3).toNat) = .ok v ∧ m.b = v.setWidth 64) ∧ m.q = q x.c
  | _ => False

/-- The registers that a cross-lane instruction needs mapped. -/
def crossCodes : Instr → List (BitVec 8)
  | .stcp x => [x.d] ++ baseCodes x ++ codesOf x.b (2 ^ (x.sub.extractLsb' 0 3).toNat)
  | i => aloneCodes i

/-- A thread is the last of the participants ms to come to a rendezvous: every other one stands there with what it brought, an inactive one with
nothing, and no other thread of the crew stands at a cross-lane instruction (06 R160). -/
structure Gathered (s : State) (core slot : Nat) (t : Thread) (i : Instr) (x : XOps) (me : Member) (ms : List Member) : Prop where
  slots : ms.map (·.slot) = (s.core core).participants (slot / 64) (crossMask s core slot x)
  mine : me ∈ ms ∧ me.slot = slot ∧ me.active = t.guard x.g
  brings : t.guard x.g = true → MappedAll (s.core core) slot (crossCodes i) ∧ Brings s core slot t i me
  inactive : ∀ m ∈ ms, m.active = false → m.a = 0 ∧ m.b = 0 ∧ m.q = false
  others : ∀ m ∈ ms, m.slot ≠ slot → ∃ u, s.thread? core m.slot = some u ∧ u.pc = t.pc ∧
    u.park = some (.cross i (crossMask s core slot x) m.active m.a m.b m.q x.len)
  none_ : ∀ o u, o / 64 = slot / 64 → s.thread? core o = some u → u.atCross = true → o ∈ ms.map (·.slot)

/-- One level of the tree of CRED.FADD: the sum of nodes 2i and 2i + 1, or the only one of them (06 R162). -/
def addLevel (node : Nat → Option Nat) : Nat → Option Nat := fun i =>
  match node (2 * i), node (2 * i + 1) with
  | some p, some q => some (fp32.add .rne p q)
  | some p, none => some p
  | none, q => q

/-- What CRED makes of the values of its active participants, by their lanes (06 R162). -/
def CredIs (op : Nat) (vs : List (Nat × Word)) (w : Word) : Prop :=
  let ws := vs.map (·.2)
  let nan (v : Nat) : Nat := if fp32.isNan v = true then 0x7FC00000 else v
  let one (f : Nat → Nat → Nat) : Nat := match ws.map BitVec.toNat with
    | [] => 0
    | v :: r => r.foldl f v
  if op = 0 then w = ws.foldl (· + ·) 0
  else if op = 1 then w ∈ ws ∧ ∀ v ∈ ws, w.toInt ≤ v.toInt
  else if op = 2 then w ∈ ws ∧ ∀ v ∈ ws, v.toInt ≤ w.toInt
  else if op = 3 then w ∈ ws ∧ ∀ v ∈ ws, w.toNat ≤ v.toNat
  else if op = 4 then w ∈ ws ∧ ∀ v ∈ ws, v.toNat ≤ w.toNat
  else if op = 5 then ∀ k, k < 32 → (w.getLsbD k = true ↔ ∀ v ∈ ws, v.getLsbD k = true)
  else if op = 6 then ∀ k, k < 32 → (w.getLsbD k = true ↔ ∃ v ∈ ws, v.getLsbD k = true)
  else if op = 7 then ∀ k, k < 32 → (w.getLsbD k = true ↔ (ws.countP (fun v => v.getLsbD k)) % 2 = 1)
  else if op = 8 then
    w.toNat = nan ((addLevel (addLevel (addLevel (addLevel (addLevel (addLevel (fun l => (tget vs l).map BitVec.toNat)))))) 0).getD 0)
  else if op = 9 then w.toNat = nan (one fp32.min)
  else w.toNat = nan (one fp32.max)

/-- The result of a cross-lane instruction for an active participant m of ms (06 R161, R165). -/
def Together (i : Instr) (ms : List Member) (m : Member) (r : Alone) : Prop :=
  let lane (o : Member) : Nat := o.slot % 64
  match i with
  | .vote x =>
    if x.sub.extractLsb' 0 2 = 2 then ∃ w : DWord, r = .pair w ∧ ∀ l, l < 64 → (w.getLsbD l = true ↔ ∃ o ∈ ms, lane o = l ∧ o.q = true)
    else ∃ b, r = .bit b ∧ (b = true ↔
      if x.sub.extractLsb' 0 2 = 0 then ∀ o ∈ ms, o.q = true
      else if x.sub.extractLsb' 0 2 = 1 then ∃ o ∈ ms, o.q = true
      else (∀ o ∈ ms, o.q = true) ∨ ∀ o ∈ ms, o.q = false)
  | .shfl x =>
    let b := (m.b.extractLsb' 0 32).toNat
    let from_ : Int :=
      if x.sub.extractLsb' 0 2 = 0 then (b % 64 : Nat)
      else if x.sub.extractLsb' 0 2 = 1 then (lane m : Int) - b
      else if x.sub.extractLsb' 0 2 = 2 then (lane m : Int) + b
      else (Nat.xor (lane m) (b % 64) : Nat)
    ∃ w : Word, r = .word w ∧ (∀ o ∈ ms, o.active = true → (lane o : Int) = from_ → w = o.a.extractLsb' 0 32) ∧
      ((∀ o ∈ ms, o.active = true → (lane o : Int) ≠ from_) → w = m.a.extractLsb' 0 32)
  | .prfx x => r = .word (BitVec.ofNat 32 (ms.countP (fun o => o.q && (x.sub.getLsbD 0 || decide (lane o < lane m)))))
  | .cred x => ∃ w, r = .word w ∧
      CredIs (x.sub.extractLsb' 0 4).toNat ((ms.filter (·.active)).map (fun o => (lane o, o.a.extractLsb' 0 32))) w
  | .stcp _ => r = .word (BitVec.ofNat 32 (ms.countP (fun o => o.active && o.q)))
  | _ => False

/-- A rendezvous has completed: every participant has gone past it, and an active one has its result in D; a k register has that of the lowest lane
(06 R160, 04 R100). -/
structure Completed (s s' : State) (core : Nat) (i : Instr) (x : XOps) (ms : List Member) : Prop where
  inactive : ∀ m ∈ ms, m.active = false → ∀ u, s.thread? core m.slot = some u →
    ∃ u', s'.thread? core m.slot = some u' ∧ Option.Rel Thinned (some { u.past x.len with park := none }) (some u')
  active : ∀ m ∈ ms, m.active = true → ∀ u, s.thread? core m.slot = some u → ∃ u' v, s'.thread? core m.slot = some u' ∧
    u' = { v with park := none, taints := u'.taints } ∧ ∃ r, Together i ms m r ∧ match r with
      | .word w => v = u.past x.len ∧ (x.d.toNat < 0xE0 → (s'.core core).readV m.slot x.d.toNat = some w) ∧
        (0xE0 ≤ x.d.toNat → x.d.toNat < 0xF0 → (∀ o ∈ ms, o.active = true → m.slot ≤ o.slot) →
          (s'.core core).readK (m.slot / 64) (x.d.setWidth 4) = w)
      | .pair w => v = u.past x.len ∧ (x.d.toNat < 0xE0 → x.d.toNat % 2 = 0 →
          (s'.core core).readV m.slot x.d.toNat = some (w.extractLsb' 0 32) ∧ (s'.core core).readV m.slot (x.d.toNat + 1) = some (w.extractLsb' 32 32)) ∧
          (0xE0 ≤ x.d.toNat → x.d.toNat < 0xF0 → x.d.toNat % 2 = 0 → (∀ o ∈ ms, o.active = true → m.slot ≤ o.slot) →
            (s'.core core).readK (m.slot / 64) (x.d.setWidth 4) = w.extractLsb' 0 32 ∧
            (s'.core core).readK (m.slot / 64) ((x.d + 1).setWidth 4) = w.extractLsb' 32 32)
      | .bit b => PredIs (u.past x.len) v (x.d.extractLsb' 0 3) b

end Sys2Proof.Claims

/-- VOTE, SHFL, PRFX and CRED complete when every live thread that their mask names stands at them, each with its result, and alone at once; a thread
whose own bit is clear traps with JOIN (0x0E), also one whose guard is false (DEDUCED, log 41); one that a live participant has not joined waits (06
R159 to R162). Results are written in the step of the last arrival (DEDUCED, log 42). STCP stores the elements of the participants whose predicates hold
one behind another, and gives every active one their number (06 R165), in that step too (DESIGN CHOICE, log 72). -/
def Obligations.CrossLaneResult : Prop :=
  ∀ i x, crossOps i = some x → ∀ s core slot t, Solo s core slot t →
    (NoneCrossing s core slot →
    ((crossMask s core slot x).getLsbD (slot % 64) = false → Handled s t →
      Completes i s (fun s' => Trapped s s' core slot t 0x0E t.pc)) ∧
    ((crossMask s core slot x).getLsbD (slot % 64) = true → t.guard x.g = false →
      (∀ o ∈ (s.core core).slotsIn (slot / 64), o = slot) → Completes i s (fun s' => Result s s' core slot (t.past x.len) [])) ∧
    (∀ a r, (crossMask s core slot x).getLsbD (slot % 64) = true → t.guard x.g = true →
      (∀ o ∈ (s.core core).slotsIn (slot / 64), o = slot) → MappedAll (s.core core) slot (aloneCodes i) →
      (∀ y, i = .shfl y ∨ i = .cred y → s.src32 core slot t x.lit x.a = .ok a) →
      (∀ y, i = .shfl y → ∃ b, s.src32 core slot t x.lit x.b = .ok b) →
      aloneResult i (slot % 64) (xor (t.pred (x.a.extractLsb' 0 3)) (x.a.getLsbD 3)) a = some r →
      Completes i s (fun s' => match r with
        | .word w => Result s s' core slot (t.past x.len) [(x.d, w)]
        | .pair w => PairDst x.d → Result s s' core slot (t.past x.len) (pairWrites x.d w)
        | .bit b => ∃ u, PredIs (t.past x.len) u (x.d.extractLsb' 0 3) b ∧ Result s s' core slot u [])) ∧
    (∀ o u, (crossMask s core slot x).getLsbD (slot % 64) = true → t.guard x.g = false →
      s.thread? core o = some u → o ≠ slot → o / 64 = slot / 64 → (crossMask s core slot x).getLsbD (o % 64) = true →
      Completes i s (fun s' => OnlyCore core s s' ∧ OnlyThread slot (s.core core) (s'.core core) ∧
        s'.thread? core slot = some { t with park := some (.cross i (crossMask s core slot x) false 0 0 false x.len) })) ∧
    (∀ y p v, i = .stcp y → (crossMask s core slot x).getLsbD (slot % 64) = true → t.guard x.g = true →
      (∀ o ∈ (s.core core).slotsIn (slot / 64), o = slot) → 2 ^ (x.sub.extractLsb' 0 3).toNat ≤ 8 →
      MappedAll (s.core core) slot ([x.d] ++ baseCodes x ++ codesOf x.b (2 ^ (x.sub.extractLsb' 0 3).toNat)) →
      s.address core slot t x x.imm.toInt = .ok p → s.srcN core slot t x.lit x.b (2 ^ (x.sub.extractLsb' 0 3).toNat) = .ok v →
      p.toNat % 2 ^ (x.sub.extractLsb' 0 3).toNat = 0 →
      let q := xor (t.pred (x.c.extractLsb' 0 3)) (x.c.getLsbD 3)
      (q = false → (s.rcd t.lid).det = false → Completes i s (fun s' => Result s s' core slot (t.past x.len) [(x.d, 0)])) ∧
      (∀ a e, q = true → x.d = 0xF8 → Plain s core slot t →
        s.resolve core t.lid (s.ctxOf t) (s.core core).tlb (s.priv t) .atomic p (2 ^ (x.sub.extractLsb' 0 3).toNat) .write .ls =
          .ok (.store core a, e) →
        Completes i s (fun s' => StoreIs s s' core a (2 ^ (x.sub.extractLsb' 0 3).toNat) v.toNat ∧ WentBy s s' core slot t x.len)))) ∧
    (∀ me ms, Gathered s core slot t i x me ms → (∀ y, i ≠ .stcp y) →
      (∀ m ∈ ms, m.active = true → MappedAll (s.core core) m.slot (crossCodes i)) → (s.core core).shared = [] →
      Completes i s (fun s' => OnlyCore core s s' ∧ Completed s s' core i x ms ∧
        ∀ o, o ∉ ms.map (·.slot) → Option.Rel Thinned (s.thread? core o) (s'.thread? core o))) ∧
    (∀ y me ms lead off, i = .stcp y → Gathered s core slot t i x me ms → (s.core core).shared = [] →
      let n := 2 ^ (x.sub.extractLsb' 0 3).toNat
      let storing := ms.filter (fun m => m.active && m.q)
      n ≤ 8 → (ms.filter (·.active)).head? = some lead → lead.a.toNat % n = 0 →
      (∀ m ∈ ms, m.active = true → ∃ u, s.thread? core m.slot = some u ∧ u.lid = t.lid ∧ Plain s core m.slot u ∧
        MappedAll (s.core core) m.slot (crossCodes i)) →
      (∀ j m u, storing[j]? = some m → s.thread? core m.slot = some u → s.resolve core u.lid (s.ctxOf u) (s.core core).tlb (s.priv u) .atomic
        (addOff lead.a (j * n : Nat)) n .write .ls = .ok (.store core (off + j * n), none)) →
      (x.d = 0xF8 ∨ x.d.toNat < 0xE0 ∧ ∀ m ∈ ms, m.active = true → Apart (s.core core) m.slot x.d off (storing.length * n)) →
      Completes i s (fun s' => OnlyCore core s s' ∧ Completed s s' core i x ms ∧
        (∀ j m k, storing[j]? = some m → k < n → (s'.core core).store.get (off + j * n + k) = byteOf m.b.toNat k) ∧
        ∀ b, (b < off ∨ off + storing.length * n ≤ b) →
          (∀ m ∈ ms, m.active = true → ∀ a, x.d.toNat < 0xE0 → (s.core core).vOff m.slot x.d.toNat = some a → b < a ∨ a + 4 ≤ b) →
          (s'.core core).store.get b = (s.core core).store.get b))

/-- TBR jumps by its offset from its own address where its condition, negated with SUB[3], holds, and goes on behind itself elsewhere;
TGET writes the raw register, or with SUB[0] the signed distance of its cycle from now, 0 for IDLE; TSETP compares two registers
(05 R144, R145). In a deterministic launch each marks the launch TIMEDEP (05 R146). TYIELD waits while its register is PROBING, and while
it is PROMISED or BROKEN until the cycle plus the slack; else it goes on (05 R142). -/
def Obligations.TimeBranchResult : Prop :=
  ∀ s core slot t, Solo s core slot t →
    (∀ x b, NotDet s → t.guard x.g = true → x.sub.extractLsb' 0 3 ≠ 7 →
      (x.sub.extractLsb' 0 3 = 6 → s.src32 core slot t x.lit x.b = .ok b) →
      let hit := xor (timeCondition (x.sub.extractLsb' 0 3) (t.treg (x.a.extractLsb' 0 3)) (s.now29 core) b) (x.sub.getLsbD 3)
      Completes (.tbr x) s (fun s' => Result s s' core slot
        (if hit then { t with pc := t.pc + BitVec.ofInt 64 x.imm.toInt } else t.past x.len) [])) ∧
    (∀ x, NotDet s → t.guard x.g = true → MappedAll (s.core core) slot [x.d] →
      let w := t.treg (x.a.extractLsb' 0 3)
      Completes (.tget x) s (fun s' => Result s s' core slot (t.past x.len)
        [(x.d, if x.sub.getLsbD 0 then
            (if w.extractLsb' 29 3 = 0 then 0 else BitVec.ofInt 32 (w.extractLsb' 0 29 - s.now29 core).toInt) else w)])) ∧
    (∀ x, NotDet s → t.guard x.g = true → x.sub.extractLsb' 0 2 ≠ 3 →
      let v := t.treg (x.a.extractLsb' 0 3)
      let w := t.treg (x.b.extractLsb' 0 3)
      let before (p q : Word) : Bool := decide (0 < (q.extractLsb' 0 29 - p.extractLsb' 0 29).toInt)
      Completes (.tsetp x) s (fun s' => ∃ u,
        PredIs (t.past x.len) u (x.d.extractLsb' 0 3)
          (if x.sub.extractLsb' 0 2 = 0 then before v w else if x.sub.extractLsb' 0 2 = 1 then before w v
            else v.extractLsb' 29 3 == w.extractLsb' 29 3) ∧
        Result s s' core slot u [])) ∧
    (∀ x i l, (i = .tbr x ∨ i = .tget x ∨ i = .tsetp x) → t.guard x.g = true → s.cur.map (·.lid) = some t.lid →
      s.launch? t.lid = some l → l.rcd.det = true →
      Completes i s (fun s' => ∃ l', s'.launch? t.lid = some l' ∧ l'.timedep = true)) ∧
    (∀ x, t.guard x.g = true →
        let n := x.a.extractLsb' 0 3
        let slack := x.imm.extractLsb' 0 16
        let st := (t.treg n).extractLsb' 29 3
        let ahead := ((t.treg n).extractLsb' 0 29 + BitVec.ofInt 29 slack.toInt - s.now29 core).toInt
        (st = 2 ∨ st = 4 → 0 < ahead → Completes (.tyield x) s (fun s' => OnlyCore core s s' ∧
          OnlyThread slot (s.core core) (s'.core core) ∧ s'.thread? core slot = some { t with park := some (.tyield n slack false x.len) })) ∧
        (st = 1 → Completes (.tyield x) s (fun s' => OnlyCore core s s' ∧
          OnlyThread slot (s.core core) (s'.core core) ∧ s'.thread? core slot = some { t with park := some (.tyield n slack true x.len) })) ∧
        (st = 0 ∨ st = 3 ∨ 5 ≤ st.toNat ∨ (st = 2 ∨ st = 4) ∧ ahead ≤ 0 →
          Completes (.tyield x) s (fun s' => Result s s' core slot (t.past x.len) [])))

/-- ST to a core store (its own, or another core's through the core window) stores its value there, little-endian, and nothing else
(04 R91 to R93, 22 R461). It stands there in the step that issues the ST (DESIGN CHOICE, log 72). Stated for a thread with no open region in a launch
without checkpoints and determinism. -/
def Obligations.StoreToCoreStore : Prop :=
  ∀ x s core slot t ptr v c off e, Solo s core slot t →
    Ready s core slot t x (bytesOfAccess x) x.imm.toInt ptr (codesOf x.b (bytesOfAccess x)) → Plain s core slot t →
    s.srcN core slot t x.lit x.b (bytesOfAccess x) = .ok v →
    s.resolve core t.lid (s.ctxOf t) (s.core core).tlb (s.priv t) .ldst ptr (bytesOfAccess x) .write .ls = .ok (.store c off, e) →
    Completes (.st x) s (fun s' => s' = { s with cores := s'.cores } ∧ StoreIs s s' c off (bytesOfAccess x) v.toNat ∧
      WentBy s s' core slot t x.len ∧ ∀ m, RegFrame (s.core m) (s'.core m) ∧ (s'.core m).crews = (s.core m).crews ∧
        (m ≠ core → ∀ o, Option.Rel Thinned ((s.core m).thread? o) ((s'.core m).thread? o)))

/-- ST to memory with a bypass hint is performed at the point of coherence (08 R179), in the step that issues it (DESIGN CHOICE, log 72); without one it
stays in the launch's L1 share, as dirty bytes of its line, and memory is as before, where the line's set has a way for it (09 R201). -/
def Obligations.StoreToMemory : Prop :=
  ∀ x s core slot t ptr v pa leaf e l, Solo s core slot t →
    Ready s core slot t x (bytesOfAccess x) x.imm.toInt ptr (codesOf x.b (bytesOfAccess x)) → Plain s core slot t →
    s.srcN core slot t x.lit x.b (bytesOfAccess x) = .ok v → WalkClear s (some e) →
    s.resolve core t.lid (s.ctxOf t) (s.core core).tlb (s.priv t) .ldst ptr (bytesOfAccess x) .write .ls = .ok (.mem pa leaf, some e) →
    (x.sub.extractLsb' 4 2 = 3 → NoCopies s (pa / 128) → s.locate pa = .ok l → Sealed s (s.ctxOf t) leaf pa →
      Completes (.st x) s (fun s' => WrittenAt s s' (s.ctxOf t) (leafMac leaf) pa (bytesOfAccess x) v.toNat ∧ StoresSame s s' ∧
        Went s s' core slot t x.len)) ∧
    (x.sub.extractLsb' 4 2 ≠ 3 → pa % 128 + bytesOfAccess x ≤ 128 → (s.core core).l1Out t.lid (pa / 128) = none →
      (∀ y, (s.core core).line? t.lid (pa / 128) = some y → y.upd = none) →
      Completes (.st x) s (fun s' => MemorySame s s' ∧ StoresSame s s' ∧ Went s s' core slot t x.len ∧
        (∃ y, (s'.core core).line? t.lid (pa / 128) = some y ∧
          lineBytes y.data (pa % 128) (bytesOfAccess x) = v.toNat % 256 ^ bytesOfAccess x ∧
          ∀ i, i < 128 → y.dirty.getLsbD i = (decide (pa % 128 ≤ i ∧ i < pa % 128 + bytesOfAccess x) ||
            (((s.core core).line? t.lid (pa / 128)).map (·.dirty.getLsbD i)).getD false)) ∧
        ∀ lid a, (lid, a) ≠ (t.lid, pa / 128) → (s'.core core).line? lid a = (s.core core).line? lid a))

/-- In an open region ST is buffered and performed nowhere yet (08 R184, R185); where its granules would exceed sixteen it traps with
REGION_OVERFLOW (0x09) and the address in s.faddr. -/
def Obligations.StoreInRegion : Prop :=
  ∀ x s core slot t ptr v target e r, Solo s core slot t →
    Ready s core slot t x (bytesOfAccess x) x.imm.toInt ptr (codesOf x.b (bytesOfAccess x)) →
    t.openRegion = some r → (s.rcd t.lid).rbk = false → WalkClear s e →
    s.srcN core slot t x.lit x.b (bytesOfAccess x) = .ok v →
    s.resolve core t.lid (s.ctxOf t) (s.core core).tlb (s.priv t) .ldst ptr (bytesOfAccess x) .write .ls = .ok (target, e) →
    let b := buffered t slot ptr (bytesOfAccess x) (x.sub.extractLsb' 4 2).toNat v e
    ((granules core (r.stores ++ [b])).length ≤ 16 →
      Completes (.st x) s (fun s' => (∃ w, SlicesOnly s w ∧ OnlyCore core w s') ∧ StoresSame s s' ∧
        OnlyThread slot (s.core core) (s'.core core) ∧ (s'.core core).lines = (s.core core).lines ∧
        ∃ t', s'.thread? core slot = some t' ∧
          t' = { t.past x.len with park := none, region := some { r with stores := r.stores ++ [b] } })) ∧
    (16 < (granules core (r.stores ++ [b])).length → Handled s t →
      Completes (.st x) s (fun s' => Trapped s s' core slot { t with faddr := ptr } 0x09 t.pc))

/-- An LD or ST to an address that may not be accessed traps with PROTECTION (0x06) or BOUNDS (0x07), with the fault in s.fstat and
s.faddr; a misaligned one traps with MISALIGNED (0x04) and its address in s.faddr, whatever its time register waits for (10 R234 to R236, 21
R416). That MISALIGNED leaves s.fstat, which kind a refusal by a window or a format has, and the LEVEL of these faults are read from the rules (DEDUCED,
logs 22, 23 and 24). -/
def Obligations.AccessTraps : Prop :=
  ∀ x s core slot t ptr, Solo s core slot t → Handled s t → t.guard x.g = true → s.address core slot t x x.imm.toInt = .ok ptr →
    (MappedAll (s.core core) slot ((if x.d = 0xF8 then [] else codesOf x.d (bytesOfAccess x)) ++ baseCodes x) →
      (ptr.toNat % bytesOfAccess x ≠ 0 →
        Completes (.ld x) s (fun s' => Trapped s s' core slot { t with faddr := ptr } 0x04 t.pc)) ∧
      (∀ f, ptr.toNat % bytesOfAccess x = 0 → (x.te = true → tpending (t.treg x.t) = false) →
        s.resolve core t.lid (s.ctxOf t) (s.core core).tlb (s.priv t) .ldst ptr (bytesOfAccess x) .read .ls = .error f →
        WalkQuiet s (s.ctxOf t) f.va →
        (f.kind = .permission → Completes (.ld x) s (fun s' => ∃ w, SlicesOnly s w ∧
          Trapped w s' core slot { t with fstat := f.fstat, faddr := f.va } 0x06 t.pc)) ∧
        (f.kind = .bounds → Completes (.ld x) s (fun s' => ∃ w, SlicesOnly s w ∧
          Trapped w s' core slot { t with fstat := f.fstat, faddr := f.va } 0x07 t.pc)))) ∧
    (∀ v, MappedAll (s.core core) slot (codesOf x.b (bytesOfAccess x) ++ baseCodes x) →
      s.srcN core slot t x.lit x.b (bytesOfAccess x) = .ok v →
      (ptr.toNat % bytesOfAccess x ≠ 0 →
        Completes (.st x) s (fun s' => Trapped s s' core slot { t with faddr := ptr } 0x04 t.pc)) ∧
      (∀ f, ptr.toNat % bytesOfAccess x = 0 →
        s.resolve core t.lid (s.ctxOf t) (s.core core).tlb (s.priv t) .ldst ptr (bytesOfAccess x) .write .ls = .error f →
        WalkQuiet s (s.ctxOf t) f.va →
        (f.kind = .permission → Completes (.st x) s (fun s' => ∃ w, SlicesOnly s w ∧
          Trapped w s' core slot { t with fstat := f.fstat, faddr := f.va } 0x06 t.pc)) ∧
        (f.kind = .bounds → Completes (.st x) s (fun s' => ∃ w, SlicesOnly s w ∧
          Trapped w s' core slot { t with fstat := f.fstat, faddr := f.va } 0x07 t.pc))))

/-- LD enters a load whose data are what its address holds: the bytes of the core store, the thread's own latest store where that is
buffered (08 R175), the point of coherence for a bypass hint (08 R179), or the sector that a miss brings into the L1 share (09 R201).
They are those at its issue (DESIGN CHOICE, log 72). Nothing else of memory or of a core store changes. -/
def Obligations.LoadResult : Prop :=
  ∀ x s core slot t ptr target e, Solo s core slot t →
    Ready s core slot t x (bytesOfAccess x) x.imm.toInt ptr (if x.d = 0xF8 then [] else codesOf x.d (bytesOfAccess x)) →
    s.resolve core t.lid (s.ctxOf t) (s.core core).tlb (s.priv t) .ldst ptr (bytesOfAccess x) .read .ls = .ok (target, e) →
    WalkClear s e →
    let n := bytesOfAccess x
    let enters (v : Nat) : Prop := Completes (.ld x) s (fun s' => MemorySame s s' ∧ StoresSame s s' ∧
      Entered s s' core slot t x .ld ptr (loadDests x n) (some (loadValue n (x.sub.getLsbD 3) v)))
    (∀ c off, target = .store c off → (s.core c).badIn off n = none →
      (s.above core t = [] → enters ((s.core c).store.getN off n)) ∧
      (∀ pre b, s.above core t = pre ++ [b] → b.va = ptr → b.size = n → leafNq b.leaf = false → enters b.data.toNat)) ∧
    (∀ pa leaf, target = .mem pa leaf → s.above core t = [] → NoCopies s (pa / 128) →
      (∀ v, x.sub.extractLsb' 4 2 = 3 → s.readPa (s.ctxOf t) (leafMac leaf) pa n = .ok v → enters v) ∧
      (∀ w, x.sub.extractLsb' 4 2 ≠ 3 → (s.rcd t.lid).det = false → pa % 32 + n ≤ 32 → (s.core core).l1Out t.lid (pa / 128) = none →
        s.readPa (s.ctxOf t) (leafMac leaf) (pa / 32 * 32) 32 = .ok w → enters (w / 256 ^ (pa % 32))))

/-- ATOM replaces the value at its address by that of its operation in one step, and its result is the old value; RED does so without a
result, in a core store at once and for memory as an element of an update-only line, or with a bypass hint at the point of coherence (20 R366 to
R368, 22 R446, 08 R188, R189). Both are performed in the step that issues them (DESIGN CHOICE, log 72). -/
def Obligations.AtomicResult : Prop :=
  ∀ x s core slot t ptr b target e, Solo s core slot t → Plain s core slot t → WalkClear s e →
    let n := if x.sub.extractLsb' 0 3 = 2 then 4 else 8
    let op := (x.imm.extractLsb' 28 4).toNat
    let off := (x.imm.extractLsb' 0 28).toInt
    s.srcN core slot t x.lit x.b n = .ok b →
    (∀ c, Ready s core slot t x n off ptr ((if x.d = 0xF8 then [] else codesOf x.d n) ++ codesOf x.b n ++
        (if op = 9 then codesOf x.c n else [])) →
      (op = 9 → s.srcN core slot t x.lit x.c n = .ok c) →
      s.resolve core t.lid (s.ctxOf t) (s.core core).tlb (s.priv t) .atomic ptr n .atomic .ls = .ok (target, e) →
      (∀ m a, target = .store m a → (s.core m).badIn a n = none →
        let old := (s.core m).store.getN a n
        Completes (.atom x) s (fun s' => MemorySame s s' ∧
          Entered s s' core slot t x .atom ptr (loadDests x n) (some (BitVec.ofNat 128 old)) ∧
          match atomicValue op n old (b.toNat % 2 ^ 64) (c.toNat % 2 ^ 64) with
          | some v => StoreIs s s' m a n v
          | none => StoresSame s s')) ∧
      (∀ pa leaf old, target = .mem pa leaf → NoCopies s (pa / 128) → s.readPa (s.ctxOf t) (leafMac leaf) pa n = .ok old →
        Completes (.atom x) s (fun s' => StoresSame s s' ∧
          Entered s s' core slot t x .atom ptr (loadDests x n) (some (BitVec.ofNat 128 old)) ∧
          match atomicValue op n old (b.toNat % 2 ^ 64) (c.toNat % 2 ^ 64) with
          | some v => WrittenAt s s' (s.ctxOf t) (leafMac leaf) pa n v
          | none => MemorySame s s'))) ∧
    (Ready s core slot t x n off ptr (codesOf x.b n) → op ≠ 9 →
      s.resolve core t.lid (s.ctxOf t) (s.core core).tlb (s.priv t) .atomic ptr n .reduce .ls = .ok (target, e) →
      (∀ m a, target = .store m a → (s.core m).badIn a n = none →
        Completes (.red x) s (fun s' => MemorySame s s' ∧ WentBy s s' core slot t x.len ∧
          match atomicValue op n ((s.core m).store.getN a n) (b.toNat % 2 ^ 64) 0 with
          | some v => StoreIs s s' m a n v
          | none => StoresSame s s')) ∧
      (∀ pa leaf, target = .mem pa leaf → NoCopies s (pa / 128) →
        (x.sub.extractLsb' 4 2 ≠ 3 → (s.core core).l1Out t.lid (pa / 128) = none →
          Completes (.red x) s (fun s' => MemorySame s s' ∧ StoresSame s s' ∧ Went s s' core slot t x.len ∧
            ∃ l, (s'.core core).line? t.lid (pa / 128) = some l ∧ l.upd = some (op, n, [(pa % 128, b.setWidth 64)]))) ∧
        (∀ old v, x.sub.extractLsb' 4 2 = 3 → s.readPa (s.ctxOf t) (leafMac leaf) pa n = .ok old →
          atomicValue op n old (b.toNat % 2 ^ 64) 0 = some v →
          Completes (.red x) s (fun s' => StoresSame s s' ∧ Went s s' core slot t x.len ∧
            WrittenAt s s' (s.ctxOf t) (leafMac leaf) pa n v))))

/-- LDK reads through the constant cache: a piece that it holds is read there, another one is brought in from the point of coherence, and
a bypass reads there directly (21 R421, 08 R170), all when it issues (DESIGN CHOICE, log 72). PREF brings a line into the launch's L1 share, with a bypass hint into its slice only, and
changes no register, no memory and no core store;
where it names a core store or a window there is nothing to fetch, and it arrives all the same (22 R440). -/
def Obligations.ConstantLoadPrefetchResult : Prop :=
  (∀ x s core slot t ptr pa leaf e, Solo s core slot t →
      Ready s core slot t x (bytesOfAccess x) x.imm.toInt ptr (if x.d = 0xF8 then [] else codesOf x.d (bytesOfAccess x)) →
      s.resolve core t.lid (s.ctxOf t) (s.core core).tlb (s.priv t) .other ptr (bytesOfAccess x) .read .kr = .ok (.mem pa leaf, e) →
      NoCopies s (pa / 128) → WalkClear s e → pa % 64 + bytesOfAccess x ≤ 64 →
      let n := bytesOfAccess x
      let key := s.ctxOf t * 2 ^ 48 + pa / 64
      let enters (v : Nat) : Prop := Completes (.ldk x) s (fun s' => MemorySame s s' ∧ StoresSame s s' ∧
        Entered s s' core slot t x .ldk ptr (loadDests x n) (some (loadValue n (x.sub.getLsbD 3) v)))
      (∀ v, x.sub.extractLsb' 4 2 = 3 → s.readPa (s.ctxOf t) (leafMac leaf) pa n = .ok v → enters v) ∧
      (∀ d, x.sub.extractLsb' 4 2 ≠ 3 → tget (s.core core).constant key = some d → enters (d.toNat / 256 ^ (pa % 64))) ∧
      (∀ w, x.sub.extractLsb' 4 2 ≠ 3 → tget (s.core core).constant key = none →
        s.readPa (s.ctxOf t) (leafMac leaf) (pa / 64 * 64) 64 = .ok w → enters (w / 256 ^ (pa % 64)))) ∧
  (∀ x s core slot t ptr, Solo s core slot t → Ready s core slot t x 1 x.imm.toInt ptr [] →
      (0x00FD000000000000 ≤ ptr.toNat % 2 ^ 56 →
        Completes (.pref x) s (fun s' => MemorySame s s' ∧ StoresSame s s' ∧ Entered s s' core slot t x .pref ptr [] (some 0))) ∧
      (∀ pa leaf e, ptr.toNat % 2 ^ 56 < 0x00FD000000000000 →
        s.resolve core t.lid (s.ctxOf t) (s.core core).tlb (s.priv t) .ldst ptr 1 .read .ls = .ok (.mem pa leaf, e) →
        NoCopies s (pa / 128) → WalkClear s e →
        (x.sub.extractLsb' 4 2 = 3 → (∀ k, k < 2 → ∃ v, s.readPa (s.ctxOf t) (leafMac leaf) (pa / 128 * 128 + 64 * k) 64 = .ok v) →
          Completes (.pref x) s (fun s' => MemorySame s s' ∧ StoresSame s s' ∧ Entered s s' core slot t x .pref ptr [] (some 0))) ∧
        (x.sub.extractLsb' 4 2 ≠ 3 → (s.core core).l1Out t.lid (pa / 128) = none →
          (∀ k, k < 4 → ∃ v, s.readPa (s.ctxOf t) (leafMac leaf) (pa / 128 * 128 + 32 * k) 32 = .ok v) →
          Completes (.pref x) s (fun s' => MemorySame s s' ∧ StoresSame s s' ∧ Entered s s' core slot t x .pref ptr [] (some 0) ∧
            ∃ l, (s'.core core).line? t.lid (pa / 128) = some l ∧ l.valid = 0xF))))

namespace Sys2Proof.Claims

/-- The launch's share of a core holds no dirty and no update-only line. -/
def CleanShare (s : State) (core lid : Nat) : Prop := ∀ l ∈ (s.core core).lines, l.lid = lid → l.dirty = 0 ∧ l.upd = none

/-- The lines of a core after the clean copies of a launch have gone: the clean lines, and the clean bytes of dirty ones (08 R174, R181). -/
def cleanGone (ls : List Line) (lid : Nat) : List Line :=
  (ls.filter (fun l => l.lid != lid || l.dirty != 0 || l.upd.isSome)).map (fun l =>
    if l.lid = lid ∧ l.upd = none then { l with valid := 0, newer := 0 } else l)

/-- A core after the clean copies of some paths have gone: bit 0 LS, bit 1 KR, bit 5 GB, bit 6 IF (08 R170, R174). -/
def DropIs (c c' : Core) (lid : Nat) (dst : BitVec 7) : Prop :=
  c'.lines = (if dst.getLsbD 0 then cleanGone c.lines lid else c.lines) ∧
  c'.constant = c.constant.filter (fun e =>
    !(dst.getLsbD 1 && keyPath e.1 == some .kr) && !(dst.getLsbD 5 && keyPath e.1 == some .gb)) ∧
  c'.gbuffers = (if dst.getLsbD 5 then [] else c.gbuffers) ∧
  c'.icache = (if dst.getLsbD 6 then [] else c.icache) ∧
  c'.store = c.store ∧ c'.crews = c.crews ∧ c'.blocks = c.blocks ∧ c'.tasks = c.tasks ∧ c'.tlb = c.tlb

/-- A block of a core has become b, and the core's other blocks, its crews and its store are as before. -/
def BlockIs (c c' : Core) (lid index : Nat) (b : Block) : Prop :=
  c'.block? lid index = some b ∧ (∀ l i, (l, i) ≠ (lid, index) → c'.block? l i = c.block? l i) ∧ c'.crews = c.crews

/-- REGION and REGION.END, with END. -/
def regions : Instr → Option (XOps × Bool)
  | .regionI x => some (x, false)
  | .regionEnd x => some (x, true)
  | _ => none

/-- The index of a thread's unit of level i within the level above (02 R34): its lane, its crew, then the digits of its block's index, whose sizes are
those of the levels from 3 up. The highest level reads 0, and so do those above. -/
def unitIndex (r : LaunchRec) (t : Thread) (i : Nat) : Nat :=
  if r.top ≤ i then 0
  else if i = 0 then t.lvid0
  else if i = 1 then t.lvid1
  else t.block / ((((r.levels.drop 3).take (i - 2)).map (·.1)).foldl (· * ·) 1) % r.size (i + 1)

/-- The physical register block that an entry of a thread's crew maps. -/
def mapEntry (s : State) (core slot n : Nat) : Option Nat :=
  ((s.core core).crew? (slot / 64)).bind (fun y => (y.rbm.toList[n]?).getD none)

/-- The value of a system register (04 R113) for the registers of a thread, its place and its launch. -/
def sysValue (s : State) (core slot : Nat) (t : Thread) (n : Nat) : Option Word :=
  let w (k : Nat) : Option Word := some (BitVec.ofNat 32 k)
  if n = 0x00 then w (slot % 64)
  else if n = 0x01 then w (slot / 64)
  else if n = 0x02 then w (t.lvid1 * 64 + t.lvid0)
  else if n = 0x03 then w t.block
  else if n = 0x04 then w core
  else if n = 0x05 then w (core / 16)
  else if n = 0x06 then w (core / 64)
  else if n = 0x08 then some ((s.cycle core).extractLsb' 0 32)
  else if n = 0x09 then some t.cyclehi
  else if 0x10 ≤ n ∧ n ≤ 0x17 then w (unitIndex (s.rcd t.lid) t (n - 0x10))
  else if 0x18 ≤ n ∧ n ≤ 0x1F then w (if (s.rcd t.lid).top < n - 0x18 then 0 else (s.rcd t.lid).size (n - 0x18))
  else if n = 0x20 then some t.fstat
  else if n = 0x21 then some (t.faddr.extractLsb' 0 32)
  else if n = 0x22 then some (t.faddr.extractLsb' 32 32)
  else if n = 0x23 then some t.fidx
  else if n = 0x24 then some t.trapc
  else if n = 0x25 then some (t.epc.extractLsb' 0 32)
  else if n = 0x26 then some (t.epc.extractLsb' 32 32)
  else if n = 0x30 then some ((s.core core).bpRegs (s.ctxOf t)).count
  else if n = 0x31 then some ((s.core core).bpRegs (s.ctxOf t)).head
  else if n = 0x32 then some ((s.core core).bpRegs (s.ctxOf t)).base
  else if n = 0x33 then some ((s.core core).bpRegs (s.ctxOf t)).lost
  else if n = 0x38 then some (if s.hasMarble core slot t then 1 else 0)
  else if n = 0x40 then some t.stacklim
  else if n = 0x41 then w (s.spbase core t)
  else if n = 0x42 then w (s.rcd t.lid).spad
  else if n = 0x50 then some t.rgflags
  else if n = 0x60 then some t.bndcnt
  else if n = 0x70 then w t.lid
  else if 0x80 ≤ n ∧ n ≤ 0x9B then
    match mapEntry s core slot (n - 0x80) with
    | some p => w p
    | none => some 0xFFFFFFFF
  else none

/-- A thread in which SETS has written a register of its own (04 R113, 22 R456); none for the others. -/
def sysWritten (t : Thread) (n : Nat) (w : Word) : Option Thread :=
  if n = 0x20 then some { t with fstat := w &&& 0xFFFCFFFF }
  else if n = 0x21 then some { t with faddr := t.faddr.extractLsb' 32 32 ++ w }
  else if n = 0x22 then some { t with faddr := w ++ t.faddr.extractLsb' 0 32 }
  else if n = 0x23 then some { t with fidx := w }
  else if n = 0x24 then some { t with trapc := w }
  else if n = 0x25 then some { t with epc := t.epc.extractLsb' 32 32 ++ w }
  else if n = 0x26 then some { t with epc := w ++ t.epc.extractLsb' 0 32 }
  else if n = 0x40 then some { t with stacklim := w }
  else if n = 0x50 then some { t with rgflags := w &&& 1 }
  else if n = 0x60 then some { t with bndcnt := w }
  else none

/-- The registers that only handler mode writes (04 R113). -/
def handlerOnly (n : Nat) : Prop := 0x20 ≤ n ∧ n ≤ 0x26 ∨ n = 0x40

/-- The parts of a barrier object (08 R192): words 0 and 1. -/
def arr (w : Word) : Nat := (w.extractLsb' 16 16).toNat
/-- Expected arrivals. -/
def due (w : Word) : Nat := (w.extractLsb' 0 16).toNat
/-- Bytes still pending, signed. -/
def pend (w : Word) : Int := (w.extractLsb' 0 28).toInt
/-- Word 0 with an arrival count. -/
def withArr (w : Word) (n : Nat) : Word := BitVec.ofNat 16 n ++ w.extractLsb' 0 16
/-- Word 1 with a pending count. -/
def withPend (w : Word) (n : Int) : Word := w.extractLsb' 28 4 ++ BitVec.ofInt 28 n

/-- An object of an instruction lies in the scratchpad, whole, without ERR and with its reserved bits 0; p is its store offset
(08 R192, R193). -/
structure ObjectAt (s : State) (core slot : Nat) (t : Thread) (x : XOps) (p : Nat) : Prop where
  read : ∃ a, s.src32 core slot t x.lit x.a = .ok a ∧ (a + x.imm).toNat % 16 = 0 ∧ (a + x.imm).toNat < (s.rcd t.lid).spad ∧
    p = s.spbase core t + (a + x.imm).toNat
  whole : (s.core core).badIn p 16 = none
  clear : ((s.core core).store.get32 (p + 4)).extractLsb' 28 3 = 0
  reserved : (s.core core).store.get32 (p + 8) = 0 ∧ (s.core core).store.get32 (p + 12) = 0

/-- Nobody waits on an object in BOWAIT. -/
def NoWaiter (c : Core) (p : Nat) : Prop := ∀ e ∈ c.threads, ∀ q len, e.2.park ≠ some (.bowait p q len)

/-- The words 0 and 1 of an object after an arrival or a transfer count: the phase completes when every arrival is there and nothing is
pending: ARR becomes 0 and PH changes (08 R192). -/
def objectAfter (w0 w1 : Word) : Word × Word :=
  if arr w0 = due w0 ∧ pend w1 = 0 then (withArr w0 0, w1 ^^^ 0x80000000) else (w0, w1)

/-- An object's words 0 and 1, a destination register with its value, and everything else of the core stores and k registers as before. -/
structure ObjectIs (s s' : State) (core slot p : Nat) (w : Word × Word) (d : BitVec 8) (r : Word) : Prop where
  words : (s'.core core).store.get32 p = w.1 ∧ (s'.core core).store.get32 (p + 4) = w.2
  v : d.toNat < 0xE0 → (s'.core core).readV slot d.toNat = some r
  k : 0xE0 ≤ d.toNat → d.toNat < 0xF0 → (s'.core core).readK (slot / 64) (d.setWidth 4) = r
  store : ∀ b, (b < p ∨ p + 8 ≤ b) → (∀ o, d.toNat < 0xE0 → (s.core core).vOff slot d.toNat = some o → b < o ∨ o + 4 ≤ b) →
    (s'.core core).store.get b = (s.core core).store.get b
  others : ∀ n, (0xE0 ≤ d.toNat → d.toNat < 0xF0 → d.setWidth 4 ≠ n) → (s'.core core).readK (slot / 64) n = (s.core core).readK (slot / 64) n

/-- Since when a thread that stands at FEGET or FEPUT waits for a slot with a full/empty bit. -/
def slotOrder (t : Thread) (o now : Nat) : Nat :=
  match t.park with
  | some (.slot k _ n) => if k = o then n else now
  | _ => now

/-- Of those that wait until a slot is full, or empty, none has waited since before some time. -/
def FirstAt (c : Core) (o : Nat) (full : Bool) (since : Nat) : Prop := ∀ e ∈ c.threads, ∀ k, e.2.park = some (.slot o full k) → since ≤ k

/-- The wait for a slot to be full, or empty, is over for the first of the other threads that wait so (04 R108). -/
def HandedOver (s s' : State) (core slot o : Nat) (full : Bool) : Prop :=
  ∀ z u k, z ≠ slot → s.thread? core z = some u → u.park = some (.slot o full k) → FirstAt (s.core core) o full k →
    s'.parkOver core z u (.slot o full k) = true

/-- No crew of a core is held by an RBACQ. -/
def NoneHeld (c : Core) : Prop := ∀ e ∈ c.crews, e.2.held = none

end Sys2Proof.Claims

/-- PHASE with scope BLOCK changes nothing; a wider one publishes the dirty lines of the launch's share and drops its clean copies, unless
SUB[4] or SUB[3] leaves one of these out (08 R181, R183). In a launch with checkpoints a thread in user mode takes the checkpoint of its
block once every thread of the block stands there, and waits until then (10 R251); one in handler mode takes no part (22 R436). -/
def Obligations.PhaseResult : Prop :=
  ∀ x s core slot t, Solo s core slot t → t.guard x.g = true → t.openRegion = none → NoFaults s core slot → t.awaited = false →
    let scope := (x.sub.extractLsb' 0 3).toNat
    ((s.rcd t.lid).rbk = false ∨ t.mode = .handler →
      (scope ≤ 2 → Completes (.phase x) s (fun s' => Result s s' core slot (t.past x.len) [])) ∧
      (3 ≤ scope → CleanShare s core t.lid → s.fabric = [] → s.cxlAwait = [] →
        Completes (.phase x) s (fun s' => OnlyCore core s s' ∧ StoresSame s s' ∧ Went s s' core slot t x.len ∧
          (s'.core core).lines = (if x.sub.getLsbD 3 then (s.core core).lines
            else (s.core core).lines.filter (fun l => l.lid != t.lid)))) ∧
      (∀ y i l, 3 ≤ scope → scope ≤ 6 → x.sub.getLsbD 4 = false →
        (s.core core).lines.filter (fun l => l.lid == t.lid) = [y] → y.upd = none → i < 128 → y.dirty = 1#128 <<< i →
        s.locate (y.addr * 128 + i) = .ok l → Sealed s y.last.2.2.2.2 y.leaf (y.addr * 128 + i / 32 * 32) →
        Completes (.phase x) s (fun s' => Went s s' core slot t x.len ∧
          WrittenAt s s' y.last.2.2.2.2 (leafMac y.leaf) (y.addr * 128 + i) 1 (lineBytes y.data i 1)))) ∧
    ((s.rcd t.lid).rbk = true → t.mode = .user → ∀ b, (s.core core).block? t.lid t.block = some b → b.deferred = [] →
      ((s.core core).slotsOf t.lid t.block = [slot] → scope ≤ 2 →
        Completes (.phase x) s (fun s' => Went s s' core slot t x.len ∧
          ∃ v, (s'.core core).checkpoints.head? = some v ∧ v.blocks.map (fun e => (e.1.lid, e.1.index)) = [(b.lid, b.index)])) ∧
      (∀ o u, s.thread? core o = some u → o ≠ slot → u.lid = t.lid → u.block = t.block → u.park = none →
        Completes (.phase x) s (fun s' => OnlyCore core s s' ∧ OnlyThread slot (s.core core) (s'.core core) ∧ ∃ p,
          s'.thread? core slot = some { t with park := some (.checkpoint p x.len) })))

/-- PFENCE waits for the dispatched tasks of its block on its source paths, and then drops the clean copies of its destination paths on
every core of its scope (08 R174). Stated for a thread with no open region, in a launch with no dirty line on its core. -/
def Obligations.PathFenceResult : Prop :=
  ∀ x s core slot t, Solo s core slot t → t.guard x.g = true → t.openRegion = none → NoFaults s core slot → t.park = none →
    CleanShare s core t.lid →
    let src := x.imm.extractLsb' 0 7 &&& 0x3C
    (s.sourceTasks core t src = [] →
      Completes (.pfence x) s (fun s' => MemorySame s s' ∧ Went s s' core slot t x.len ∧
        ∀ y, DropIs (s.core y) (s'.core y) t.lid
          (if sameDomain (x.sub.extractLsb' 0 3).toNat core y then x.imm.extractLsb' 8 7 else 0))) ∧
    (s.sourceTasks core t src ≠ [] →
      Completes (.pfence x) s (fun s' => OnlyCore core s s' ∧ OnlyThread slot (s.core core) (s'.core core) ∧
        s'.thread? core slot = some { t with park := some (.tasks (s.sourceTasks core t src)) }))

/-- REGION opens a region at the next instruction and REGION.END leaves none open, after the stores of the open region, whatever they are,
have been committed in their order, in one step (DESIGN CHOICE, log 72); a store to the own core's store is then there. In a launch without regions both trap with
ILLEGAL_OPERAND (0x02); in handler mode they do so too, and that trap fails the launch (08 R184 to R186, 02 R46). -/
def Obligations.RegionResult : Prop :=
  ∀ i x last, regions i = some (x, last) → ∀ s core slot t, Solo s core slot t → t.guard x.g = true →
    let opened (pc : DWord) : Option Region := if last then none else some { start := pc, stores := [] }
    let next := opened (t.pc + BitVec.ofNat 64 x.len)
    ((s.rcd t.lid).reg = true → t.mode = .user → t.region = none → NoFaults s core slot →
      Completes i s (fun s' => Result s s' core slot { t.past x.len with region := next } [])) ∧
    (∀ r, (s.rcd t.lid).reg = true → t.mode = .user → t.region = some r → NoFaults s core slot →
      t.taints.all (fun k => !k.kind.repairable) = true →
      ((s.rcd t.lid).det = false ∨ (∀ b ∈ r.stores, leafDs b.leaf = false) ∨ s.hasMarble core slot t = true) →
      Completes i s (fun s' => s' =
        (((s.modThread core slot (fun u => { u with region := none })).commitStores core r.stores).modCore core
          (·.advance slot x.len)).modThread core slot (fun u => { u with region := opened u.pc })) ∧
      (∀ b, r.stores = [b] → (s.rcd b.lid).rbk = false → 0x00FF000000000000 ≤ (b.va.extractLsb' 0 56).toNat →
        Completes i s (fun s' => OnlyCore core s s' ∧ OthersThinned slot (s.core core) (s'.core core) ∧
          StoreIs s s' core ((b.va.extractLsb' 0 56).toNat - 0x00FF000000000000) b.size b.data.toNat ∧
          ∃ t', s'.thread? core slot = some t' ∧ t' = { t.past x.len with park := none, region := next }))) ∧
    ((s.rcd t.lid).reg = false → Handled s t → Completes i s (fun s' => Trapped s s' core slot t 0x02 t.pc)) ∧
    (t.mode = .handler → ∀ l, s.launch? t.lid = some l → l.ended = none →
      Completes i s (fun s' => ∃ l', s'.launch? t.lid = some l' ∧ l'.ended = some (3, 0x02, t.block)))

/-- TKPASS in a deterministic launch passes the marble of its crew to the next crew order, where that crew does not stand at BSYNC;
elsewhere it does nothing (08 R196, R198, R199). LNCH publishes its core's stores, sends a request to the controller of its die and waits for
the answer (21 R424); a misaligned record traps with MISALIGNED (0x04), its address in s.faddr (DEDUCED, log 22). -/
def Obligations.MarbleAndLaunchRequest : Prop :=
  ∀ x s core slot t, Solo s core slot t → t.guard x.g = true → t.openRegion = none → NoFaults s core slot →
    ((s.rcd t.lid).det = false → Completes (.tkpass x) s (fun s' => Result s s' core slot (t.past x.len) [])) ∧
    (∀ l o, (s.rcd t.lid).det = true → s.hasMarble core slot t = true → s.launch? t.lid = some l → l.marble = some o →
      (∀ k ∈ (s.core core).loads, k.kind = .atom → k.slot / 64 ≠ slot / 64) → s.fabric = [] →
      (∀ e ∈ (s.core core).threads, e.1 / 64 = slot / 64 → e.2.lid = t.lid → ∀ r, e.2.openRegion = some r →
        ∀ b ∈ r.stores, leafDs b.leaf = false) →
      (∀ n, s.nextOrder t.lid o [] = some n → s.waitsAtBsync t.lid n = false) →
      Completes (.tkpass x) s (fun s' => Went s s' core slot t x.len ∧
        ∃ l', s'.launch? t.lid = some l' ∧ l'.marble = some ((s.nextOrder t.lid o []).getD o))) ∧
    (∀ p, (s.rcd t.lid).det = false → CleanShare s core t.lid → MappedAll (s.core core) slot (baseCodes x) →
      s.address core slot t x x.imm.toInt = .ok p → p.toNat % 256 = 0 →
      Completes (.lnch x) s (fun s' =>
        s'.waiting = s.waiting ++ [{ id := s.seq, die := core / 64, va := p, ctx := s.ctxOf t, from_ := .thread core slot }] ∧
        MemorySame s s' ∧ StoresSame s s' ∧ OnlyThread slot (s.core core) (s'.core core) ∧
        s'.thread? core slot = some { t with park := some (.lnch s.seq (x.d.extractLsb' 0 3) x.len) })) ∧
    (∀ p y i l, (s.rcd t.lid).det = false → (s.core core).lines.filter (fun l => l.lid == t.lid) = [y] → y.upd = none → i < 128 →
      y.dirty = 1#128 <<< i → s.locate (y.addr * 128 + i) = .ok l → Sealed s y.last.2.2.2.2 y.leaf (y.addr * 128 + i / 32 * 32) →
      MappedAll (s.core core) slot (baseCodes x) → s.address core slot t x x.imm.toInt = .ok p → p.toNat % 256 = 0 →
      Completes (.lnch x) s (fun s' => StoresSame s s' ∧ WrittenAt s s' y.last.2.2.2.2 (leafMac y.leaf) (y.addr * 128 + i) 1 (lineBytes y.data i 1) ∧
        ∃ n, s'.waiting = s.waiting ++ [{ id := n, die := core / 64, va := p, ctx := s.ctxOf t, from_ := .thread core slot }] ∧
          s'.thread? core slot = some { t with park := some (.lnch n (x.d.extractLsb' 0 3) x.len) })) ∧
    (∀ p, MappedAll (s.core core) slot (baseCodes x) → s.address core slot t x x.imm.toInt = .ok p → p.toNat % 256 ≠ 0 → Handled s t →
      Completes (.lnch x) s (fun s' => Trapped s s' core slot { t with faddr := p } 0x04 t.pc))

/-- BOINIT writes an object that expects its arrivals; BOARV arrives, and with SUB[0] adds bytes; BOTX adds bytes: the last of these to
come completes the phase. BOARV's result is the phase bit it found. BOWAIT waits while the phase bit equals its parity (08 R192, R193).
Stated for a thread with no open region; a thread that waits goes on when the phase completes. -/
def Obligations.BarrierObjectResult : Prop :=
  ∀ x s core slot t p, Solo s core slot t → t.guard x.g = true → t.openRegion = none → NoFaults s core slot →
    let w0 := (s.core core).store.get32 p
    let w1 := (s.core core).store.get32 (p + 4)
    (∀ a b, s.src32 core slot t x.lit x.a = .ok a → (a + x.imm).toNat % 16 = 0 → (a + x.imm).toNat < (s.rcd t.lid).spad →
      p = s.spbase core t + (a + x.imm).toNat → s.src32 core slot t x.lit x.b = .ok b → 1 ≤ b.toNat → b.toNat ≤ 65535 →
      (s.core core).awaited t.lid t.block (s.spbase core t) p = false →
      Completes (.boinit x) s (fun s' => OnlyCore core s s' ∧ StoreIs s s' core p 16 b.toNat ∧ WentBy s s' core slot t x.len)) ∧
    (∀ b, ObjectAt s core slot t x p → (x.sub.getLsbD 0 = true → s.src32 core slot t x.lit x.b = .ok b) →
      MappedAll (s.core core) slot [x.d] → Apart (s.core core) slot x.d p 8 → NoWaiter (s.core core) p →
      let n := pend w1 + (if x.sub.getLsbD 0 then b.toInt else 0)
      n < 2 ^ 27 → -(2 ^ 27 : Int) ≤ n → arr w0 + 1 ≤ due w0 →
      let ph : Word := if w1.getLsbD 31 then 1 else 0
      Completes (.boarv x) s (fun s' => OnlyCore core s s' ∧ OthersThinned slot (s.core core) (s'.core core) ∧
        (Own (s.core core) [(x.d, ph)] → OnlyThread slot (s.core core) (s'.core core)) ∧
        ObjectIs s s' core slot p (objectAfter (withArr w0 (arr w0 + 1)) (withPend w1 n)) x.d ph ∧
        ∃ t', s'.thread? core slot = some t' ∧ t' = { t.past x.len with park := none, taints := t'.taints })) ∧
    (∀ b, ObjectAt s core slot t x p → s.src32 core slot t x.lit x.b = .ok b → NoWaiter (s.core core) p →
      -(2 ^ 27 : Int) ≤ pend w1 + b.toInt → pend w1 + b.toInt < 2 ^ 27 →
      Completes (.botx x) s (fun s' => OnlyCore core s s' ∧ Went s s' core slot t x.len ∧
        ObjectIs s s' core slot p (objectAfter w0 (withPend w1 (pend w1 + b.toInt))) 0xF8 0)) ∧
    (∀ b o u len, ObjectAt s core slot t x p → s.src32 core slot t x.lit x.b = .ok b →
      (s.core core).threads = [(slot, t), (o, u)] → o ≠ slot → u.park = some (.bowait p (w1.getLsbD 31) len) →
      pend w1 + b.toInt = 0 → arr w0 = due w0 →
      Completes (.botx x) s (fun s' =>
        ∃ u', s'.thread? core o = some u' ∧ u' = { u.past len with park := none })) ∧
    (∀ b, ObjectAt s core slot t x p → s.src32 core slot t x.lit x.b = .ok b →
      (w1.getLsbD 31 ≠ b.getLsbD 0 → Completes (.bowait x) s (fun s' => Result s s' core slot (t.past x.len) [])) ∧
      (w1.getLsbD 31 = b.getLsbD 0 → Completes (.bowait x) s (fun s' => OnlyCore core s s' ∧
        OnlyThread slot (s.core core) (s'.core core) ∧
        s'.thread? core slot = some { t with park := some (.bowait p (b.getLsbD 0) x.len) })))

/-- FEGET takes the value of a full shared slot and empties it; FEPUT puts a value into an empty one and fills it; of those that wait for one the
first comes first. Each waits for the other's act while its partner lives, and traps with ILLEGAL_OPERAND (0x02) where none does; the act ends the
wait of the first that waits for it. A register that is not shared traps with ILLEGAL_OPERAND too (04 R107, R108). The value is written when the
instruction has issued, whatever its lookahead window (DESIGN CHOICE, log 87). Stated for a thread with no open region. -/
def Obligations.FullEmptyResult : Prop :=
  ∀ x s core slot t o, Solo s core slot t → t.guard x.g = true → t.openRegion = none → NoFaults s core slot →
    x.a.toNat < 0xE0 → x.d.toNat < 0xE0 → MappedAll (s.core core) slot [x.a, x.d] →
    let since := slotOrder t o s.time
    let feget (w : Word) : Prop := Completes (.feget x) s (fun s' => OnlyCore core s s' ∧
      (s'.core core).full = (s.core core).full.filter (· != o) ∧
      Wrote (s.core core) (s'.core core) slot [(x.d, w)] ∧ OthersThinned slot (s.core core) (s'.core core) ∧ HandedOver s s' core slot o false ∧
      ∃ t', s'.thread? core slot = some t' ∧ t' = { t.past x.len with park := none, taints := t'.taints })
    let feput (w : Word) : Prop := Completes (.feput x) s (fun s' => OnlyCore core s s' ∧
      (s'.core core).full = (s.core core).full ++ [o] ∧ Wrote (s.core core) (s'.core core) slot [(x.d, w)] ∧
      OthersThinned slot (s.core core) (s'.core core) ∧ HandedOver s s' core slot o true ∧
      ∃ t', s'.thread? core slot = some t' ∧ t' = { t.past x.len with park := none, taints := t'.taints })
    let waits (i : Instr) (full : Bool) : Prop := Completes i s (fun s' => OnlyCore core s s' ∧ OnlyThread slot (s.core core) (s'.core core) ∧
      s'.thread? core slot = some { t with park := some (.slot o full since) })
    ((s.core core).vOff slot x.a.toNat = some o → (s.core core).shared.contains (o / 2048) = true →
      (∀ w, s.src32 core slot t none x.a = .ok w → (s.core core).full.contains o = true → FirstAt (s.core core) o true since → feget w) ∧
      ((s.core core).full.contains o = false ∨ ¬FirstAt (s.core core) o true since →
        ((s.core core).hasPartner slot o = true → waits (.feget x) true) ∧
        ((s.core core).hasPartner slot o = false → Handled s t → Completes (.feget x) s (fun s' => Trapped s s' core slot t 0x02 t.pc)))) ∧
    (∀ w, (s.core core).vOff slot x.d.toNat = some o → (s.core core).shared.contains (o / 2048) = true →
      s.src32 core slot t none x.a = .ok w →
      ((s.core core).full.contains o = false → FirstAt (s.core core) o false since → feput w) ∧
      ((s.core core).full.contains o = true ∨ ¬FirstAt (s.core core) o false since →
        ((s.core core).hasPartner slot o = true → waits (.feput x) false) ∧
        ((s.core core).hasPartner slot o = false → Handled s t → Completes (.feput x) s (fun s' => Trapped s s' core slot t 0x02 t.pc)))) ∧
    ((s.core core).vOff slot x.a.toNat = some o → (s.core core).shared.contains (o / 2048) = false → Handled s t →
      Completes (.feget x) s (fun s' => Trapped s s' core slot t 0x02 t.pc)) ∧
    ((s.core core).vOff slot x.d.toNat = some o → (s.core core).shared.contains (o / 2048) = false → Handled s t →
      Completes (.feput x) s (fun s' => Trapped s s' core slot t 0x02 t.pc))

namespace Sys2Proof.Claims

/-- No other thread holds stores in a region, and no other block holds stores for its checkpoint, anywhere. -/
def NoneHolds (s : State) (core slot : Nat) (t : Thread) : Prop :=
  ∀ c ∈ s.cores, (∀ e ∈ c.2.threads, c.1 = core ∧ e.1 = slot ∨ (e.2.region.map (·.stores)).getD [] = []) ∧
    ∀ b ∈ c.2.blocks, b.lid = t.lid ∧ b.index = t.block ∨ b.deferred = []

/-- The n map entries of a crew that are mapped are its lowest ones (02 R56). -/
def MappedTo (c : Core) (crew n : Nat) : Prop :=
  n ≤ 28 ∧ ∃ y, c.crew? crew = some y ∧ ∀ i, i < 28 → ((y.rbm.toList[i]?).getD none).isSome = decide (i < n)

/-- The number of variables' bits in whole bytes. -/
def byteCount (n : Nat) : Nat := (n + 7) / 8

/-- Bit i of a bit vector in a core store. -/
def storeBit (c : Core) (p i : Nat) : Bool := (c.store.get (p + i / 8)).getLsbD (i % 8)

/-- A block of a thread that holds the spinner has the spinner state sp, and its thread has gone on; b is the block before (17 R322,
R331). -/
structure SpinIs (s s' : State) (core slot : Nat) (t : Thread) (len : Nat) (b : Block) (sp : Spin) : Prop where
  block : (s'.core core).block? t.lid t.block = some { b with spin := sp, used := b.used ||| 16#5 }
  blocks : ∀ l i, (l, i) ≠ (t.lid, t.block) → (s'.core core).block? l i = (s.core core).block? l i
  holder : (s'.core core).holder 4 = some (t.lid, t.block)
  went : WentBy s s' core slot t len
  device : OnlyCore core s s'

/-- A thread that can use the spinner at once: no region open, no fault of a load to be recorded, no sweep of its block pending, and the
spinner free or its block's. -/
def SpinFree (s : State) (core slot : Nat) (t : Thread) : Prop :=
  t.openRegion = none ∧ NoFaults s core slot ∧ t.park = none ∧ s.sweeps core t = [] ∧
    ((s.core core).holder 4 = none ∨ (s.core core).holder 4 = some (t.lid, t.block))

/-- The object of a spinner instruction: n bytes in the scratchpad at store offset p (17 R329). -/
structure SpinObject (s : State) (core slot : Nat) (t : Thread) (x : XOps) (p n : Nat) : Prop where
  mapped : MappedAll (s.core core) slot [x.a]
  read : ∃ a, s.src32 core slot t x.lit x.a = .ok a ∧ (a + x.imm).toNat % 16 = 0 ∧ (a + x.imm).toNat + n ≤ (s.rcd t.lid).spad ∧
    p = s.spbase core t + (a + x.imm).toNat

/-- The signal and wait objects of a task instruction (15 R304): offsets in the scratchpad, multiples of 16. -/
structure TaskObjects (s : State) (core slot : Nat) (t : Thread) (x : XOps) (sg wt : Option Nat) : Prop where
  signal : x.c = 0xF8 ∧ sg = none ∨
    x.c ≠ 0xF8 ∧ ∃ v, s.src32 core slot t x.lit x.c = .ok v ∧ v.toNat % 16 = 0 ∧ v.toNat < (s.rcd t.lid).spad ∧ sg = some v.toNat
  wait : wt = (if x.imm.extractLsb' 16 16 = 0 then none else some (16 * (x.imm.extractLsb' 16 16).toNat))
  waits : ∀ o, wt = some o → o < (s.rcd t.lid).spad ∧ (s.core core).badIn (s.spbase core t + o) 16 = none

/-- A task has been put into its core's table, and its thread has gone on (15 R303). -/
structure Queued (s s' : State) (core slot : Nat) (t : Thread) (x : XOps) (op : TaskOp) (signal wait : Option Nat) : Prop where
  task : ∃ k, (s'.core core).tasks = (s.core core).tasks ++ [k] ∧ k.op = op ∧ k.lid = t.lid ∧ k.block = t.block ∧ k.pc = t.pc ∧
    k.state = .waiting ∧ k.steps = 0 ∧ k.signal = signal ∧ k.wait.map (·.1) = wait
  went : Went s s' core slot t x.len
  stores : StoresSame s s'
  memory : MemorySame s s'

/-- The record cache of a core holds a record for a pointer of a thread's context, and the record is not malformed (15 R300, R302). -/
def Cached (s : State) (core : Nat) (t : Thread) (p : DWord) (r : Shape) : Prop :=
  ∃ w, (s.core core).records.find? (fun e => e.1 == s.ctxOf t && e.2.1 == p) = some (s.ctxOf t, p, w) ∧ shapeBad w = false ∧ r = shapeOf w

/-- The slot that a matrix instruction names. -/
def slotBit (x : XOps) : Nat := (x.sub.extractLsb' 0 1).toNat
/-- The accumulator set that it names. -/
def setBitOf (x : XOps) : Nat := (x.sub.extractLsb' 1 1).toNat

/-- The task that a matrix instruction with a record r issues, where its checks pass (14 R290, R296, 15 R308 to R312): d is the descriptor
that the tasks before it leave in its slot, bd the bound register that r names. -/
def macroTask (i : Instr) (r : Shape) (d : SlotDesc) (bd : Bound) : Option (XOps × TaskOp) :=
  match i with
  | .mbld x =>
    if (macroFloat r.fmt || isNq r.fmt) && r.whole && dimOf r.box 0 * elemBits r.fmt == 1536 && decide (dimOf r.box 1 ≤ 256) && r.flat then
      some (x, .mbld (slotBit x) r) else none
  | .mlut x =>
    let q := if x.imm.toNat % 16 = 0 then r.planes else x.imm.toNat % 16
    if isNq r.fmt && decide (q ≤ r.planes) && r.whole && r.rowsOk && decide (dimOf r.box 1 * dimOf r.box 0 ≤ 6144) then
      some (x, .mlut (slotBit x) q r) else none
  | .mma x =>
    match d, mmaPlanes x.imm.toNat r with
    | .tile fmt k _ blen _, some w =>
      if (macroFloat r.fmt && macroFloat fmt || isNq r.fmt && isNq fmt && r.blen == blen) && r.whole && dimOf r.box 0 == k && r.rowsOk then
        some (x, .mma (slotBit x) (setBitOf x) (x.sub.getLsbD 2) w r) else none
    | _, _ => none
  | .mlma x =>
    match d with
    | .table _ k blen _ =>
      let q := if x.imm.toNat % 16 = 0 then 2 else x.imm.toNat % 16
      if r.fmt == 1 && dimOf r.box 0 == k && r.blen == blen && decide (q ≤ 2) && decide (q ≤ r.planes) && decide (dimOf r.box 1 ≤ 256) then
        some (x, .mlma (slotBit x) (setBitOf x) (x.sub.getLsbD 2) q r) else none
    | _ => none
  | .mdrain x =>
    if r.fmt != 0 && decide (dimOf r.box 0 ≤ 256) && decide (dimOf r.box 1 ≤ 256) && r.flat && r.blocks then
      some (x, .mdrain (setBitOf x) (x.sub.getLsbD 2) r bd) else none
  | _ => none

/-- GATH and SCAT with the task they issue (15 R304, 21 R396, 22 R453). -/
def listTask (i : Instr) (d a b : DWord) : Option (XOps × TaskOp) :=
  match i with
  | .gath x => some (x, .gath d a b ((x.imm.extractLsb' 8 8).toNat + 1) ((x.imm.extractLsb' 0 8).toNat + 1))
  | .scat x => some (x, .scat d a b ((x.imm.extractLsb' 8 8).toNat + 1) ((x.imm.extractLsb' 0 8).toNat + 1))
  | _ => none

end Sys2Proof.Claims

/-- RBACQ leaves a crew that has enough register blocks as it is, maps fresh blocks that read 0 onto its next entries where they are free,
and else holds the crew; RBREL unmaps the entries from its count upward. A count out of range traps with ILLEGAL_OPERAND (0x02) (02 R56,
R57, 22 R442, R443). -/
def Obligations.RegisterBlockResult : Prop :=
  ∀ x s core slot t v m, Solo s core slot t → t.guard x.g = true → s.src32 core slot t x.lit x.a = .ok v →
    MappedTo (s.core core) (slot / 64) m →
    let n := (v + x.imm).toNat
    (1 ≤ n → n ≤ (s.rcd t.lid).rbmax → n ≤ m → Completes (.rbacq x) s (fun s' => Result s s' core slot (t.past x.len) [])) ∧
    (m < n → n ≤ (s.rcd t.lid).rbmax → n ≤ 28 → NoneHeld (s.core core) → (s.core core).regroups = [] →
      n - m ≤ s.ordinaryFree (s.core core) →
      Completes (.rbacq x) s (fun s' => Went s s' core slot t x.len ∧ MappedTo (s'.core core) (slot / 64) n ∧
        NoneHeld (s'.core core) ∧
        (∀ j, j < 8 * m → (s'.core core).vOff slot j = (s.core core).vOff slot j) ∧
        (∀ j, 8 * m ≤ j → j < 8 * n → (s'.core core).readV slot j = some 0))) ∧
    (∀ i y, m < n → n ≤ (s.rcd t.lid).rbmax → NoneHeld (s.core core) → (s.core core).crew? i = some y → i ≠ slot / 64 →
      s.ordinaryFree (s.core core) < n - m →
      Completes (.rbacq x) s (fun s' => Went s s' core slot t x.len ∧ StoresSame s s' ∧
        ∃ c c', (s.core core).crew? (slot / 64) = some c ∧ (s'.core core).crew? (slot / 64) = some c' ∧ c' = { c with held := c'.held } ∧
          ∃ k, c'.held = some (n, k))) ∧
    (n = 0 ∨ (s.rcd t.lid).rbmax < n → Handled s t → Completes (.rbacq x) s (fun s' => Trapped s s' core slot t 0x02 t.pc)) ∧
    ((s.rcd t.lid).rbinit ≤ n → n ≤ 28 → NoLoads (s.core core) (slot / 64) → NoneHeld (s.core core) →
      Completes (.rbrel x) s (fun s' => StoresSame s s' ∧ OnlyCore core s s' ∧ MappedTo (s'.core core) (slot / 64) (min n m) ∧
        (∀ j, (s'.core core).vOff slot j = if j < 8 * n then (s.core core).vOff slot j else none) ∧
        (∀ k, (s'.core core).readK (slot / 64) k = (s.core core).readK (slot / 64) k) ∧
        ∃ t', s'.thread? core slot = some t' ∧ t' = { t.past x.len with park := none })) ∧
    (n < (s.rcd t.lid).rbinit ∨ 28 < n → Handled s t → Completes (.rbrel x) s (fun s' => Trapped s s' core slot t 0x02 t.pc))

/-- SHMAP maps entries of a crew onto the blocks of a partner crew of its block, which thereby are shared (04 R105, R106, 22 R458). -/
def Obligations.SharedMapResult : Prop :=
  ∀ x s core slot t v i me other, Solo s core slot t → t.guard x.g = true → s.src32 core slot t x.lit x.a = .ok v →
    v.toNat < (s.rcd t.lid).size 1 → (s.core core).partnerCrew t.lid t.block v.toNat = some i → i ≠ slot / 64 →
    (s.core core).crew? (slot / 64) = some me → (s.core core).crew? i = some other →
    let e := (x.imm.extractLsb' 0 5).toNat
    let n := (x.imm.extractLsb' 5 5).toNat + 1
    (e + n ≤ 28 → (∀ k, k < n → (me.entry (e + k)).isSome ∧ (other.entry (e + k)).isSome) → NoLoads (s.core core) (slot / 64) →
      Completes (.shmap x) s (fun s' => OnlyCore core s s' ∧ StoresSame s s' ∧
        (∀ j, (s'.core core).vOff slot j =
          if 8 * e ≤ j ∧ j < 8 * (e + n) then (s.core core).vOff (i * 64 + slot % 64) j else (s.core core).vOff slot j) ∧
        (∀ k p, k < n → other.entry (e + k) = some p → me.entry (e + k) ≠ some p → (s'.core core).shared.contains p = true) ∧
        (∀ k c, (s'.core core).readK c k = (s.core core).readK c k) ∧
        ∃ t', s'.thread? core slot = some t' ∧ t' = { t.past x.len with park := none })) ∧
    (28 < e + n → Handled s t → Completes (.shmap x) s (fun s' => Trapped s s' core slot t 0x02 t.pc))

/-- RGRP waits until every thread of its set stands at it; then a regroup is set under way, in which a thread that is alone becomes lane 0
of the only new crew (12 R259 to R267). A register count that needs too many blocks traps with ILLEGAL_OPERAND (0x02). -/
def Obligations.RegroupResult : Prop :=
  ∀ x s core slot t w, Solo s core slot t → t.guard x.g = true → t.openRegion = none → t.mode = .user →
    (∀ l ∈ (s.core core).loads, l.slot ≠ slot) → (s.hasMarble core slot t = true → s.fabric = []) →
    s.src32 core slot t none x.a = .ok w → (s.core core).regroups = [] →
    let n := x.imm.toNat % 256
    let e := max ((n + 7) / 8) (s.rcd t.lid).rbinit
    (e ≤ (s.rcd t.lid).rbmax → x.d = 0xF8 ∨ x.d.toNat / 8 < e → (x.sub.getLsbD 0 = true → (s.rcd t.lid).det = false) →
      (∀ y, (s.core core).threads = [(slot, t)] → (s.core core).crew? (slot / 64) = some y → (∀ m ∈ y.j.toList, m.1 = 0) →
        (s.core core).shared = [] → (n + 7) / 8 ≤ y.entries → (∀ l, s.launch? t.lid = some l → l.marble = none) →
        (∀ b, (s.core core).block? t.lid t.block = some b → b.rolling = false) →
        Completes (.rgrp x) s (fun s' => OnlyCore core s s' ∧ StoresSame s s' ∧
          s'.thread? core slot = some { t with park := some (.rgrp (x.sub.getLsbD 0) n (w.extractLsb' 0 8) x.d x.len) } ∧
          ∃ g, (s'.core core).regroups = [g] ∧ g.lid = t.lid ∧ g.moves = [(slot, 0, 0)] ∧ g.n = n ∧ g.entries = e ∧ g.nonuniform = false)) ∧
      (∀ o u, (s.core core).threads = [(slot, t), (o, u)] → o ≠ slot → u.lid = t.lid → u.block = t.block → u.park = none →
        Completes (.rgrp x) s (fun s' => OnlyCore core s s' ∧ OnlyThread slot (s.core core) (s'.core core) ∧
          (s'.core core).regroups = [] ∧
          s'.thread? core slot = some { t with park := some (.rgrp (x.sub.getLsbD 0) n (w.extractLsb' 0 8) x.d x.len) }))) ∧
    ((s.rcd t.lid).rbmax < e → Handled s t → Completes (.rgrp x) s (fun s' => Trapped s s' core slot t 0x02 t.pc))

/-- GETS reads a system register, and with s.cyclelo latches the high half; SETS writes one, those of handler mode only there, and else
traps with PRIVILEGE (0x13) (04 R113, R115, 21 R402, 22 R456). BOUND and MCLS set a register of the thread's block; a bound that is NaN or
out of order traps with ILLEGAL_OPERAND (14 R294, 15 R313). -/
def Obligations.SystemRegisterResult : Prop :=
  ∀ x s core slot t, Solo s core slot t → t.guard x.g = true →
    let n := (x.imm.extractLsb' 0 12).toNat
    (∀ w, MappedAll (s.core core) slot [x.d] → sysValue s core slot t n = some w →
      Completes (.gets x) s (fun s' => Result s s' core slot
        (if n = 8 then { t.past x.len with cyclehi := (s.cycle core).extractLsb' 32 32 } else t.past x.len) [(x.d, w)])) ∧
    (∀ w u, s.src32 core slot t x.lit x.a = .ok w → (handlerOnly n → t.mode = .handler) → sysWritten (t.past x.len) n w = some u →
      Completes (.sets x) s (fun s' => Result s s' core slot u [])) ∧
    (∀ w, s.src32 core slot t x.lit x.a = .ok w → 0x30 ≤ n → n ≤ 0x33 →
      Completes (.sets x) s (fun s' => OnlyCore core s s' ∧ StoresSame s s' ∧ Went s s' core slot t x.len ∧
        let r := (s.core core).bpRegs (s.ctxOf t)
        (s'.core core).bpRegs (s.ctxOf t) =
          { count := if n = 0x30 then w else r.count, head := if n = 0x31 then w &&& 0x7FF else r.head
            base := if n = 0x32 then w else r.base, lost := if n = 0x33 then w else r.lost })) ∧
    (handlerOnly n → Handled s t → Completes (.sets x) s (fun s' => Trapped s s' core slot t 0x13 t.pc)) ∧
    (∀ b, (s.core core).block? t.lid t.block = some b →
      (∀ lo hi, MappedAll (s.core core) slot [x.a, x.b] → s.src32 core slot t x.lit x.a = .ok lo → s.src32 core slot t x.lit x.b = .ok hi →
        let ok := !fp32.isNan lo.toNat && !fp32.isNan hi.toNat && !fp32.lt hi.toNat lo.toNat
        (ok = true → Completes (.bound x) s (fun s' => OnlyCore core s s' ∧ StoresSame s s' ∧ Went s s' core slot t x.len ∧
          BlockIs (s.core core) (s'.core core) t.lid t.block
            { b with bounds := tset b.bounds (x.imm.extractLsb' 0 6).toNat { act := x.imm.extractLsb' 8 2, hi := hi, lo := lo } })) ∧
        (ok = false → Handled s t → Completes (.bound x) s (fun s' => Trapped s s' core slot t 0x02 t.pc))) ∧
      Completes (.mcls x) s (fun s' => OnlyCore core s s' ∧ StoresSame s s' ∧ Went s s' core slot t x.len ∧
        BlockIs (s.core core) (s'.core core) t.lid t.block { b with cls := x.imm.extractLsb' 0 2 }))

namespace Sys2Proof.Claims

/-- Bytes of one line, which a CCTL names by a pointer and a count: they lie on a plain page that is there, at line addr of memory (20 R382). -/
structure LineNamed (s : State) (ctx : Nat) (p : DWord) (n : Word) (addr : Nat) : Prop where
  some_ : 1 ≤ n.toNat
  line : p.toNat % 128 + n.toNat ≤ 128
  low : p.toNat < 0x00FD000000000000
  page : ∃ e, s.fresh? ctx (p.toNat / 128 * 128) 0 = .ok e ∧ leafMig e.leaf ≠ 1 ∧ leafTier e.leaf ≠ 2 ∧ leafRid e.leaf = 0 ∧ leafNq e.leaf = false ∧
    ∀ a, p.toNat / 128 * 128 ≤ a → a < p.toNat / 128 * 128 + 128 → (leafFrame e.leaf + (a - e.va)) / 128 = addr
  quiet : WalkQuiet s ctx (BitVec.ofNat 64 (p.toNat / 128 * 128))

/-- Every line of a core but one of a launch's is as before. -/
def OtherLines (s s' : State) (core lid addr : Nat) : Prop :=
  ∀ l a, (l, a) ≠ (lid, addr) → (s'.core core).line? l a = (s.core core).line? l a

end Sys2Proof.Claims

/-- CCTL writes back or drops lines of the launch's share, all of them or those that its bytes lie in; its operation 5 writes lines of the slices back to
memory and drops them, and needs handler mode, else it traps with PRIVILEGE (0x13) (20 R381 to R383). ICINV empties the instruction caches of a scope
(10 R254), TLBINV drops translations of the whole package, in handler mode (10 R232), and SRINV shape records of a context (15 R302). TLBINV goes on
although its own thread's region or block holds stores, and CCTL does not wait for those that a block holds for its checkpoint (DEDUCED, log 53). -/
def Obligations.CacheControlResult : Prop :=
  ∀ x s core slot t, Solo s core slot t → t.guard x.g = true →
    let op := (x.sub.extractLsb' 0 3).toNat
    (∀ p, op ≠ 3 → op ≠ 4 → (op = 5 → t.mode = .handler) → op ≤ 5 → MappedAll (s.core core) slot (baseCodes x ++ [x.b]) →
      s.address core slot t x x.imm.toInt = .ok p → s.src32 core slot t x.lit x.b = .ok 0 →
      Completes (.cctl x) s (fun s' => Result s s' core slot (t.past x.len) [])) ∧
    (∀ p n addr, op ≠ 3 → op ≠ 4 → (op = 5 → t.mode = .handler) → op ≤ 5 → MappedAll (s.core core) slot (baseCodes x ++ [x.b]) →
      s.address core slot t x x.imm.toInt = .ok p → s.src32 core slot t x.lit x.b = .ok n → LineNamed s (s.ctxOf t) p n addr →
      (∀ y i l, op = 0 ∨ op = 2 → (s.core core).lines.filter (fun l => l.lid == t.lid && l.addr == addr) = [y] → y.upd = none → i < 128 →
        y.dirty = 1#128 <<< i → s.locate (addr * 128 + i) = .ok l → Sealed s y.last.2.2.2.2 y.leaf (addr * 128 + i / 32 * 32) →
        Completes (.cctl x) s (fun s' => Went s s' core slot t x.len ∧ StoresSame s s' ∧ OtherLines s s' core t.lid addr ∧
          WrittenAt s s' y.last.2.2.2.2 (leafMac y.leaf) (addr * 128 + i) 1 (lineBytes y.data i 1) ∧
          (op = 0 → ∃ z, (s'.core core).line? t.lid addr = some z ∧ z.dirty = 0 ∧ z.data = y.data) ∧
          (op = 2 → (s'.core core).line? t.lid addr = none))) ∧
      (∀ y, op = 1 → (s.core core).lines.filter (fun l => l.lid == t.lid && l.addr == addr) = [y] →
        Completes (.cctl x) s (fun s' => Went s s' core slot t x.len ∧ StoresSame s s' ∧ MemorySame s s' ∧ OtherLines s s' core t.lid addr ∧
          (s'.core core).line? t.lid addr = if y.dirty = 0 ∧ y.upd = none then none else some y)) ∧
      (∀ k, op = 5 → s.locate (addr * 128) = .ok k → k.cxl = false → (∀ l ∈ s.l2, l.addr = addr → l.pins = []) →
        (∀ c ∈ s.cores, ∀ l ∈ c.2.lines, l.addr = addr → l.upd = none) →
        Completes (.cctl x) s (fun s' => Went s s' core slot t x.len ∧ StoresSame s s' ∧ MemorySame s s' ∧ ∀ l ∈ s'.l2, l.addr ≠ addr))) ∧
    (∀ y i l, op = 3 → (s.core core).lines.filter (fun l => l.lid == t.lid) = [y] → y.upd = none → i < 128 → y.dirty = 1#128 <<< i →
      s.locate (y.addr * 128 + i) = .ok l → Sealed s y.last.2.2.2.2 y.leaf (y.addr * 128 + i / 32 * 32) →
      Completes (.cctl x) s (fun s' => Went s s' core slot t x.len ∧
        WrittenAt s s' y.last.2.2.2.2 (leafMac y.leaf) (y.addr * 128 + i) 1 (lineBytes y.data i 1))) ∧
    (op = 4 → Completes (.cctl x) s (fun s' => OnlyCore core s s' ∧ StoresSame s s' ∧ Went s s' core slot t x.len ∧
      (s'.core core).lines = (s.core core).lines.filter (fun l => l.lid != t.lid || l.dirty != 0 || l.upd.isSome))) ∧
    (op = 5 → Handled s t → Completes (.cctl x) s (fun s' => Trapped s s' core slot t 0x13 t.pc)) ∧
    Completes (.icinv x) s (fun s' => MemorySame s s' ∧ Went s s' core slot t x.len ∧
      ∀ y, DropIs (s.core y) (s'.core y) t.lid (if sameDomain (x.imm.extractLsb' 0 3).toNat core y then 0x40 else 0)) ∧
    (t.mode = .handler → s.fabric = [] → NoneHolds s core slot t →
      (2 ≤ (x.sub.extractLsb' 0 2).toNat → (s.ctxctl (s.ctxOf t)).getLsbD 2 = true →
        Completes (.tlbinv x) s (fun s' => MemorySame s s' ∧ StoresSame s s' ∧ Went s s' core slot t x.len ∧
          ∀ y, (s'.core y).tlb = [] ∧ (s'.core y).walkAhead = [])) ∧
      (∀ c, x.sub.extractLsb' 0 2 = 1 → s.src32 core slot t none x.a = .ok c → c.toNat ≤ 63 →
        ((s.ctxctl (s.ctxOf t)).getLsbD 2 = true ∨ c.toNat = s.ctxOf t) →
        Completes (.tlbinv x) s (fun s' => MemorySame s s' ∧ StoresSame s s' ∧ Went s s' core slot t x.len ∧
          ∀ y, (s'.core y).tlb = (s.core y).tlb.filter (fun e => e.ctx != c.toNat) ∧
            (s'.core y).walkAhead = (s.core y).walkAhead.filter (fun e => e.ctx != c.toNat))) ∧
      (∀ p c, x.sub.extractLsb' 0 2 = 0 → MappedAll (s.core core) slot (pairOf x.a ++ [x.b]) → s.src64 core slot t none x.a = .ok p →
        s.src32 core slot t none x.b = .ok c → c.toNat ≤ 63 → ((s.ctxctl (s.ctxOf t)).getLsbD 2 = true ∨ c.toNat = s.ctxOf t) →
        let kept (e : Tlb) : Bool := !(e.ctx == c.toNat && decide (e.va ≤ p.toNat % 2 ^ 56) && decide (p.toNat % 2 ^ 56 < e.va + e.size))
        Completes (.tlbinv x) s (fun s' => MemorySame s s' ∧ StoresSame s s' ∧ Went s s' core slot t x.len ∧
          ∀ y, (s'.core y).tlb = (s.core y).tlb.filter kept ∧ (s'.core y).walkAhead = (s.core y).walkAhead.filter kept))) ∧
    (Handled s t → Completes (.tlbinv x) s (fun s' => Trapped s s' core slot t 0x13 t.pc)) ∧
    (x.a = 0xF8 → Completes (.srinv x) s (fun s' => OnlyCore core s s' ∧ StoresSame s s' ∧ Went s s' core slot t x.len ∧
      (s'.core core).records = (s.core core).records.filter (fun e => e.1 != s.ctxOf t))) ∧
    (∀ p, x.a ≠ 0xF8 → s.src64 core slot t x.lit x.a = .ok p →
      Completes (.srinv x) s (fun s' => OnlyCore core s s' ∧ StoresSame s s' ∧ Went s s' core slot t x.len ∧
        (s'.core core).records = (s.core core).records.filter (fun e =>
          !(e.1 == s.ctxOf t && e.2.1.extractLsb' 0 56 == p.extractLsb' 0 56))))

/-- The spinner's instructions: GBSTAT and GBSEED set its switches and its source, GBSET and GBCLAMP load its variables and clamps from the
scratchpad, GBREAD stores its variables or counters there, GBCFG loads a configuration (17 R321 to R330). A physical source traps with
ILLEGAL_OPERAND (0x02) in a deterministic launch. -/
def Obligations.SpinnerResult : Prop :=
  ∀ x s core slot t b, Solo s core slot t → t.guard x.g = true → SpinFree s core slot t → (s.core core).block? t.lid t.block = some b →
    Completes (.gbstat x) s (fun s' => StoresSame s s' ∧ Went s s' core slot t x.len ∧ SpinIs s s' core slot t x.len b
      { b.spin with cnt := if x.sub.getLsbD 0 then [] else b.spin.cnt, ste := x.sub.getLsbD 1 }) ∧
    (x.sub = 0 → (s.rcd t.lid).det = false → Completes (.gbseed x) s (fun s' => StoresSame s s' ∧ Went s s' core slot t x.len ∧
      SpinIs s s' core slot t x.len b { b.spin with src := .phys, swc := 0 })) ∧
    (x.sub = 0 → (s.rcd t.lid).det = true → Handled s t → Completes (.gbseed x) s (fun s' => Trapped s s' core slot t 0x02 t.pc)) ∧
    (∀ v, x.sub = 1 → MappedAll (s.core core) slot (pairOf x.a) → s.src64 core slot t x.lit x.a = .ok v →
      Completes (.gbseed x) s (fun s' => StoresSame s s' ∧ Went s s' core slot t x.len ∧
        SpinIs s s' core slot t x.len b { b.spin with src := .ctr v, swc := 0 })) ∧
    (∀ v, x.sub = 2 → MappedAll (s.core core) slot [x.a] → s.src32 core slot t x.lit x.a = .ok v →
      Completes (.gbseed x) s (fun s' => StoresSame s s' ∧ Went s s' core slot t x.len ∧
        SpinIs s s' core slot t x.len b { b.spin with src := .fix (v.extractLsb' 0 16), swc := 0 })) ∧
    (∀ cfg p, b.spin.cfg = some cfg →
      (SpinObject s core slot t x p (byteCount cfg.n) → (s.core core).badIn p (byteCount cfg.n) = none →
        Completes (.gbset x) s (fun s' => StoresSame s s' ∧ Went s s' core slot t x.len ∧
          ∃ sp, SpinIs s s' core slot t x.len b sp ∧ sp = { b.spin with x := sp.x, lost := none } ∧
          ∀ i, i < 4096 → sp.x.getLsbD i =
            if i < cfg.n ∧ b.spin.clm.getLsbD i = false then storeBit (s.core core) p i else b.spin.x.getLsbD i)) ∧
      (SpinObject s core slot t x p (512 + byteCount cfg.n) → (s.core core).badIn p (byteCount cfg.n) = none →
        (s.core core).badIn (p + 512) (byteCount cfg.n) = none →
        Completes (.gbclamp x) s (fun s' => StoresSame s s' ∧ Went s s' core slot t x.len ∧ ∃ sp, SpinIs s s' core slot t x.len b sp ∧
          sp = { b.spin with x := sp.x, clm := sp.clm, clv := sp.clv } ∧
          ∀ i, i < 4096 → sp.clm.getLsbD i = (decide (i < 8 * byteCount cfg.n) && storeBit (s.core core) p i) ∧
            sp.clv.getLsbD i = (decide (i < 8 * byteCount cfg.n) && storeBit (s.core core) (p + 512) i) ∧
            sp.x.getLsbD i = if sp.clm.getLsbD i ∧ i < cfg.n then sp.clv.getLsbD i else b.spin.x.getLsbD i)) ∧
      (x.sub.getLsbD 0 = false → b.spin.lost = none → SpinObject s core slot t x p (byteCount cfg.n) →
        Completes (.gbread x) s (fun s' => StoreIs s s' core p (byteCount cfg.n) (b.spin.x.toNat % 2 ^ cfg.n) ∧
          SpinIs s s' core slot t x.len b b.spin)) ∧
      (x.sub.getLsbD 0 = true → b.spin.lost = none → SpinObject s core slot t x p (2 * cfg.n) →
        Completes (.gbread x) s (fun s' => SpinIs s s' core slot t x.len b b.spin ∧
          (∀ i, i < cfg.n → (s'.core core).store.get (p + 2 * i) = ((tget b.spin.cnt i).getD 0).extractLsb' 0 8 ∧
            (s'.core core).store.get (p + 2 * i + 1) = ((tget b.spin.cnt i).getD 0).extractLsb' 8 8) ∧
          ∀ m a, (m ≠ core ∨ a < p ∨ p + 2 * cfg.n ≤ a) → (s'.core m).store.get a = (s.core m).store.get a))) ∧
    (∀ p s1 v r s2 cm s3 bi s4 tl b4, MappedAll (s.core core) slot (pairOf x.a) → s.src64 core slot t x.lit x.a = .ok p → p.toNat % 64 = 0 →
      s.krPieces core t p 1 = .ok s1 v → cfgRec v = some r → r.bias.toNat % 2 = 0 → r.tlist.toNat % 16 = 0 →
      State.gbBytes core t r.cmap r.n s1 = .ok s2 cm → State.gbBytes core t r.bias (2 * r.n) s2 = .ok s3 bi →
      State.gbBytes core t r.tlist (16 * r.ntile) s3 = .ok s4 tl → (∀ c ∈ cm, c < r.c) →
      (∀ e ∈ (chunks 16 tl).map (tileEntry r), e.2 = false ∧ e.1.1.toNat % 64 = 0) →
      (s4.core core).block? t.lid t.block = some b4 → s4.thread? core slot = some t →
      Completes (.gbcfg x) s (fun s' => ∃ b' cfg, (s'.core core).block? t.lid t.block = some b' ∧ b'.spin.cfg = some cfg ∧
        cfg.n = r.n ∧ cfg.c = r.c ∧ cfg.wsh = r.wsh ∧ cfg.cmap = cm ∧ b'.spin.cnt = [] ∧ b'.spin.ste = false ∧
        b'.spin.x = (if r.keepst then b4.spin.x &&& BitVec.ofNat 4096 (2 ^ r.n - 1) else 0) ∧
        b'.spin.clm = (if r.keepcl then b4.spin.clm else 0) ∧ b'.spin.clv = (if r.keepcl then b4.spin.clv else 0) ∧
        b'.spin.src = b4.spin.src ∧ b'.spin.swc = b4.spin.swc ∧
        ∃ t', s'.thread? core slot = some t' ∧ t' = { t.past x.len with park := none }))

/-- A task instruction whose checks pass puts its task into the table of its core, with the operands it names, and goes on (15 R303, R304).
Stated for shape records that the record cache holds, a thread with no open region, and a table that is not full. -/
def Obligations.TaskIssueResult : Prop :=
  ∀ s core slot t, Solo s core slot t → t.openRegion = none → NoFaults s core slot → t.park = none → (s.core core).tasks.length < 64 →
    (∀ i x op d a b sg wt, listTask i d a b = some (x, op) → t.guard x.g = true →
      MappedAll (s.core core) slot (pairOf x.d ++ pairOf x.a ++ pairOf x.b ++ [x.c]) →
      s.src64 core slot t x.lit x.d = .ok d → s.src64 core slot t x.lit x.a = .ok a → s.src64 core slot t x.lit x.b = .ok b →
      b.toNat % 4 = 0 → TaskObjects s core slot t x sg wt →
      Completes i s (fun s' => Queued s s' core slot t x op sg wt)) ∧
    (∀ i x op p r sg wt, Cached s core t p r →
      macroTask i r (s.issuedDesc core t (slotBit x))
        ((((s.core core).block? t.lid t.block).bind (fun b => tget b.bounds r.bidx)).getD { act := 0, hi := 0x7F800000, lo := 0xFF800000 })
        = some (x, op) → t.guard x.g = true →
      MappedAll (s.core core) slot (pairOf x.a ++ [x.c]) → s.src64 core slot t x.lit x.a = .ok p → p.toNat % 64 = 0 →
      TaskObjects s core slot t x sg wt → Completes i s (fun s' => Queued s s' core slot t x op sg wt)) ∧
    (∀ x p q d src sg wt, t.guard x.g = true → Cached s core t p d → Cached s core t q src → x.b = 0xF8 →
      MappedAll (s.core core) slot (pairOf x.d ++ pairOf x.a ++ [x.c]) → s.src64 core slot t x.lit x.d = .ok p →
      s.src64 core slot t x.lit x.a = .ok q → p.toNat % 64 = 0 → q.toNat % 64 = 0 → TaskObjects s core slot t x sg wt →
      d.fmt = src.fmt → d.box = src.box → d.blocks = true → src.blocks = true → (x.imm.extractLsb' 0 16 = 0 ∨ d.scpad = true) →
      Completes (.cpy x) s (fun s' => Queued s s' core slot t x (.cpy src d p none (x.imm.extractLsb' 0 16)) sg wt)) ∧
    (∀ x beta sg wt b, t.guard x.g = true → (s.core core).block? t.lid t.block = some b → b.spin.cfg ≠ none →
      MappedAll (s.core core) slot [x.a, x.c] → s.src32 core slot t x.lit x.a = .ok beta → beta.extractLsb' 23 8 ≠ 255 →
      TaskObjects s core slot t x sg wt →
      Completes (.gbsweep x) s (fun s' =>
        Queued s s' core slot t x (.gbsweep (slotBit x) ((x.imm.extractLsb' 0 16).toNat + 1) beta) sg wt))

namespace Sys2Proof.Claims

/-- A load of a core under its number, its thread and its visible time register. -/
structure LoadAt (s : State) (core id : Nat) (l : Load) (t : Thread) (n : BitVec 3) : Prop where
  load : (s.core core).load? id = some l
  treg : l.treg = some n
  thread : s.thread? core l.slot = some t

/-- A thread in which time register n has become w, and of which nothing else changed but its marks of aborted loads and its fault registers. -/
def TimeIs (t t' : Thread) (n : BitVec 3) (w : Word) : Prop :=
  t' = { t with tregs := t'.tregs, taints := t'.taints, fstat := t'.fstat, faddr := t'.faddr } ∧
    ∀ m, t'.treg m = if m = n then w else t.treg m

/-- A happening at a load: its thread's time register becomes w, the other threads of the core are as before. -/
def TimeMoves (s s' : State) (core : Nat) (l : Load) (t : Thread) (n : BitVec 3) (w : Word) : Prop :=
  (∃ t', s'.thread? core l.slot = some t' ∧ TimeIs t t' n w) ∧ OnlyThread l.slot (s.core core) (s'.core core)

/-- The cycle by which a broken promise is estimated again: the given one where it lies ahead, else the earlier one + 256 (05 R128). -/
def newEstimate (now old : BitVec 29) (e : Option (BitVec 29)) (c : BitVec 29) : Prop :=
  match e with
  | none => c = old + 256
  | some x => c = if 0 < (now - x).toInt then old + 256 else x

/-- The booking that an estimate follows: the one that an event brings, or the one that the load had (05 R128, R137). -/
def newest (e b : Option (BitVec 29)) : Option (BitVec 29) :=
  match e with
  | some x => some x
  | none => b

/-- Whether cycle a lies after cycle b (05 R124). -/
def After (a b : BitVec 29) : Prop := 0 < (a - b).toInt

/-- Whether a time register is late by a cycle: BROKEN, or PROMISED for a cycle that is over (05 R125). -/
def Overdue (now : BitVec 29) (w : Word) : Prop :=
  w.extractLsb' 29 3 = 4 ∨ w.extractLsb' 29 3 = 2 ∧ After now (w.extractLsb' 0 29)

/-- What a promise of cycle c for a load needs (05 R118, R119, R121, R122, 21 R418): the load is not ending, and the cycle is the one that its core
promises itself, from issue + 2 on; or it has not gone by, and the slice has pinned the load's line, or another core's ring stop has booked its return. -/
def MayPromise (s : State) (core : Nat) (l : Load) (c : BitVec 29) : Prop :=
  l.ending = none ∧ l.source ≠ 4 ∧
    match l.own with
    | some o => o = c ∧ ¬After (l.issued + 2) (s.now29 core)
    | none => ¬After (s.now29 core) c ∧ (l.source ≠ 3 ∨ s.pinned core l.id = true) ∧ (l.source < 8 ∨ l.slots ≠ [])

/-- No report of a load is being written behind a window (05 R134, R135). -/
def NotReporting (s : State) (core id : Nat) : Prop := ∀ f ∈ s.fabric, ∀ o lid b w, f.for_ ≠ .report core o lid b id w

/-- A count of broken promises, one higher, saturating (05 R132). -/
def onceMore (m : Word) : Word := if m = 0xFFFFFFFF then m else m + 1

/-- No thread of a core stands in two slots. -/
def SlotsApart (c : Core) : Prop := (c.threads.map (·.1)).Nodup

/-- The cause of delay of a load becomes the lower one of a code and what it was (05 R129, R130). -/
def CauseIs (s s' : State) (r : LoadRef) (code : Nat) : Prop :=
  ∀ l, (s.core r.core).load? r.load = some l →
    (s'.core r.core).load? r.load = some { l with cause := some (min code (l.cause.getD code)) }

/-- An error interrupt tells the management controller of a unit (10 R248, 19 R348). -/
def Raised (s' : State) (what unit : Nat) : Prop :=
  .management what ((List.range 8).map (fun i => BitVec.ofNat 8 (unit / 256 ^ i))) ∈ s'.outbox

/-- ISLOP of an island (19 R356): requested point in [3:0], point in force in [19:16], a change in progress in [31]. -/
def islop (s : State) (island : Nat) : Word := s.cw4 (island / 32) (0x72000 + island % 32 * 8)

/-- Everything but an island is as before. -/
def OnlyIsland (island : Nat) (s s' : State) : Prop := s' = { s with islands := s'.islands } ∧ ∀ n, n ≠ island → s'.island n = s.island n

end Sys2Proof.Claims

/-- The stages of a promised load: a promise makes the registers of every load that its request serves PROMISED; the data's arrival writes its
register and makes the time register ARRIVED, or LATE where the promise is broken; a fault makes it FAULT; a promise that ends without data makes
it BROKEN and is counted in s.bpcount; its estimate is renewed; an abort makes it ABORT, after BROKEN where the cycle is over (05 R116, R121, R125,
R128, R132). A load that its core promises itself is promised for no other cycle (05 R118, R122). While an island's clock stands, data are held and
no register changes (05 R136). The slice pins the line of a request for the loads that it serves, or lets it wait (05 R119, 09 R203); another core's
ring stop books the return of a load from its store (21 R418); delays are noted with their causes, and a link goes down at the sixteenth failed
replay in a row (05 R129, 19 R342; DEDUCED, log 92); timed wakes end their waits (05 R142, R143). DRAM_BOOKING and SLICE_REQUEST_RETURN change nothing
(DESIGN CHOICE, log 70). -/
def Obligations.PromiseStages : Prop :=
  (∀ s core id l c, (s.core core).load? id = some l →
    ((s.island (core / 2)).running = true → Completes (.promiseDelivered core id c) s (fun s' => OnlyCore core s s' ∧ StoresSame s s' ∧
      (∀ k u m, k ∈ (s.core core).loads → l.shares k = true → k.treg = some m → s.thread? core k.slot = some u →
        (u.treg m).extractLsb' 29 3 = 1 → MayPromise s core k c → ∃ u', s'.thread? core k.slot = some u' ∧ u'.treg m = 2#3 ++ c) ∧
      (∀ t n, LoadAt s core id l t n → (t.treg n).extractLsb' 29 3 = 1 → MayPromise s core l c →
        (∀ k ∈ (s.core core).loads, l.shares k = true → k = l) →
        TimeMoves s s' core l t n (2#3 ++ c) ∧ (s'.core core).load? id = some { l with promised := some c }))) ∧
    ((s.island (core / 2)).running = false ∨ (∀ k ∈ (s.core core).loads, l.shares k = true → ¬MayPromise s core k c) →
      Completes (.promiseDelivered core id c) s (fun s' => s' = s))) ∧
  (∀ s core id l t n d, LoadAt s core id l t n → l.fault = none → l.data = some d → l.ending = none → NotReporting s core l.id →
    s.waitsAtSlice l = false →
    ((s.island (core / 2)).running = false → Completes (.loadArrival core id) s (fun s' => OnlyCore core s s' ∧ StoresSame s s' ∧
      OnlyThread l.slot (s.core core) (s'.core core) ∧ s'.thread? core l.slot = some t ∧
      (s'.core core).load? id = some { l with heldData := true })) ∧
    (∀ r k a, (s.island (core / 2)).running = true → l.dests = [(r, k)] → r.toNat < 0xE0 → (s.core core).vOff l.slot r.toNat = some a →
      (Overdue (s.now29 core) (t.treg n) → ((s.core core).bpRegs (s.ctxOf t)).base = 0) →
      Completes (.loadArrival core id) s (fun s' => MemorySame s s' ∧ (s'.core core).load? id = none ∧
        (s'.core core).readV l.slot r.toNat = some (d.extractLsb' (32 * k) 32) ∧
        (∀ b, b < a ∨ a + 4 ≤ b → (s'.core core).store.get b = (s.core core).store.get b) ∧
        OthersThinned l.slot (s.core core) (s'.core core) ∧
        ((s.core core).shared = [] → OnlyThread l.slot (s.core core) (s'.core core)) ∧
        ∃ t' w, s'.thread? core l.slot = some t' ∧ TimeIs t t' n w ∧
          (Overdue (s.now29 core) (t.treg n) → w = 5#3 ++ s.now29 core) ∧ (¬Overdue (s.now29 core) (t.treg n) → w = 3#3 ++ s.now29 core)))) ∧
  (∀ s core id l t n f, LoadAt s core id l t n → l.fault = some f → l.ending = none → NotReporting s core l.id →
    (s.island (core / 2)).running = true → (t.treg n).extractLsb' 29 3 ≠ 4 →
    Completes (.loadArrival core id) s (fun s' => StoresSame s s' ∧ (s'.core core).load? id = none ∧
      TimeMoves s s' core l t n (6#3 ++ s.now29 core))) ∧
  (∀ s core id l t n e, LoadAt s core id l t n → l.ending = none → After (s.now29 core) ((t.treg n).extractLsb' 0 29) →
    ((s.island (core / 2)).running = false →
      Completes (.promiseBroken core id e) s (fun s' => s' = s) ∧ Completes (.brokenReestimate core id e) s (fun s' => s' = s)) ∧
    ((s.island (core / 2)).running = true → (t.treg n).extractLsb' 29 3 = 2 →
      Completes (.promiseBroken core id e) s (fun s' => s' = { s with cores := s'.cores, tally := s'.tally } ∧
        (∀ k, k ≠ core → s'.core k = s.core k) ∧ StoresSame s s' ∧
        (∃ c, newEstimate (s.now29 core) ((t.treg n).extractLsb' 0 29) (newest e l.booked) c ∧ TimeMoves s s' core l t n (4#3 ++ c)) ∧
        ((s'.core core).bpRegs (s.ctxOf t)).count = onceMore ((s.core core).bpRegs (s.ctxOf t)).count ∧
        s'.tally = s.tally ++ [.broken (core / 64) (min (l.cause.getD 10) (if s.migrated core l then 6 else 10)) 1])) ∧
    ((s.island (core / 2)).running = true → (t.treg n).extractLsb' 29 3 = 4 →
      Completes (.brokenReestimate core id e) s (fun s' => OnlyCore core s s' ∧ StoresSame s s' ∧
        (∃ c, newEstimate (s.now29 core) ((t.treg n).extractLsb' 0 29) (newest e l.booked) c ∧ TimeMoves s s' core l t n (4#3 ++ c)) ∧
        ((s'.core core).bpRegs (s.ctxOf t)).count = ((s.core core).bpRegs (s.ctxOf t)).count))) ∧
  (∀ s core id l t n k, LoadAt s core id l t n → l.ending = none → NotReporting s core l.id → (s.island (core / 2)).running = true →
    (Overdue (s.now29 core) (t.treg n) → ((s.core core).bpRegs (s.ctxOf t)).base = 0) →
    Completes (.abortCompletion core id k) s (fun s' => StoresSame s s' ∧ (s'.core core).load? id = none ∧
      TimeMoves s s' core l t n (7#3 ++ s.now29 core) ∧ (k = .uncorrectable → Raised s' 0 core) ∧
      ((t.treg n).extractLsb' 29 3 = 2 → After (s.now29 core) ((t.treg n).extractLsb' 0 29) →
        ((s'.core core).bpRegs (s.ctxOf t)).count = onceMore ((s.core core).bpRegs (s.ctxOf t)).count))) ∧
  (∀ s core id l k pa size loc, (s.core core).load? id = some l → l.source = 3 → l.req = some (k, pa, size) → s.locate pa = .ok loc →
    (s.sliceFull pa = true ∨ s.pinned core l.id = true → Completes (.l2PromiseRequest core id) s (fun s' => s' = s)) ∧
    (∀ s1 slots, s.sliceFull pa = false → s.pinned core l.id = false →
      s.bookReturn (loc.slice / 16) (loc.slice % 16 * 2 + 1) core = (s1, some slots) →
      (∀ x ∈ s.l2, x.slice ≠ loc.slice) →
      Completes (.l2PromiseRequest core id) s (fun s' => s' = { s with l2 := s'.l2, cores := s'.cores, free := s'.free } ∧
        (∀ m, m ≠ core → s'.core m = s.core m) ∧
        s'.core core = { s.core core with
          loads := (s.core core).loads.map (fun x => if l.shares x then { x with slots := slots } else x) } ∧
        ∃ x, s'.l2 = x :: s.l2 ∧ x.slice = loc.slice ∧ x.addr = pa / 128 ∧ x.dirty = 0 ∧
          x.pins = ((s.core core).loads.filter l.shares).map (fun y => ({ core := core, load := y.id } : LoadRef)) ∧
          x.cls = (if l.hint = 2 then 3 else leafRet l.leaf) ∧ x.stream = (l.hint == 1) ∧
          (0 < size → x.valid.getLsbD (pa % 128 / 32) = true)))) ∧
  (∀ s core id l, (s.core core).load? id = some l → 8 ≤ l.source →
    (l.slots ≠ [] → Completes (.l2PromiseRequest core id) s (fun s' => s' = s)) ∧
    (∀ s1 slots, l.slots = [] → s.bookReturn ((l.source - 8) / 16) ((l.source - 8) % 16 * 2) core = (s1, some slots) →
      Completes (.l2PromiseRequest core id) s (fun s' => s' = { s with cores := s'.cores, free := s'.free } ∧
        (∀ m, m ≠ core → s'.core m = s.core m) ∧
        s'.core core = { s.core core with
          loads := (s.core core).loads.map (fun x => if l.shares x then { x with slots := slots } else x) }))) ∧
  (∀ s core id, Completes (.dramBooking core id) s (fun s' => s' = s) ∧ Completes (.sliceRequestReturn core id) s (fun s' => s' = s)) ∧
  (∀ s port r,
    (s.failedInRow port < 16 → Completes (.linkReplay port [r]) s (fun s' => s' = { s with cores := s'.cores, replays := s'.replays } ∧
      (∀ m, m ≠ r.core → s'.core m = s.core m) ∧ StoresSame s s' ∧ CauseIs s s' r 4 ∧ s'.failedInRow port = s.failedInRow port + 1)) ∧
    (16 ≤ s.failedInRow port → port < 18 → Completes (.linkReplay port [r]) s (fun s' => StoresSame s s' ∧ CauseIs s s' r 4 ∧
      s'.portUp port = false)) ∧
    Completes (.refreshPulledIn [r]) s (fun s' => OnlyCore r.core s s' ∧ StoresSame s s' ∧ CauseIs s s' r 2)) ∧
  (∀ s core slot t n k len, SlotsApart (s.core core) → s.thread? core slot = some t → t.park = some (.tyield n k false len) →
    ((t.treg n).extractLsb' 29 3 = 2 ∨ (t.treg n).extractLsb' 29 3 = 4 →
      ¬After ((t.treg n).extractLsb' 0 29 + BitVec.ofInt 29 k.toInt) (s.now29 core)) →
    Completes (.timedWake core) s (fun s' => OnlyCore core s s' ∧ StoresSame s s' ∧
      (∃ t', s'.thread? core slot = some t' ∧ t' = { t.past len with park := none }) ∧
      ∀ o u, s.thread? core o = some u → (∀ m j n', u.park ≠ some (.tyield m j false n')) → s'.thread? core o = some u)) ∧
  (∀ s core, (∀ o ∈ (s.core core).far, s.time < o.1) → Completes (.wakeOverflowReinsert core) s (fun s' => OnlyCore core s s' ∧
    (s'.core core).overflow = (s.core core).overflow.filter (fun o => s.time + 1024 ≤ o.1) ∧
    (s'.core core).far = (s.core core).far ∧ (s'.core core).threads = (s.core core).threads)) ∧
  (∀ s core slot a t n k len, (s.core core).overflow = [] → (s.core core).far = [(a, slot)] → a ≤ s.time → s.thread? core slot = some t →
    t.park = some (.tyield n k false len) →
    let ahead := ((t.treg n).extractLsb' 0 29 + BitVec.ofInt 29 k.toInt - s.now29 core).toNat
    Completes (.wakeOverflowReinsert core) s (fun s' => OnlyCore core s s' ∧ (s'.core core).far = [] ∧
      (s'.core core).overflow = (if ahead < 1024 then [] else [(s.time + ahead, slot)]) ∧ (s'.core core).threads = (s.core core).threads))

/-- An island's clock stops and restarts: in its first cycle a PROMISED register whose data are missing is BROKEN with an estimate, and one whose
data were held is LATE; both are counted (05 R136). A requested operating point is noted, held while a change is in progress, and comes into force
when the ratio switches, unless it is point 0 and a block is resident; point 0 stops the clock, and a request from it starts it; a promise that the switch
converts to a later cycle takes that as its booking (05 R137, 19 R356, R357); the firmware lowers it under a power limit and notifies the host (01
R24). A held request starts at once behind the switch, and no 50 microseconds are counted (DESIGN CHOICE, log 36). -/
def Obligations.IslandClocks : Prop :=
  (∀ s island, Completes (.islandClockStop island) s (fun s' => OnlyIsland island s s' ∧
    s'.island island = { s.island island with running := false })) ∧
  (∀ s island, (s.island island).running = true → Completes (.islandClockRestart island) s (fun s' => s' = s)) ∧
  (∀ s island, (islop s island).extractLsb' 16 4 = 0 → Completes (.islandClockRestart island) s (fun s' => s' = s)) ∧
  (∀ s island, (s.island island).running = false → (islop s island).extractLsb' 16 4 ≠ 0 →
    let first : Island := { s.island island with running := true, cycle := (s.island island).cycle + 1 }
    ((∀ c, c / 2 = island → (s.core c).loads = []) →
      Completes (.islandClockRestart island) s (fun s' => OnlyIsland island s s' ∧ s'.island island = first)) ∧
    (∀ core l t n, core / 2 = island → (s.core core).loads = [l] → l.treg = some n → s.thread? core l.slot = some t →
      (∀ c, c / 2 = island → c ≠ core → (s.core c).loads = []) → l.heldAbort = none → NotReporting s core l.id →
      (l.heldData = false → (t.treg n).extractLsb' 29 3 = 2 →
        Completes (.islandClockRestart island) s (fun s' => StoresSame s s' ∧ s'.island island = first ∧
          (∃ c, newEstimate (s.now29 core + 1) ((t.treg n).extractLsb' 0 29) l.booked c ∧ TimeMoves s s' core l t n (4#3 ++ c)) ∧
          ((s'.core core).bpRegs (s.ctxOf t)).count = onceMore ((s.core core).bpRegs (s.ctxOf t)).count ∧
          s'.tally = s.tally ++ [.broken (core / 64) (min 8 (l.cause.getD 8)) 1])) ∧
      (∀ d, l.heldData = true → l.data = some d → l.dests = [] → ((s.core core).bpRegs (s.ctxOf t)).base = 0 →
        Completes (.islandClockRestart island) s (fun s' => StoresSame s s' ∧ s'.island island = first ∧ (s'.core core).loads = [] ∧
          TimeMoves s s' core l t n
            ((if (t.treg n).extractLsb' 29 3 = 2 ∨ (t.treg n).extractLsb' 29 3 = 4 then 5#3 else 3#3) ++ (s.now29 core + 1)) ∧
          ((s'.core core).bpRegs (s.ctxOf t)).count =
            if (t.treg n).extractLsb' 29 3 = 2 then onceMore ((s.core core).bpRegs (s.ctxOf t)).count
            else ((s.core core).bpRegs (s.ctxOf t)).count)))) ∧
  (∀ s island again,
    let want := (islop s island).extractLsb' 0 4
    let empty := ∀ c, c / 2 = island → (s.core c).blocks = []
    ((islop s island).getLsbD 31 = false ∨ want = 0 ∧ ¬empty → Completes (.islandRatioChange island again) s (fun s' => s' = s)) ∧
    let stands := want = 0 ∨ (islop s island).extractLsb' 16 4 ≠ 0 ∨ (s.island island).running = true
    let after (s' : State) : Prop := s' = { s with cw := s'.cw, islands := s'.islands } ∧
      (∀ n, n ≠ island → s'.island n = s.island n) ∧
      islop s' island = (match (s.island island).held with
        | none => 0#12 ++ want ++ 0#12 ++ want
        | some p => 1#1 ++ 0#11 ++ want ++ 0#12 ++ p)
    ((islop s island).getLsbD 31 = true → want ≠ 0 ∨ empty → again = [] →
      (stands → Completes (.islandRatioChange island again) s (fun s' => after s' ∧
        s'.island island = { s.island island with held := none, running := (s.island island).running && want != 0 })) ∧
      (¬stands → (∀ c, c / 2 = island → (s.core c).loads = []) → Completes (.islandRatioChange island again) s (fun s' => after s' ∧
        s'.island island = { s.island island with held := none, running := true, cycle := (s.island island).cycle + 1 }))) ∧
    (∀ b l t n, (islop s island).getLsbD 31 = true → want ≠ 0 ∨ empty → stands → again = [b] → b.core / 2 = island → LoadAt s b.core b.load l t n →
      (t.treg n).extractLsb' 29 3 = 2 → After b.cycle ((t.treg n).extractLsb' 0 29) →
      Completes (.islandRatioChange island again) s (fun s' => StoresSame s s' ∧ MemorySame s s' ∧
        s'.thread? b.core l.slot = some t ∧ (s'.core b.core).load? b.load =
          some { l with booked := some b.cycle, cause := some (min 7 (l.cause.getD 7)) }))) ∧
  (∀ s island opp,
    (14 ≤ (opp : BitVec 4).toNat → Completes (.islopWrite island opp) s (fun s' => s' = s)) ∧
    (opp.toNat ≤ 13 → (islop s island).getLsbD 31 = false → Completes (.islopWrite island opp) s (fun s' => s' = { s with cw := s'.cw } ∧
      islop s' island = 1#1 ++ 0#11 ++ (islop s island).extractLsb' 16 4 ++ 0#12 ++ opp)) ∧
    (opp.toNat ≤ 13 → (islop s island).getLsbD 31 = true → Completes (.islopWrite island opp) s (fun s' => OnlyIsland island s s' ∧
      s'.island island = { s.island island with held := some opp })) ∧
    (opp = 0 ∨ ((islop s island).extractLsb' 0 4).toNat ≤ opp.toNat →
      Completes (.powerLimitLower island opp) s (fun s' => s' = s)) ∧
    (opp ≠ 0 → opp.toNat ≤ 13 → opp.toNat < ((islop s island).extractLsb' 0 4).toNat →
      ((islop s island).getLsbD 31 = false → Completes (.powerLimitLower island opp) s (fun s' =>
        s' = { s with cw := s'.cw, outbox := s'.outbox } ∧
        islop s' island = 1#1 ++ 0#11 ++ (islop s island).extractLsb' 16 4 ++ 0#12 ++ opp ∧
        ((∃ p, p < 18 ∧ s.portUp p = true ∧ s.admits p 0 = true) → s'.outbox = s.outbox ++ [.notifyPower 0 island opp]))) ∧
      ((islop s island).getLsbD 31 = true → Completes (.powerLimitLower island opp) s (fun s' =>
        s' = { s with cw := s'.cw, outbox := s'.outbox, islands := s'.islands } ∧
        s'.island island = { s.island island with held := some opp }))))

namespace Sys2Proof.Claims

/-- A task of a core has become k; the core's other tasks are as before. -/
def TaskIs (s s' : State) (core : Nat) (k : Task) : Prop :=
  (s'.core core).task? k.id = some k ∧ ∀ i, i ≠ k.id → (s'.core core).task? i = (s.core core).task? i

/-- An engine of a core is working on a task: the clock runs, and the task is dispatched (15 R305). -/
def Working (s : State) (core : Nat) (k : Task) : Prop :=
  (s.island (core / 2)).running = true ∧ (s.core core).task? k.id = some k ∧ k.state = .running

/-- A copy, gather or plain matrix task: nothing but its signal is left to do when its steps are done. -/
def PlainEnd (op : TaskOp) : Prop := (∀ set d b, op ≠ .mdrain set true d b) ∧ ∀ slot n beta, op ≠ .gbsweep slot n beta

/-- The words of a signal object after one arrival of an engine (08 R194): with more arrivals than expected ERR is set. -/
def arrived (w0 w1 : Word) : Word × Word :=
  if due w0 < arr w0 + 1 then (w0, w1 ||| 0x40000000) else objectAfter (withArr w0 (arr w0 + 1)) w1

/-- The words of an object after n bytes have been counted into PEND one by one: a phase that completes does so at the byte that brings PEND to 0,
be it the last or one before (08 R192, R194). -/
def counted (w0 w1 : Word) (n : Nat) : Word × Word :=
  if arr w0 = due w0 ∧ 0 < pend w1 ∧ pend w1 ≤ n then (withArr w0 0, withPend w1 (pend w1 - n) ^^^ 0x80000000)
  else (w0, withPend w1 (pend w1 - n))

/-- The words of an object at a store offset are w, and every byte of the core stores outside them is as before. -/
def WordsAre (s s' : State) (core p : Nat) (w : Word × Word) : Prop :=
  (s'.core core).store.get32 p = w.1 ∧ (s'.core core).store.get32 (p + 4) = w.2 ∧
    (∀ b, b < p ∨ p + 8 ≤ b → (s'.core core).store.get b = (s.core core).store.get b) ∧ ∀ m, m ≠ core → s'.core m = s.core m

/-- The next entry of a context's fault area is free (10 R240): 32 bytes at pa, which lie together in a granule of memory, and of whose line no
core holds a copy. -/
structure AreaFree (s : State) (ctx pa : Nat) : Prop where
  small : ctx < 64
  at_ : pa = (s.cw8 0 (0x50010 + ctx * 0x40)).toNat + (s.cw4 0 (0x50018 + ctx * 0x40)).toNat % 128 * 32
  piece : pa % 64 ≤ 32
  place : ∃ k, k % 64 ≤ 32 ∧ ∀ i, i < 32 → ∃ x, s.locate (pa + i) = .ok x ∧ x.key = k + i
  free : ∃ v, s.readPa ctx false (pa + 0x14) 4 = .ok v ∧ v / 2 ^ 31 % 2 = 0
  alone : NoCopies s (pa / 128)

/-- On the die of a core only one thread waits for a page, and nothing else does (10 R239). -/
structure OnlyWaiter (s : State) (core slot : Nat) (t : Thread) (ctx page : Nat) : Prop where
  thread : s.thread? core slot = some t
  alone : (s.core core).threads.filter (fun e => s.parkedOn e.2 ctx page) = [(slot, t)]
  others : ∀ n, n / 64 = core / 64 → n ≠ core → ∀ e ∈ (s.core n).threads, s.parkedOn e.2 ctx page = false
  tasks : ∀ n, n / 64 = core / 64 → ∀ k ∈ (s.core n).tasks, s.suspendedOn k ctx page = false
  blocks : ∀ n, n / 64 = core / 64 → ∀ b ∈ (s.core n).blocks, b.paramPage ≠ some page

end Sys2Proof.Claims

/-- The threads of an issue group act together. Each one computes from the registers that it had at issue, and a k register takes the value of the
crew's lowest lane (02 R53, 04 R100); ATOMs of one group on one word act in lane order (20 R367), and so do arrivals at one barrier object (08 R193);
the core-wide steps of a PHASE are done once for the group (08 R181). Stated, for ATOM, BOARV and PHASE, for groups of two threads without open regions;
ATOM acts in the step that issues it (DESIGN CHOICE, log 72). -/
def Obligations.IssueGroupResult : Prop :=
  (∀ i x len f, intBinary i = some (x, len, f) → x.sub.extractLsb' 0 2 ≠ 1 → ∀ s g, Issued s g →
    let acts (o : Nat) (t : Thread) : Prop := o ∈ g.slots ∧ s.thread? g.core o = some t ∧ t.guard x.g = true
    (∀ o t, acts o t → MappedAll (s.core g.core) o [x.d] ∧
      (∃ a, s.src32 g.core o t x.lit x.a = .ok a) ∧ ∃ b, s.src32 g.core o t x.lit x.b = .ok b) →
    Completes i s (fun s' => OnlyCore g.core s s' ∧ RegFrame (s.core g.core) (s'.core g.core) ∧
      (∀ o, o ∉ g.slots → Option.Rel Thinned (s.thread? g.core o) (s'.thread? g.core o)) ∧
      (∀ o t, o ∈ g.slots → s.thread? g.core o = some t → ∃ t', s'.thread? g.core o = some t' ∧
        t' = { t.past len with park := none, taints := t'.taints }) ∧
      (∀ o t a b, acts o t → s.src32 g.core o t x.lit x.a = .ok a → s.src32 g.core o t x.lit x.b = .ok b →
        (x.d.toNat < 0xE0 → (s'.core g.core).readV o x.d.toNat = some (packed f x.sub a b)) ∧
        (0xE0 ≤ x.d.toNat → x.d.toNat < 0xF0 → (∀ p u, acts p u → p / 64 = o / 64 → o ≤ p) →
          (s'.core g.core).readK (o / 64) (x.d.setWidth 4) = packed f x.sub a b)) ∧
      (∀ k n, (∀ o t, acts o t → 0xE0 ≤ x.d.toNat → x.d.toNat < 0xF0 → k = o / 64 → x.d.setWidth 4 ≠ n) →
        (s'.core g.core).readK k n = (s.core g.core).readK k n) ∧
      ∀ b, (∀ o t a, acts o t → x.d.toNat < 0xE0 → (s.core g.core).vOff o x.d.toNat = some a → b < a ∨ a + 4 ≤ b) →
        (s'.core g.core).store.get b = (s.core g.core).store.get b)) ∧
  (∀ x s g o1 o2 t1 t2, Issued s g → g.slots = [o1, o2] → s.thread? g.core o1 = some t1 → s.thread? g.core o2 = some t2 →
    let core := g.core
    (∀ ptr b1 b2 m a v1 v2, Plain s core o1 t1 → Plain s core o2 t2 →
      let n := if x.sub.extractLsb' 0 3 = 2 then 4 else 8
      let op := (x.imm.extractLsb' 28 4).toNat
      let off := (x.imm.extractLsb' 0 28).toInt
      let codes := (if x.d = 0xF8 then [] else codesOf x.d n) ++ codesOf x.b n
      let old := (s.core m).store.getN a n
      op ≠ 9 → Ready s core o1 t1 x n off ptr codes → Ready s core o2 t2 x n off ptr codes →
      s.srcN core o1 t1 x.lit x.b n = .ok b1 → s.srcN core o2 t2 x.lit x.b n = .ok b2 →
      s.resolve core t1.lid (s.ctxOf t1) (s.core core).tlb (s.priv t1) .atomic ptr n .atomic .ls = .ok (.store m a, none) →
      s.resolve core t2.lid (s.ctxOf t2) (s.core core).tlb (s.priv t2) .atomic ptr n .atomic .ls = .ok (.store m a, none) →
      (s.core m).badIn a n = none → atomicValue op n old (b1.toNat % 2 ^ 64) 0 = some v1 →
      atomicValue op n (v1 % 256 ^ n) (b2.toNat % 2 ^ 64) 0 = some v2 →
      Completes (.atom x) s (fun s' => MemorySame s s' ∧ StoreIs s s' m a n v2 ∧ ∃ pre l1 l2, (s'.core core).loads = pre ++ [l1, l2] ∧
        l1.slot = o1 ∧ l1.kind = .atom ∧ l1.pc = t1.pc ∧ l1.data = some (BitVec.ofNat 128 old) ∧
        l2.slot = o2 ∧ l2.kind = .atom ∧ l2.pc = t2.pc ∧ l2.data = some (BitVec.ofNat 128 (v1 % 256 ^ n)))) ∧
    (t1.guard x.g = true → t2.guard x.g = true → t1.openRegion = none → t2.openRegion = none → NoFaults s core o1 → NoFaults s core o2 →
      (∀ p, ObjectAt s core o1 t1 x p → ObjectAt s core o2 t2 x p → x.sub.getLsbD 0 = false → x.d.toNat < 0xE0 →
        Apart (s.core core) o1 x.d p 16 → Apart (s.core core) o2 x.d p 16 → NoWaiter (s.core core) p →
        let w0 := (s.core core).store.get32 p
        let w1 := (s.core core).store.get32 (p + 4)
        let w := objectAfter (withArr w0 (arr w0 + 1)) w1
        let z := objectAfter (withArr w.1 (arr w.1 + 1)) w.2
        let ph (v : Word) : Word := if v.getLsbD 31 then 1 else 0
        arr w0 + 1 ≤ due w0 → arr w.1 + 1 ≤ due w.1 →
        Completes (.boarv x) s (fun s' => OnlyCore core s s' ∧
          (s'.core core).store.get32 p = z.1 ∧ (s'.core core).store.get32 (p + 4) = z.2 ∧
          (s'.core core).readV o1 x.d.toNat = some (ph w1) ∧ (s'.core core).readV o2 x.d.toNat = some (ph w.2))) ∧
      (∀ y i l, t1.awaited = false → t2.awaited = false → t1.lid = t2.lid → ((s.rcd t1.lid).rbk = false ∨ t1.mode = .handler ∧ t2.mode = .handler) →
        3 ≤ (x.sub.extractLsb' 0 3).toNat → (x.sub.extractLsb' 0 3).toNat ≤ 6 → x.sub.getLsbD 4 = false →
        (s.core core).lines.filter (fun l => l.lid == t1.lid) = [y] → y.upd = none → i < 128 → y.dirty = 1#128 <<< i →
        s.locate (y.addr * 128 + i) = .ok l → Sealed s y.last.2.2.2.2 y.leaf (y.addr * 128 + i / 32 * 32) →
        Completes (.phase x) s (fun s' => s'.cxlAwait.length ≤ s.cxlAwait.length + 1 ∧
          WrittenAt s s' y.last.2.2.2.2 (leafMac y.leaf) (y.addr * 128 + i) 1 (lineBytes y.data i 1) ∧
          (∃ u, s'.thread? core o1 = some u ∧ u = { t1.past x.len with park := none }) ∧
          ∃ u, s'.thread? core o2 = some u ∧ u = { t2.past x.len with park := none }))))

namespace Sys2Proof.Claims

/-- The block of a thread stands alone on its core with that one thread, no load and no task, and the copy of its last checkpoint, v, whose only
thread u stood in slot z in a crew y; there is room for the crew (10 R251). -/
structure LoneBlock (s : State) (core slot : Nat) (t : Thread) (b : Block) (v : Saved) (z : Nat) (u : Thread) (y : Crew) (m : Memory) : Prop where
  threads : (s.core core).threads = [(slot, t)]
  blocks : (s.core core).blocks = [b] ∧ b.lid = t.lid ∧ b.index = t.block ∧ b.rolling = false ∧ b.consumed = false
  rest : (s.core core).loads = [] ∧ (s.core core).tasks = [] ∧ (s.core core).shared = []
  crews : (s.core core).crews.map (·.1) = [slot / 64]
  copy : (s.core core).checkpoint? t.lid t.block = some v ∧ v.blocks.map (fun e => (e.1.lid, e.1.index, e.2)) = [(t.lid, t.block, m)]
  saved : v.threads = [(z, u)] ∧ v.crews = [(z / 64, y)] ∧ u.lid = t.lid ∧ u.block = t.block ∧ u.park = none
  room : y.entries ≤ s.freeBlocks { (s.core core).removeBlock t.lid t.block with blocks := (s.core core).blocks }

end Sys2Proof.Claims

/-- In a DET launch a thread whose crew does not hold the marble parks at an ST to a DS page, an ATOM and a RED; with the marble the ST is performed at
the point of coherence, and an LD of a DS page reads there (08 R197). In an RBK launch an ST to memory is held for the block's next checkpoint, and
memory is as before; one with a bypass hint is performed at once (10 R251). A thread that consumes a value lost to an uncorrectable error in a block with
a checkpoint rolls the block back: its threads resume as they stood behind the checkpoint's instruction, the scratchpad reads as it did, and no store is
held (10 R250, R252). Stores and loads act in the step that issues them (DESIGN CHOICE, log 72); the rollback is stated for a block of one thread. -/
def Obligations.DetRbkMemoryResult : Prop :=
  ∀ x s core slot t, Solo s core slot t → t.openRegion = none → NoFaults s core slot →
    let n := bytesOfAccess x
    let waits (i : Instr) : Prop := Completes i s (fun s' => OnlyCore core s s' ∧ StoresSame s s' ∧ OnlyThread slot (s.core core) (s'.core core) ∧
      s'.thread? core slot = some { t with park := some .marble })
    (∀ ptr v pa leaf e, Ready s core slot t x n x.imm.toInt ptr (codesOf x.b n) → s.srcN core slot t x.lit x.b n = .ok v →
      s.resolve core t.lid (s.ctxOf t) (s.core core).tlb (s.priv t) .ldst ptr n .write .ls = .ok (.mem pa leaf, some e) →
      (∀ r, t.region = some r → r.stores = []) → WalkQuiet s e.ctx e.ptr →
      ((s.rcd t.lid).det = true → (s.rcd t.lid).rbk = false → leafDs e.leaf = true →
        (s.hasMarble core slot t = false → waits (.st x)) ∧
        (∀ l, s.hasMarble core slot t = true → s.heldStores core t.lid t.block = [] → NoCopies s (pa / 128) → s.locate pa = .ok l →
          Sealed s (s.ctxOf t) leaf pa →
          Completes (.st x) s (fun s' => WrittenAt s s' (s.ctxOf t) (leafMac leaf) pa n v.toNat ∧ StoresSame s s' ∧ Went s s' core slot t x.len))) ∧
      (∀ b l, (s.rcd t.lid).det = false → (s.rcd t.lid).rbk = true → (s.core core).block? t.lid t.block = some b →
        ptr.toNat % 2 ^ 56 < 0x00FD000000000000 → leafTier e.leaf ≠ 2 → leafDs e.leaf = false →
        let held := buffered t slot ptr n (x.sub.extractLsb' 4 2).toNat v (some e)
        (x.sub.extractLsb' 4 2 ≠ 3 → s.granuleFree core t held = true →
          Completes (.st x) s (fun s' => MemorySame s s' ∧ StoresSame s s' ∧ Went s s' core slot t x.len ∧ (s'.core core).lines = (s.core core).lines ∧
            (s'.core core).block? t.lid t.block = some { b with deferred := b.deferred ++ [held] })) ∧
        (x.sub.extractLsb' 4 2 = 3 → b.deferred = [] → NoCopies s (pa / 128) → s.locate pa = .ok l → Sealed s (s.ctxOf t) leaf pa →
          Completes (.st x) s (fun s' => WrittenAt s s' (s.ctxOf t) (leafMac leaf) pa n v.toNat ∧ StoresSame s s' ∧ Went s s' core slot t x.len)))) ∧
    (∀ ptr pa leaf e w, Ready s core slot t x n x.imm.toInt ptr (if x.d = 0xF8 then [] else codesOf x.d n) → (s.rcd t.lid).det = true →
      s.resolve core t.lid (s.ctxOf t) (s.core core).tlb (s.priv t) .ldst ptr n .read .ls = .ok (.mem pa leaf, some e) → leafDs leaf = true →
      WalkQuiet s e.ctx e.ptr → s.above core t = [] → NoCopies s (pa / 128) → s.readPa (s.ctxOf t) (leafMac leaf) pa n = .ok w →
      Completes (.ld x) s (fun s' => MemorySame s s' ∧ StoresSame s s' ∧
        Entered s s' core slot t x .ld ptr (loadDests x n) (some (loadValue n (x.sub.getLsbD 3) w)))) ∧
    (∀ ptr b, (s.rcd t.lid).det = true → s.hasMarble core slot t = false →
      let n := if x.sub.extractLsb' 0 3 = 2 then 4 else 8
      let off := (x.imm.extractLsb' 0 28).toInt
      (x.imm.extractLsb' 28 4).toNat ≠ 9 → s.srcN core slot t x.lit x.b n = .ok b →
      (Ready s core slot t x n off ptr ((if x.d = 0xF8 then [] else codesOf x.d n) ++ codesOf x.b n) → waits (.atom x)) ∧
      (Ready s core slot t x n off ptr (codesOf x.b n) → waits (.red x))) ∧
    (∀ i len k b v z u y m, moves i = some (x, len) → t.guard x.g = true → x.sub.extractLsb' 0 2 ≠ 1 → MappedAll (s.core core) slot [x.d] →
      x.b.toNat < 0xF0 → (s.core core).blocking slot x.b = [] → t.taintOf x.b = some k → k.kind = .uncorrectable → (s.rcd t.lid).rbk = true →
      LoneBlock s core slot t b v z u y m →
      Completes i s (fun s' => MemorySame s s' ∧
        (∃ b', (s'.core core).block? t.lid t.block = some b' ∧ b'.deferred = [] ∧ b'.spbase = b.spbase ∧ b'.rolling = false ∧ b'.consumed = true) ∧
        (∀ o, o < (s.rcd t.lid).spad → (s'.core core).store.get (b.spbase + o) = m.get o) ∧
        ∃ o u', (s'.core core).threads = [(o, u')] ∧ o % 64 = z % 64 ∧ u' = { u with tregs := u'.tregs } ∧
          (∀ j, u'.treg j = if tpending (u.treg j) then 0 else u.treg j) ∧ ∀ j, (s'.core core).readK (o / 64) j = y.k.get j.toFin))

/-- Engines and tasks: the eligible task of highest class, and among those the earliest, is dispatched and holds its matrix units; a task
whose steps are done leaves the table and its signal barrier receives one arrival, or ERR; a fault suspends it at its page or ends it with
ERR; landed bytes are counted into PEND one by one; a matrix task yields to a higher class at a step boundary; pages are walked ahead; FURES restarts
a parked thread, or makes it trap with PAGE_FAULT (0x05); the stack cache spills and fills (15 R298, R305, R307, R314, 10 R231, R241, R242,
08 R194, 04 R110). -/
def Obligations.TaskEvents : Prop :=
  (∀ s core e k, (s.island (core / 2)).running = true → (s.core core).task? k.id = some k →
    (∀ j ∈ (s.core core).tasks, j.op.engine = e → j.state = .waiting ∨ ∃ p, j.state = .faulted p) →
    k ∈ s.eligibleTasks core e → (∀ j ∈ s.eligibleTasks core e, j.cls < k.cls ∨ j.cls = k.cls ∧ k.id < j.id ∨ j = k) →
    k.op.list.2 ≤ k.idx.length →
    Completes (.taskDispatch core e) s (fun s' => OnlyCore core s s' ∧ StoresSame s s' ∧ TaskIs s s' core { k with state := .running } ∧
      ∀ u, (s'.core core).holder u = if u ∈ k.op.units then some (k.lid, k.block) else (s.core core).holder u)) ∧
  (∀ s core k b, Working s core k → PlainEnd k.op → s.taskLeft core k = false → (∀ f ∈ s.fabric, f.for_ ≠ .task core k.id) →
    k.viol = none → k.part = 0 → (s.core core).block? k.lid k.block = some b → b.rolling = false →
    Completes (.taskCompletion core k.id) s (fun s' => s' = { s with cores := s'.cores } ∧
      (s'.core core).tasks = (s.core core).tasks.filter (fun j => j.id != k.id) ∧
      match k.signal with
      | none => StoresSame s s'
      | some o =>
        let p := b.spbase + o
        let w0 := (s.core core).store.get32 p
        let w1 := (s.core core).store.get32 (p + 4)
        WordsAre s s' core p (if k.err then (w0, w1 ||| 0x40000000) else arrived w0 w1))) ∧
  (∀ s s1 core k f b, Working s core k → s.taskLeft core k = true → s.taskStep core k = .error (.fault s1 f) → SlicesOnly s s1 →
    (s.core core).block? k.lid k.block = some b → b.rolling = false →
    (f.kind.code ≤ 3 → Completes (.engineTaskFault core k.id) s (fun s' => StoresSame s s' ∧
      TaskIs s s' core { k with state := .faulted (f.va.toNat / 2 ^ 16 % 2 ^ 40), copies := [] } ∧
      ((∃ pa, AreaFree s (s.rcd k.lid).ctx pa) →
        ((s.rcd k.lid).ctx, f.va.toNat / 2 ^ 16 % 2 ^ 40, core / 64) ∈ s'.unresolved))) ∧
    (f.kind.code = 4 ∨ f.kind.code = 5 → NoCopies s (s.recordSlot (s.rcd k.lid).ctx / 128) → Completes (.engineTaskFault core k.id) s (fun s' =>
      (s'.core core).tasks = (s.core core).tasks.filter (fun j => j.id != k.id) ∧
      match k.signal with
      | none => StoresSame s s'
      | some o => WordsAre s s' core (b.spbase + o)
          ((s.core core).store.get32 (b.spbase + o), (s.core core).store.get32 (b.spbase + o + 4) ||| 0x40000000)))) ∧
  (∀ s core k d a i n sz elem m off off' b o src dst len, Working s core k → k.op = .gath d a i n sz → k.steps ≤ elem → elem < 3 * n →
    elem ∉ k.done → n ≤ k.idx.length → (s.core core).block? k.lid k.block = some b → k.signal = some o →
    k.piece elem = (src, dst, len) → 0 < len → src.toNat % 64 + len ≤ 64 → dst.toNat % 64 + len ≤ 64 →
    s.resolve core k.lid (s.rcd k.lid).ctx (s.core core).walkAhead false .engine src len .read .ga = .ok (.store m off, none) →
    s.resolve core k.lid (s.rcd k.lid).ctx (s.core core).walkAhead false .engine dst len .write .ga = .ok (.store core off', none) →
    (s.core m).badIn off len = none →
    let p := b.spbase + o
    let w0 := (s.core core).store.get32 p
    let w1 := (s.core core).store.get32 (p + 4)
    b.spbase ≤ off' → off' < b.spbase + (s.rcd k.lid).spad → (off' + len ≤ p ∨ p + 8 ≤ off') → -(2 ^ 27 : Int) ≤ pend w1 - (len : Nat) →
    Completes (.engineByteLands core k.id elem) s (fun s' => s' = { s with cores := s'.cores } ∧
      TaskIs s s' core { k with done := elem :: k.done } ∧
      (s'.core core).store.getN off' len = (s.core m).store.getN off len ∧
      ((s'.core core).store.get32 p, (s'.core core).store.get32 (p + 4)) = counted w0 w1 len ∧
      (∀ x, x < off' ∨ off' + len ≤ x → x < p ∨ p + 8 ≤ x → (s'.core core).store.get x = (s.core core).store.get x) ∧
      ∀ c, c ≠ core → s'.core c = s.core c)) ∧
  (∀ s core k, Working s core k → k.op.yields = true →
    (s.core core).tasks.find? (fun j => j.state == .running && j.op.yields) = some k →
    ((∃ h ∈ s.eligibleTasks core .matrix, k.cls < h.cls ∧ ∀ u ∈ h.op.units, u ≠ 4 → u ∉ k.op.units) → s.taskLeft core k = true →
      (∀ j ∈ (s.core core).tasks, j.state ≠ .yielded) →
      Completes (.matrixTaskSuspend core 0) s (fun s' => OnlyCore core s s' ∧ StoresSame s s' ∧
        TaskIs s s' core { k with state := .yielded, copies := [] })) ∧
    ((∀ h ∈ s.eligibleTasks core .matrix, h.cls ≤ k.cls) → ∀ n, Completes (.matrixTaskSuspend core n) s (fun s' => s' = s))) ∧
  (∀ s core k p, Working s core k → k.pagesAhead = [p] →
    (∀ e, s.fresh? (s.rcd k.lid).ctx (p.toNat % 2 ^ 56) (p.toNat / 2 ^ 56) = .ok e → leafMig e.leaf ≠ 1 → leafTier e.leaf ≠ 2 →
      p.toNat % 2 ^ 56 < 0x00FD000000000000 → WalkClear s (some e) →
      Completes (.walkAhead core k.id) s (fun s' => (∃ w, SlicesOnly s w ∧ OnlyCore core w s') ∧ StoresSame s s' ∧
        e ∈ (s'.core core).walkAhead ∧ (s'.core core).tasks = (s.core core).tasks)) ∧
    (∀ f, s.fresh? (s.rcd k.lid).ctx (p.toNat % 2 ^ 56) (p.toNat / 2 ^ 56) = .error f → WalkQuiet s (s.rcd k.lid).ctx p →
      Completes (.walkAhead core k.id) s (fun s' => SlicesOnly s s'))) ∧
  (∀ s core slot t ctx page va w q start kind level, OnlyWaiter s core slot t ctx page → t.park = some (.page va w q start kind level) →
    Completes (.furesResolve (core / 64) ctx page) s (fun s' => StoresSame s s' ∧ MemorySame s s' ∧
      (ctx, page, core / 64) ∉ s'.unresolved ∧ s'.thread? core slot = some { t with park := none }) ∧
    (Handled s t → Completes (.furesFail (core / 64) ctx page) s (fun s' => StoresSame s s' ∧ MemorySame s s' ∧
        (ctx, page, core / 64) ∉ s'.unresolved ∧ ∃ t', s'.thread? core slot = some t' ∧
          t' = { t with
            trapc := 0x05, epc := start, mode := .handler, pc := (s.rcd t.lid).traph, park := none, faddr := va
            fstat := BitVec.ofNat 32 (2 ^ 31 + kind.code * 2 ^ 24 + q.code * 2 ^ 21 + (if w then 2 ^ 20 else 0) + level * 2 ^ 18) }))) ∧
  (∀ s core crew lane t, s.thread? core (crew * 64 + lane) = some t →
    (t.cache = [] → Completes (.stackCacheSpillFill core crew lane false) s (fun s' => s' = s)) ∧
    (∀ pre v m off e, t.cache = pre ++ [v] → t.cache.length ≤ t.depth → (s.rcd t.lid).rbk = false →
      s.resolve core t.lid (s.ctxOf t) (s.core core).tlb false .ldst
        (addOff (s.rcd t.lid).stack (t.global (s.rcd t.lid) * (s.rcd t.lid).stkb.toNat + 8 * (t.depth - t.cache.length) : Nat))
        8 .write .ls = .ok (.store m off, e) →
      Completes (.stackCacheSpillFill core crew lane false) s (fun s' => StoreIs s s' m off 8 v.toNat ∧
        ∃ t', s'.thread? core (crew * 64 + lane) = some t' ∧ t' = { t with cache := pre })) ∧
    (∀ m off e, t.cache.length < 8 → t.cache.length < t.depth → s.above core t = [] → (s.core m).badIn off 8 = none →
      s.resolve core t.lid (s.ctxOf t) (s.core core).tlb false .ldst
        (addOff (s.rcd t.lid).stack (t.global (s.rcd t.lid) * (s.rcd t.lid).stkb.toNat + 8 * (t.depth - t.cache.length - 1) : Nat))
        8 .read .ls = .ok (.store m off, e) →
      Completes (.stackCacheSpillFill core crew lane true) s (fun s' => StoresSame s s' ∧ MemorySame s s' ∧
        s'.thread? core (crew * 64 + lane) =
          some { t with cache := t.cache ++ [BitVec.ofNat 64 ((s.core m).store.getN off 8)] })))

namespace Sys2Proof.Claims

/-- The 128 bytes of a line lie in memory, each in a place of its own, and its two granules in granules of their own (09 R208, R209). -/
def LineLocated (s : State) (line : Nat) : Prop :=
  (∀ o, o < 128 → ∃ x, s.locate (line * 128 + o) = .ok x) ∧
    ∀ o o' x x', o < 128 → o' < 128 → s.locate (line * 128 + o) = .ok x → s.locate (line * 128 + o') = .ok x' →
      (x.key = x'.key → o = o') ∧ (x.key / 64 = x'.key / 64 → o / 64 = o' / 64)

/-- A line has left a share; the core's other lines and the core stores are as before. -/
def LineGone (s s' : State) (core lid line : Nat) : Prop :=
  (s'.core core).line? lid line = none ∧ StoresSame s s' ∧
    ∀ l a, (l, a) ≠ (lid, line) → (s'.core core).line? l a = (s.core core).line? l a

/-- A fault record stands at pa, and the area's head has moved on (10 R240). -/
structure RecordAt (s s' : State) (ctx pa : Nat) (addr pc block status : Nat) : Prop where
  addr : s'.readPa ctx false pa 8 = .ok addr
  pc : s'.readPa ctx false (pa + 8) 8 = .ok pc
  block : s'.readPa ctx false (pa + 16) 4 = .ok (block % 2 ^ 32)
  status : s'.readPa ctx false (pa + 20) 4 = .ok (status % 2 ^ 32)
  head : (s'.cw4 0 (0x50018 + ctx * 0x40)).toNat =
    (s.cw4 0 (0x50018 + ctx * 0x40)).toNat / 2 ^ 16 * 2 ^ 16 + ((s.cw4 0 (0x50018 + ctx * 0x40)).toNat % 128 + 1) % 128

/-- STATUS of an address-map region (09 R211). -/
def mapStatus (s : State) (r : Nat) : BitVec 4 := (s.cw4 0 (0x30018 + r * 0x200)).extractLsb' 4 4

/-- The quota of a class in a value of L2QUOTA (09 R204). -/
def quotaIn (v : Word) (cls : Nat) : Nat := min 16 (v.toNat / 256 ^ cls % 32)

/-- A regroup of one thread that is alone on its core (12 R267 to R273). -/
structure LoneRegroup (s : State) (core slot : Nat) (t : Thread) (y : Crew) (g : Regroup) (d : BitVec 8) (len : Nat) : Prop where
  under : (s.core core).regroups = [g]
  moves : g.moves = [(slot, 0, 0)]
  keep : g.keepMarble = false
  thread : s.thread? core slot = some t
  park : ∃ b n key, t.park = some (.rgrp b n key d len)
  region : t.region = none
  crews : (s.core core).crews = [(slot / 64, y)]
  whole : (s.core core).bad = []
  marble : ∀ l, s.launch? g.lid = some l → l.marble = none
  room : g.entries ≤ (s.openBlocks { s.core core with crews := [] }).length ∧ g.entries ≤ 28 ∧ g.n ≤ 8 * g.entries
  dest : d = 0xF8 ∨ d.toNat < 8 * g.entries ∨ 0xE0 ≤ d.toNat ∧ d.toNat < 0xF0

end Sys2Proof.Claims

/-- What happens in memory and in the cores of its own accord: a dirty line is written back, an update-only line applied; stores that meet an
abort are dropped with a fault record; an uncorrectable error loses its bytes or words and raises an interrupt; a row's spare; a completed CXL
write; a regroup's switch of the crew maps; the grant of register blocks (08 R182, R189, 09 R201, 22 R462, 10 R240, R248, 19 R351, 12 R268 to
R273, 02 R57). An error loses the whole granule (DEDUCED, log 28); a row's test is listed and counted as logs 56 and 67 say (DESIGN CHOICE). -/
def Obligations.MemoryEvents : Prop :=
  (∀ s core lid line l, (s.core core).line? lid line = some l →
    (l.upd = none → l.dirty ≠ 0 → LineLocated s line → (∀ k, k < 4 → Sealed s l.last.2.2.2.2 l.leaf (line * 128 + 32 * k)) →
      l.lid = lid → l.addr = line → 8 ≤ ((s.core core).l1Ways lid line).length →
      (l1Victim ((s.core core).l1Ways lid line)).map (·.addr) = some line →
      Completes (.l1Writeback core lid line) s (fun s' => LineGone s s' core lid line ∧
        ∀ o, o < 128 → l.dirty.getLsbD o = true →
          s'.readPa l.last.2.2.2.2 (leafMac l.leaf) (line * 128 + o) 1 = .ok (l.data.toNat / 256 ^ o % 256))) ∧
    (∀ op n off b old v, l.upd = some (op, n, [(off, b)]) → l.lid = lid → l.addr = line → n ≤ 8 →
      s.readPa l.last.2.2.2.2 (leafMac l.leaf) (line * 128 + off) n = .ok old → atomicValue op n old b.toNat 0 = some v →
      Completes (.updateOnlyPacket core lid line) s (fun s' => LineGone s s' core lid line ∧
        WrittenAt s s' l.last.2.2.2.2 (leafMac l.leaf) (line * 128 + off) n v)) ∧
    (∀ pa va pc tid block ctx, l.dirty ≠ 0 ∨ l.upd ≠ none → l.last = (va, pc, tid, block, ctx) → AreaFree s ctx pa →
      Completes (.storeAbort core lid line .uncorrectable) s (fun s' => LineGone s s' core lid line ∧ Raised s' 0 core ∧
        RecordAt s s' ctx pa va.toNat pc.toNat block (2 ^ 31 + 8 * 2 ^ 24 + core * 2 ^ 16 + 2 ^ 12 + tid)))) ∧
  (∀ s pa l, s.locate pa = .ok l → Completes (.uncorrectableError (.memory pa)) s (fun s' =>
    (∀ a k, s.locate a = .ok k → k.key / 64 = l.key / 64 → ∀ ctx mac, s'.readPa ctx mac a 1 = .error .uncorrectable) ∧
    StoresSame s s' ∧ s'.mem = s.mem ∧ s'.gran = s.gran ∧ Raised s' 0 pa ∧ .dram (l.key / 64 % 16) (l.key / 2 ^ 26) false ∈ s'.tests)) ∧
  (∀ s core off, core < 256 → off < 0x200000 → Completes (.uncorrectableError (.store core off)) s (fun s' =>
    tget (s'.core core).bad (off / 4) = some .uncorrectable ∧ StoresSame s s' ∧ MemorySame s s' ∧ Raised s' 0 core ∧
      .sram core (off / 64) false ∈ s'.tests)) ∧
  (∀ s row, s.onRow row = [] →
    let full := Config.moreSpares < (s.spares.filter (fun r => r.unit == row.unit)).length
    Completes (.rowSelfTest row true) s (fun s' => s' = { s with
      free := s'.free, tests := s.tests.filter (· != row), tally := s.tally ++ [.error row.die row.unit.1 2 1] }) ∧
    (¬full → Completes (.rowSelfTest row false) s (fun s' => s' = { s with
      free := s'.free, tests := s.tests.filter (· != row), spares := s.spares ++ [row], tally := []
      life := s.life ++ s.tally ++ [.error row.die row.unit.1 3 1, .repair 1 0] })) ∧
    (∀ core bank n, row = .sram core bank n → full → Completes (.rowSelfTest row false) s (fun s' => core ∈ s'.retired ∧ s' = { s with
      free := s'.free, tests := s.tests.filter (· != row), retired := s'.retired, tally := []
      life := s.life ++ s.tally ++ [.error row.die row.unit.1 3 1] })) ∧
    (∀ stack n b, row = .dram stack n b → full → (∃ p, p < 18 ∧ s.portUp p = true ∧ s.admits p 0 = true) →
      Completes (.rowSelfTest row false) s (fun s' => s' = { s with
        free := s'.free, tests := s.tests.filter (· != row), tally := []
        life := s.life ++ s.tally ++ [.error row.die row.unit.1 3 1, .repair 0 1]
        outbox := s.outbox ++ [.notifyError 0 2 (stack * 65536 + n)] }))) ∧
  (∀ s port, ((∀ e ∈ s.cxlAwait, e.2 ≠ port) → Completes (.cxlWriteCompletion port) s (fun s' => s' = s)) ∧
    (∀ pre n post, s.cxlAwait = pre ++ [(n, port)] ++ post → (∀ e ∈ pre, e.2 ≠ port) → (n, port) ∉ post →
      Completes (.cxlWriteCompletion port) s (fun s' => s' = { s with cxlAwait := pre ++ post }))) ∧
  (∀ s core, (s.core core).regroups = [] → Completes (.kaleidoscopeMapsSwitch core) s (fun s' => s' = s)) ∧
  (∀ s core slot t y g d len, LoneRegroup s core slot t y g d len →
    Completes (.kaleidoscopeMapsSwitch core) s (fun s' => (s'.core core).regroups = [] ∧ MemorySame s s' ∧
      (∀ j v, j < g.n → j ≠ d.toNat → (s.core core).readV slot j = some v → (s'.core core).readV 0 j = some v) ∧
      (∀ j, g.n ≤ j → j < 8 * g.entries → j ≠ d.toNat → (s'.core core).readV 0 j = some 0) ∧
      (d.toNat < 0xE0 → (s'.core core).readV 0 d.toNat = some 64) ∧
      (∀ n, (s'.core core).readK 0 n = if 0xE0 ≤ d.toNat ∧ d.toNat < 0xF0 ∧ d.setWidth 4 = n then 64 else (s.core core).readK (slot / 64) n) ∧
      ∃ t', s'.thread? core 0 = some t' ∧ t' = { t with
        pc := t.pc + BitVec.ofNat 64 len, park := none, taints := t'.taints
        rgflags := (t.rgflags &&& 0xFFFFFFFE) ||| (if g.nonuniform then 1 else 0) })) ∧
  (∀ s core, NoneHeld (s.core core) → Completes (.rbacqGrant core) s (fun s' => s' = s)) ∧
  (∀ s core crew y m n k, (s.core core).crew? crew = some y → y.held = some (n, k) →
    (s.core core).crews.filter (fun e => e.2.held.isSome) = [(crew, y)] → MappedTo (s.core core) crew m → m < n → n ≤ 28 →
    (s.core core).regroups = [] → n - m ≤ s.ordinaryFree (s.core core) →
    Completes (.rbacqGrant core) s (fun s' => MappedTo (s'.core core) crew n ∧ NoneHeld (s'.core core) ∧ MemorySame s s' ∧
      ∀ slot, slot / 64 = crew → (∀ j, j < 8 * m → (s'.core core).readV slot j = (s.core core).readV slot j) ∧
        ∀ j, 8 * m ≤ j → j < 8 * n → (s'.core core).readV slot j = some 0))

/-- The registers of address maps, L2 quotas and slot tables act: a commit waits for its checks, passes into force and drops the lines that
moved, or is refused with its STATUS; a lowered quota evicts what lies above it; an edit waits for the frame boundary, and is refused whole
where a table names a stop that does not exist (09 R204, R210 to R212, R217, R218). That SACTL is cleared but for the moved flag by an edit in force,
and that L2QUOTA reads back a quota above 16, is the model's choice (DESIGN CHOICE, logs 85 and 86). -/
def Obligations.TableEvents : Prop :=
  (∀ s die r v, r < 8 → (mapStatus s r ≠ 1 → s.amBusy = [] →
      Completes (.amctlGo die r v) s (fun s' => s' = { s with cw := s'.cw, amBusy := s'.amBusy } ∧ mapStatus s' r = 1 ∧
        s'.amBusy = [(r, { s.amPending r with
          en := v.getLsbD 1
          cxl := if v.getLsbD 3 then (s.amPending r).cxl else v.extractLsb' 2 2 == 1 })])) ∧
    (∀ st, mapStatus s r ≠ 1 → s.amBusy ≠ [] → st ≠ 0 →
      s.amCheck r { s.amPending r with
        en := v.getLsbD 1
        cxl := if v.getLsbD 3 then (s.amPending r).cxl else v.extractLsb' 2 2 == 1 } true = st →
      Completes (.amctlGo die r v) s (fun s' => s' = { s with cw := s'.cw } ∧ mapStatus s' r = BitVec.ofNat 4 st)) ∧
    (mapStatus s r = 1 → Completes (.amctlGo die r v) s (fun s' => s' = { s with cw := s'.cw } ∧ mapStatus s' r = 1))) ∧
  (∀ s, s.amBusy = [] → Completes .addressMapCommit s (fun s' => s' = s)) ∧
  (∀ s r m rest, r < 8 → s.amBusy = (r, m) :: rest →
    (gfRank (m.rows.map BitVec.toNat) < 42 → Completes .addressMapCommit s (fun s' =>
      s' = { s with cw := s'.cw, amBusy := rest } ∧ mapStatus s' r = 3)) ∧
    (s.amCheck r m false = 0 → Completes .addressMapCommit s (fun s' => s'.amBusy = rest ∧ mapStatus s' r = 2 ∧
      (∀ i, s'.amRegion i = if i = r then m else s.amRegion i) ∧ StoresSame s s' ∧ MemorySame s s' ∧
      ((∀ l ∈ s.l2, l.pins = []) → ∀ l ∈ s'.l2, l ∈ s.l2) ∧ ∀ l ∈ s'.l2, m.en = true → m.base ≤ l.addr * 128 → l.addr * 128 < m.lim → l.dirty = 0 →
        l.slice = m.slice (l.addr * 128)))) ∧
  (∀ s die v, Completes (.l2quotaWrite die v) s (fun s' => StoresSame s s' ∧ MemorySame s s' ∧
    s'.cw4 die 0x20100 = v &&& 0x1F1F1F1F ∧ (∀ l ∈ s'.l2, l ∈ s.l2) ∧
    ((∀ cls, cls < 4 → quotaIn (s.cw4 die 0x20100) cls ≤ quotaIn v cls) → s'.l2 = s.l2) ∧
    ∀ cls slice set, cls < 4 → slice / 64 = die → quotaIn v cls < quotaIn (s.cw4 die 0x20100) cls →
      (s'.l2.filter (fun l => l.slice == slice && l.cls == cls && l2Set l.addr == set)).length ≤ quotaIn v cls)) ∧
  (∀ s die, Completes (.sactlApply die) s (fun s' => s' = { s with slotPending := s'.slotPending } ∧ die ∈ s'.slotPending)) ∧
  (∀ s die, (die ∉ s.slotPending → Completes (.slotEditApplied die) s (fun s' => s' = s)) ∧
    (die ∈ s.slotPending → s.slotsBad die = true → Completes (.slotEditApplied die) s (fun s' =>
      s' = { s with cw := s'.cw, slotPending := s.slotPending.filter (· != die) } ∧
      s'.cw4 die 0x42000 = s.cw4 die 0x42000 ||| 8)) ∧
    (die ∈ s.slotPending → s.slotsBad die = false → (∀ e ∈ s.cores, ∀ l ∈ e.2.loads, l.slots = []) →
      Completes (.slotEditApplied die) s (fun s' =>
      s' = { s with cw := s'.cw, slotPending := s.slotPending.filter (· != die), slotActive := s'.slotActive } ∧
      s'.cw4 die 0x42000 = 0 ∧ ∀ k w, (k, w) ∈ s.slotEdits die → (∀ w', (k, w') ∈ s.slotEdits die → w' = w) →
        tget s'.slotActive k = some w)) ∧
    (∀ core id l x e, die ∈ s.slotPending → s.slotsBad die = false → (s.core core).load? id = some l → x ∈ l.slots → e ∈ s.slotEdits die →
      x ∈ slotsTaken e.1 ((tget s.slotActive e.1).getD (cwReset (e.1 / 4 * 8))) e.2 →
      Completes (.slotEditApplied die) s (fun s' => s'.cw4 die 0x42000 = 4 ∧ ∃ slots,
        (s'.core core).load? id = some { l with slots := slots, cause := some (min 5 (l.cause.getD 5)) })))

namespace Sys2Proof.Claims

/-- A flit has been dropped and counted at a port, saturating (19 R340); nothing else changed. -/
def Dropped (s s' : State) (port : Nat) : Prop :=
  s' = { s with cw := s'.cw } ∧
    let v := s.cw4 (portDie port) (0x70000 + port * 0x40 + 0x20)
    s'.cw4 (portDie port) (0x70000 + port * 0x40 + 0x20) = if v = 0xFFFFFFFF then v else v + 1

/-- A message's port is up and admits its tag, so that an answer leaves on it (19 R340, R341). -/
def Answers (s : State) (m : Sender) : Prop := s.portUp m.port = true ∧ s.admits m.port m.tag = true

/-- The only request that waits at the die that holds the token (02 R40). -/
structure OnlyRequest (s : State) (q : Request) : Prop where
  only : s.waiting = [q]
  die : q.die = s.token
  room : (s.launches.filter (fun l => l.die == q.die)).length < 1024

/-- A thread stands at a LNCH that waits for the answer to a request (21 R424). -/
structure Asks (s : State) (q : Request) (core slot : Nat) (t : Thread) (pd : BitVec 3) (len : Nat) : Prop where
  from_ : q.from_ = .thread core slot
  thread : s.thread? core slot = some t
  park : t.park = some (.lnch q.id pd len)
  plain : (s.rcd t.lid).rbk = false
  launch : (s.launch? t.lid).isSome

/-- The answer has reached it: the predicate is written, and it has gone on. -/
def Answered (s' : State) (core slot : Nat) (t : Thread) (pd : BitVec 3) (len : Nat) (yes : Bool) : Prop :=
  ∃ t', s'.thread? core slot = some t' ∧ t'.park = none ∧ t'.pc = t.pc + BitVec.ofNat 64 len ∧ (pd ≠ 7 → t'.pred pd = yes)

/-- The launch whose turn it is (02 R44): of those that dispatch, the highest class, and in it the earliest accepted. -/
structure Head (s : State) (l : Launch) : Prop where
  mem : s.launch? l.rcd.lid = some l
  dispatches : s.dispatches l = true
  cls : l.rcd.cls ≤ 3
  first : ∀ k ∈ s.launches, s.dispatches k = true → k.order < 2 ^ 64 ∧
    (k = l ∨ k.rcd.cls < l.rcd.cls ∨ k.rcd.cls = l.rcd.cls ∧ l.order < k.order)

/-- A new block stands on a core (02 R27, R29, 04 R88): every thread at the entry PC in user mode, the scratchpad reading 0. -/
structure Placed (s' : State) (core : Nat) (r : LaunchRec) (index : Nat) (b : Block) : Prop where
  block : (s'.core core).block? r.lid index = some b
  fits : b.spbase + r.spad ≤ 0x200000 ∧ b.spbase % 256 = 0
  clear : ∀ i, i < r.spad → (s'.core core).store.get (b.spbase + i) = 0
  threads : ∀ w l, w < r.size 2 → l < r.size 1 → ∃ slot t, s'.thread? core slot = some t ∧ slot % 64 = l ∧ t.lid = r.lid ∧
    t.block = index ∧ t.lvid0 = l ∧ t.lvid1 = w ∧ t.pc = r.entry ∧ t.mode = .user

/-- A block of an ungrouped launch is alone in its cohort on the only core that holds it, and can be saved (02 R51, 10 R255). -/
structure Savable (s : State) (core : Nat) (b : Block) (l : Launch) : Prop where
  only : s.cores.filter (fun e => e.2.blocks.any (fun x => x.lid == b.lid && x.index == b.index)) = [(core, s.core core)]
  loads : (s.core core).loads = []
  launch : s.launch? b.lid = some l
  lone : l.rcd.gang = 1
  cohort : (s.core core).cohort b.lid b.index = [b]
  save : s.savable core [b] = true

/-- A block has left its core, and a record of it stands with its launch (02 R51, 10 R255): its scratchpad, and its threads that
stood at their boundaries. -/
structure SavedIs (s s' : State) (core : Nat) (b : Block) (l : Launch) : Prop where
  gone : s'.home? b.lid b.index = none
  saved : ∃ sv m l', s'.launch? b.lid = some l' ∧ l' = { l with saved := l.saved ++ [sv] } ∧ sv.blocks = [(b, m)] ∧
    (∀ i, i < l.rcd.spad → m.get i = (s.core core).store.get (b.spbase + i)) ∧
    ∀ slot t, s.thread? core slot = some t → t.lid = b.lid → t.block = b.index → t.park = none → t.region = none → (slot, t) ∈ sv.threads

/-- A launch with its record's address and its completion, when nothing of it is left to make visible (02 R47). -/
structure Finished (s : State) (l : Launch) : Prop where
  launch : s.launch? l.rcd.lid = some l
  over_ : match l.ended with
    | none => l.done = l.rcd.blocks
    | some _ => s.residents l.rcd.lid = [] ∧ l.saved = []
  fresh : l.await = none
  clean : ∀ e ∈ s.cores, ∀ x ∈ e.2.lines, x.lid ≠ l.rcd.lid
  cxl : s.cxlAwait = []
  fabric : s.fabric = []

/-- STATUS of an ended launch (02 R42): STATE, TIMEDEP, CODE and BLOCK. -/
def finalStatus (l : Launch) : Nat :=
  let e := l.ended.getD (2, 0, 0)
  (e.2.2 * 2 ^ 32 + e.2.1 * 2 ^ 16 + (if l.timedep then 16 else 0) + e.1) % 2 ^ 64

end Sys2Proof.Claims

/-- A launch from request to completion: a LAUNCH message waits at its die; the die that holds the token refuses or accepts what waits, and
STATUS becomes 1; the launch of highest class and earliest acceptance places its next block on the core with the fewest crews; blocks are
saved, complete or stop, and a failed launch's stores remain; the launch ends with its STATUS and completion. Suspension, resumption and kills act on
a context's launches; SDONE reads 1 once no block of it is resident (02 R38 to R52, R59, 10 R255, R256, 19 R347). A kill answers a relayed host
request with an abort (DEDUCED, log 60). -/
def Obligations.LaunchEvents : Prop :=
  (∀ s m die va ctx, s.inbound m = true → Completes (.launch m die va ctx) s (fun s' =>
    s' = { s with replays := s'.replays, seq := s'.seq, waiting := s.waiting ++ [{ id := s.seq, die := die % 4, va := va, ctx := ctx % 64, from_ := .host m }] })) ∧
  (∀ s m die va ctx, s.inbound m = false →
    (s.portUp m.port = true → Completes (.launch m die va ctx) s (fun s' => Dropped s s' m.port)) ∧
    (s.portUp m.port = false → Completes (.launch m die va ctx) s (fun s' => s' = s))) ∧
  (∀ s, (∀ q ∈ s.waiting, q.die ≠ s.token) → Completes .acceptanceToken s (fun s' => s' = { s with token := (s.token + 1) % 4 })) ∧
  (∀ s q, OnlyRequest s q → q.va.toNat % 256 ≠ 0 →
    (∀ m, q.from_ = .host m → Answers s m → Completes .acceptanceToken s (fun s' =>
      s' = { s with waiting := [], token := (s.token + 1) % 4, outbox := s.outbox ++ [.refuse m 2] })) ∧
    (∀ core slot t pd len, Asks s q core slot t pd len → Completes .acceptanceToken s (fun s' => s'.launches = s.launches ∧
      s'.waiting = [] ∧ Answered s' core slot t pd len false))) ∧
  (∀ s q pa leaf v pa' leaf' l', OnlyRequest s q → q.va.toNat % 256 = 0 →
    s.plain q.ctx q.va 256 .read .kr = some (pa, leaf) → (∀ n, NoCopies s n) → s.readRun q.ctx (leafMac leaf) pa 256 4 = .ok v →
    launchBad v = false → s.ctxAllowed q (launchRec v).ctx = true → s.launch? (launchRec v).lid = none →
    s.plain q.ctx (addOff q.va 0xA8) 8 .write .ls = some (pa', leaf') → s.locate pa' = .ok l' → Sealed s q.ctx leaf' pa' →
    (∀ m, q.from_ = .host m → Completes .acceptanceToken s (fun s' => s'.waiting = [] ∧
      (∃ n, s'.launches = s.launches ++ [newLaunch (launchRec v) q n]) ∧ s'.readPa q.ctx (leafMac leaf') pa' 8 = .ok 1)) ∧
    (∀ core slot t pd len, Asks s q core slot t pd len → Completes .acceptanceToken s (fun s' => s'.waiting = [] ∧
      (∃ n, s'.launches = s.launches ++ [newLaunch (launchRec v) q n]) ∧ s'.readPa q.ctx (leafMac leaf') pa' 8 = .ok 1 ∧
      Answered s' core slot t pd len true))) ∧
  (∀ s l, Head s l → l.rcd.det = false → l.saved = [] → l.rcd.top = 2 → l.rcd.size 1 ≤ 64 → (∀ n, (s.core n).block? l.rcd.lid l.next = none) →
    (∃ core, core < 256 ∧ (s.putBlock core l.rcd.lid l.next).isSome) →
    Completes .blockPlacement s (fun s' => ∃ core b, core < 256 ∧ Placed s' core l.rcd l.next b ∧
      (∀ n, n < 256 → (s.putBlock n l.rcd.lid l.next).isSome →
        (s.core core).crews.length < (s.core n).crews.length ∨ (s.core core).crews.length = (s.core n).crews.length ∧ core ≤ n) ∧
      (s'.launch? l.rcd.lid).map (·.next) = some (l.next + 1))) ∧
  (∀ s core b l, Savable s core b l → Completes (.preemption b.lid b.index) s (fun s' => SavedIs s s' core b l)) ∧
  (∀ s lid l c n, s.launch? lid = some l → l.ended = some (3, c, n) → Completes (.launchFailure lid) s (fun s' =>
    (∀ k, (∀ b ∈ (s'.core k).blocks, b.lid ≠ lid) ∧ tget (s'.core k).shares lid = none ∧ ∀ x ∈ (s'.core k).lines, x.lid ≠ lid) ∧
    (s'.launch? lid).map (·.saved) = some [] ∧
    (∀ k w, k ≠ lid → s.launch? k = some w → lid ∈ w.rcd.preds → w.ended = none → w.next = 0 → w.logical = [] →
      s'.launch? k = some { w with ended := some (4, 1, 0) }) ∧
    ∀ core y i x, s.residents lid = [] → l.saved = [] →
      s.cores.flatMap (fun e => (e.2.lines.filter (fun z => z.lid == lid)).map (fun z => (e.1, z))) = [(core, y)] → y.upd = none → i < 128 →
      y.dirty = 1#128 <<< i → s.locate (y.addr * 128 + i) = .ok x → Sealed s y.last.2.2.2.2 y.leaf (y.addr * 128 + i / 32 * 32) →
      WrittenAt s s' y.last.2.2.2.2 (leafMac y.leaf) (y.addr * 128 + i) 1 (lineBytes y.data i 1))) ∧
  (∀ s core b l, s.home? b.lid b.index = some core → (s.core core).block? b.lid b.index = some b → s.launch? b.lid = some l →
    (s.drained core b = true → Completes (.blockCompletion b.lid b.index) s (fun s' =>
      (s'.core core).block? b.lid b.index = none ∧ (b.lid, b.index) ∉ (s'.core core).tracker ∧
      s'.launch? b.lid = some { l with done := l.done + 1 } ∧
      ((∀ x ∈ (s.core core).blocks, x.lid = b.lid → x.index = b.index) →
        tget (s'.core core).shares b.lid = none ∧ ∀ x ∈ (s'.core core).lines, x.lid ≠ b.lid) ∧
      ((∃ x ∈ (s.core core).blocks, x.lid = b.lid ∧ x.index ≠ b.index) → (s'.core core).shares = (s.core core).shares) ∧
      (l.saved = [] → ∀ k, k ≠ core → (∀ x ∈ (s.core k).blocks, x.lid ≠ b.lid) → tget (s'.core k).shares b.lid = none))) ∧
    (s.drained core b = false → Completes (.blockCompletion b.lid b.index) s (fun s' => s' = s))) ∧
  (∀ s l pa leaf x, Finished s l → (∀ n, NoCopies s n) → s.plain l.home (addOff l.va 0xA8) 8 .write .ls = some (pa, leaf) →
    s.locate pa = .ok x → Sealed s l.home leaf pa →
    (l.rcd.tkind = 0 → Completes (.launchCompletion l.rcd.lid) s (fun s' =>
      s'.readPa l.home (leafMac leaf) pa 8 = .ok (finalStatus l) ∧ s'.launch? l.rcd.lid = none)) ∧
    (∀ pa' leaf' x', l.rcd.tkind = 1 →
      (s.setStatus l.home l.va l.status).plain l.rcd.ctx l.rcd.tgt 8 .write .ls = some (pa', leaf') → s.locate pa' = .ok x' →
      Sealed (s.setStatus l.home l.va l.status) l.rcd.ctx leaf' pa' →
      Completes (.launchCompletion l.rcd.lid) s (fun s' => s'.launch? l.rcd.lid = none ∧
        s'.readPa l.rcd.ctx (leafMac leaf') pa' 8 = .ok (if l.ended = none then l.rcd.cval.toNat else 2 ^ 64 - 1)))) ∧
  (∀ s lid l, s.launch? lid = some l → l.ended = none → l.done ≠ l.rcd.blocks →
    Completes (.launchCompletion lid) s (fun s' => s' = s)) ∧
  (∀ s ctx, ctx < 64 →
    ((∀ e ∈ s.cores, ∀ b ∈ e.2.blocks, (s.rcd b.lid).ctx ≠ ctx) → Completes (.ctxctlSuspend ctx) s (fun s' =>
      s' = { s with cw := s'.cw } ∧ s'.ctxctl ctx = s.ctxctl ctx ||| 8 ∧ s'.cwRead8 0 (0x50030 + ctx * 0x40) / 16 % 2 = 1)) ∧
    (∀ core b l, Savable s core b l → (∀ e ∈ s.cores, ∀ x ∈ e.2.blocks, (s.rcd x.lid).ctx = ctx ↔ x = b) →
      Completes (.ctxctlSuspend ctx) s (fun s' => s'.ctxctl ctx = s.ctxctl ctx ||| 8 ∧ s'.home? b.lid b.index = none)) ∧
    Completes (.ctxctlResume ctx) s (fun s' => s' = { s with cw := s'.cw } ∧ s'.ctxctl ctx = s.ctxctl ctx &&& ~~~8) ∧
    Completes (.killContext ctx) s (fun s' => (s'.ctxctl ctx).getLsbD 0 = false ∧ ctx ∈ s'.killing ∧ s'.cores = s.cores ∧
      (∀ f ∈ s'.fabric, f.ctx ≠ ctx ∧ ∀ m n, n < 256 → f.for_ ≠ .host m (some (ctx, n))) ∧
      (∀ f ∈ s.fabric, f.ctx ≠ ctx → (∀ m n, f.for_ ≠ .host m (some (ctx, n))) → (∀ g ∈ s.fabric, g.id = f.id → g = f) → f ∈ s'.fabric) ∧
      (∀ f ∈ s.fabric, f.ctx = ctx → ∀ m e, f.for_ = .host m e → Answers s m → .rsp m none ∈ s'.outbox) ∧
      s'.launches = s.launches.map (fun l => if l.rcd.ctx = ctx then { l with ended := some (l.ended.getD (3, 0x100, 0)) } else l))) ∧
  (∀ s owner, Completes (.killOwner owner) s (fun s' => s'.cores = s.cores ∧
    (∀ c, c < 64 → s'.ctxctl c = if s.owner c = owner then s.ctxctl c &&& ~~~1 else s.ctxctl c) ∧
    ∀ k l, s.launch? k = some l → l.rcd.ctx < 64 → s'.launch? k = some (if s.owner l.rcd.ctx = owner then
      { l with ended := some (l.ended.getD (3, 0x100, 0)) } else l)))

namespace Sys2Proof.Claims

/-- The checks of an MRD, an MWR or an RDMA access (19 R339). -/
def HostMay (s : State) (tag : BitVec 16) (ctx : Nat) (va : DWord) (n : Nat) : Prop :=
  (s.ctxctl ctx).getLsbD 0 = true ∧ (tag = 0 ∨ tag = s.owner ctx) ∧ 1 ≤ n ∧ n ≤ 256 ∧ va.toNat % 256 + n ≤ 256

/-- An access from outside reaches n bytes of memory at pa, in one granule, with RID 0 and after the checks of an LS access (19 R339,
R345); no share holds a copy. -/
structure Reaches (s : State) (ctx va n : Nat) (w : Acc) (pa : Nat) (leaf : DWord) : Prop where
  low : va < 0x00FD000000000000
  some_ : 1 ≤ n
  page : va % 65536 + n ≤ 65536
  place : ∃ e, s.resolve 0 0 ctx [] false .other (BitVec.ofNat 64 va) n w .ls = .ok (.mem pa leaf, e)
  granule : pa % 64 + n ≤ 64
  copies : ∀ line, NoCopies s line
  located : ∃ l, s.locate pa = .ok l

/-- An export entry opens n bytes at an offset to a peer, and its range begins at a VA (19 R343, R345). -/
def Exports (s : State) (tag : BitVec 16) (ctx xidx off n : Nat) (perm : Nat) (va : Nat) : Prop :=
  let w := s.windowEntry ctx xidx
  w.2.getLsbD 63 = true ∧ w.2.getLsbD 62 = true ∧ w.2.extractLsb' 56 4 = 0 ∧ w.2.extractLsb' 32 8 = 0 ∧ w.2.extractLsb' 24 8 = 0 ∧
    w.2.extractLsb' 40 16 = tag ∧ (ctx, xidx) ∉ s.revoking ∧ off + n ≤ (w.2.extractLsb' 0 24).toNat * 65536 ∧
    w.2.getLsbD perm = true ∧ va = (w.1.extractLsb' 0 56).toNat + off

/-- No core holds an update-only copy of the line of a window-table entry, so that a request that reads the entry sends none (08 R189). -/
def EntryQuiet (s : State) (ctx xidx : Nat) : Prop :=
  ∀ c ∈ s.cores, ∀ l ∈ c.2.lines, l.addr = ((s.cw8 0 (0x51000 + ctx * 8)).toNat + xidx * 16) / 128 → l.upd = none

/-- A read from outside is answered with its bytes, and memory and the core stores are as before. -/
def ReadAnswered (s s' : State) (m : Msg) : Prop := s'.outbox = s.outbox ++ [m] ∧ MemorySame s s' ∧ StoresSame s s'

/-- A message is answered, and nothing else happens, but that a flit which passes ends a run of failed replays on its port (19 R342). -/
def OnlyAnswer (s s' : State) (m : Msg) : Prop := s' = { s with replays := s'.replays, outbox := s.outbox ++ [m] }

/-- The messages that pass the key table of their port (19 R340, R341). -/
def inbounds (m : Sender) : Instr → Prop
  | .rsp k _ _ | .mrd k _ _ _ | .mwr k _ _ _ | .crd k _ _ _ | .cwr k _ _ _ _ | .wrd k _ _ _ _ | .wwr k _ _ _ _ | .fabricProtocolViolation k => k = m
  | _ => False

/-- The binding of a queue pair (19 R350): valid, with the context and the owner. -/
def Bound_ (s : State) (port qp ctx : Nat) (tag : BitVec 16) : Prop :=
  let b := s.cw4 (port / 2) (0x80000 + port % 2 * 0x10000 + qp * 8)
  b.getLsbD 31 = true ∧ ctx = (b.extractLsb' 16 6).toNat ∧ tag = b.extractLsb' 0 16

/-- A plain register of the control window after a write of 4 bytes: the table's bits take the value's (19 R358). -/
def RegisterIs (s s' : State) (die off : Nat) (mask v : Word) : Prop :=
  s'.cw4 die off = (s.cw4 die off &&& ~~~mask) ||| (v &&& mask)

end Sys2Proof.Claims

/-- What comes in at the ports: host reads and writes of memory and of the control window, window requests, RDMA accesses and responses are
checked, performed at the point of coherence and answered, and refused with an abort; what a port's key table does not admit is dropped and
counted; a request that expires ends with an abort and a record; a link that goes down; a protocol violation kills its owner's contexts; a
revoked export entry opens nothing (19 R338 to R350, R358). Time runs in steps (DESIGN CHOICE, log 9); port 18 is the management controller's, which
reads the control window without a key (DESIGN CHOICE, log 58); a die above 3 and a read of no byte are answered with an abort (DESIGN CHOICE, log
106). -/
def Obligations.FabricEvents : Prop :=
  (∀ s m i, inbounds m i → m.port ≠ 18 → s.inbound m = false →
    (s.portUp m.port = true → Completes i s (fun s' => Dropped s s' m.port)) ∧
    (s.portUp m.port = false → Completes i s (fun s' => s' = s))) ∧
  (∀ s m ctx va n, s.inbound m = true →
    (∀ pa leaf v, HostMay s m.tag (ctx % 64) va n → Reaches s (ctx % 64) (va.toNat % 2 ^ 56) n .read pa leaf →
      s.readPa (ctx % 64) (leafMac leaf) pa n = .ok v →
      Completes (.mrd m ctx va n) s (fun s' => ReadAnswered s s' (.rsp m (some (bytesOf v n))))) ∧
    (¬HostMay s m.tag (ctx % 64) va n → Completes (.mrd m ctx va n) s (fun s' => OnlyAnswer s s' (.rsp m none))) ∧
    (∀ pa leaf d, d.length = n → HostMay s m.tag (ctx % 64) va n → Reaches s (ctx % 64) (va.toNat % 2 ^ 56) n .write pa leaf →
      Sealed s (ctx % 64) leaf pa →
      Completes (.mwr m ctx va d) s (fun s' => s'.outbox = s.outbox ++ [.ack m] ∧ StoresSame s s' ∧
        WrittenAt s s' (ctx % 64) (leafMac leaf) pa n (natOf d))) ∧
    (∀ d, d.length = n → ¬HostMay s m.tag (ctx % 64) va n →
      Completes (.mwr m ctx va d) s (fun s' => OnlyAnswer s s' (.rsp m none)))) ∧
  (∀ s m die off n v, s.inbound m = true →
    (m.tag = 0 ∧ (n = 4 ∨ n = 8) ∧ off % n = 0 ∧ die < 4 →
      Completes (.crd m die off n) s (fun s' => OnlyAnswer s s' (.rsp m (some (bytesOf (s.cwRead die off n) n))))) ∧
    (¬(m.tag = 0 ∧ (n = 4 ∨ n = 8) ∧ off % n = 0 ∧ die < 4) →
      (m.port ≠ 18 → Completes (.crd m die off n) s (fun s' => OnlyAnswer s s' (.rsp m none))) ∧
      Completes (.cwr m die off n v) s (fun s' => OnlyAnswer s s' (.rsp m none))) ∧
    (m.tag = 0 → die < 4 → Completes (.cwr m die 0x71010 4 v) s (fun s' =>
      s' = { s with cw := s'.cw, replays := s'.replays, outbox := s.outbox ++ [.ack m] } ∧ RegisterIs s s' die 0x71010 0xFFFFFFFF (v.setWidth 32)))) ∧
  (∀ s m die off n, m.port = 18 → Completes (.crd m die off n) s (fun s' => OnlyAnswer s s' (.rsp { m with tag := 0 }
    (if (n = 4 ∨ n = 8) ∧ off % n = 0 ∧ die < 4 then some (bytesOf (s.cwRead die off n) n) else none)))) ∧
  (∀ s die v k p e, die < 4 →
    Completes (.controlRegisterWrite die 0x71010 4 v) s (fun s' =>
      s' = { s with cw := s'.cw } ∧ RegisterIs s s' die 0x71010 0xFFFFFFFF (v.setWidth 32)) ∧
    (k < 1024 → Completes (.controlRegisterWrite die (0x40000 + 4 * k) 4 v) s (fun s' =>
      s' = { s with cw := s'.cw } ∧ RegisterIs s s' die (0x40000 + 4 * k) 0xC03F (v.setWidth 32))) ∧
    (p < 18 → e < 8 → portDie p = die → Completes (.controlRegisterWrite die (0x70000 + p * 0x40 + 4 * e) 4 v) s (fun s' =>
      s' = { s with cw := s'.cw } ∧ RegisterIs s s' die (0x70000 + p * 0x40 + 4 * e) 0x8000FFFF (v.setWidth 32)))) ∧
  (∀ s die off size v, ¬((size = 4 ∨ size = 8) ∧ off % size = 0 ∧ die < 4) →
    Completes (.controlRegisterWrite die off size v) s (fun s' => s' = { s with outbox := s.outbox ++ [.management 4 []] })) ∧
  (∀ s p, p < 18 →
    Completes (.pkdropClear p) s (fun s' => s' = { s with cw := s'.cw } ∧ s'.cw4 (portDie p) (0x70020 + p * 0x40) = 0) ∧
    Completes (.linkDown p) s (fun s' => s' = { s with cw := s'.cw, replays := s'.replays, outbox := s'.outbox } ∧ Raised s' 1 p ∧
      s'.portUp p = false ∧ ∀ q, q < 18 → q ≠ p → s'.portUp q = s.portUp q)) ∧
  (∀ s m ctx xidx off n, s.inbound m = true →
    (∀ va pa leaf v, Exports s m.tag (ctx % 64) (xidx % 256) off n 60 va → Reaches s (ctx % 64) va n .read pa leaf →
      s.readPa (ctx % 64) (leafMac leaf) pa n = .ok v →
      Completes (.wrd m ctx xidx off n) s (fun s' => ReadAnswered s s' (.rsp m (some (bytesOf v n))))) ∧
    ((∀ va, ¬Exports s m.tag (ctx % 64) (xidx % 256) off n 60 va) → EntryQuiet s (ctx % 64) (xidx % 256) →
      Completes (.wrd m ctx xidx off n) s (fun s' => ∃ w, SlicesOnly s w ∧ OnlyAnswer w s' (.rsp m none))) ∧
    (∀ va pa leaf d, d.length = n → Exports s m.tag (ctx % 64) (xidx % 256) off n 61 va → Reaches s (ctx % 64) va n .write pa leaf →
      Sealed s (ctx % 64) leaf pa →
      Completes (.wwr m ctx xidx off d) s (fun s' => s'.outbox = s.outbox ++ [.ack m] ∧ StoresSame s s' ∧
        WrittenAt s s' (ctx % 64) (leafMac leaf) pa n (natOf d))) ∧
    (∀ d, d.length = n → (∀ va, ¬Exports s m.tag (ctx % 64) (xidx % 256) off n 61 va) → EntryQuiet s (ctx % 64) (xidx % 256) →
      Completes (.wwr m ctx xidx off d) s (fun s' => ∃ w, SlicesOnly s w ∧ OnlyAnswer w s' (.rsp m none)))) ∧
  (∀ s m req data, s.inbound m = true → (∀ f ∈ s.fabric, f.id ≠ req) →
    Completes (.rsp m req data) s (fun s' => s' = { s with replays := s'.replays }) ∧
    Completes (.fabricRequestTimeout req) s (fun s' => s' = s)) ∧
  (∀ s m f, s.inbound m = true → s.fabric = [f] →
    (∀ core id k share lid block slot tid pc l d, f.for_ = .load core id k share lid block slot tid pc → s.time < f.expires →
      (s.core core).load? l.id = some l → (∀ y ∈ (s.core core).loads, y.id = l.id → y = l) →
      l.id = id ∨ share ≠ none ∧ l.req = share → l.overlaid = [] →
      Completes (.rsp m f.id (some d)) s (fun s' => s'.fabric = [] ∧
        OnlyCore core { s with fabric := [], replays := s'.replays } s' ∧ StoresSame s s' ∧
        (s'.core core).load? l.id = some { l with
          data := some (loadValue l.size l.signed (natOf ((d.drop (l.va.toNat % 128 - f.va.toNat % 128)).take l.size))) })) ∧
    (∀ port qp, f.for_ = .rdma port qp →
      Completes (.rsp m f.id none) s (fun s' => s'.fabric = [] ∧ StoresSame s s' ∧ s'.outbox.getLast? = some (.rdma port qp none)) ∧
      (f.expires ≤ s.time →
        Completes (.fabricRequestTimeout f.id) s (fun s' =>
          s'.fabric = [] ∧ StoresSame s s' ∧ s'.outbox.getLast? = some (.rdma port qp none)) ∧
        ∀ d, Completes (.rsp m f.id (some d)) s (fun s' =>
          s'.fabric = [] ∧ StoresSame s s' ∧ s'.outbox.getLast? = some (.rdma port qp none)))) ∧
    (∀ core lid block slot tid pc pa, f.for_ = .write core lid block slot tid pc → AreaFree s f.ctx pa → f.expires ≤ s.time →
      Completes (.fabricRequestTimeout f.id) s (fun s' => s'.fabric = [] ∧ StoresSame s s' ∧
        RecordAt s s' f.ctx pa f.va.toNat pc.toNat block (2 ^ 31 + 9 * 2 ^ 24 + core * 2 ^ 16 + 2 ^ 12 + tid))) ∧
    (s.time < f.expires → Completes (.fabricRequestTimeout f.id) s (fun s' => s' = s))) ∧
  (∀ s m, s.inbound m = true → Completes (.fabricProtocolViolation m) s (fun s' => s'.cores = s.cores ∧
    ∀ c, c < 64 → s'.ctxctl c = if s.owner c = m.tag then s.ctxctl c &&& ~~~1 else s.ctxctl c)) ∧
  (∀ s port qp va ctx tag n d, s.boot = .running → port < 8 → qp < 256 → Bound_ s port qp ctx tag →
    (∀ pa leaf v, HostMay s tag ctx va n → Reaches s ctx (va.toNat % 2 ^ 56) n .read pa leaf → s.readPa ctx (leafMac leaf) pa n = .ok v →
      Completes (.rdmaAccess port qp va (.read n)) s (fun s' => ReadAnswered s s' (.rdma port qp (some (bytesOf v n))))) ∧
    (∀ pa leaf, HostMay s tag ctx va d.length → Reaches s ctx (va.toNat % 2 ^ 56) d.length .write pa leaf → Sealed s ctx leaf pa →
      Completes (.rdmaAccess port qp va (.write d)) s (fun s' => s'.outbox = s.outbox ++ [.rdma port qp (some [])] ∧ StoresSame s s' ∧
        WrittenAt s s' ctx (leafMac leaf) pa d.length (natOf d))) ∧
    (¬HostMay s tag ctx va n →
      Completes (.rdmaAccess port qp va (.read n)) s (fun s' => OnlyAnswer s s' (.rdma port qp none)))) ∧
  (∀ s ctx idx, Completes (.fwrevRevoke ctx idx) s (fun s' => (ctx, idx) ∈ s'.revoking ∧ s'.cores = s.cores ∧ MemorySame s s' ∧
    (∀ tag off n perm va, ¬Exports s' tag ctx idx off n perm va) ∧
    ∀ f ∈ s.fabric, ∀ m, f.for_ = .host m (some (ctx, idx)) → f ∉ s'.fabric ∧ (Answers s m → .rsp m none ∈ s'.outbox))) ∧
  (∀ s unit, Completes (.routerFailure unit) s (fun s' => Raised s' 1 unit ∧ s'.cores = s.cores ∧ MemorySame s s' ∧
    s'.launches = s.launches))

/-- After reset nothing is resident, and the registers hold their tables' values (09 R204, R216, 19 R340, R342, R354, R356); a running package
would have a verified firmware (19 R354). RESET starts a firmware that verifies, with every link up, and else waits for an image; what lies in
non-volatile storage stays. FREEZE, a debugger, the lifetime records, context keys and attestation act as 19 R351 to R355 and 09 R219, R220
give. That an unlisted byte of memory reads 0 after reset is the model's choice (DESIGN CHOICE, log 2); what RESET clears and keeps is read from the
rules (DEDUCED, log 57), and the form of a report and of the lifetime records is chosen (DESIGN CHOICE, logs 58 and 67). -/
def Obligations.ResetState : Prop :=
  State.reset.boot = .rom ∧ State.reset.Trusted ∧ State.reset.cores = [] ∧ State.reset.launches = [] ∧ State.reset.frozen = false ∧
  (∀ die, State.reset.cw4 die 0x20100 = 0x10101010 ∧ State.reset.cw4 die 0x71010 = 8000000) ∧
  (∀ island, island < 128 → islop State.reset island = 0x000D000D) ∧
  (∀ p, p < 18 → State.reset.portUp p = false ∧ ∀ e, e < 8 →
    State.reset.cw4 (portDie p) (0x70000 + p * 0x40 + 4 * e) = if e = 0 then 0x80000000 else 0) ∧
  (∀ ctx, ctx < 64 → State.reset.ctxctl ctx = 0) ∧
  (∀ s, (s.fwImage.verifies = true → Completes .reset s (fun s' => s'.boot = .running ∧ (∀ p, p < 18 → s'.portUp p = true) ∧
      s' = { State.reset with
        cw := s'.cw, boot := .running, fwImage := s.fwImage, life := s.life, spares := s.spares, retired := s.retired
        agenda := s.agenda, assign := s.assign, free := s.free, seq := s.seq })) ∧
    (s.fwImage.verifies = false → Completes .reset s (fun s' => s'.boot = .refused ∧ ∀ p, p < 18 → s'.portUp p = false))) ∧
  (∀ s image, (s.boot = .refused → image.verifies = true → Completes (.firmwareImageLoad image) s (fun s' =>
      (∀ p, p < 18 → s'.portUp p = true) ∧ s' = { State.reset with
        cw := s'.cw, boot := .running, fwImage := image, life := s.life, spares := s.spares, retired := s.retired
        agenda := s.agenda, assign := s.assign, free := s.free, seq := s.seq })) ∧
    (s.boot = .refused → image.verifies = false → Completes (.firmwareImageLoad image) s (fun s' =>
      (∀ p, p < 18 → s'.portUp p = false) ∧ s' = { State.reset with
        boot := .refused, fwImage := image, life := s.life, spares := s.spares, retired := s.retired
        agenda := s.agenda, assign := s.assign, free := s.free, seq := s.seq })) ∧
    (s.boot ≠ .refused → Completes (.firmwareImageLoad image) s (fun s' => s' = s))) ∧
  (∀ s, Completes .freeze s (fun s' => s' = { s with frozen := true }) ∧
    (s.frozen = true → (∀ rest, s.agenda ≠ .happen .reset :: rest) → step s = .fault .frozen) ∧
    (∀ rest, s.frozen = true → s.agenda = .happen .reset :: rest → step s = exec .reset { s with agenda := rest, cur := none }) ∧
    Completes .lifetimeRecordRead s (fun s' => OnlyAnswer s s' (.lifetime s.life))) ∧
  (∀ s items, Completes (.lifetimeRecordUpdate items) s (fun s' =>
    s' = { s with
      life := if s.boot = .running then s.life ++ s.tally ++ items.filter sensed else s.life
      tally := if s.boot = .running then [] else s.tally })) ∧
  (∀ s ctx key, Completes (.contextKeyLoad ctx key) s (fun s' => s' = { s with keys := s'.keys } ∧
    ∀ c, tget s'.keys c = if s.boot = .running ∧ ctx < 64 ∧ c = ctx then some key else tget s.keys c)) ∧
  (∀ s core, Completes (.debugHalt core) s (fun s' => s' = { s with halted := s'.halted } ∧ core ∈ s'.halted ∧ s'.readyThreads core = []) ∧
    Completes (.debugResume core) s (fun s' => s' = { s with halted := s.halted.filter (· != core) } ∧ core ∉ s'.halted)) ∧
  (∀ s m nonce, m.port = 18 → s.boot = .running → Completes (.attestationRequest m nonce) s (fun s' => ∃ b,
    OnlyAnswer s s' (.report m b) ∧ b.length = 184 ∧ b.take 24 = bytesOf Config.serial.toNat 16 ++ bytesOf s.fwImage.version.toNat 8 ∧
    (b.drop 24).take 32 = bytesOf s.fwImage.sha.toNat 32 ∧ (b.drop 88).take 32 = bytesOf nonce.toNat 32)) ∧
  (∀ s m nonce, m.tag ≠ 0 → m.port ≠ 18 → s.inbound m = true → Completes (.attestationRequest m nonce) s (fun s' =>
    s' = { s with replays := s'.replays }))

namespace Sys2Proof.Claims

/-- The state in which a step acts when nothing is due: the bounds of time and what has come about of itself are settled. -/
def settled (s : State) : State := s.tick.settle

/-- The instruction of a selected group is decoded from the bytes at its PC: it runs at the state that the fetch leaves, with the group
selected. A reserved encoding traps, in a group of one thread whose launch has a handler, with ILLEGAL_INSTRUCTION (03 R80). -/
def RunsDecoded (s u : State) (g : Group) : Prop :=
  ∀ v l, (u.begin g (u.isArith g)).fetch g.core g.lid g.pc = .bytes v l →
    (∀ i n, decode l = .ok (i, n) → i.wf = true ∧ step s = exec i { v with cur := some g }) ∧
    (∀ r slot t, decode l = .error r → g.slots = [slot] → v.thread? g.core slot = some t → ((v.core g.core).crew? (slot / 64)).isSome →
      Handled v t → ∃ s', step s = .next s' ∧ Trapped v s' g.core slot t 0x01 t.pc)

/-- What a base word and the words after it decode to. -/
def reads (w : Word) (es : List DWord) : Except Reject (Instr × Nat) := decode (bytes32 w ++ es.flatMap bytes64)

/-- An X-form whose fields are all 0 and whose guard is PT. -/
def X0 : XOps where
  g := ⟨false, 7⟩
  a := 0
  b := 0
  c := 0
  d := 0
  sub := 0
  imm := 0
  te := false
  t := 0
  hold := 0
  la := 0
  lit := none

end Sys2Proof.Claims

/-- A step runs what moves next (DESIGN CHOICE, log 1): what is due for a load or a timed wake; else the first entry of the outside world's agenda, of
which a device whose firmware was refused takes a reset or an image only, and where a second erroneous byte in a granule is an uncorrectable
error (DESIGN CHOICE, log 77); else by turns a group that is ready or a happening of the device. Where that is a group, the instruction decoded from the bytes at its PC is
executed at the state its fetch leaves; a reserved encoding traps (03 R60, R80). Where nothing moves the package stands as it is. -/
def Obligations.StepRunsDecoded : Prop :=
  ∀ s, s.frozen = false →
    (∀ i, s.due = some i → step s = exec i { s with cur := none }) ∧
    (s.due = none →
      (∀ core arith rest g, (settled s).agenda = .issue core arith :: rest →
        ({ settled s with agenda := rest }).select core arith = some g → RunsDecoded s { settled s with agenda := rest } g) ∧
      (∀ i rest, (settled s).agenda = .happen i :: rest →
        (s.boot ≠ .refused ∨ i = .reset ∨ (∃ image, i = .firmwareImageLoad image) →
          step s = exec i { settled s with agenda := rest, cur := none }) ∧
        (s.boot = .refused → i ≠ .reset → (∀ image, i ≠ .firmwareImageLoad image) →
          step s = .next { settled s with agenda := rest, cur := none })) ∧
      (∀ pa rest l, (settled s).agenda = .upset pa :: rest → (settled s).locate pa = .ok l → (∀ b ∈ (settled s).bad, b.1 ≠ l.key) →
        l.key ∉ (settled s).soft →
        ((∀ b ∈ (settled s).soft, b / 64 ≠ l.key / 64) →
          step s = .next { settled s with agenda := rest, soft := (settled s).soft ++ [l.key], cur := none }) ∧
        ((∃ b ∈ (settled s).soft, b / 64 = l.key / 64) →
          step s = exec (.uncorrectableError (.memory pa)) { settled s with agenda := rest, cur := none })) ∧
      ((settled s).agenda = [] →
        (∀ i, (settled s).flip = true → (settled s).internal = some i →
          step s = exec i { settled s with flip := false, cur := none }) ∧
        (∀ g, ((settled s).flip = false ∨ (settled s).internal = none) →
          ({ settled s with flip := !(settled s).flip }).nextGroup = some g →
          RunsDecoded s { settled s with flip := !(settled s).flip } g) ∧
        (∀ i, (settled s).flip = false → ({ settled s with flip := true }).nextGroup = none → (settled s).internal = some i →
          step s = exec i { settled s with flip := true, cur := none }) ∧
        (({ settled s with flip := !(settled s).flip }).nextGroup = none → (settled s).internal = none →
          step s = .next { settled s with flip := !(settled s).flip, cur := none })))

/-- Decoding gives back what was encoded: every well-formed instruction, from the words that the spec's encoding gives it, whatever stands
after them, with every operand and with its length in bytes (03 R60 to R70). -/
def Obligations.DecodeEncode : Prop :=
  ∀ i rest, i.encoded = true → i.wf = true → decode (encode i ++ rest) = .ok (i, (encode i).length)

/-- Every word has one meaning: what decodes is well formed, and it is encoded by exactly the bytes that were decoded (03 R80: any bit that
an encoding reserves and that is not 0 is refused). -/
def Obligations.EncodeDecode : Prop :=
  ∀ l i n, decode l = .ok (i, n) → i.encoded = true ∧ i.wf = true ∧ n ≤ l.length ∧ encode i = l.take n

/-- A word that begins with one of these is refused, whatever the rest of it and the words after it say (03 R80): an opcode that the spec
gives no instruction; an S-form opcode above 0x2D; a guard of G = 7 with GN = 1, in either form; bit 31 of an X-form's base word; bits 31
and 30 of its extension word. -/
def Obligations.ReservedEncodings : Prop :=
  ∀ w : Word, ∀ rest,
    let op := (w.extractLsb' 2 7).toNat
    let xform := w.getLsbD 1
    ((op = 0x1F ∨ op = 0x2E ∨ op = 0x2F ∨ op = 0x3A ∨ 0x73 ≤ op) → (decode (bytes32 w ++ rest)).toOption = none) ∧
    (xform = false → (0x2E ≤ op ∨ w.extractLsb' 27 4 = 0xF) → (decode (bytes32 w ++ rest)).toOption = none) ∧
    (xform = true → w.getLsbD 31 = true → (decode (bytes32 w ++ rest)).toOption = none) ∧
    (xform = true → ∀ e : DWord, (e.extractLsb' 16 4 = 0xF ∨ e.extractLsb' 30 2 ≠ 0) →
      (decode (bytes32 w ++ bytes64 e ++ rest)).toOption = none)

/-- Words that the spec writes out stand for the instructions that it says (03 to 22, the assembled examples): IADD in three forms,
ISETP.LT, BRA, FFMA.BF16.RZ, LD.W, TWAIT, VOTE.BALLOT, JINIT, TRAP, SVC, REGION.END, BOINIT, MCLS and RGRP. -/
def Obligations.WordsDecode : Prop :=
  reads 0x38E30A08 [] = .ok (.iadd { g := ⟨false, 7⟩, hold := false, a := 6, b := 7, d := 5, lit := none }, 4) ∧
  reads 0x0302800A [0x0000000000070007] = .ok (.iaddX { X0 with a := 6, b := 7, d := 5 }, 12) ∧
  reads 0x50008209 [0x64] = .ok (.iadd { g := ⟨true, 2⟩, hold := false, a := 1, b := 0, d := 1, lit := some 100 }, 12) ∧
  reads 0x38612270 [] = .ok (.isetp { g := ⟨false, 7⟩, hold := false, a := 2, b := 3, cond := 2, pd := 1 }, 4) ∧
  reads 0x3FFFFA80 [] = .ok (.bra { g := ⟨false, 7⟩, off := -3 }, 4) ∧
  reads 0x008412DE [0x0000000100070302] = .ok (.ffma { X0 with a := 1, b := 2, c := 3, d := 8, sub := 9, imm := 1 }, 12) ∧
  reads 0x02048512 [0x0000001028370000] = .ok (.ld { X0 with a := 4, d := 9, sub := 2, imm := 16, te := true, t := 2, la := 3 }, 12) ∧
  reads 0x380100A4 [] = .ok (.twait { g := ⟨false, 7⟩, n := 2 }, 4) ∧
  reads 0x018204EE [0x0000000000070000] = .ok (.vote { X0 with a := 3, d := 4, sub := 2 }, 12) ∧
  reads 0x7F0000FF [0x0000000000070000, 0xFFFFFFFFFFFFFFFF] = .ok (.jinit { X0 with a := 0xFE, lit := some (-1) }, 20) ∧
  reads 0x38000AB0 [] = .ok (.trap { g := ⟨false, 7⟩, code := 5 }, 4) ∧
  reads 0x000001BE [0x0000000500070000] = .ok (.svc { X0 with imm := 5 }, 12) ∧
  reads 0x00000336 [0x0000000000070000] = .ok (.regionEnd { X0 with sub := 1 }, 12) ∧
  reads 0x0A00013B [0x00000010000700FE, 3] = .ok (.boinit { X0 with a := 0x14, b := 0xFE, imm := 16, lit := some 3 }, 20) ∧
  reads 0x00000182 [0x0000000300070000] = .ok (.mcls { X0 with imm := 3 }, 12) ∧
  reads 0x018501A2 [0x0000000800070000] = .ok (.rgrp { X0 with a := 3, d := 10, imm := 8 }, 12)

/-- No instruction changes what only the boot, the error handling, the management controller and a debugger may change: the boot stage, the
firmware image, the freeze, the lifetime record, spare and retired units, halted cores and the context keys (19 R351 to R358). Every step,
whatever moves in it, keeps the package trusted: it runs firmware only whose signature has been verified (19 R354). -/
def Obligations.VaultAndTrustKept : Prop :=
  (∀ i s s', i.encoded = true → exec i s = .next s' → s'.vault = s.vault) ∧
  (∀ s s', s.Trusted → step s = .next s' → s'.Trusted)
end

