-- ==== Sys2Proof/Laws/State.lean ====
section
/-! SUPPORT. One lemma per field per update of the state, of a core, a crew and a thread: no later proof unfolds a record update. -/

namespace Sys2Proof.Machine

@[simp] theorem State.setCore_mem (s : State) (n : Nat) (x : Core) : (s.setCore n x).mem = s.mem := rfl
@[simp] theorem State.setCore_gran (s : State) (n : Nat) (x : Core) : (s.setCore n x).gran = s.gran := rfl
@[simp] theorem State.setCore_bad (s : State) (n : Nat) (x : Core) : (s.setCore n x).bad = s.bad := rfl
@[simp] theorem State.setCore_soft (s : State) (n : Nat) (x : Core) : (s.setCore n x).soft = s.soft := rfl
@[simp] theorem State.setCore_cw (s : State) (n : Nat) (x : Core) : (s.setCore n x).cw = s.cw := rfl
@[simp] theorem State.setCore_am (s : State) (n : Nat) (x : Core) : (s.setCore n x).am = s.am := rfl
@[simp] theorem State.setCore_amBusy (s : State) (n : Nat) (x : Core) : (s.setCore n x).amBusy = s.amBusy := rfl
@[simp] theorem State.setCore_slotActive (s : State) (n : Nat) (x : Core) : (s.setCore n x).slotActive = s.slotActive := rfl
@[simp] theorem State.setCore_slotPending (s : State) (n : Nat) (x : Core) : (s.setCore n x).slotPending = s.slotPending := rfl
@[simp] theorem State.setCore_l2 (s : State) (n : Nat) (x : Core) : (s.setCore n x).l2 = s.l2 := rfl
@[simp] theorem State.setCore_sliceWait (s : State) (n : Nat) (x : Core) : (s.setCore n x).sliceWait = s.sliceWait := rfl
@[simp] theorem State.setCore_keys (s : State) (n : Nat) (x : Core) : (s.setCore n x).keys = s.keys := rfl
@[simp] theorem State.setCore_launches (s : State) (n : Nat) (x : Core) : (s.setCore n x).launches = s.launches := rfl
@[simp] theorem State.setCore_waiting (s : State) (n : Nat) (x : Core) : (s.setCore n x).waiting = s.waiting := rfl
@[simp] theorem State.setCore_token (s : State) (n : Nat) (x : Core) : (s.setCore n x).token = s.token := rfl
@[simp] theorem State.setCore_unresolved (s : State) (n : Nat) (x : Core) : (s.setCore n x).unresolved = s.unresolved := rfl
@[simp] theorem State.setCore_fabric (s : State) (n : Nat) (x : Core) : (s.setCore n x).fabric = s.fabric := rfl
@[simp] theorem State.setCore_outbox (s : State) (n : Nat) (x : Core) : (s.setCore n x).outbox = s.outbox := rfl
@[simp] theorem State.setCore_revoking (s : State) (n : Nat) (x : Core) : (s.setCore n x).revoking = s.revoking := rfl
@[simp] theorem State.setCore_killing (s : State) (n : Nat) (x : Core) : (s.setCore n x).killing = s.killing := rfl
@[simp] theorem State.setCore_boot (s : State) (n : Nat) (x : Core) : (s.setCore n x).boot = s.boot := rfl
@[simp] theorem State.setCore_fwImage (s : State) (n : Nat) (x : Core) : (s.setCore n x).fwImage = s.fwImage := rfl
@[simp] theorem State.setCore_frozen (s : State) (n : Nat) (x : Core) : (s.setCore n x).frozen = s.frozen := rfl
@[simp] theorem State.setCore_life (s : State) (n : Nat) (x : Core) : (s.setCore n x).life = s.life := rfl
@[simp] theorem State.setCore_tally (s : State) (n : Nat) (x : Core) : (s.setCore n x).tally = s.tally := rfl
@[simp] theorem State.setCore_tests (s : State) (n : Nat) (x : Core) : (s.setCore n x).tests = s.tests := rfl
@[simp] theorem State.setCore_replays (s : State) (n : Nat) (x : Core) : (s.setCore n x).replays = s.replays := rfl
@[simp] theorem State.setCore_spares (s : State) (n : Nat) (x : Core) : (s.setCore n x).spares = s.spares := rfl
@[simp] theorem State.setCore_retired (s : State) (n : Nat) (x : Core) : (s.setCore n x).retired = s.retired := rfl
@[simp] theorem State.setCore_halted (s : State) (n : Nat) (x : Core) : (s.setCore n x).halted = s.halted := rfl
@[simp] theorem State.setCore_cxlAwait (s : State) (n : Nat) (x : Core) : (s.setCore n x).cxlAwait = s.cxlAwait := rfl
@[simp] theorem State.setCore_islands (s : State) (n : Nat) (x : Core) : (s.setCore n x).islands = s.islands := rfl
@[simp] theorem State.setCore_agenda (s : State) (n : Nat) (x : Core) : (s.setCore n x).agenda = s.agenda := rfl
@[simp] theorem State.setCore_flip (s : State) (n : Nat) (x : Core) : (s.setCore n x).flip = s.flip := rfl
@[simp] theorem State.setCore_cur (s : State) (n : Nat) (x : Core) : (s.setCore n x).cur = s.cur := rfl
@[simp] theorem State.setCore_free (s : State) (n : Nat) (x : Core) : (s.setCore n x).free = s.free := rfl
@[simp] theorem State.setCore_time (s : State) (n : Nat) (x : Core) : (s.setCore n x).time = s.time := rfl
@[simp] theorem State.setCore_assign (s : State) (n : Nat) (x : Core) : (s.setCore n x).assign = s.assign := rfl
@[simp] theorem State.setCore_seq (s : State) (n : Nat) (x : Core) : (s.setCore n x).seq = s.seq := rfl

@[simp] theorem State.modCore_mem (s : State) (n : Nat) (g : Core → Core) : (s.modCore n g).mem = s.mem := rfl
@[simp] theorem State.modCore_gran (s : State) (n : Nat) (g : Core → Core) : (s.modCore n g).gran = s.gran := rfl
@[simp] theorem State.modCore_bad (s : State) (n : Nat) (g : Core → Core) : (s.modCore n g).bad = s.bad := rfl
@[simp] theorem State.modCore_soft (s : State) (n : Nat) (g : Core → Core) : (s.modCore n g).soft = s.soft := rfl
@[simp] theorem State.modCore_cw (s : State) (n : Nat) (g : Core → Core) : (s.modCore n g).cw = s.cw := rfl
@[simp] theorem State.modCore_am (s : State) (n : Nat) (g : Core → Core) : (s.modCore n g).am = s.am := rfl
@[simp] theorem State.modCore_amBusy (s : State) (n : Nat) (g : Core → Core) : (s.modCore n g).amBusy = s.amBusy := rfl
@[simp] theorem State.modCore_slotActive (s : State) (n : Nat) (g : Core → Core) : (s.modCore n g).slotActive = s.slotActive := rfl
@[simp] theorem State.modCore_slotPending (s : State) (n : Nat) (g : Core → Core) : (s.modCore n g).slotPending = s.slotPending := rfl
@[simp] theorem State.modCore_l2 (s : State) (n : Nat) (g : Core → Core) : (s.modCore n g).l2 = s.l2 := rfl
@[simp] theorem State.modCore_sliceWait (s : State) (n : Nat) (g : Core → Core) : (s.modCore n g).sliceWait = s.sliceWait := rfl
@[simp] theorem State.modCore_keys (s : State) (n : Nat) (g : Core → Core) : (s.modCore n g).keys = s.keys := rfl
@[simp] theorem State.modCore_launches (s : State) (n : Nat) (g : Core → Core) : (s.modCore n g).launches = s.launches := rfl
@[simp] theorem State.modCore_waiting (s : State) (n : Nat) (g : Core → Core) : (s.modCore n g).waiting = s.waiting := rfl
@[simp] theorem State.modCore_token (s : State) (n : Nat) (g : Core → Core) : (s.modCore n g).token = s.token := rfl
@[simp] theorem State.modCore_unresolved (s : State) (n : Nat) (g : Core → Core) : (s.modCore n g).unresolved = s.unresolved := rfl
@[simp] theorem State.modCore_fabric (s : State) (n : Nat) (g : Core → Core) : (s.modCore n g).fabric = s.fabric := rfl
@[simp] theorem State.modCore_outbox (s : State) (n : Nat) (g : Core → Core) : (s.modCore n g).outbox = s.outbox := rfl
@[simp] theorem State.modCore_revoking (s : State) (n : Nat) (g : Core → Core) : (s.modCore n g).revoking = s.revoking := rfl
@[simp] theorem State.modCore_killing (s : State) (n : Nat) (g : Core → Core) : (s.modCore n g).killing = s.killing := rfl
@[simp] theorem State.modCore_boot (s : State) (n : Nat) (g : Core → Core) : (s.modCore n g).boot = s.boot := rfl
@[simp] theorem State.modCore_fwImage (s : State) (n : Nat) (g : Core → Core) : (s.modCore n g).fwImage = s.fwImage := rfl
@[simp] theorem State.modCore_frozen (s : State) (n : Nat) (g : Core → Core) : (s.modCore n g).frozen = s.frozen := rfl
@[simp] theorem State.modCore_life (s : State) (n : Nat) (g : Core → Core) : (s.modCore n g).life = s.life := rfl
@[simp] theorem State.modCore_tally (s : State) (n : Nat) (g : Core → Core) : (s.modCore n g).tally = s.tally := rfl
@[simp] theorem State.modCore_tests (s : State) (n : Nat) (g : Core → Core) : (s.modCore n g).tests = s.tests := rfl
@[simp] theorem State.modCore_replays (s : State) (n : Nat) (g : Core → Core) : (s.modCore n g).replays = s.replays := rfl
@[simp] theorem State.modCore_spares (s : State) (n : Nat) (g : Core → Core) : (s.modCore n g).spares = s.spares := rfl
@[simp] theorem State.modCore_retired (s : State) (n : Nat) (g : Core → Core) : (s.modCore n g).retired = s.retired := rfl
@[simp] theorem State.modCore_halted (s : State) (n : Nat) (g : Core → Core) : (s.modCore n g).halted = s.halted := rfl
@[simp] theorem State.modCore_cxlAwait (s : State) (n : Nat) (g : Core → Core) : (s.modCore n g).cxlAwait = s.cxlAwait := rfl
@[simp] theorem State.modCore_islands (s : State) (n : Nat) (g : Core → Core) : (s.modCore n g).islands = s.islands := rfl
@[simp] theorem State.modCore_agenda (s : State) (n : Nat) (g : Core → Core) : (s.modCore n g).agenda = s.agenda := rfl
@[simp] theorem State.modCore_flip (s : State) (n : Nat) (g : Core → Core) : (s.modCore n g).flip = s.flip := rfl
@[simp] theorem State.modCore_cur (s : State) (n : Nat) (g : Core → Core) : (s.modCore n g).cur = s.cur := rfl
@[simp] theorem State.modCore_free (s : State) (n : Nat) (g : Core → Core) : (s.modCore n g).free = s.free := rfl
@[simp] theorem State.modCore_time (s : State) (n : Nat) (g : Core → Core) : (s.modCore n g).time = s.time := rfl
@[simp] theorem State.modCore_assign (s : State) (n : Nat) (g : Core → Core) : (s.modCore n g).assign = s.assign := rfl
@[simp] theorem State.modCore_seq (s : State) (n : Nat) (g : Core → Core) : (s.modCore n g).seq = s.seq := rfl

@[simp] theorem State.modThread_mem (s : State) (n i : Nat) (g : Thread → Thread) : (s.modThread n i g).mem = s.mem := rfl
@[simp] theorem State.modThread_gran (s : State) (n i : Nat) (g : Thread → Thread) : (s.modThread n i g).gran = s.gran := rfl
@[simp] theorem State.modThread_bad (s : State) (n i : Nat) (g : Thread → Thread) : (s.modThread n i g).bad = s.bad := rfl
@[simp] theorem State.modThread_soft (s : State) (n i : Nat) (g : Thread → Thread) : (s.modThread n i g).soft = s.soft := rfl
@[simp] theorem State.modThread_cw (s : State) (n i : Nat) (g : Thread → Thread) : (s.modThread n i g).cw = s.cw := rfl
@[simp] theorem State.modThread_am (s : State) (n i : Nat) (g : Thread → Thread) : (s.modThread n i g).am = s.am := rfl
@[simp] theorem State.modThread_amBusy (s : State) (n i : Nat) (g : Thread → Thread) : (s.modThread n i g).amBusy = s.amBusy := rfl
@[simp] theorem State.modThread_slotActive (s : State) (n i : Nat) (g : Thread → Thread) : (s.modThread n i g).slotActive = s.slotActive := rfl
@[simp] theorem State.modThread_slotPending (s : State) (n i : Nat) (g : Thread → Thread) : (s.modThread n i g).slotPending = s.slotPending := rfl
@[simp] theorem State.modThread_l2 (s : State) (n i : Nat) (g : Thread → Thread) : (s.modThread n i g).l2 = s.l2 := rfl
@[simp] theorem State.modThread_sliceWait (s : State) (n i : Nat) (g : Thread → Thread) : (s.modThread n i g).sliceWait = s.sliceWait := rfl
@[simp] theorem State.modThread_keys (s : State) (n i : Nat) (g : Thread → Thread) : (s.modThread n i g).keys = s.keys := rfl
@[simp] theorem State.modThread_launches (s : State) (n i : Nat) (g : Thread → Thread) : (s.modThread n i g).launches = s.launches := rfl
@[simp] theorem State.modThread_waiting (s : State) (n i : Nat) (g : Thread → Thread) : (s.modThread n i g).waiting = s.waiting := rfl
@[simp] theorem State.modThread_token (s : State) (n i : Nat) (g : Thread → Thread) : (s.modThread n i g).token = s.token := rfl
@[simp] theorem State.modThread_unresolved (s : State) (n i : Nat) (g : Thread → Thread) : (s.modThread n i g).unresolved = s.unresolved := rfl
@[simp] theorem State.modThread_fabric (s : State) (n i : Nat) (g : Thread → Thread) : (s.modThread n i g).fabric = s.fabric := rfl
@[simp] theorem State.modThread_outbox (s : State) (n i : Nat) (g : Thread → Thread) : (s.modThread n i g).outbox = s.outbox := rfl
@[simp] theorem State.modThread_revoking (s : State) (n i : Nat) (g : Thread → Thread) : (s.modThread n i g).revoking = s.revoking := rfl
@[simp] theorem State.modThread_killing (s : State) (n i : Nat) (g : Thread → Thread) : (s.modThread n i g).killing = s.killing := rfl
@[simp] theorem State.modThread_boot (s : State) (n i : Nat) (g : Thread → Thread) : (s.modThread n i g).boot = s.boot := rfl
@[simp] theorem State.modThread_fwImage (s : State) (n i : Nat) (g : Thread → Thread) : (s.modThread n i g).fwImage = s.fwImage := rfl
@[simp] theorem State.modThread_frozen (s : State) (n i : Nat) (g : Thread → Thread) : (s.modThread n i g).frozen = s.frozen := rfl
@[simp] theorem State.modThread_life (s : State) (n i : Nat) (g : Thread → Thread) : (s.modThread n i g).life = s.life := rfl
@[simp] theorem State.modThread_tally (s : State) (n i : Nat) (g : Thread → Thread) : (s.modThread n i g).tally = s.tally := rfl
@[simp] theorem State.modThread_tests (s : State) (n i : Nat) (g : Thread → Thread) : (s.modThread n i g).tests = s.tests := rfl
@[simp] theorem State.modThread_replays (s : State) (n i : Nat) (g : Thread → Thread) : (s.modThread n i g).replays = s.replays := rfl
@[simp] theorem State.modThread_spares (s : State) (n i : Nat) (g : Thread → Thread) : (s.modThread n i g).spares = s.spares := rfl
@[simp] theorem State.modThread_retired (s : State) (n i : Nat) (g : Thread → Thread) : (s.modThread n i g).retired = s.retired := rfl
@[simp] theorem State.modThread_halted (s : State) (n i : Nat) (g : Thread → Thread) : (s.modThread n i g).halted = s.halted := rfl
@[simp] theorem State.modThread_cxlAwait (s : State) (n i : Nat) (g : Thread → Thread) : (s.modThread n i g).cxlAwait = s.cxlAwait := rfl
@[simp] theorem State.modThread_islands (s : State) (n i : Nat) (g : Thread → Thread) : (s.modThread n i g).islands = s.islands := rfl
@[simp] theorem State.modThread_agenda (s : State) (n i : Nat) (g : Thread → Thread) : (s.modThread n i g).agenda = s.agenda := rfl
@[simp] theorem State.modThread_flip (s : State) (n i : Nat) (g : Thread → Thread) : (s.modThread n i g).flip = s.flip := rfl
@[simp] theorem State.modThread_cur (s : State) (n i : Nat) (g : Thread → Thread) : (s.modThread n i g).cur = s.cur := rfl
@[simp] theorem State.modThread_free (s : State) (n i : Nat) (g : Thread → Thread) : (s.modThread n i g).free = s.free := rfl
@[simp] theorem State.modThread_time (s : State) (n i : Nat) (g : Thread → Thread) : (s.modThread n i g).time = s.time := rfl
@[simp] theorem State.modThread_assign (s : State) (n i : Nat) (g : Thread → Thread) : (s.modThread n i g).assign = s.assign := rfl
@[simp] theorem State.modThread_seq (s : State) (n i : Nat) (g : Thread → Thread) : (s.modThread n i g).seq = s.seq := rfl

@[simp] theorem State.modCrew_mem (s : State) (n i : Nat) (g : Crew → Crew) : (s.modCrew n i g).mem = s.mem := rfl
@[simp] theorem State.modCrew_gran (s : State) (n i : Nat) (g : Crew → Crew) : (s.modCrew n i g).gran = s.gran := rfl
@[simp] theorem State.modCrew_bad (s : State) (n i : Nat) (g : Crew → Crew) : (s.modCrew n i g).bad = s.bad := rfl
@[simp] theorem State.modCrew_soft (s : State) (n i : Nat) (g : Crew → Crew) : (s.modCrew n i g).soft = s.soft := rfl
@[simp] theorem State.modCrew_cw (s : State) (n i : Nat) (g : Crew → Crew) : (s.modCrew n i g).cw = s.cw := rfl
@[simp] theorem State.modCrew_am (s : State) (n i : Nat) (g : Crew → Crew) : (s.modCrew n i g).am = s.am := rfl
@[simp] theorem State.modCrew_amBusy (s : State) (n i : Nat) (g : Crew → Crew) : (s.modCrew n i g).amBusy = s.amBusy := rfl
@[simp] theorem State.modCrew_slotActive (s : State) (n i : Nat) (g : Crew → Crew) : (s.modCrew n i g).slotActive = s.slotActive := rfl
@[simp] theorem State.modCrew_slotPending (s : State) (n i : Nat) (g : Crew → Crew) : (s.modCrew n i g).slotPending = s.slotPending := rfl
@[simp] theorem State.modCrew_l2 (s : State) (n i : Nat) (g : Crew → Crew) : (s.modCrew n i g).l2 = s.l2 := rfl
@[simp] theorem State.modCrew_sliceWait (s : State) (n i : Nat) (g : Crew → Crew) : (s.modCrew n i g).sliceWait = s.sliceWait := rfl
@[simp] theorem State.modCrew_keys (s : State) (n i : Nat) (g : Crew → Crew) : (s.modCrew n i g).keys = s.keys := rfl
@[simp] theorem State.modCrew_launches (s : State) (n i : Nat) (g : Crew → Crew) : (s.modCrew n i g).launches = s.launches := rfl
@[simp] theorem State.modCrew_waiting (s : State) (n i : Nat) (g : Crew → Crew) : (s.modCrew n i g).waiting = s.waiting := rfl
@[simp] theorem State.modCrew_token (s : State) (n i : Nat) (g : Crew → Crew) : (s.modCrew n i g).token = s.token := rfl
@[simp] theorem State.modCrew_unresolved (s : State) (n i : Nat) (g : Crew → Crew) : (s.modCrew n i g).unresolved = s.unresolved := rfl
@[simp] theorem State.modCrew_fabric (s : State) (n i : Nat) (g : Crew → Crew) : (s.modCrew n i g).fabric = s.fabric := rfl
@[simp] theorem State.modCrew_outbox (s : State) (n i : Nat) (g : Crew → Crew) : (s.modCrew n i g).outbox = s.outbox := rfl
@[simp] theorem State.modCrew_revoking (s : State) (n i : Nat) (g : Crew → Crew) : (s.modCrew n i g).revoking = s.revoking := rfl
@[simp] theorem State.modCrew_killing (s : State) (n i : Nat) (g : Crew → Crew) : (s.modCrew n i g).killing = s.killing := rfl
@[simp] theorem State.modCrew_boot (s : State) (n i : Nat) (g : Crew → Crew) : (s.modCrew n i g).boot = s.boot := rfl
@[simp] theorem State.modCrew_fwImage (s : State) (n i : Nat) (g : Crew → Crew) : (s.modCrew n i g).fwImage = s.fwImage := rfl
@[simp] theorem State.modCrew_frozen (s : State) (n i : Nat) (g : Crew → Crew) : (s.modCrew n i g).frozen = s.frozen := rfl
@[simp] theorem State.modCrew_life (s : State) (n i : Nat) (g : Crew → Crew) : (s.modCrew n i g).life = s.life := rfl
@[simp] theorem State.modCrew_tally (s : State) (n i : Nat) (g : Crew → Crew) : (s.modCrew n i g).tally = s.tally := rfl
@[simp] theorem State.modCrew_tests (s : State) (n i : Nat) (g : Crew → Crew) : (s.modCrew n i g).tests = s.tests := rfl
@[simp] theorem State.modCrew_replays (s : State) (n i : Nat) (g : Crew → Crew) : (s.modCrew n i g).replays = s.replays := rfl
@[simp] theorem State.modCrew_spares (s : State) (n i : Nat) (g : Crew → Crew) : (s.modCrew n i g).spares = s.spares := rfl
@[simp] theorem State.modCrew_retired (s : State) (n i : Nat) (g : Crew → Crew) : (s.modCrew n i g).retired = s.retired := rfl
@[simp] theorem State.modCrew_halted (s : State) (n i : Nat) (g : Crew → Crew) : (s.modCrew n i g).halted = s.halted := rfl
@[simp] theorem State.modCrew_cxlAwait (s : State) (n i : Nat) (g : Crew → Crew) : (s.modCrew n i g).cxlAwait = s.cxlAwait := rfl
@[simp] theorem State.modCrew_islands (s : State) (n i : Nat) (g : Crew → Crew) : (s.modCrew n i g).islands = s.islands := rfl
@[simp] theorem State.modCrew_agenda (s : State) (n i : Nat) (g : Crew → Crew) : (s.modCrew n i g).agenda = s.agenda := rfl
@[simp] theorem State.modCrew_flip (s : State) (n i : Nat) (g : Crew → Crew) : (s.modCrew n i g).flip = s.flip := rfl
@[simp] theorem State.modCrew_cur (s : State) (n i : Nat) (g : Crew → Crew) : (s.modCrew n i g).cur = s.cur := rfl
@[simp] theorem State.modCrew_free (s : State) (n i : Nat) (g : Crew → Crew) : (s.modCrew n i g).free = s.free := rfl
@[simp] theorem State.modCrew_time (s : State) (n i : Nat) (g : Crew → Crew) : (s.modCrew n i g).time = s.time := rfl
@[simp] theorem State.modCrew_assign (s : State) (n i : Nat) (g : Crew → Crew) : (s.modCrew n i g).assign = s.assign := rfl
@[simp] theorem State.modCrew_seq (s : State) (n i : Nat) (g : Crew → Crew) : (s.modCrew n i g).seq = s.seq := rfl

@[simp] theorem State.setIsland_mem (s : State) (n : Nat) (x : Island) : (s.setIsland n x).mem = s.mem := rfl
@[simp] theorem State.setIsland_gran (s : State) (n : Nat) (x : Island) : (s.setIsland n x).gran = s.gran := rfl
@[simp] theorem State.setIsland_bad (s : State) (n : Nat) (x : Island) : (s.setIsland n x).bad = s.bad := rfl
@[simp] theorem State.setIsland_soft (s : State) (n : Nat) (x : Island) : (s.setIsland n x).soft = s.soft := rfl
@[simp] theorem State.setIsland_cw (s : State) (n : Nat) (x : Island) : (s.setIsland n x).cw = s.cw := rfl
@[simp] theorem State.setIsland_am (s : State) (n : Nat) (x : Island) : (s.setIsland n x).am = s.am := rfl
@[simp] theorem State.setIsland_amBusy (s : State) (n : Nat) (x : Island) : (s.setIsland n x).amBusy = s.amBusy := rfl
@[simp] theorem State.setIsland_slotActive (s : State) (n : Nat) (x : Island) : (s.setIsland n x).slotActive = s.slotActive := rfl
@[simp] theorem State.setIsland_slotPending (s : State) (n : Nat) (x : Island) : (s.setIsland n x).slotPending = s.slotPending := rfl
@[simp] theorem State.setIsland_l2 (s : State) (n : Nat) (x : Island) : (s.setIsland n x).l2 = s.l2 := rfl
@[simp] theorem State.setIsland_sliceWait (s : State) (n : Nat) (x : Island) : (s.setIsland n x).sliceWait = s.sliceWait := rfl
@[simp] theorem State.setIsland_keys (s : State) (n : Nat) (x : Island) : (s.setIsland n x).keys = s.keys := rfl
@[simp] theorem State.setIsland_launches (s : State) (n : Nat) (x : Island) : (s.setIsland n x).launches = s.launches := rfl
@[simp] theorem State.setIsland_waiting (s : State) (n : Nat) (x : Island) : (s.setIsland n x).waiting = s.waiting := rfl
@[simp] theorem State.setIsland_token (s : State) (n : Nat) (x : Island) : (s.setIsland n x).token = s.token := rfl
@[simp] theorem State.setIsland_unresolved (s : State) (n : Nat) (x : Island) : (s.setIsland n x).unresolved = s.unresolved := rfl
@[simp] theorem State.setIsland_fabric (s : State) (n : Nat) (x : Island) : (s.setIsland n x).fabric = s.fabric := rfl
@[simp] theorem State.setIsland_outbox (s : State) (n : Nat) (x : Island) : (s.setIsland n x).outbox = s.outbox := rfl
@[simp] theorem State.setIsland_revoking (s : State) (n : Nat) (x : Island) : (s.setIsland n x).revoking = s.revoking := rfl
@[simp] theorem State.setIsland_killing (s : State) (n : Nat) (x : Island) : (s.setIsland n x).killing = s.killing := rfl
@[simp] theorem State.setIsland_boot (s : State) (n : Nat) (x : Island) : (s.setIsland n x).boot = s.boot := rfl
@[simp] theorem State.setIsland_fwImage (s : State) (n : Nat) (x : Island) : (s.setIsland n x).fwImage = s.fwImage := rfl
@[simp] theorem State.setIsland_frozen (s : State) (n : Nat) (x : Island) : (s.setIsland n x).frozen = s.frozen := rfl
@[simp] theorem State.setIsland_life (s : State) (n : Nat) (x : Island) : (s.setIsland n x).life = s.life := rfl
@[simp] theorem State.setIsland_tally (s : State) (n : Nat) (x : Island) : (s.setIsland n x).tally = s.tally := rfl
@[simp] theorem State.setIsland_tests (s : State) (n : Nat) (x : Island) : (s.setIsland n x).tests = s.tests := rfl
@[simp] theorem State.setIsland_replays (s : State) (n : Nat) (x : Island) : (s.setIsland n x).replays = s.replays := rfl
@[simp] theorem State.setIsland_spares (s : State) (n : Nat) (x : Island) : (s.setIsland n x).spares = s.spares := rfl
@[simp] theorem State.setIsland_retired (s : State) (n : Nat) (x : Island) : (s.setIsland n x).retired = s.retired := rfl
@[simp] theorem State.setIsland_halted (s : State) (n : Nat) (x : Island) : (s.setIsland n x).halted = s.halted := rfl
@[simp] theorem State.setIsland_cxlAwait (s : State) (n : Nat) (x : Island) : (s.setIsland n x).cxlAwait = s.cxlAwait := rfl
@[simp] theorem State.setIsland_cores (s : State) (n : Nat) (x : Island) : (s.setIsland n x).cores = s.cores := rfl
@[simp] theorem State.setIsland_agenda (s : State) (n : Nat) (x : Island) : (s.setIsland n x).agenda = s.agenda := rfl
@[simp] theorem State.setIsland_flip (s : State) (n : Nat) (x : Island) : (s.setIsland n x).flip = s.flip := rfl
@[simp] theorem State.setIsland_cur (s : State) (n : Nat) (x : Island) : (s.setIsland n x).cur = s.cur := rfl
@[simp] theorem State.setIsland_free (s : State) (n : Nat) (x : Island) : (s.setIsland n x).free = s.free := rfl
@[simp] theorem State.setIsland_time (s : State) (n : Nat) (x : Island) : (s.setIsland n x).time = s.time := rfl
@[simp] theorem State.setIsland_assign (s : State) (n : Nat) (x : Island) : (s.setIsland n x).assign = s.assign := rfl
@[simp] theorem State.setIsland_seq (s : State) (n : Nat) (x : Island) : (s.setIsland n x).seq = s.seq := rfl

@[simp] theorem State.unpin_mem (s : State) (n i : Nat) : (s.unpin n i).mem = s.mem := rfl
@[simp] theorem State.unpin_gran (s : State) (n i : Nat) : (s.unpin n i).gran = s.gran := rfl
@[simp] theorem State.unpin_bad (s : State) (n i : Nat) : (s.unpin n i).bad = s.bad := rfl
@[simp] theorem State.unpin_soft (s : State) (n i : Nat) : (s.unpin n i).soft = s.soft := rfl
@[simp] theorem State.unpin_cw (s : State) (n i : Nat) : (s.unpin n i).cw = s.cw := rfl
@[simp] theorem State.unpin_am (s : State) (n i : Nat) : (s.unpin n i).am = s.am := rfl
@[simp] theorem State.unpin_amBusy (s : State) (n i : Nat) : (s.unpin n i).amBusy = s.amBusy := rfl
@[simp] theorem State.unpin_slotActive (s : State) (n i : Nat) : (s.unpin n i).slotActive = s.slotActive := rfl
@[simp] theorem State.unpin_slotPending (s : State) (n i : Nat) : (s.unpin n i).slotPending = s.slotPending := rfl
@[simp] theorem State.unpin_sliceWait (s : State) (n i : Nat) : (s.unpin n i).sliceWait = s.sliceWait := rfl
@[simp] theorem State.unpin_keys (s : State) (n i : Nat) : (s.unpin n i).keys = s.keys := rfl
@[simp] theorem State.unpin_launches (s : State) (n i : Nat) : (s.unpin n i).launches = s.launches := rfl
@[simp] theorem State.unpin_waiting (s : State) (n i : Nat) : (s.unpin n i).waiting = s.waiting := rfl
@[simp] theorem State.unpin_token (s : State) (n i : Nat) : (s.unpin n i).token = s.token := rfl
@[simp] theorem State.unpin_unresolved (s : State) (n i : Nat) : (s.unpin n i).unresolved = s.unresolved := rfl
@[simp] theorem State.unpin_fabric (s : State) (n i : Nat) : (s.unpin n i).fabric = s.fabric := rfl
@[simp] theorem State.unpin_outbox (s : State) (n i : Nat) : (s.unpin n i).outbox = s.outbox := rfl
@[simp] theorem State.unpin_revoking (s : State) (n i : Nat) : (s.unpin n i).revoking = s.revoking := rfl
@[simp] theorem State.unpin_killing (s : State) (n i : Nat) : (s.unpin n i).killing = s.killing := rfl
@[simp] theorem State.unpin_boot (s : State) (n i : Nat) : (s.unpin n i).boot = s.boot := rfl
@[simp] theorem State.unpin_fwImage (s : State) (n i : Nat) : (s.unpin n i).fwImage = s.fwImage := rfl
@[simp] theorem State.unpin_frozen (s : State) (n i : Nat) : (s.unpin n i).frozen = s.frozen := rfl
@[simp] theorem State.unpin_life (s : State) (n i : Nat) : (s.unpin n i).life = s.life := rfl
@[simp] theorem State.unpin_tally (s : State) (n i : Nat) : (s.unpin n i).tally = s.tally := rfl
@[simp] theorem State.unpin_tests (s : State) (n i : Nat) : (s.unpin n i).tests = s.tests := rfl
@[simp] theorem State.unpin_replays (s : State) (n i : Nat) : (s.unpin n i).replays = s.replays := rfl
@[simp] theorem State.unpin_spares (s : State) (n i : Nat) : (s.unpin n i).spares = s.spares := rfl
@[simp] theorem State.unpin_retired (s : State) (n i : Nat) : (s.unpin n i).retired = s.retired := rfl
@[simp] theorem State.unpin_halted (s : State) (n i : Nat) : (s.unpin n i).halted = s.halted := rfl
@[simp] theorem State.unpin_cxlAwait (s : State) (n i : Nat) : (s.unpin n i).cxlAwait = s.cxlAwait := rfl
@[simp] theorem State.unpin_islands (s : State) (n i : Nat) : (s.unpin n i).islands = s.islands := rfl
@[simp] theorem State.unpin_cores (s : State) (n i : Nat) : (s.unpin n i).cores = s.cores := rfl
@[simp] theorem State.unpin_agenda (s : State) (n i : Nat) : (s.unpin n i).agenda = s.agenda := rfl
@[simp] theorem State.unpin_flip (s : State) (n i : Nat) : (s.unpin n i).flip = s.flip := rfl
@[simp] theorem State.unpin_cur (s : State) (n i : Nat) : (s.unpin n i).cur = s.cur := rfl
@[simp] theorem State.unpin_free (s : State) (n i : Nat) : (s.unpin n i).free = s.free := rfl
@[simp] theorem State.unpin_time (s : State) (n i : Nat) : (s.unpin n i).time = s.time := rfl
@[simp] theorem State.unpin_assign (s : State) (n i : Nat) : (s.unpin n i).assign = s.assign := rfl
@[simp] theorem State.unpin_seq (s : State) (n i : Nat) : (s.unpin n i).seq = s.seq := rfl

@[simp] theorem State.dropLoad_mem (s : State) (n i : Nat) : (s.dropLoad n i).mem = s.mem := rfl
@[simp] theorem State.dropLoad_gran (s : State) (n i : Nat) : (s.dropLoad n i).gran = s.gran := rfl
@[simp] theorem State.dropLoad_bad (s : State) (n i : Nat) : (s.dropLoad n i).bad = s.bad := rfl
@[simp] theorem State.dropLoad_soft (s : State) (n i : Nat) : (s.dropLoad n i).soft = s.soft := rfl
@[simp] theorem State.dropLoad_cw (s : State) (n i : Nat) : (s.dropLoad n i).cw = s.cw := rfl
@[simp] theorem State.dropLoad_am (s : State) (n i : Nat) : (s.dropLoad n i).am = s.am := rfl
@[simp] theorem State.dropLoad_amBusy (s : State) (n i : Nat) : (s.dropLoad n i).amBusy = s.amBusy := rfl
@[simp] theorem State.dropLoad_slotActive (s : State) (n i : Nat) : (s.dropLoad n i).slotActive = s.slotActive := rfl
@[simp] theorem State.dropLoad_slotPending (s : State) (n i : Nat) : (s.dropLoad n i).slotPending = s.slotPending := rfl
@[simp] theorem State.dropLoad_sliceWait (s : State) (n i : Nat) : (s.dropLoad n i).sliceWait = s.sliceWait := rfl
@[simp] theorem State.dropLoad_keys (s : State) (n i : Nat) : (s.dropLoad n i).keys = s.keys := rfl
@[simp] theorem State.dropLoad_launches (s : State) (n i : Nat) : (s.dropLoad n i).launches = s.launches := rfl
@[simp] theorem State.dropLoad_waiting (s : State) (n i : Nat) : (s.dropLoad n i).waiting = s.waiting := rfl
@[simp] theorem State.dropLoad_token (s : State) (n i : Nat) : (s.dropLoad n i).token = s.token := rfl
@[simp] theorem State.dropLoad_unresolved (s : State) (n i : Nat) : (s.dropLoad n i).unresolved = s.unresolved := rfl
@[simp] theorem State.dropLoad_fabric (s : State) (n i : Nat) : (s.dropLoad n i).fabric = s.fabric := rfl
@[simp] theorem State.dropLoad_outbox (s : State) (n i : Nat) : (s.dropLoad n i).outbox = s.outbox := rfl
@[simp] theorem State.dropLoad_revoking (s : State) (n i : Nat) : (s.dropLoad n i).revoking = s.revoking := rfl
@[simp] theorem State.dropLoad_killing (s : State) (n i : Nat) : (s.dropLoad n i).killing = s.killing := rfl
@[simp] theorem State.dropLoad_boot (s : State) (n i : Nat) : (s.dropLoad n i).boot = s.boot := rfl
@[simp] theorem State.dropLoad_fwImage (s : State) (n i : Nat) : (s.dropLoad n i).fwImage = s.fwImage := rfl
@[simp] theorem State.dropLoad_frozen (s : State) (n i : Nat) : (s.dropLoad n i).frozen = s.frozen := rfl
@[simp] theorem State.dropLoad_life (s : State) (n i : Nat) : (s.dropLoad n i).life = s.life := rfl
@[simp] theorem State.dropLoad_tally (s : State) (n i : Nat) : (s.dropLoad n i).tally = s.tally := rfl
@[simp] theorem State.dropLoad_tests (s : State) (n i : Nat) : (s.dropLoad n i).tests = s.tests := rfl
@[simp] theorem State.dropLoad_replays (s : State) (n i : Nat) : (s.dropLoad n i).replays = s.replays := rfl
@[simp] theorem State.dropLoad_spares (s : State) (n i : Nat) : (s.dropLoad n i).spares = s.spares := rfl
@[simp] theorem State.dropLoad_retired (s : State) (n i : Nat) : (s.dropLoad n i).retired = s.retired := rfl
@[simp] theorem State.dropLoad_halted (s : State) (n i : Nat) : (s.dropLoad n i).halted = s.halted := rfl
@[simp] theorem State.dropLoad_cxlAwait (s : State) (n i : Nat) : (s.dropLoad n i).cxlAwait = s.cxlAwait := rfl
@[simp] theorem State.dropLoad_islands (s : State) (n i : Nat) : (s.dropLoad n i).islands = s.islands := rfl
@[simp] theorem State.dropLoad_agenda (s : State) (n i : Nat) : (s.dropLoad n i).agenda = s.agenda := rfl
@[simp] theorem State.dropLoad_flip (s : State) (n i : Nat) : (s.dropLoad n i).flip = s.flip := rfl
@[simp] theorem State.dropLoad_cur (s : State) (n i : Nat) : (s.dropLoad n i).cur = s.cur := rfl
@[simp] theorem State.dropLoad_free (s : State) (n i : Nat) : (s.dropLoad n i).free = s.free := rfl
@[simp] theorem State.dropLoad_time (s : State) (n i : Nat) : (s.dropLoad n i).time = s.time := rfl
@[simp] theorem State.dropLoad_assign (s : State) (n i : Nat) : (s.dropLoad n i).assign = s.assign := rfl
@[simp] theorem State.dropLoad_seq (s : State) (n i : Nat) : (s.dropLoad n i).seq = s.seq := rfl

@[simp] theorem State.modLaunch_mem (s : State) (n : Nat) (g : Launch → Launch) : (s.modLaunch n g).mem = s.mem := rfl
@[simp] theorem State.modLaunch_gran (s : State) (n : Nat) (g : Launch → Launch) : (s.modLaunch n g).gran = s.gran := rfl
@[simp] theorem State.modLaunch_bad (s : State) (n : Nat) (g : Launch → Launch) : (s.modLaunch n g).bad = s.bad := rfl
@[simp] theorem State.modLaunch_soft (s : State) (n : Nat) (g : Launch → Launch) : (s.modLaunch n g).soft = s.soft := rfl
@[simp] theorem State.modLaunch_cw (s : State) (n : Nat) (g : Launch → Launch) : (s.modLaunch n g).cw = s.cw := rfl
@[simp] theorem State.modLaunch_am (s : State) (n : Nat) (g : Launch → Launch) : (s.modLaunch n g).am = s.am := rfl
@[simp] theorem State.modLaunch_amBusy (s : State) (n : Nat) (g : Launch → Launch) : (s.modLaunch n g).amBusy = s.amBusy := rfl
@[simp] theorem State.modLaunch_slotActive (s : State) (n : Nat) (g : Launch → Launch) : (s.modLaunch n g).slotActive = s.slotActive := rfl
@[simp] theorem State.modLaunch_slotPending (s : State) (n : Nat) (g : Launch → Launch) : (s.modLaunch n g).slotPending = s.slotPending := rfl
@[simp] theorem State.modLaunch_l2 (s : State) (n : Nat) (g : Launch → Launch) : (s.modLaunch n g).l2 = s.l2 := rfl
@[simp] theorem State.modLaunch_sliceWait (s : State) (n : Nat) (g : Launch → Launch) : (s.modLaunch n g).sliceWait = s.sliceWait := rfl
@[simp] theorem State.modLaunch_keys (s : State) (n : Nat) (g : Launch → Launch) : (s.modLaunch n g).keys = s.keys := rfl
@[simp] theorem State.modLaunch_waiting (s : State) (n : Nat) (g : Launch → Launch) : (s.modLaunch n g).waiting = s.waiting := rfl
@[simp] theorem State.modLaunch_token (s : State) (n : Nat) (g : Launch → Launch) : (s.modLaunch n g).token = s.token := rfl
@[simp] theorem State.modLaunch_unresolved (s : State) (n : Nat) (g : Launch → Launch) : (s.modLaunch n g).unresolved = s.unresolved := rfl
@[simp] theorem State.modLaunch_fabric (s : State) (n : Nat) (g : Launch → Launch) : (s.modLaunch n g).fabric = s.fabric := rfl
@[simp] theorem State.modLaunch_outbox (s : State) (n : Nat) (g : Launch → Launch) : (s.modLaunch n g).outbox = s.outbox := rfl
@[simp] theorem State.modLaunch_revoking (s : State) (n : Nat) (g : Launch → Launch) : (s.modLaunch n g).revoking = s.revoking := rfl
@[simp] theorem State.modLaunch_killing (s : State) (n : Nat) (g : Launch → Launch) : (s.modLaunch n g).killing = s.killing := rfl
@[simp] theorem State.modLaunch_boot (s : State) (n : Nat) (g : Launch → Launch) : (s.modLaunch n g).boot = s.boot := rfl
@[simp] theorem State.modLaunch_fwImage (s : State) (n : Nat) (g : Launch → Launch) : (s.modLaunch n g).fwImage = s.fwImage := rfl
@[simp] theorem State.modLaunch_frozen (s : State) (n : Nat) (g : Launch → Launch) : (s.modLaunch n g).frozen = s.frozen := rfl
@[simp] theorem State.modLaunch_life (s : State) (n : Nat) (g : Launch → Launch) : (s.modLaunch n g).life = s.life := rfl
@[simp] theorem State.modLaunch_tally (s : State) (n : Nat) (g : Launch → Launch) : (s.modLaunch n g).tally = s.tally := rfl
@[simp] theorem State.modLaunch_tests (s : State) (n : Nat) (g : Launch → Launch) : (s.modLaunch n g).tests = s.tests := rfl
@[simp] theorem State.modLaunch_replays (s : State) (n : Nat) (g : Launch → Launch) : (s.modLaunch n g).replays = s.replays := rfl
@[simp] theorem State.modLaunch_spares (s : State) (n : Nat) (g : Launch → Launch) : (s.modLaunch n g).spares = s.spares := rfl
@[simp] theorem State.modLaunch_retired (s : State) (n : Nat) (g : Launch → Launch) : (s.modLaunch n g).retired = s.retired := rfl
@[simp] theorem State.modLaunch_halted (s : State) (n : Nat) (g : Launch → Launch) : (s.modLaunch n g).halted = s.halted := rfl
@[simp] theorem State.modLaunch_cxlAwait (s : State) (n : Nat) (g : Launch → Launch) : (s.modLaunch n g).cxlAwait = s.cxlAwait := rfl
@[simp] theorem State.modLaunch_islands (s : State) (n : Nat) (g : Launch → Launch) : (s.modLaunch n g).islands = s.islands := rfl
@[simp] theorem State.modLaunch_cores (s : State) (n : Nat) (g : Launch → Launch) : (s.modLaunch n g).cores = s.cores := rfl
@[simp] theorem State.modLaunch_agenda (s : State) (n : Nat) (g : Launch → Launch) : (s.modLaunch n g).agenda = s.agenda := rfl
@[simp] theorem State.modLaunch_flip (s : State) (n : Nat) (g : Launch → Launch) : (s.modLaunch n g).flip = s.flip := rfl
@[simp] theorem State.modLaunch_cur (s : State) (n : Nat) (g : Launch → Launch) : (s.modLaunch n g).cur = s.cur := rfl
@[simp] theorem State.modLaunch_free (s : State) (n : Nat) (g : Launch → Launch) : (s.modLaunch n g).free = s.free := rfl
@[simp] theorem State.modLaunch_time (s : State) (n : Nat) (g : Launch → Launch) : (s.modLaunch n g).time = s.time := rfl
@[simp] theorem State.modLaunch_assign (s : State) (n : Nat) (g : Launch → Launch) : (s.modLaunch n g).assign = s.assign := rfl
@[simp] theorem State.modLaunch_seq (s : State) (n : Nat) (g : Launch → Launch) : (s.modLaunch n g).seq = s.seq := rfl

@[simp] theorem State.fresh_mem (s : State) : s.fresh.2.mem = s.mem := rfl
@[simp] theorem State.fresh_gran (s : State) : s.fresh.2.gran = s.gran := rfl
@[simp] theorem State.fresh_bad (s : State) : s.fresh.2.bad = s.bad := rfl
@[simp] theorem State.fresh_soft (s : State) : s.fresh.2.soft = s.soft := rfl
@[simp] theorem State.fresh_cw (s : State) : s.fresh.2.cw = s.cw := rfl
@[simp] theorem State.fresh_am (s : State) : s.fresh.2.am = s.am := rfl
@[simp] theorem State.fresh_amBusy (s : State) : s.fresh.2.amBusy = s.amBusy := rfl
@[simp] theorem State.fresh_slotActive (s : State) : s.fresh.2.slotActive = s.slotActive := rfl
@[simp] theorem State.fresh_slotPending (s : State) : s.fresh.2.slotPending = s.slotPending := rfl
@[simp] theorem State.fresh_l2 (s : State) : s.fresh.2.l2 = s.l2 := rfl
@[simp] theorem State.fresh_sliceWait (s : State) : s.fresh.2.sliceWait = s.sliceWait := rfl
@[simp] theorem State.fresh_keys (s : State) : s.fresh.2.keys = s.keys := rfl
@[simp] theorem State.fresh_launches (s : State) : s.fresh.2.launches = s.launches := rfl
@[simp] theorem State.fresh_waiting (s : State) : s.fresh.2.waiting = s.waiting := rfl
@[simp] theorem State.fresh_token (s : State) : s.fresh.2.token = s.token := rfl
@[simp] theorem State.fresh_unresolved (s : State) : s.fresh.2.unresolved = s.unresolved := rfl
@[simp] theorem State.fresh_fabric (s : State) : s.fresh.2.fabric = s.fabric := rfl
@[simp] theorem State.fresh_outbox (s : State) : s.fresh.2.outbox = s.outbox := rfl
@[simp] theorem State.fresh_revoking (s : State) : s.fresh.2.revoking = s.revoking := rfl
@[simp] theorem State.fresh_killing (s : State) : s.fresh.2.killing = s.killing := rfl
@[simp] theorem State.fresh_boot (s : State) : s.fresh.2.boot = s.boot := rfl
@[simp] theorem State.fresh_fwImage (s : State) : s.fresh.2.fwImage = s.fwImage := rfl
@[simp] theorem State.fresh_frozen (s : State) : s.fresh.2.frozen = s.frozen := rfl
@[simp] theorem State.fresh_life (s : State) : s.fresh.2.life = s.life := rfl
@[simp] theorem State.fresh_tally (s : State) : s.fresh.2.tally = s.tally := rfl
@[simp] theorem State.fresh_tests (s : State) : s.fresh.2.tests = s.tests := rfl
@[simp] theorem State.fresh_replays (s : State) : s.fresh.2.replays = s.replays := rfl
@[simp] theorem State.fresh_spares (s : State) : s.fresh.2.spares = s.spares := rfl
@[simp] theorem State.fresh_retired (s : State) : s.fresh.2.retired = s.retired := rfl
@[simp] theorem State.fresh_halted (s : State) : s.fresh.2.halted = s.halted := rfl
@[simp] theorem State.fresh_cxlAwait (s : State) : s.fresh.2.cxlAwait = s.cxlAwait := rfl
@[simp] theorem State.fresh_islands (s : State) : s.fresh.2.islands = s.islands := rfl
@[simp] theorem State.fresh_cores (s : State) : s.fresh.2.cores = s.cores := rfl
@[simp] theorem State.fresh_agenda (s : State) : s.fresh.2.agenda = s.agenda := rfl
@[simp] theorem State.fresh_flip (s : State) : s.fresh.2.flip = s.flip := rfl
@[simp] theorem State.fresh_cur (s : State) : s.fresh.2.cur = s.cur := rfl
@[simp] theorem State.fresh_free (s : State) : s.fresh.2.free = s.free := rfl
@[simp] theorem State.fresh_time (s : State) : s.fresh.2.time = s.time := rfl
@[simp] theorem State.fresh_assign (s : State) : s.fresh.2.assign = s.assign := rfl

@[simp] theorem State.draw_mem (s : State) : s.draw.2.mem = s.mem := rfl
@[simp] theorem State.draw_gran (s : State) : s.draw.2.gran = s.gran := rfl
@[simp] theorem State.draw_bad (s : State) : s.draw.2.bad = s.bad := rfl
@[simp] theorem State.draw_soft (s : State) : s.draw.2.soft = s.soft := rfl
@[simp] theorem State.draw_cw (s : State) : s.draw.2.cw = s.cw := rfl
@[simp] theorem State.draw_am (s : State) : s.draw.2.am = s.am := rfl
@[simp] theorem State.draw_amBusy (s : State) : s.draw.2.amBusy = s.amBusy := rfl
@[simp] theorem State.draw_slotActive (s : State) : s.draw.2.slotActive = s.slotActive := rfl
@[simp] theorem State.draw_slotPending (s : State) : s.draw.2.slotPending = s.slotPending := rfl
@[simp] theorem State.draw_l2 (s : State) : s.draw.2.l2 = s.l2 := rfl
@[simp] theorem State.draw_sliceWait (s : State) : s.draw.2.sliceWait = s.sliceWait := rfl
@[simp] theorem State.draw_keys (s : State) : s.draw.2.keys = s.keys := rfl
@[simp] theorem State.draw_launches (s : State) : s.draw.2.launches = s.launches := rfl
@[simp] theorem State.draw_waiting (s : State) : s.draw.2.waiting = s.waiting := rfl
@[simp] theorem State.draw_token (s : State) : s.draw.2.token = s.token := rfl
@[simp] theorem State.draw_unresolved (s : State) : s.draw.2.unresolved = s.unresolved := rfl
@[simp] theorem State.draw_fabric (s : State) : s.draw.2.fabric = s.fabric := rfl
@[simp] theorem State.draw_outbox (s : State) : s.draw.2.outbox = s.outbox := rfl
@[simp] theorem State.draw_revoking (s : State) : s.draw.2.revoking = s.revoking := rfl
@[simp] theorem State.draw_killing (s : State) : s.draw.2.killing = s.killing := rfl
@[simp] theorem State.draw_boot (s : State) : s.draw.2.boot = s.boot := rfl
@[simp] theorem State.draw_fwImage (s : State) : s.draw.2.fwImage = s.fwImage := rfl
@[simp] theorem State.draw_frozen (s : State) : s.draw.2.frozen = s.frozen := rfl
@[simp] theorem State.draw_life (s : State) : s.draw.2.life = s.life := rfl
@[simp] theorem State.draw_tally (s : State) : s.draw.2.tally = s.tally := rfl
@[simp] theorem State.draw_tests (s : State) : s.draw.2.tests = s.tests := rfl
@[simp] theorem State.draw_replays (s : State) : s.draw.2.replays = s.replays := rfl
@[simp] theorem State.draw_spares (s : State) : s.draw.2.spares = s.spares := rfl
@[simp] theorem State.draw_retired (s : State) : s.draw.2.retired = s.retired := rfl
@[simp] theorem State.draw_halted (s : State) : s.draw.2.halted = s.halted := rfl
@[simp] theorem State.draw_cxlAwait (s : State) : s.draw.2.cxlAwait = s.cxlAwait := rfl
@[simp] theorem State.draw_islands (s : State) : s.draw.2.islands = s.islands := rfl
@[simp] theorem State.draw_cores (s : State) : s.draw.2.cores = s.cores := rfl
@[simp] theorem State.draw_agenda (s : State) : s.draw.2.agenda = s.agenda := rfl
@[simp] theorem State.draw_flip (s : State) : s.draw.2.flip = s.flip := rfl
@[simp] theorem State.draw_cur (s : State) : s.draw.2.cur = s.cur := rfl
@[simp] theorem State.draw_time (s : State) : s.draw.2.time = s.time := rfl
@[simp] theorem State.draw_assign (s : State) : s.draw.2.assign = s.assign := rfl
@[simp] theorem State.draw_seq (s : State) : s.draw.2.seq = s.seq := rfl

@[simp] theorem Core.setThread_store (c : Core) (i : Nat) (x : Thread) : (c.setThread i x).store = c.store := rfl
@[simp] theorem Core.setThread_blocks (c : Core) (i : Nat) (x : Thread) : (c.setThread i x).blocks = c.blocks := rfl
@[simp] theorem Core.setThread_crews (c : Core) (i : Nat) (x : Thread) : (c.setThread i x).crews = c.crews := rfl
@[simp] theorem Core.setThread_shares (c : Core) (i : Nat) (x : Thread) : (c.setThread i x).shares = c.shares := rfl
@[simp] theorem Core.setThread_lines (c : Core) (i : Nat) (x : Thread) : (c.setThread i x).lines = c.lines := rfl
@[simp] theorem Core.setThread_constant (c : Core) (i : Nat) (x : Thread) : (c.setThread i x).constant = c.constant := rfl
@[simp] theorem Core.setThread_icache (c : Core) (i : Nat) (x : Thread) : (c.setThread i x).icache = c.icache := rfl
@[simp] theorem Core.setThread_gbuffers (c : Core) (i : Nat) (x : Thread) : (c.setThread i x).gbuffers = c.gbuffers := rfl
@[simp] theorem Core.setThread_tlb (c : Core) (i : Nat) (x : Thread) : (c.setThread i x).tlb = c.tlb := rfl
@[simp] theorem Core.setThread_walkAhead (c : Core) (i : Nat) (x : Thread) : (c.setThread i x).walkAhead = c.walkAhead := rfl
@[simp] theorem Core.setThread_records (c : Core) (i : Nat) (x : Thread) : (c.setThread i x).records = c.records := rfl
@[simp] theorem Core.setThread_tasks (c : Core) (i : Nat) (x : Thread) : (c.setThread i x).tasks = c.tasks := rfl
@[simp] theorem Core.setThread_holders (c : Core) (i : Nat) (x : Thread) : (c.setThread i x).holders = c.holders := rfl
@[simp] theorem Core.setThread_loads (c : Core) (i : Nat) (x : Thread) : (c.setThread i x).loads = c.loads := rfl
@[simp] theorem Core.setThread_latch (c : Core) (i : Nat) (x : Thread) : (c.setThread i x).latch = c.latch := rfl
@[simp] theorem Core.setThread_overflow (c : Core) (i : Nat) (x : Thread) : (c.setThread i x).overflow = c.overflow := rfl
@[simp] theorem Core.setThread_far (c : Core) (i : Nat) (x : Thread) : (c.setThread i x).far = c.far := rfl
@[simp] theorem Core.setThread_bp (c : Core) (i : Nat) (x : Thread) : (c.setThread i x).bp = c.bp := rfl
@[simp] theorem Core.setThread_tracker (c : Core) (i : Nat) (x : Thread) : (c.setThread i x).tracker = c.tracker := rfl
@[simp] theorem Core.setThread_full (c : Core) (i : Nat) (x : Thread) : (c.setThread i x).full = c.full := rfl
@[simp] theorem Core.setThread_shared (c : Core) (i : Nat) (x : Thread) : (c.setThread i x).shared = c.shared := rfl
@[simp] theorem Core.setThread_regroups (c : Core) (i : Nat) (x : Thread) : (c.setThread i x).regroups = c.regroups := rfl
@[simp] theorem Core.setThread_checkpoints (c : Core) (i : Nat) (x : Thread) : (c.setThread i x).checkpoints = c.checkpoints := rfl
@[simp] theorem Core.setThread_bad (c : Core) (i : Nat) (x : Thread) : (c.setThread i x).bad = c.bad := rfl
@[simp] theorem Core.setThread_arithNext (c : Core) (i : Nat) (x : Thread) : (c.setThread i x).arithNext = c.arithNext := rfl
@[simp] theorem Core.setThread_place (c : Core) (i : Nat) (x : Thread) : (c.setThread i x).place = c.place := rfl
@[simp] theorem Core.setThread_reuse (c : Core) (i : Nat) (x : Thread) : (c.setThread i x).reuse = c.reuse := rfl

theorem Core.modThread_eq (c : Core) (i : Nat) (g : Thread → Thread) :
    c.modThread i g = { c with threads := (c.modThread i g).threads } := by unfold Core.modThread; split <;> rfl

@[simp] theorem Core.modThread_store (c : Core) (i : Nat) (g : Thread → Thread) : (c.modThread i g).store = c.store := (congrArg Core.store (c.modThread_eq i g) :)
@[simp] theorem Core.modThread_blocks (c : Core) (i : Nat) (g : Thread → Thread) : (c.modThread i g).blocks = c.blocks := (congrArg Core.blocks (c.modThread_eq i g) :)
@[simp] theorem Core.modThread_crews (c : Core) (i : Nat) (g : Thread → Thread) : (c.modThread i g).crews = c.crews := (congrArg Core.crews (c.modThread_eq i g) :)
@[simp] theorem Core.modThread_shares (c : Core) (i : Nat) (g : Thread → Thread) : (c.modThread i g).shares = c.shares := (congrArg Core.shares (c.modThread_eq i g) :)
@[simp] theorem Core.modThread_lines (c : Core) (i : Nat) (g : Thread → Thread) : (c.modThread i g).lines = c.lines := (congrArg Core.lines (c.modThread_eq i g) :)
@[simp] theorem Core.modThread_constant (c : Core) (i : Nat) (g : Thread → Thread) : (c.modThread i g).constant = c.constant := (congrArg Core.constant (c.modThread_eq i g) :)
@[simp] theorem Core.modThread_icache (c : Core) (i : Nat) (g : Thread → Thread) : (c.modThread i g).icache = c.icache := (congrArg Core.icache (c.modThread_eq i g) :)
@[simp] theorem Core.modThread_gbuffers (c : Core) (i : Nat) (g : Thread → Thread) : (c.modThread i g).gbuffers = c.gbuffers := (congrArg Core.gbuffers (c.modThread_eq i g) :)
@[simp] theorem Core.modThread_tlb (c : Core) (i : Nat) (g : Thread → Thread) : (c.modThread i g).tlb = c.tlb := (congrArg Core.tlb (c.modThread_eq i g) :)
@[simp] theorem Core.modThread_walkAhead (c : Core) (i : Nat) (g : Thread → Thread) : (c.modThread i g).walkAhead = c.walkAhead := (congrArg Core.walkAhead (c.modThread_eq i g) :)
@[simp] theorem Core.modThread_records (c : Core) (i : Nat) (g : Thread → Thread) : (c.modThread i g).records = c.records := (congrArg Core.records (c.modThread_eq i g) :)
@[simp] theorem Core.modThread_tasks (c : Core) (i : Nat) (g : Thread → Thread) : (c.modThread i g).tasks = c.tasks := (congrArg Core.tasks (c.modThread_eq i g) :)
@[simp] theorem Core.modThread_holders (c : Core) (i : Nat) (g : Thread → Thread) : (c.modThread i g).holders = c.holders := (congrArg Core.holders (c.modThread_eq i g) :)
@[simp] theorem Core.modThread_loads (c : Core) (i : Nat) (g : Thread → Thread) : (c.modThread i g).loads = c.loads := (congrArg Core.loads (c.modThread_eq i g) :)
@[simp] theorem Core.modThread_latch (c : Core) (i : Nat) (g : Thread → Thread) : (c.modThread i g).latch = c.latch := (congrArg Core.latch (c.modThread_eq i g) :)
@[simp] theorem Core.modThread_overflow (c : Core) (i : Nat) (g : Thread → Thread) : (c.modThread i g).overflow = c.overflow := (congrArg Core.overflow (c.modThread_eq i g) :)
@[simp] theorem Core.modThread_far (c : Core) (i : Nat) (g : Thread → Thread) : (c.modThread i g).far = c.far := (congrArg Core.far (c.modThread_eq i g) :)
@[simp] theorem Core.modThread_bp (c : Core) (i : Nat) (g : Thread → Thread) : (c.modThread i g).bp = c.bp := (congrArg Core.bp (c.modThread_eq i g) :)
@[simp] theorem Core.modThread_tracker (c : Core) (i : Nat) (g : Thread → Thread) : (c.modThread i g).tracker = c.tracker := (congrArg Core.tracker (c.modThread_eq i g) :)
@[simp] theorem Core.modThread_full (c : Core) (i : Nat) (g : Thread → Thread) : (c.modThread i g).full = c.full := (congrArg Core.full (c.modThread_eq i g) :)
@[simp] theorem Core.modThread_shared (c : Core) (i : Nat) (g : Thread → Thread) : (c.modThread i g).shared = c.shared := (congrArg Core.shared (c.modThread_eq i g) :)
@[simp] theorem Core.modThread_regroups (c : Core) (i : Nat) (g : Thread → Thread) : (c.modThread i g).regroups = c.regroups := (congrArg Core.regroups (c.modThread_eq i g) :)
@[simp] theorem Core.modThread_checkpoints (c : Core) (i : Nat) (g : Thread → Thread) : (c.modThread i g).checkpoints = c.checkpoints := (congrArg Core.checkpoints (c.modThread_eq i g) :)
@[simp] theorem Core.modThread_bad (c : Core) (i : Nat) (g : Thread → Thread) : (c.modThread i g).bad = c.bad := (congrArg Core.bad (c.modThread_eq i g) :)
@[simp] theorem Core.modThread_arithNext (c : Core) (i : Nat) (g : Thread → Thread) : (c.modThread i g).arithNext = c.arithNext := (congrArg Core.arithNext (c.modThread_eq i g) :)
@[simp] theorem Core.modThread_place (c : Core) (i : Nat) (g : Thread → Thread) : (c.modThread i g).place = c.place := (congrArg Core.place (c.modThread_eq i g) :)
@[simp] theorem Core.modThread_reuse (c : Core) (i : Nat) (g : Thread → Thread) : (c.modThread i g).reuse = c.reuse := (congrArg Core.reuse (c.modThread_eq i g) :)

@[simp] theorem Core.setCrew_store (c : Core) (i : Nat) (x : Crew) : (c.setCrew i x).store = c.store := rfl
@[simp] theorem Core.setCrew_blocks (c : Core) (i : Nat) (x : Crew) : (c.setCrew i x).blocks = c.blocks := rfl
@[simp] theorem Core.setCrew_threads (c : Core) (i : Nat) (x : Crew) : (c.setCrew i x).threads = c.threads := rfl
@[simp] theorem Core.setCrew_shares (c : Core) (i : Nat) (x : Crew) : (c.setCrew i x).shares = c.shares := rfl
@[simp] theorem Core.setCrew_lines (c : Core) (i : Nat) (x : Crew) : (c.setCrew i x).lines = c.lines := rfl
@[simp] theorem Core.setCrew_constant (c : Core) (i : Nat) (x : Crew) : (c.setCrew i x).constant = c.constant := rfl
@[simp] theorem Core.setCrew_icache (c : Core) (i : Nat) (x : Crew) : (c.setCrew i x).icache = c.icache := rfl
@[simp] theorem Core.setCrew_gbuffers (c : Core) (i : Nat) (x : Crew) : (c.setCrew i x).gbuffers = c.gbuffers := rfl
@[simp] theorem Core.setCrew_tlb (c : Core) (i : Nat) (x : Crew) : (c.setCrew i x).tlb = c.tlb := rfl
@[simp] theorem Core.setCrew_walkAhead (c : Core) (i : Nat) (x : Crew) : (c.setCrew i x).walkAhead = c.walkAhead := rfl
@[simp] theorem Core.setCrew_records (c : Core) (i : Nat) (x : Crew) : (c.setCrew i x).records = c.records := rfl
@[simp] theorem Core.setCrew_tasks (c : Core) (i : Nat) (x : Crew) : (c.setCrew i x).tasks = c.tasks := rfl
@[simp] theorem Core.setCrew_holders (c : Core) (i : Nat) (x : Crew) : (c.setCrew i x).holders = c.holders := rfl
@[simp] theorem Core.setCrew_loads (c : Core) (i : Nat) (x : Crew) : (c.setCrew i x).loads = c.loads := rfl
@[simp] theorem Core.setCrew_latch (c : Core) (i : Nat) (x : Crew) : (c.setCrew i x).latch = c.latch := rfl
@[simp] theorem Core.setCrew_overflow (c : Core) (i : Nat) (x : Crew) : (c.setCrew i x).overflow = c.overflow := rfl
@[simp] theorem Core.setCrew_far (c : Core) (i : Nat) (x : Crew) : (c.setCrew i x).far = c.far := rfl
@[simp] theorem Core.setCrew_bp (c : Core) (i : Nat) (x : Crew) : (c.setCrew i x).bp = c.bp := rfl
@[simp] theorem Core.setCrew_tracker (c : Core) (i : Nat) (x : Crew) : (c.setCrew i x).tracker = c.tracker := rfl
@[simp] theorem Core.setCrew_full (c : Core) (i : Nat) (x : Crew) : (c.setCrew i x).full = c.full := rfl
@[simp] theorem Core.setCrew_shared (c : Core) (i : Nat) (x : Crew) : (c.setCrew i x).shared = c.shared := rfl
@[simp] theorem Core.setCrew_regroups (c : Core) (i : Nat) (x : Crew) : (c.setCrew i x).regroups = c.regroups := rfl
@[simp] theorem Core.setCrew_checkpoints (c : Core) (i : Nat) (x : Crew) : (c.setCrew i x).checkpoints = c.checkpoints := rfl
@[simp] theorem Core.setCrew_bad (c : Core) (i : Nat) (x : Crew) : (c.setCrew i x).bad = c.bad := rfl
@[simp] theorem Core.setCrew_arithNext (c : Core) (i : Nat) (x : Crew) : (c.setCrew i x).arithNext = c.arithNext := rfl
@[simp] theorem Core.setCrew_place (c : Core) (i : Nat) (x : Crew) : (c.setCrew i x).place = c.place := rfl
@[simp] theorem Core.setCrew_reuse (c : Core) (i : Nat) (x : Crew) : (c.setCrew i x).reuse = c.reuse := rfl

theorem Core.modCrew_eq (c : Core) (i : Nat) (g : Crew → Crew) :
    c.modCrew i g = { c with crews := (c.modCrew i g).crews } := by unfold Core.modCrew; split <;> rfl

@[simp] theorem Core.modCrew_store (c : Core) (i : Nat) (g : Crew → Crew) : (c.modCrew i g).store = c.store := (congrArg Core.store (c.modCrew_eq i g) :)
@[simp] theorem Core.modCrew_blocks (c : Core) (i : Nat) (g : Crew → Crew) : (c.modCrew i g).blocks = c.blocks := (congrArg Core.blocks (c.modCrew_eq i g) :)
@[simp] theorem Core.modCrew_threads (c : Core) (i : Nat) (g : Crew → Crew) : (c.modCrew i g).threads = c.threads := (congrArg Core.threads (c.modCrew_eq i g) :)
@[simp] theorem Core.modCrew_shares (c : Core) (i : Nat) (g : Crew → Crew) : (c.modCrew i g).shares = c.shares := (congrArg Core.shares (c.modCrew_eq i g) :)
@[simp] theorem Core.modCrew_lines (c : Core) (i : Nat) (g : Crew → Crew) : (c.modCrew i g).lines = c.lines := (congrArg Core.lines (c.modCrew_eq i g) :)
@[simp] theorem Core.modCrew_constant (c : Core) (i : Nat) (g : Crew → Crew) : (c.modCrew i g).constant = c.constant := (congrArg Core.constant (c.modCrew_eq i g) :)
@[simp] theorem Core.modCrew_icache (c : Core) (i : Nat) (g : Crew → Crew) : (c.modCrew i g).icache = c.icache := (congrArg Core.icache (c.modCrew_eq i g) :)
@[simp] theorem Core.modCrew_gbuffers (c : Core) (i : Nat) (g : Crew → Crew) : (c.modCrew i g).gbuffers = c.gbuffers := (congrArg Core.gbuffers (c.modCrew_eq i g) :)
@[simp] theorem Core.modCrew_tlb (c : Core) (i : Nat) (g : Crew → Crew) : (c.modCrew i g).tlb = c.tlb := (congrArg Core.tlb (c.modCrew_eq i g) :)
@[simp] theorem Core.modCrew_walkAhead (c : Core) (i : Nat) (g : Crew → Crew) : (c.modCrew i g).walkAhead = c.walkAhead := (congrArg Core.walkAhead (c.modCrew_eq i g) :)
@[simp] theorem Core.modCrew_records (c : Core) (i : Nat) (g : Crew → Crew) : (c.modCrew i g).records = c.records := (congrArg Core.records (c.modCrew_eq i g) :)
@[simp] theorem Core.modCrew_tasks (c : Core) (i : Nat) (g : Crew → Crew) : (c.modCrew i g).tasks = c.tasks := (congrArg Core.tasks (c.modCrew_eq i g) :)
@[simp] theorem Core.modCrew_holders (c : Core) (i : Nat) (g : Crew → Crew) : (c.modCrew i g).holders = c.holders := (congrArg Core.holders (c.modCrew_eq i g) :)
@[simp] theorem Core.modCrew_loads (c : Core) (i : Nat) (g : Crew → Crew) : (c.modCrew i g).loads = c.loads := (congrArg Core.loads (c.modCrew_eq i g) :)
@[simp] theorem Core.modCrew_latch (c : Core) (i : Nat) (g : Crew → Crew) : (c.modCrew i g).latch = c.latch := (congrArg Core.latch (c.modCrew_eq i g) :)
@[simp] theorem Core.modCrew_overflow (c : Core) (i : Nat) (g : Crew → Crew) : (c.modCrew i g).overflow = c.overflow := (congrArg Core.overflow (c.modCrew_eq i g) :)
@[simp] theorem Core.modCrew_far (c : Core) (i : Nat) (g : Crew → Crew) : (c.modCrew i g).far = c.far := (congrArg Core.far (c.modCrew_eq i g) :)
@[simp] theorem Core.modCrew_bp (c : Core) (i : Nat) (g : Crew → Crew) : (c.modCrew i g).bp = c.bp := (congrArg Core.bp (c.modCrew_eq i g) :)
@[simp] theorem Core.modCrew_tracker (c : Core) (i : Nat) (g : Crew → Crew) : (c.modCrew i g).tracker = c.tracker := (congrArg Core.tracker (c.modCrew_eq i g) :)
@[simp] theorem Core.modCrew_full (c : Core) (i : Nat) (g : Crew → Crew) : (c.modCrew i g).full = c.full := (congrArg Core.full (c.modCrew_eq i g) :)
@[simp] theorem Core.modCrew_shared (c : Core) (i : Nat) (g : Crew → Crew) : (c.modCrew i g).shared = c.shared := (congrArg Core.shared (c.modCrew_eq i g) :)
@[simp] theorem Core.modCrew_regroups (c : Core) (i : Nat) (g : Crew → Crew) : (c.modCrew i g).regroups = c.regroups := (congrArg Core.regroups (c.modCrew_eq i g) :)
@[simp] theorem Core.modCrew_checkpoints (c : Core) (i : Nat) (g : Crew → Crew) : (c.modCrew i g).checkpoints = c.checkpoints := (congrArg Core.checkpoints (c.modCrew_eq i g) :)
@[simp] theorem Core.modCrew_bad (c : Core) (i : Nat) (g : Crew → Crew) : (c.modCrew i g).bad = c.bad := (congrArg Core.bad (c.modCrew_eq i g) :)
@[simp] theorem Core.modCrew_arithNext (c : Core) (i : Nat) (g : Crew → Crew) : (c.modCrew i g).arithNext = c.arithNext := (congrArg Core.arithNext (c.modCrew_eq i g) :)
@[simp] theorem Core.modCrew_place (c : Core) (i : Nat) (g : Crew → Crew) : (c.modCrew i g).place = c.place := (congrArg Core.place (c.modCrew_eq i g) :)
@[simp] theorem Core.modCrew_reuse (c : Core) (i : Nat) (g : Crew → Crew) : (c.modCrew i g).reuse = c.reuse := (congrArg Core.reuse (c.modCrew_eq i g) :)

@[simp] theorem Core.modBlock_store (c : Core) (l i : Nat) (g : Block → Block) : (c.modBlock l i g).store = c.store := rfl
@[simp] theorem Core.modBlock_crews (c : Core) (l i : Nat) (g : Block → Block) : (c.modBlock l i g).crews = c.crews := rfl
@[simp] theorem Core.modBlock_threads (c : Core) (l i : Nat) (g : Block → Block) : (c.modBlock l i g).threads = c.threads := rfl
@[simp] theorem Core.modBlock_shares (c : Core) (l i : Nat) (g : Block → Block) : (c.modBlock l i g).shares = c.shares := rfl
@[simp] theorem Core.modBlock_lines (c : Core) (l i : Nat) (g : Block → Block) : (c.modBlock l i g).lines = c.lines := rfl
@[simp] theorem Core.modBlock_constant (c : Core) (l i : Nat) (g : Block → Block) : (c.modBlock l i g).constant = c.constant := rfl
@[simp] theorem Core.modBlock_icache (c : Core) (l i : Nat) (g : Block → Block) : (c.modBlock l i g).icache = c.icache := rfl
@[simp] theorem Core.modBlock_gbuffers (c : Core) (l i : Nat) (g : Block → Block) : (c.modBlock l i g).gbuffers = c.gbuffers := rfl
@[simp] theorem Core.modBlock_tlb (c : Core) (l i : Nat) (g : Block → Block) : (c.modBlock l i g).tlb = c.tlb := rfl
@[simp] theorem Core.modBlock_walkAhead (c : Core) (l i : Nat) (g : Block → Block) : (c.modBlock l i g).walkAhead = c.walkAhead := rfl
@[simp] theorem Core.modBlock_records (c : Core) (l i : Nat) (g : Block → Block) : (c.modBlock l i g).records = c.records := rfl
@[simp] theorem Core.modBlock_tasks (c : Core) (l i : Nat) (g : Block → Block) : (c.modBlock l i g).tasks = c.tasks := rfl
@[simp] theorem Core.modBlock_holders (c : Core) (l i : Nat) (g : Block → Block) : (c.modBlock l i g).holders = c.holders := rfl
@[simp] theorem Core.modBlock_loads (c : Core) (l i : Nat) (g : Block → Block) : (c.modBlock l i g).loads = c.loads := rfl
@[simp] theorem Core.modBlock_latch (c : Core) (l i : Nat) (g : Block → Block) : (c.modBlock l i g).latch = c.latch := rfl
@[simp] theorem Core.modBlock_overflow (c : Core) (l i : Nat) (g : Block → Block) : (c.modBlock l i g).overflow = c.overflow := rfl
@[simp] theorem Core.modBlock_far (c : Core) (l i : Nat) (g : Block → Block) : (c.modBlock l i g).far = c.far := rfl
@[simp] theorem Core.modBlock_bp (c : Core) (l i : Nat) (g : Block → Block) : (c.modBlock l i g).bp = c.bp := rfl
@[simp] theorem Core.modBlock_tracker (c : Core) (l i : Nat) (g : Block → Block) : (c.modBlock l i g).tracker = c.tracker := rfl
@[simp] theorem Core.modBlock_full (c : Core) (l i : Nat) (g : Block → Block) : (c.modBlock l i g).full = c.full := rfl
@[simp] theorem Core.modBlock_shared (c : Core) (l i : Nat) (g : Block → Block) : (c.modBlock l i g).shared = c.shared := rfl
@[simp] theorem Core.modBlock_regroups (c : Core) (l i : Nat) (g : Block → Block) : (c.modBlock l i g).regroups = c.regroups := rfl
@[simp] theorem Core.modBlock_checkpoints (c : Core) (l i : Nat) (g : Block → Block) : (c.modBlock l i g).checkpoints = c.checkpoints := rfl
@[simp] theorem Core.modBlock_bad (c : Core) (l i : Nat) (g : Block → Block) : (c.modBlock l i g).bad = c.bad := rfl
@[simp] theorem Core.modBlock_arithNext (c : Core) (l i : Nat) (g : Block → Block) : (c.modBlock l i g).arithNext = c.arithNext := rfl
@[simp] theorem Core.modBlock_place (c : Core) (l i : Nat) (g : Block → Block) : (c.modBlock l i g).place = c.place := rfl
@[simp] theorem Core.modBlock_reuse (c : Core) (l i : Nat) (g : Block → Block) : (c.modBlock l i g).reuse = c.reuse := rfl

theorem Core.modSeeing_eq (c : Core) (i : Nat) (d : BitVec 8) (g : Thread → Thread) :
    c.modSeeing i d g = { c with threads := (c.modSeeing i d g).threads } := by
  unfold Core.modSeeing
  split
  · exact c.modThread_eq i g
  · rfl

@[simp] theorem Core.modSeeing_store (c : Core) (i : Nat) (d : BitVec 8) (g : Thread → Thread) : (c.modSeeing i d g).store = c.store := (congrArg Core.store (c.modSeeing_eq i d g) :)
@[simp] theorem Core.modSeeing_blocks (c : Core) (i : Nat) (d : BitVec 8) (g : Thread → Thread) : (c.modSeeing i d g).blocks = c.blocks := (congrArg Core.blocks (c.modSeeing_eq i d g) :)
@[simp] theorem Core.modSeeing_crews (c : Core) (i : Nat) (d : BitVec 8) (g : Thread → Thread) : (c.modSeeing i d g).crews = c.crews := (congrArg Core.crews (c.modSeeing_eq i d g) :)
@[simp] theorem Core.modSeeing_shares (c : Core) (i : Nat) (d : BitVec 8) (g : Thread → Thread) : (c.modSeeing i d g).shares = c.shares := (congrArg Core.shares (c.modSeeing_eq i d g) :)
@[simp] theorem Core.modSeeing_lines (c : Core) (i : Nat) (d : BitVec 8) (g : Thread → Thread) : (c.modSeeing i d g).lines = c.lines := (congrArg Core.lines (c.modSeeing_eq i d g) :)
@[simp] theorem Core.modSeeing_constant (c : Core) (i : Nat) (d : BitVec 8) (g : Thread → Thread) : (c.modSeeing i d g).constant = c.constant := (congrArg Core.constant (c.modSeeing_eq i d g) :)
@[simp] theorem Core.modSeeing_icache (c : Core) (i : Nat) (d : BitVec 8) (g : Thread → Thread) : (c.modSeeing i d g).icache = c.icache := (congrArg Core.icache (c.modSeeing_eq i d g) :)
@[simp] theorem Core.modSeeing_gbuffers (c : Core) (i : Nat) (d : BitVec 8) (g : Thread → Thread) : (c.modSeeing i d g).gbuffers = c.gbuffers := (congrArg Core.gbuffers (c.modSeeing_eq i d g) :)
@[simp] theorem Core.modSeeing_tlb (c : Core) (i : Nat) (d : BitVec 8) (g : Thread → Thread) : (c.modSeeing i d g).tlb = c.tlb := (congrArg Core.tlb (c.modSeeing_eq i d g) :)
@[simp] theorem Core.modSeeing_walkAhead (c : Core) (i : Nat) (d : BitVec 8) (g : Thread → Thread) : (c.modSeeing i d g).walkAhead = c.walkAhead := (congrArg Core.walkAhead (c.modSeeing_eq i d g) :)
@[simp] theorem Core.modSeeing_records (c : Core) (i : Nat) (d : BitVec 8) (g : Thread → Thread) : (c.modSeeing i d g).records = c.records := (congrArg Core.records (c.modSeeing_eq i d g) :)
@[simp] theorem Core.modSeeing_tasks (c : Core) (i : Nat) (d : BitVec 8) (g : Thread → Thread) : (c.modSeeing i d g).tasks = c.tasks := (congrArg Core.tasks (c.modSeeing_eq i d g) :)
@[simp] theorem Core.modSeeing_holders (c : Core) (i : Nat) (d : BitVec 8) (g : Thread → Thread) : (c.modSeeing i d g).holders = c.holders := (congrArg Core.holders (c.modSeeing_eq i d g) :)
@[simp] theorem Core.modSeeing_loads (c : Core) (i : Nat) (d : BitVec 8) (g : Thread → Thread) : (c.modSeeing i d g).loads = c.loads := (congrArg Core.loads (c.modSeeing_eq i d g) :)
@[simp] theorem Core.modSeeing_latch (c : Core) (i : Nat) (d : BitVec 8) (g : Thread → Thread) : (c.modSeeing i d g).latch = c.latch := (congrArg Core.latch (c.modSeeing_eq i d g) :)
@[simp] theorem Core.modSeeing_overflow (c : Core) (i : Nat) (d : BitVec 8) (g : Thread → Thread) : (c.modSeeing i d g).overflow = c.overflow := (congrArg Core.overflow (c.modSeeing_eq i d g) :)
@[simp] theorem Core.modSeeing_far (c : Core) (i : Nat) (d : BitVec 8) (g : Thread → Thread) : (c.modSeeing i d g).far = c.far := (congrArg Core.far (c.modSeeing_eq i d g) :)
@[simp] theorem Core.modSeeing_bp (c : Core) (i : Nat) (d : BitVec 8) (g : Thread → Thread) : (c.modSeeing i d g).bp = c.bp := (congrArg Core.bp (c.modSeeing_eq i d g) :)
@[simp] theorem Core.modSeeing_tracker (c : Core) (i : Nat) (d : BitVec 8) (g : Thread → Thread) : (c.modSeeing i d g).tracker = c.tracker := (congrArg Core.tracker (c.modSeeing_eq i d g) :)
@[simp] theorem Core.modSeeing_full (c : Core) (i : Nat) (d : BitVec 8) (g : Thread → Thread) : (c.modSeeing i d g).full = c.full := (congrArg Core.full (c.modSeeing_eq i d g) :)
@[simp] theorem Core.modSeeing_shared (c : Core) (i : Nat) (d : BitVec 8) (g : Thread → Thread) : (c.modSeeing i d g).shared = c.shared := (congrArg Core.shared (c.modSeeing_eq i d g) :)
@[simp] theorem Core.modSeeing_regroups (c : Core) (i : Nat) (d : BitVec 8) (g : Thread → Thread) : (c.modSeeing i d g).regroups = c.regroups := (congrArg Core.regroups (c.modSeeing_eq i d g) :)
@[simp] theorem Core.modSeeing_checkpoints (c : Core) (i : Nat) (d : BitVec 8) (g : Thread → Thread) : (c.modSeeing i d g).checkpoints = c.checkpoints := (congrArg Core.checkpoints (c.modSeeing_eq i d g) :)
@[simp] theorem Core.modSeeing_bad (c : Core) (i : Nat) (d : BitVec 8) (g : Thread → Thread) : (c.modSeeing i d g).bad = c.bad := (congrArg Core.bad (c.modSeeing_eq i d g) :)
@[simp] theorem Core.modSeeing_arithNext (c : Core) (i : Nat) (d : BitVec 8) (g : Thread → Thread) : (c.modSeeing i d g).arithNext = c.arithNext := (congrArg Core.arithNext (c.modSeeing_eq i d g) :)
@[simp] theorem Core.modSeeing_place (c : Core) (i : Nat) (d : BitVec 8) (g : Thread → Thread) : (c.modSeeing i d g).place = c.place := (congrArg Core.place (c.modSeeing_eq i d g) :)
@[simp] theorem Core.modSeeing_reuse (c : Core) (i : Nat) (d : BitVec 8) (g : Thread → Thread) : (c.modSeeing i d g).reuse = c.reuse := (congrArg Core.reuse (c.modSeeing_eq i d g) :)

@[simp] theorem Core.unlatch_store (c : Core) (i n : Nat) : (c.unlatch i n).store = c.store := rfl
@[simp] theorem Core.unlatch_blocks (c : Core) (i n : Nat) : (c.unlatch i n).blocks = c.blocks := rfl
@[simp] theorem Core.unlatch_crews (c : Core) (i n : Nat) : (c.unlatch i n).crews = c.crews := rfl
@[simp] theorem Core.unlatch_threads (c : Core) (i n : Nat) : (c.unlatch i n).threads = c.threads := rfl
@[simp] theorem Core.unlatch_shares (c : Core) (i n : Nat) : (c.unlatch i n).shares = c.shares := rfl
@[simp] theorem Core.unlatch_lines (c : Core) (i n : Nat) : (c.unlatch i n).lines = c.lines := rfl
@[simp] theorem Core.unlatch_constant (c : Core) (i n : Nat) : (c.unlatch i n).constant = c.constant := rfl
@[simp] theorem Core.unlatch_icache (c : Core) (i n : Nat) : (c.unlatch i n).icache = c.icache := rfl
@[simp] theorem Core.unlatch_gbuffers (c : Core) (i n : Nat) : (c.unlatch i n).gbuffers = c.gbuffers := rfl
@[simp] theorem Core.unlatch_tlb (c : Core) (i n : Nat) : (c.unlatch i n).tlb = c.tlb := rfl
@[simp] theorem Core.unlatch_walkAhead (c : Core) (i n : Nat) : (c.unlatch i n).walkAhead = c.walkAhead := rfl
@[simp] theorem Core.unlatch_records (c : Core) (i n : Nat) : (c.unlatch i n).records = c.records := rfl
@[simp] theorem Core.unlatch_tasks (c : Core) (i n : Nat) : (c.unlatch i n).tasks = c.tasks := rfl
@[simp] theorem Core.unlatch_holders (c : Core) (i n : Nat) : (c.unlatch i n).holders = c.holders := rfl
@[simp] theorem Core.unlatch_loads (c : Core) (i n : Nat) : (c.unlatch i n).loads = c.loads := rfl
@[simp] theorem Core.unlatch_overflow (c : Core) (i n : Nat) : (c.unlatch i n).overflow = c.overflow := rfl
@[simp] theorem Core.unlatch_far (c : Core) (i n : Nat) : (c.unlatch i n).far = c.far := rfl
@[simp] theorem Core.unlatch_bp (c : Core) (i n : Nat) : (c.unlatch i n).bp = c.bp := rfl
@[simp] theorem Core.unlatch_tracker (c : Core) (i n : Nat) : (c.unlatch i n).tracker = c.tracker := rfl
@[simp] theorem Core.unlatch_full (c : Core) (i n : Nat) : (c.unlatch i n).full = c.full := rfl
@[simp] theorem Core.unlatch_shared (c : Core) (i n : Nat) : (c.unlatch i n).shared = c.shared := rfl
@[simp] theorem Core.unlatch_regroups (c : Core) (i n : Nat) : (c.unlatch i n).regroups = c.regroups := rfl
@[simp] theorem Core.unlatch_checkpoints (c : Core) (i n : Nat) : (c.unlatch i n).checkpoints = c.checkpoints := rfl
@[simp] theorem Core.unlatch_bad (c : Core) (i n : Nat) : (c.unlatch i n).bad = c.bad := rfl
@[simp] theorem Core.unlatch_arithNext (c : Core) (i n : Nat) : (c.unlatch i n).arithNext = c.arithNext := rfl
@[simp] theorem Core.unlatch_place (c : Core) (i n : Nat) : (c.unlatch i n).place = c.place := rfl
@[simp] theorem Core.unlatch_reuse (c : Core) (i n : Nat) : (c.unlatch i n).reuse = c.reuse := rfl

@[simp] theorem Core.dropHeld_store (c : Core) (i : Nat) (d : BitVec 8) : (c.dropHeld i d).store = c.store := rfl
@[simp] theorem Core.dropHeld_blocks (c : Core) (i : Nat) (d : BitVec 8) : (c.dropHeld i d).blocks = c.blocks := rfl
@[simp] theorem Core.dropHeld_crews (c : Core) (i : Nat) (d : BitVec 8) : (c.dropHeld i d).crews = c.crews := rfl
@[simp] theorem Core.dropHeld_threads (c : Core) (i : Nat) (d : BitVec 8) : (c.dropHeld i d).threads = c.threads := rfl
@[simp] theorem Core.dropHeld_shares (c : Core) (i : Nat) (d : BitVec 8) : (c.dropHeld i d).shares = c.shares := rfl
@[simp] theorem Core.dropHeld_lines (c : Core) (i : Nat) (d : BitVec 8) : (c.dropHeld i d).lines = c.lines := rfl
@[simp] theorem Core.dropHeld_constant (c : Core) (i : Nat) (d : BitVec 8) : (c.dropHeld i d).constant = c.constant := rfl
@[simp] theorem Core.dropHeld_icache (c : Core) (i : Nat) (d : BitVec 8) : (c.dropHeld i d).icache = c.icache := rfl
@[simp] theorem Core.dropHeld_gbuffers (c : Core) (i : Nat) (d : BitVec 8) : (c.dropHeld i d).gbuffers = c.gbuffers := rfl
@[simp] theorem Core.dropHeld_tlb (c : Core) (i : Nat) (d : BitVec 8) : (c.dropHeld i d).tlb = c.tlb := rfl
@[simp] theorem Core.dropHeld_walkAhead (c : Core) (i : Nat) (d : BitVec 8) : (c.dropHeld i d).walkAhead = c.walkAhead := rfl
@[simp] theorem Core.dropHeld_records (c : Core) (i : Nat) (d : BitVec 8) : (c.dropHeld i d).records = c.records := rfl
@[simp] theorem Core.dropHeld_tasks (c : Core) (i : Nat) (d : BitVec 8) : (c.dropHeld i d).tasks = c.tasks := rfl
@[simp] theorem Core.dropHeld_holders (c : Core) (i : Nat) (d : BitVec 8) : (c.dropHeld i d).holders = c.holders := rfl
@[simp] theorem Core.dropHeld_loads (c : Core) (i : Nat) (d : BitVec 8) : (c.dropHeld i d).loads = c.loads := rfl
@[simp] theorem Core.dropHeld_overflow (c : Core) (i : Nat) (d : BitVec 8) : (c.dropHeld i d).overflow = c.overflow := rfl
@[simp] theorem Core.dropHeld_far (c : Core) (i : Nat) (d : BitVec 8) : (c.dropHeld i d).far = c.far := rfl
@[simp] theorem Core.dropHeld_bp (c : Core) (i : Nat) (d : BitVec 8) : (c.dropHeld i d).bp = c.bp := rfl
@[simp] theorem Core.dropHeld_tracker (c : Core) (i : Nat) (d : BitVec 8) : (c.dropHeld i d).tracker = c.tracker := rfl
@[simp] theorem Core.dropHeld_full (c : Core) (i : Nat) (d : BitVec 8) : (c.dropHeld i d).full = c.full := rfl
@[simp] theorem Core.dropHeld_shared (c : Core) (i : Nat) (d : BitVec 8) : (c.dropHeld i d).shared = c.shared := rfl
@[simp] theorem Core.dropHeld_regroups (c : Core) (i : Nat) (d : BitVec 8) : (c.dropHeld i d).regroups = c.regroups := rfl
@[simp] theorem Core.dropHeld_checkpoints (c : Core) (i : Nat) (d : BitVec 8) : (c.dropHeld i d).checkpoints = c.checkpoints := rfl
@[simp] theorem Core.dropHeld_bad (c : Core) (i : Nat) (d : BitVec 8) : (c.dropHeld i d).bad = c.bad := rfl
@[simp] theorem Core.dropHeld_arithNext (c : Core) (i : Nat) (d : BitVec 8) : (c.dropHeld i d).arithNext = c.arithNext := rfl
@[simp] theorem Core.dropHeld_place (c : Core) (i : Nat) (d : BitVec 8) : (c.dropHeld i d).place = c.place := rfl
@[simp] theorem Core.dropHeld_reuse (c : Core) (i : Nat) (d : BitVec 8) : (c.dropHeld i d).reuse = c.reuse := rfl

theorem Core.ageLatch_eq (c : Core) (i : Nat) : c.ageLatch i = { c with latch := (c.ageLatch i).latch } := by
  unfold Core.ageLatch; split <;> rfl

@[simp] theorem Core.ageLatch_store (c : Core) (i : Nat) : (c.ageLatch i).store = c.store := (congrArg Core.store (c.ageLatch_eq i) :)
@[simp] theorem Core.ageLatch_blocks (c : Core) (i : Nat) : (c.ageLatch i).blocks = c.blocks := (congrArg Core.blocks (c.ageLatch_eq i) :)
@[simp] theorem Core.ageLatch_crews (c : Core) (i : Nat) : (c.ageLatch i).crews = c.crews := (congrArg Core.crews (c.ageLatch_eq i) :)
@[simp] theorem Core.ageLatch_threads (c : Core) (i : Nat) : (c.ageLatch i).threads = c.threads := (congrArg Core.threads (c.ageLatch_eq i) :)
@[simp] theorem Core.ageLatch_shares (c : Core) (i : Nat) : (c.ageLatch i).shares = c.shares := (congrArg Core.shares (c.ageLatch_eq i) :)
@[simp] theorem Core.ageLatch_lines (c : Core) (i : Nat) : (c.ageLatch i).lines = c.lines := (congrArg Core.lines (c.ageLatch_eq i) :)
@[simp] theorem Core.ageLatch_constant (c : Core) (i : Nat) : (c.ageLatch i).constant = c.constant := (congrArg Core.constant (c.ageLatch_eq i) :)
@[simp] theorem Core.ageLatch_icache (c : Core) (i : Nat) : (c.ageLatch i).icache = c.icache := (congrArg Core.icache (c.ageLatch_eq i) :)
@[simp] theorem Core.ageLatch_gbuffers (c : Core) (i : Nat) : (c.ageLatch i).gbuffers = c.gbuffers := (congrArg Core.gbuffers (c.ageLatch_eq i) :)
@[simp] theorem Core.ageLatch_tlb (c : Core) (i : Nat) : (c.ageLatch i).tlb = c.tlb := (congrArg Core.tlb (c.ageLatch_eq i) :)
@[simp] theorem Core.ageLatch_walkAhead (c : Core) (i : Nat) : (c.ageLatch i).walkAhead = c.walkAhead := (congrArg Core.walkAhead (c.ageLatch_eq i) :)
@[simp] theorem Core.ageLatch_records (c : Core) (i : Nat) : (c.ageLatch i).records = c.records := (congrArg Core.records (c.ageLatch_eq i) :)
@[simp] theorem Core.ageLatch_tasks (c : Core) (i : Nat) : (c.ageLatch i).tasks = c.tasks := (congrArg Core.tasks (c.ageLatch_eq i) :)
@[simp] theorem Core.ageLatch_holders (c : Core) (i : Nat) : (c.ageLatch i).holders = c.holders := (congrArg Core.holders (c.ageLatch_eq i) :)
@[simp] theorem Core.ageLatch_loads (c : Core) (i : Nat) : (c.ageLatch i).loads = c.loads := (congrArg Core.loads (c.ageLatch_eq i) :)
@[simp] theorem Core.ageLatch_overflow (c : Core) (i : Nat) : (c.ageLatch i).overflow = c.overflow := (congrArg Core.overflow (c.ageLatch_eq i) :)
@[simp] theorem Core.ageLatch_far (c : Core) (i : Nat) : (c.ageLatch i).far = c.far := (congrArg Core.far (c.ageLatch_eq i) :)
@[simp] theorem Core.ageLatch_bp (c : Core) (i : Nat) : (c.ageLatch i).bp = c.bp := (congrArg Core.bp (c.ageLatch_eq i) :)
@[simp] theorem Core.ageLatch_tracker (c : Core) (i : Nat) : (c.ageLatch i).tracker = c.tracker := (congrArg Core.tracker (c.ageLatch_eq i) :)
@[simp] theorem Core.ageLatch_full (c : Core) (i : Nat) : (c.ageLatch i).full = c.full := (congrArg Core.full (c.ageLatch_eq i) :)
@[simp] theorem Core.ageLatch_shared (c : Core) (i : Nat) : (c.ageLatch i).shared = c.shared := (congrArg Core.shared (c.ageLatch_eq i) :)
@[simp] theorem Core.ageLatch_regroups (c : Core) (i : Nat) : (c.ageLatch i).regroups = c.regroups := (congrArg Core.regroups (c.ageLatch_eq i) :)
@[simp] theorem Core.ageLatch_checkpoints (c : Core) (i : Nat) : (c.ageLatch i).checkpoints = c.checkpoints := (congrArg Core.checkpoints (c.ageLatch_eq i) :)
@[simp] theorem Core.ageLatch_bad (c : Core) (i : Nat) : (c.ageLatch i).bad = c.bad := (congrArg Core.bad (c.ageLatch_eq i) :)
@[simp] theorem Core.ageLatch_arithNext (c : Core) (i : Nat) : (c.ageLatch i).arithNext = c.arithNext := (congrArg Core.arithNext (c.ageLatch_eq i) :)
@[simp] theorem Core.ageLatch_place (c : Core) (i : Nat) : (c.ageLatch i).place = c.place := (congrArg Core.place (c.ageLatch_eq i) :)
@[simp] theorem Core.ageLatch_reuse (c : Core) (i : Nat) : (c.ageLatch i).reuse = c.reuse := (congrArg Core.reuse (c.ageLatch_eq i) :)

theorem Core.writeV_eq (c : Core) (i n : Nat) (w : Word) :
    c.writeV i n w = { c with store := (c.writeV i n w).store, bad := (c.writeV i n w).bad } := by unfold Core.writeV; split <;> rfl

@[simp] theorem Core.writeV_blocks (c : Core) (i n : Nat) (w : Word) : (c.writeV i n w).blocks = c.blocks := (congrArg Core.blocks (c.writeV_eq i n w) :)
@[simp] theorem Core.writeV_crews (c : Core) (i n : Nat) (w : Word) : (c.writeV i n w).crews = c.crews := (congrArg Core.crews (c.writeV_eq i n w) :)
@[simp] theorem Core.writeV_threads (c : Core) (i n : Nat) (w : Word) : (c.writeV i n w).threads = c.threads := (congrArg Core.threads (c.writeV_eq i n w) :)
@[simp] theorem Core.writeV_shares (c : Core) (i n : Nat) (w : Word) : (c.writeV i n w).shares = c.shares := (congrArg Core.shares (c.writeV_eq i n w) :)
@[simp] theorem Core.writeV_lines (c : Core) (i n : Nat) (w : Word) : (c.writeV i n w).lines = c.lines := (congrArg Core.lines (c.writeV_eq i n w) :)
@[simp] theorem Core.writeV_constant (c : Core) (i n : Nat) (w : Word) : (c.writeV i n w).constant = c.constant := (congrArg Core.constant (c.writeV_eq i n w) :)
@[simp] theorem Core.writeV_icache (c : Core) (i n : Nat) (w : Word) : (c.writeV i n w).icache = c.icache := (congrArg Core.icache (c.writeV_eq i n w) :)
@[simp] theorem Core.writeV_gbuffers (c : Core) (i n : Nat) (w : Word) : (c.writeV i n w).gbuffers = c.gbuffers := (congrArg Core.gbuffers (c.writeV_eq i n w) :)
@[simp] theorem Core.writeV_tlb (c : Core) (i n : Nat) (w : Word) : (c.writeV i n w).tlb = c.tlb := (congrArg Core.tlb (c.writeV_eq i n w) :)
@[simp] theorem Core.writeV_walkAhead (c : Core) (i n : Nat) (w : Word) : (c.writeV i n w).walkAhead = c.walkAhead := (congrArg Core.walkAhead (c.writeV_eq i n w) :)
@[simp] theorem Core.writeV_records (c : Core) (i n : Nat) (w : Word) : (c.writeV i n w).records = c.records := (congrArg Core.records (c.writeV_eq i n w) :)
@[simp] theorem Core.writeV_tasks (c : Core) (i n : Nat) (w : Word) : (c.writeV i n w).tasks = c.tasks := (congrArg Core.tasks (c.writeV_eq i n w) :)
@[simp] theorem Core.writeV_holders (c : Core) (i n : Nat) (w : Word) : (c.writeV i n w).holders = c.holders := (congrArg Core.holders (c.writeV_eq i n w) :)
@[simp] theorem Core.writeV_loads (c : Core) (i n : Nat) (w : Word) : (c.writeV i n w).loads = c.loads := (congrArg Core.loads (c.writeV_eq i n w) :)
@[simp] theorem Core.writeV_latch (c : Core) (i n : Nat) (w : Word) : (c.writeV i n w).latch = c.latch := (congrArg Core.latch (c.writeV_eq i n w) :)
@[simp] theorem Core.writeV_overflow (c : Core) (i n : Nat) (w : Word) : (c.writeV i n w).overflow = c.overflow := (congrArg Core.overflow (c.writeV_eq i n w) :)
@[simp] theorem Core.writeV_far (c : Core) (i n : Nat) (w : Word) : (c.writeV i n w).far = c.far := (congrArg Core.far (c.writeV_eq i n w) :)
@[simp] theorem Core.writeV_bp (c : Core) (i n : Nat) (w : Word) : (c.writeV i n w).bp = c.bp := (congrArg Core.bp (c.writeV_eq i n w) :)
@[simp] theorem Core.writeV_tracker (c : Core) (i n : Nat) (w : Word) : (c.writeV i n w).tracker = c.tracker := (congrArg Core.tracker (c.writeV_eq i n w) :)
@[simp] theorem Core.writeV_full (c : Core) (i n : Nat) (w : Word) : (c.writeV i n w).full = c.full := (congrArg Core.full (c.writeV_eq i n w) :)
@[simp] theorem Core.writeV_shared (c : Core) (i n : Nat) (w : Word) : (c.writeV i n w).shared = c.shared := (congrArg Core.shared (c.writeV_eq i n w) :)
@[simp] theorem Core.writeV_regroups (c : Core) (i n : Nat) (w : Word) : (c.writeV i n w).regroups = c.regroups := (congrArg Core.regroups (c.writeV_eq i n w) :)
@[simp] theorem Core.writeV_checkpoints (c : Core) (i n : Nat) (w : Word) : (c.writeV i n w).checkpoints = c.checkpoints := (congrArg Core.checkpoints (c.writeV_eq i n w) :)
@[simp] theorem Core.writeV_arithNext (c : Core) (i n : Nat) (w : Word) : (c.writeV i n w).arithNext = c.arithNext := (congrArg Core.arithNext (c.writeV_eq i n w) :)
@[simp] theorem Core.writeV_place (c : Core) (i n : Nat) (w : Word) : (c.writeV i n w).place = c.place := (congrArg Core.place (c.writeV_eq i n w) :)
@[simp] theorem Core.writeV_reuse (c : Core) (i n : Nat) (w : Word) : (c.writeV i n w).reuse = c.reuse := (congrArg Core.reuse (c.writeV_eq i n w) :)

@[simp] theorem Core.writeK_store (c : Core) (i : Nat) (n : BitVec 4) (w : Word) : (c.writeK i n w).store = c.store := Core.modCrew_store c i _
@[simp] theorem Core.writeK_blocks (c : Core) (i : Nat) (n : BitVec 4) (w : Word) : (c.writeK i n w).blocks = c.blocks := Core.modCrew_blocks c i _
@[simp] theorem Core.writeK_threads (c : Core) (i : Nat) (n : BitVec 4) (w : Word) : (c.writeK i n w).threads = c.threads := Core.modCrew_threads c i _
@[simp] theorem Core.writeK_shares (c : Core) (i : Nat) (n : BitVec 4) (w : Word) : (c.writeK i n w).shares = c.shares := Core.modCrew_shares c i _
@[simp] theorem Core.writeK_lines (c : Core) (i : Nat) (n : BitVec 4) (w : Word) : (c.writeK i n w).lines = c.lines := Core.modCrew_lines c i _
@[simp] theorem Core.writeK_constant (c : Core) (i : Nat) (n : BitVec 4) (w : Word) : (c.writeK i n w).constant = c.constant := Core.modCrew_constant c i _
@[simp] theorem Core.writeK_icache (c : Core) (i : Nat) (n : BitVec 4) (w : Word) : (c.writeK i n w).icache = c.icache := Core.modCrew_icache c i _
@[simp] theorem Core.writeK_gbuffers (c : Core) (i : Nat) (n : BitVec 4) (w : Word) : (c.writeK i n w).gbuffers = c.gbuffers := Core.modCrew_gbuffers c i _
@[simp] theorem Core.writeK_tlb (c : Core) (i : Nat) (n : BitVec 4) (w : Word) : (c.writeK i n w).tlb = c.tlb := Core.modCrew_tlb c i _
@[simp] theorem Core.writeK_walkAhead (c : Core) (i : Nat) (n : BitVec 4) (w : Word) : (c.writeK i n w).walkAhead = c.walkAhead := Core.modCrew_walkAhead c i _
@[simp] theorem Core.writeK_records (c : Core) (i : Nat) (n : BitVec 4) (w : Word) : (c.writeK i n w).records = c.records := Core.modCrew_records c i _
@[simp] theorem Core.writeK_tasks (c : Core) (i : Nat) (n : BitVec 4) (w : Word) : (c.writeK i n w).tasks = c.tasks := Core.modCrew_tasks c i _
@[simp] theorem Core.writeK_holders (c : Core) (i : Nat) (n : BitVec 4) (w : Word) : (c.writeK i n w).holders = c.holders := Core.modCrew_holders c i _
@[simp] theorem Core.writeK_loads (c : Core) (i : Nat) (n : BitVec 4) (w : Word) : (c.writeK i n w).loads = c.loads := Core.modCrew_loads c i _
@[simp] theorem Core.writeK_latch (c : Core) (i : Nat) (n : BitVec 4) (w : Word) : (c.writeK i n w).latch = c.latch := Core.modCrew_latch c i _
@[simp] theorem Core.writeK_overflow (c : Core) (i : Nat) (n : BitVec 4) (w : Word) : (c.writeK i n w).overflow = c.overflow := Core.modCrew_overflow c i _
@[simp] theorem Core.writeK_far (c : Core) (i : Nat) (n : BitVec 4) (w : Word) : (c.writeK i n w).far = c.far := Core.modCrew_far c i _
@[simp] theorem Core.writeK_bp (c : Core) (i : Nat) (n : BitVec 4) (w : Word) : (c.writeK i n w).bp = c.bp := Core.modCrew_bp c i _
@[simp] theorem Core.writeK_tracker (c : Core) (i : Nat) (n : BitVec 4) (w : Word) : (c.writeK i n w).tracker = c.tracker := Core.modCrew_tracker c i _
@[simp] theorem Core.writeK_full (c : Core) (i : Nat) (n : BitVec 4) (w : Word) : (c.writeK i n w).full = c.full := Core.modCrew_full c i _
@[simp] theorem Core.writeK_shared (c : Core) (i : Nat) (n : BitVec 4) (w : Word) : (c.writeK i n w).shared = c.shared := Core.modCrew_shared c i _
@[simp] theorem Core.writeK_regroups (c : Core) (i : Nat) (n : BitVec 4) (w : Word) : (c.writeK i n w).regroups = c.regroups := Core.modCrew_regroups c i _
@[simp] theorem Core.writeK_checkpoints (c : Core) (i : Nat) (n : BitVec 4) (w : Word) : (c.writeK i n w).checkpoints = c.checkpoints := Core.modCrew_checkpoints c i _
@[simp] theorem Core.writeK_bad (c : Core) (i : Nat) (n : BitVec 4) (w : Word) : (c.writeK i n w).bad = c.bad := Core.modCrew_bad c i _
@[simp] theorem Core.writeK_arithNext (c : Core) (i : Nat) (n : BitVec 4) (w : Word) : (c.writeK i n w).arithNext = c.arithNext := Core.modCrew_arithNext c i _
@[simp] theorem Core.writeK_place (c : Core) (i : Nat) (n : BitVec 4) (w : Word) : (c.writeK i n w).place = c.place := Core.modCrew_place c i _
@[simp] theorem Core.writeK_reuse (c : Core) (i : Nat) (n : BitVec 4) (w : Word) : (c.writeK i n w).reuse = c.reuse := Core.modCrew_reuse c i _

@[simp] theorem Core.writeJ_store (c : Core) (i : Nat) (n : BitVec 3) (m : DWord × DWord) : (c.writeJ i n m).store = c.store := Core.modCrew_store c i _
@[simp] theorem Core.writeJ_blocks (c : Core) (i : Nat) (n : BitVec 3) (m : DWord × DWord) : (c.writeJ i n m).blocks = c.blocks := Core.modCrew_blocks c i _
@[simp] theorem Core.writeJ_threads (c : Core) (i : Nat) (n : BitVec 3) (m : DWord × DWord) : (c.writeJ i n m).threads = c.threads := Core.modCrew_threads c i _
@[simp] theorem Core.writeJ_shares (c : Core) (i : Nat) (n : BitVec 3) (m : DWord × DWord) : (c.writeJ i n m).shares = c.shares := Core.modCrew_shares c i _
@[simp] theorem Core.writeJ_lines (c : Core) (i : Nat) (n : BitVec 3) (m : DWord × DWord) : (c.writeJ i n m).lines = c.lines := Core.modCrew_lines c i _
@[simp] theorem Core.writeJ_constant (c : Core) (i : Nat) (n : BitVec 3) (m : DWord × DWord) : (c.writeJ i n m).constant = c.constant := Core.modCrew_constant c i _
@[simp] theorem Core.writeJ_icache (c : Core) (i : Nat) (n : BitVec 3) (m : DWord × DWord) : (c.writeJ i n m).icache = c.icache := Core.modCrew_icache c i _
@[simp] theorem Core.writeJ_gbuffers (c : Core) (i : Nat) (n : BitVec 3) (m : DWord × DWord) : (c.writeJ i n m).gbuffers = c.gbuffers := Core.modCrew_gbuffers c i _
@[simp] theorem Core.writeJ_tlb (c : Core) (i : Nat) (n : BitVec 3) (m : DWord × DWord) : (c.writeJ i n m).tlb = c.tlb := Core.modCrew_tlb c i _
@[simp] theorem Core.writeJ_walkAhead (c : Core) (i : Nat) (n : BitVec 3) (m : DWord × DWord) : (c.writeJ i n m).walkAhead = c.walkAhead := Core.modCrew_walkAhead c i _
@[simp] theorem Core.writeJ_records (c : Core) (i : Nat) (n : BitVec 3) (m : DWord × DWord) : (c.writeJ i n m).records = c.records := Core.modCrew_records c i _
@[simp] theorem Core.writeJ_tasks (c : Core) (i : Nat) (n : BitVec 3) (m : DWord × DWord) : (c.writeJ i n m).tasks = c.tasks := Core.modCrew_tasks c i _
@[simp] theorem Core.writeJ_holders (c : Core) (i : Nat) (n : BitVec 3) (m : DWord × DWord) : (c.writeJ i n m).holders = c.holders := Core.modCrew_holders c i _
@[simp] theorem Core.writeJ_loads (c : Core) (i : Nat) (n : BitVec 3) (m : DWord × DWord) : (c.writeJ i n m).loads = c.loads := Core.modCrew_loads c i _
@[simp] theorem Core.writeJ_latch (c : Core) (i : Nat) (n : BitVec 3) (m : DWord × DWord) : (c.writeJ i n m).latch = c.latch := Core.modCrew_latch c i _
@[simp] theorem Core.writeJ_overflow (c : Core) (i : Nat) (n : BitVec 3) (m : DWord × DWord) : (c.writeJ i n m).overflow = c.overflow := Core.modCrew_overflow c i _
@[simp] theorem Core.writeJ_far (c : Core) (i : Nat) (n : BitVec 3) (m : DWord × DWord) : (c.writeJ i n m).far = c.far := Core.modCrew_far c i _
@[simp] theorem Core.writeJ_bp (c : Core) (i : Nat) (n : BitVec 3) (m : DWord × DWord) : (c.writeJ i n m).bp = c.bp := Core.modCrew_bp c i _
@[simp] theorem Core.writeJ_tracker (c : Core) (i : Nat) (n : BitVec 3) (m : DWord × DWord) : (c.writeJ i n m).tracker = c.tracker := Core.modCrew_tracker c i _
@[simp] theorem Core.writeJ_full (c : Core) (i : Nat) (n : BitVec 3) (m : DWord × DWord) : (c.writeJ i n m).full = c.full := Core.modCrew_full c i _
@[simp] theorem Core.writeJ_shared (c : Core) (i : Nat) (n : BitVec 3) (m : DWord × DWord) : (c.writeJ i n m).shared = c.shared := Core.modCrew_shared c i _
@[simp] theorem Core.writeJ_regroups (c : Core) (i : Nat) (n : BitVec 3) (m : DWord × DWord) : (c.writeJ i n m).regroups = c.regroups := Core.modCrew_regroups c i _
@[simp] theorem Core.writeJ_checkpoints (c : Core) (i : Nat) (n : BitVec 3) (m : DWord × DWord) : (c.writeJ i n m).checkpoints = c.checkpoints := Core.modCrew_checkpoints c i _
@[simp] theorem Core.writeJ_bad (c : Core) (i : Nat) (n : BitVec 3) (m : DWord × DWord) : (c.writeJ i n m).bad = c.bad := Core.modCrew_bad c i _
@[simp] theorem Core.writeJ_arithNext (c : Core) (i : Nat) (n : BitVec 3) (m : DWord × DWord) : (c.writeJ i n m).arithNext = c.arithNext := Core.modCrew_arithNext c i _
@[simp] theorem Core.writeJ_place (c : Core) (i : Nat) (n : BitVec 3) (m : DWord × DWord) : (c.writeJ i n m).place = c.place := Core.modCrew_place c i _
@[simp] theorem Core.writeJ_reuse (c : Core) (i : Nat) (n : BitVec 3) (m : DWord × DWord) : (c.writeJ i n m).reuse = c.reuse := Core.modCrew_reuse c i _

@[simp] theorem Core.setBp_store (c : Core) (i : Nat) (r : BpRegs) : (c.setBp i r).store = c.store := rfl
@[simp] theorem Core.setBp_blocks (c : Core) (i : Nat) (r : BpRegs) : (c.setBp i r).blocks = c.blocks := rfl
@[simp] theorem Core.setBp_crews (c : Core) (i : Nat) (r : BpRegs) : (c.setBp i r).crews = c.crews := rfl
@[simp] theorem Core.setBp_threads (c : Core) (i : Nat) (r : BpRegs) : (c.setBp i r).threads = c.threads := rfl
@[simp] theorem Core.setBp_shares (c : Core) (i : Nat) (r : BpRegs) : (c.setBp i r).shares = c.shares := rfl
@[simp] theorem Core.setBp_lines (c : Core) (i : Nat) (r : BpRegs) : (c.setBp i r).lines = c.lines := rfl
@[simp] theorem Core.setBp_constant (c : Core) (i : Nat) (r : BpRegs) : (c.setBp i r).constant = c.constant := rfl
@[simp] theorem Core.setBp_icache (c : Core) (i : Nat) (r : BpRegs) : (c.setBp i r).icache = c.icache := rfl
@[simp] theorem Core.setBp_gbuffers (c : Core) (i : Nat) (r : BpRegs) : (c.setBp i r).gbuffers = c.gbuffers := rfl
@[simp] theorem Core.setBp_tlb (c : Core) (i : Nat) (r : BpRegs) : (c.setBp i r).tlb = c.tlb := rfl
@[simp] theorem Core.setBp_walkAhead (c : Core) (i : Nat) (r : BpRegs) : (c.setBp i r).walkAhead = c.walkAhead := rfl
@[simp] theorem Core.setBp_records (c : Core) (i : Nat) (r : BpRegs) : (c.setBp i r).records = c.records := rfl
@[simp] theorem Core.setBp_tasks (c : Core) (i : Nat) (r : BpRegs) : (c.setBp i r).tasks = c.tasks := rfl
@[simp] theorem Core.setBp_holders (c : Core) (i : Nat) (r : BpRegs) : (c.setBp i r).holders = c.holders := rfl
@[simp] theorem Core.setBp_loads (c : Core) (i : Nat) (r : BpRegs) : (c.setBp i r).loads = c.loads := rfl
@[simp] theorem Core.setBp_latch (c : Core) (i : Nat) (r : BpRegs) : (c.setBp i r).latch = c.latch := rfl
@[simp] theorem Core.setBp_overflow (c : Core) (i : Nat) (r : BpRegs) : (c.setBp i r).overflow = c.overflow := rfl
@[simp] theorem Core.setBp_far (c : Core) (i : Nat) (r : BpRegs) : (c.setBp i r).far = c.far := rfl
@[simp] theorem Core.setBp_tracker (c : Core) (i : Nat) (r : BpRegs) : (c.setBp i r).tracker = c.tracker := rfl
@[simp] theorem Core.setBp_full (c : Core) (i : Nat) (r : BpRegs) : (c.setBp i r).full = c.full := rfl
@[simp] theorem Core.setBp_shared (c : Core) (i : Nat) (r : BpRegs) : (c.setBp i r).shared = c.shared := rfl
@[simp] theorem Core.setBp_regroups (c : Core) (i : Nat) (r : BpRegs) : (c.setBp i r).regroups = c.regroups := rfl
@[simp] theorem Core.setBp_checkpoints (c : Core) (i : Nat) (r : BpRegs) : (c.setBp i r).checkpoints = c.checkpoints := rfl
@[simp] theorem Core.setBp_bad (c : Core) (i : Nat) (r : BpRegs) : (c.setBp i r).bad = c.bad := rfl
@[simp] theorem Core.setBp_arithNext (c : Core) (i : Nat) (r : BpRegs) : (c.setBp i r).arithNext = c.arithNext := rfl
@[simp] theorem Core.setBp_place (c : Core) (i : Nat) (r : BpRegs) : (c.setBp i r).place = c.place := rfl
@[simp] theorem Core.setBp_reuse (c : Core) (i : Nat) (r : BpRegs) : (c.setBp i r).reuse = c.reuse := rfl

/-- The fields of a core that an instruction which only writes registers keeps. -/
abbrev Core.rest (c : Core) := (c.blocks, c.shares, c.lines, c.constant, c.icache, c.gbuffers, c.tlb, c.walkAhead, c.records, c.tasks, c.holders, c.overflow, c.far, c.bp, c.tracker, c.full, c.shared, c.regroups, c.checkpoints, c.arithNext, c.place, c.reuse)

theorem Core.supersede_regs (c : Core) (i : Nat) (d : BitVec 8) :
    ((c.supersede i d).rest, (c.supersede i d).store, (c.supersede i d).bad, (c.supersede i d).crews) = (c.rest, c.store, c.bad, c.crews) := by
  unfold Core.supersede
  by_cases h : c.loads.any (·.writes i d) <;> simp only [h, Bool.false_eq_true, ↓reduceIte, Core.rest, Core.dropHeld_blocks, Core.dropHeld_shares, Core.dropHeld_lines, Core.dropHeld_constant, Core.dropHeld_icache, Core.dropHeld_gbuffers, Core.dropHeld_tlb, Core.dropHeld_walkAhead, Core.dropHeld_records, Core.dropHeld_tasks, Core.dropHeld_holders, Core.dropHeld_overflow, Core.dropHeld_far, Core.dropHeld_bp, Core.dropHeld_tracker, Core.dropHeld_full, Core.dropHeld_shared, Core.dropHeld_regroups, Core.dropHeld_checkpoints, Core.dropHeld_arithNext, Core.dropHeld_place, Core.dropHeld_reuse, Core.dropHeld_store, Core.dropHeld_bad, Core.dropHeld_crews, Core.modSeeing_blocks, Core.modSeeing_shares, Core.modSeeing_lines, Core.modSeeing_constant, Core.modSeeing_icache, Core.modSeeing_gbuffers, Core.modSeeing_tlb, Core.modSeeing_walkAhead, Core.modSeeing_records, Core.modSeeing_tasks, Core.modSeeing_holders, Core.modSeeing_overflow, Core.modSeeing_far, Core.modSeeing_bp, Core.modSeeing_tracker, Core.modSeeing_full, Core.modSeeing_shared, Core.modSeeing_regroups, Core.modSeeing_checkpoints, Core.modSeeing_arithNext, Core.modSeeing_place, Core.modSeeing_reuse, Core.modSeeing_store, Core.modSeeing_bad, Core.modSeeing_crews]

@[simp] theorem Core.supersede_blocks (c : Core) (i : Nat) (d : BitVec 8) : (c.supersede i d).blocks = c.blocks := (congrArg (fun x => x.1.1) (c.supersede_regs i d) :)
@[simp] theorem Core.supersede_shares (c : Core) (i : Nat) (d : BitVec 8) : (c.supersede i d).shares = c.shares := (congrArg (fun x => x.1.2.1) (c.supersede_regs i d) :)
@[simp] theorem Core.supersede_lines (c : Core) (i : Nat) (d : BitVec 8) : (c.supersede i d).lines = c.lines := (congrArg (fun x => x.1.2.2.1) (c.supersede_regs i d) :)
@[simp] theorem Core.supersede_constant (c : Core) (i : Nat) (d : BitVec 8) : (c.supersede i d).constant = c.constant := (congrArg (fun x => x.1.2.2.2.1) (c.supersede_regs i d) :)
@[simp] theorem Core.supersede_icache (c : Core) (i : Nat) (d : BitVec 8) : (c.supersede i d).icache = c.icache := (congrArg (fun x => x.1.2.2.2.2.1) (c.supersede_regs i d) :)
@[simp] theorem Core.supersede_gbuffers (c : Core) (i : Nat) (d : BitVec 8) : (c.supersede i d).gbuffers = c.gbuffers := (congrArg (fun x => x.1.2.2.2.2.2.1) (c.supersede_regs i d) :)
@[simp] theorem Core.supersede_tlb (c : Core) (i : Nat) (d : BitVec 8) : (c.supersede i d).tlb = c.tlb := (congrArg (fun x => x.1.2.2.2.2.2.2.1) (c.supersede_regs i d) :)
@[simp] theorem Core.supersede_walkAhead (c : Core) (i : Nat) (d : BitVec 8) : (c.supersede i d).walkAhead = c.walkAhead := (congrArg (fun x => x.1.2.2.2.2.2.2.2.1) (c.supersede_regs i d) :)
@[simp] theorem Core.supersede_records (c : Core) (i : Nat) (d : BitVec 8) : (c.supersede i d).records = c.records := (congrArg (fun x => x.1.2.2.2.2.2.2.2.2.1) (c.supersede_regs i d) :)
@[simp] theorem Core.supersede_tasks (c : Core) (i : Nat) (d : BitVec 8) : (c.supersede i d).tasks = c.tasks := (congrArg (fun x => x.1.2.2.2.2.2.2.2.2.2.1) (c.supersede_regs i d) :)
@[simp] theorem Core.supersede_holders (c : Core) (i : Nat) (d : BitVec 8) : (c.supersede i d).holders = c.holders := (congrArg (fun x => x.1.2.2.2.2.2.2.2.2.2.2.1) (c.supersede_regs i d) :)
@[simp] theorem Core.supersede_overflow (c : Core) (i : Nat) (d : BitVec 8) : (c.supersede i d).overflow = c.overflow := (congrArg (fun x => x.1.2.2.2.2.2.2.2.2.2.2.2.1) (c.supersede_regs i d) :)
@[simp] theorem Core.supersede_far (c : Core) (i : Nat) (d : BitVec 8) : (c.supersede i d).far = c.far := (congrArg (fun x => x.1.2.2.2.2.2.2.2.2.2.2.2.2.1) (c.supersede_regs i d) :)
@[simp] theorem Core.supersede_bp (c : Core) (i : Nat) (d : BitVec 8) : (c.supersede i d).bp = c.bp := (congrArg (fun x => x.1.2.2.2.2.2.2.2.2.2.2.2.2.2.1) (c.supersede_regs i d) :)
@[simp] theorem Core.supersede_tracker (c : Core) (i : Nat) (d : BitVec 8) : (c.supersede i d).tracker = c.tracker := (congrArg (fun x => x.1.2.2.2.2.2.2.2.2.2.2.2.2.2.2.1) (c.supersede_regs i d) :)
@[simp] theorem Core.supersede_full (c : Core) (i : Nat) (d : BitVec 8) : (c.supersede i d).full = c.full := (congrArg (fun x => x.1.2.2.2.2.2.2.2.2.2.2.2.2.2.2.2.1) (c.supersede_regs i d) :)
@[simp] theorem Core.supersede_shared (c : Core) (i : Nat) (d : BitVec 8) : (c.supersede i d).shared = c.shared := (congrArg (fun x => x.1.2.2.2.2.2.2.2.2.2.2.2.2.2.2.2.2.1) (c.supersede_regs i d) :)
@[simp] theorem Core.supersede_regroups (c : Core) (i : Nat) (d : BitVec 8) : (c.supersede i d).regroups = c.regroups := (congrArg (fun x => x.1.2.2.2.2.2.2.2.2.2.2.2.2.2.2.2.2.2.1) (c.supersede_regs i d) :)
@[simp] theorem Core.supersede_checkpoints (c : Core) (i : Nat) (d : BitVec 8) : (c.supersede i d).checkpoints = c.checkpoints := (congrArg (fun x => x.1.2.2.2.2.2.2.2.2.2.2.2.2.2.2.2.2.2.2.1) (c.supersede_regs i d) :)
@[simp] theorem Core.supersede_arithNext (c : Core) (i : Nat) (d : BitVec 8) : (c.supersede i d).arithNext = c.arithNext := (congrArg (fun x => x.1.2.2.2.2.2.2.2.2.2.2.2.2.2.2.2.2.2.2.2.1) (c.supersede_regs i d) :)
@[simp] theorem Core.supersede_place (c : Core) (i : Nat) (d : BitVec 8) : (c.supersede i d).place = c.place := (congrArg (fun x => x.1.2.2.2.2.2.2.2.2.2.2.2.2.2.2.2.2.2.2.2.2.1) (c.supersede_regs i d) :)
@[simp] theorem Core.supersede_reuse (c : Core) (i : Nat) (d : BitVec 8) : (c.supersede i d).reuse = c.reuse := (congrArg (fun x => x.1.2.2.2.2.2.2.2.2.2.2.2.2.2.2.2.2.2.2.2.2.2) (c.supersede_regs i d) :)
@[simp] theorem Core.supersede_store (c : Core) (i : Nat) (d : BitVec 8) : (c.supersede i d).store = c.store := (congrArg (fun x => x.2.1) (c.supersede_regs i d) :)
@[simp] theorem Core.supersede_bad (c : Core) (i : Nat) (d : BitVec 8) : (c.supersede i d).bad = c.bad := (congrArg (fun x => x.2.2.1) (c.supersede_regs i d) :)
@[simp] theorem Core.supersede_crews (c : Core) (i : Nat) (d : BitVec 8) : (c.supersede i d).crews = c.crews := (congrArg (fun x => x.2.2.2) (c.supersede_regs i d) :)

theorem Core.advance_regs (c : Core) (i n : Nat) :
    ((c.advance i n).rest, (c.advance i n).store, (c.advance i n).bad, (c.advance i n).crews) = (c.rest, c.store, c.bad, c.crews) := by
  unfold Core.advance
  dsimp only
  split <;> simp only [Core.rest, Core.ageLatch_blocks, Core.ageLatch_shares, Core.ageLatch_lines, Core.ageLatch_constant, Core.ageLatch_icache, Core.ageLatch_gbuffers, Core.ageLatch_tlb, Core.ageLatch_walkAhead, Core.ageLatch_records, Core.ageLatch_tasks, Core.ageLatch_holders, Core.ageLatch_overflow, Core.ageLatch_far, Core.ageLatch_bp, Core.ageLatch_tracker, Core.ageLatch_full, Core.ageLatch_shared, Core.ageLatch_regroups, Core.ageLatch_checkpoints, Core.ageLatch_arithNext, Core.ageLatch_place, Core.ageLatch_reuse, Core.ageLatch_store, Core.ageLatch_bad, Core.ageLatch_crews, Core.modThread_blocks, Core.modThread_shares, Core.modThread_lines, Core.modThread_constant, Core.modThread_icache, Core.modThread_gbuffers, Core.modThread_tlb, Core.modThread_walkAhead, Core.modThread_records, Core.modThread_tasks, Core.modThread_holders, Core.modThread_overflow, Core.modThread_far, Core.modThread_bp, Core.modThread_tracker, Core.modThread_full, Core.modThread_shared, Core.modThread_regroups, Core.modThread_checkpoints, Core.modThread_arithNext, Core.modThread_place, Core.modThread_reuse, Core.modThread_store, Core.modThread_bad, Core.modThread_crews]

@[simp] theorem Core.advance_blocks (c : Core) (i n : Nat) : (c.advance i n).blocks = c.blocks := congrArg (fun x => x.1.1) (c.advance_regs i n)
@[simp] theorem Core.advance_shares (c : Core) (i n : Nat) : (c.advance i n).shares = c.shares := congrArg (fun x => x.1.2.1) (c.advance_regs i n)
@[simp] theorem Core.advance_lines (c : Core) (i n : Nat) : (c.advance i n).lines = c.lines := congrArg (fun x => x.1.2.2.1) (c.advance_regs i n)
@[simp] theorem Core.advance_constant (c : Core) (i n : Nat) : (c.advance i n).constant = c.constant := congrArg (fun x => x.1.2.2.2.1) (c.advance_regs i n)
@[simp] theorem Core.advance_icache (c : Core) (i n : Nat) : (c.advance i n).icache = c.icache := congrArg (fun x => x.1.2.2.2.2.1) (c.advance_regs i n)
@[simp] theorem Core.advance_gbuffers (c : Core) (i n : Nat) : (c.advance i n).gbuffers = c.gbuffers := congrArg (fun x => x.1.2.2.2.2.2.1) (c.advance_regs i n)
@[simp] theorem Core.advance_tlb (c : Core) (i n : Nat) : (c.advance i n).tlb = c.tlb := congrArg (fun x => x.1.2.2.2.2.2.2.1) (c.advance_regs i n)
@[simp] theorem Core.advance_walkAhead (c : Core) (i n : Nat) : (c.advance i n).walkAhead = c.walkAhead := congrArg (fun x => x.1.2.2.2.2.2.2.2.1) (c.advance_regs i n)
@[simp] theorem Core.advance_records (c : Core) (i n : Nat) : (c.advance i n).records = c.records := congrArg (fun x => x.1.2.2.2.2.2.2.2.2.1) (c.advance_regs i n)
@[simp] theorem Core.advance_tasks (c : Core) (i n : Nat) : (c.advance i n).tasks = c.tasks := congrArg (fun x => x.1.2.2.2.2.2.2.2.2.2.1) (c.advance_regs i n)
@[simp] theorem Core.advance_holders (c : Core) (i n : Nat) : (c.advance i n).holders = c.holders := congrArg (fun x => x.1.2.2.2.2.2.2.2.2.2.2.1) (c.advance_regs i n)
@[simp] theorem Core.advance_overflow (c : Core) (i n : Nat) : (c.advance i n).overflow = c.overflow := congrArg (fun x => x.1.2.2.2.2.2.2.2.2.2.2.2.1) (c.advance_regs i n)
@[simp] theorem Core.advance_far (c : Core) (i n : Nat) : (c.advance i n).far = c.far := congrArg (fun x => x.1.2.2.2.2.2.2.2.2.2.2.2.2.1) (c.advance_regs i n)
@[simp] theorem Core.advance_bp (c : Core) (i n : Nat) : (c.advance i n).bp = c.bp := congrArg (fun x => x.1.2.2.2.2.2.2.2.2.2.2.2.2.2.1) (c.advance_regs i n)
@[simp] theorem Core.advance_tracker (c : Core) (i n : Nat) : (c.advance i n).tracker = c.tracker := congrArg (fun x => x.1.2.2.2.2.2.2.2.2.2.2.2.2.2.2.1) (c.advance_regs i n)
@[simp] theorem Core.advance_full (c : Core) (i n : Nat) : (c.advance i n).full = c.full := congrArg (fun x => x.1.2.2.2.2.2.2.2.2.2.2.2.2.2.2.2.1) (c.advance_regs i n)
@[simp] theorem Core.advance_shared (c : Core) (i n : Nat) : (c.advance i n).shared = c.shared := congrArg (fun x => x.1.2.2.2.2.2.2.2.2.2.2.2.2.2.2.2.2.1) (c.advance_regs i n)
@[simp] theorem Core.advance_regroups (c : Core) (i n : Nat) : (c.advance i n).regroups = c.regroups := congrArg (fun x => x.1.2.2.2.2.2.2.2.2.2.2.2.2.2.2.2.2.2.1) (c.advance_regs i n)
@[simp] theorem Core.advance_checkpoints (c : Core) (i n : Nat) : (c.advance i n).checkpoints = c.checkpoints := congrArg (fun x => x.1.2.2.2.2.2.2.2.2.2.2.2.2.2.2.2.2.2.2.1) (c.advance_regs i n)
@[simp] theorem Core.advance_arithNext (c : Core) (i n : Nat) : (c.advance i n).arithNext = c.arithNext := congrArg (fun x => x.1.2.2.2.2.2.2.2.2.2.2.2.2.2.2.2.2.2.2.2.1) (c.advance_regs i n)
@[simp] theorem Core.advance_place (c : Core) (i n : Nat) : (c.advance i n).place = c.place := congrArg (fun x => x.1.2.2.2.2.2.2.2.2.2.2.2.2.2.2.2.2.2.2.2.2.1) (c.advance_regs i n)
@[simp] theorem Core.advance_reuse (c : Core) (i n : Nat) : (c.advance i n).reuse = c.reuse := congrArg (fun x => x.1.2.2.2.2.2.2.2.2.2.2.2.2.2.2.2.2.2.2.2.2.2) (c.advance_regs i n)
@[simp] theorem Core.advance_store (c : Core) (i n : Nat) : (c.advance i n).store = c.store := (congrArg (fun x => x.2.1) (c.advance_regs i n) :)
@[simp] theorem Core.advance_bad (c : Core) (i n : Nat) : (c.advance i n).bad = c.bad := (congrArg (fun x => x.2.2.1) (c.advance_regs i n) :)
@[simp] theorem Core.advance_crews (c : Core) (i n : Nat) : (c.advance i n).crews = c.crews := (congrArg (fun x => x.2.2.2) (c.advance_regs i n) :)

theorem Core.putV_eq (c : Core) (i n : Nat) (w : Word) :
    c.putV i n w = { c with store := (c.writeV i n w).store, bad := (c.writeV i n w).bad, latch := (c.putV i n w).latch } := by
  unfold Core.putV
  have h := c.writeV_eq i n w
  generalize c.writeV i n w = c' at h ⊢
  rw [h]
  dsimp only
  split
  · rfl
  · split <;> rfl

@[simp] theorem Core.putV_crews (c : Core) (i n : Nat) (w : Word) : (c.putV i n w).crews = c.crews := (congrArg Core.crews (c.putV_eq i n w) :)
@[simp] theorem Core.putV_store (c : Core) (i n : Nat) (w : Word) : (c.putV i n w).store = (c.writeV i n w).store := (congrArg Core.store (c.putV_eq i n w) :)
@[simp] theorem Core.putV_threads (c : Core) (i n : Nat) (w : Word) : (c.putV i n w).threads = c.threads := (congrArg Core.threads (c.putV_eq i n w) :)
@[simp] theorem Core.putV_bad (c : Core) (i n : Nat) (w : Word) : (c.putV i n w).bad = (c.writeV i n w).bad := (congrArg Core.bad (c.putV_eq i n w) :)
@[simp] theorem Core.putV_loads (c : Core) (i n : Nat) (w : Word) : (c.putV i n w).loads = c.loads := (congrArg Core.loads (c.putV_eq i n w) :)

theorem Core.writeReg_rest (c : Core) (i : Nat) (d : BitVec 8) (w : Word) : (c.writeReg i d w).rest = c.rest := by
  unfold Core.writeReg
  split
  · exact congrArg Core.rest (Core.putV_eq _ _ _ _) |>.trans (congrArg (fun x => x.1) (c.supersede_regs i d))
  · split
    · exact congrArg Core.rest (Core.modCrew_eq _ _ _) |>.trans (congrArg (fun x => x.1) (c.supersede_regs i d))
    · rfl

@[simp] theorem Core.writeReg_blocks (c : Core) (i : Nat) (d : BitVec 8) (w : Word) : (c.writeReg i d w).blocks = c.blocks := congrArg (fun x => x.1) (c.writeReg_rest i d w)
@[simp] theorem Core.writeReg_shares (c : Core) (i : Nat) (d : BitVec 8) (w : Word) : (c.writeReg i d w).shares = c.shares := congrArg (fun x => x.2.1) (c.writeReg_rest i d w)
@[simp] theorem Core.writeReg_lines (c : Core) (i : Nat) (d : BitVec 8) (w : Word) : (c.writeReg i d w).lines = c.lines := congrArg (fun x => x.2.2.1) (c.writeReg_rest i d w)
@[simp] theorem Core.writeReg_constant (c : Core) (i : Nat) (d : BitVec 8) (w : Word) : (c.writeReg i d w).constant = c.constant := congrArg (fun x => x.2.2.2.1) (c.writeReg_rest i d w)
@[simp] theorem Core.writeReg_icache (c : Core) (i : Nat) (d : BitVec 8) (w : Word) : (c.writeReg i d w).icache = c.icache := congrArg (fun x => x.2.2.2.2.1) (c.writeReg_rest i d w)
@[simp] theorem Core.writeReg_gbuffers (c : Core) (i : Nat) (d : BitVec 8) (w : Word) : (c.writeReg i d w).gbuffers = c.gbuffers := congrArg (fun x => x.2.2.2.2.2.1) (c.writeReg_rest i d w)
@[simp] theorem Core.writeReg_tlb (c : Core) (i : Nat) (d : BitVec 8) (w : Word) : (c.writeReg i d w).tlb = c.tlb := congrArg (fun x => x.2.2.2.2.2.2.1) (c.writeReg_rest i d w)
@[simp] theorem Core.writeReg_walkAhead (c : Core) (i : Nat) (d : BitVec 8) (w : Word) : (c.writeReg i d w).walkAhead = c.walkAhead := congrArg (fun x => x.2.2.2.2.2.2.2.1) (c.writeReg_rest i d w)
@[simp] theorem Core.writeReg_records (c : Core) (i : Nat) (d : BitVec 8) (w : Word) : (c.writeReg i d w).records = c.records := congrArg (fun x => x.2.2.2.2.2.2.2.2.1) (c.writeReg_rest i d w)
@[simp] theorem Core.writeReg_tasks (c : Core) (i : Nat) (d : BitVec 8) (w : Word) : (c.writeReg i d w).tasks = c.tasks := congrArg (fun x => x.2.2.2.2.2.2.2.2.2.1) (c.writeReg_rest i d w)
@[simp] theorem Core.writeReg_holders (c : Core) (i : Nat) (d : BitVec 8) (w : Word) : (c.writeReg i d w).holders = c.holders := congrArg (fun x => x.2.2.2.2.2.2.2.2.2.2.1) (c.writeReg_rest i d w)
@[simp] theorem Core.writeReg_overflow (c : Core) (i : Nat) (d : BitVec 8) (w : Word) : (c.writeReg i d w).overflow = c.overflow := congrArg (fun x => x.2.2.2.2.2.2.2.2.2.2.2.1) (c.writeReg_rest i d w)
@[simp] theorem Core.writeReg_far (c : Core) (i : Nat) (d : BitVec 8) (w : Word) : (c.writeReg i d w).far = c.far := congrArg (fun x => x.2.2.2.2.2.2.2.2.2.2.2.2.1) (c.writeReg_rest i d w)
@[simp] theorem Core.writeReg_bp (c : Core) (i : Nat) (d : BitVec 8) (w : Word) : (c.writeReg i d w).bp = c.bp := congrArg (fun x => x.2.2.2.2.2.2.2.2.2.2.2.2.2.1) (c.writeReg_rest i d w)
@[simp] theorem Core.writeReg_tracker (c : Core) (i : Nat) (d : BitVec 8) (w : Word) : (c.writeReg i d w).tracker = c.tracker := congrArg (fun x => x.2.2.2.2.2.2.2.2.2.2.2.2.2.2.1) (c.writeReg_rest i d w)
@[simp] theorem Core.writeReg_full (c : Core) (i : Nat) (d : BitVec 8) (w : Word) : (c.writeReg i d w).full = c.full := congrArg (fun x => x.2.2.2.2.2.2.2.2.2.2.2.2.2.2.2.1) (c.writeReg_rest i d w)
@[simp] theorem Core.writeReg_shared (c : Core) (i : Nat) (d : BitVec 8) (w : Word) : (c.writeReg i d w).shared = c.shared := congrArg (fun x => x.2.2.2.2.2.2.2.2.2.2.2.2.2.2.2.2.1) (c.writeReg_rest i d w)
@[simp] theorem Core.writeReg_regroups (c : Core) (i : Nat) (d : BitVec 8) (w : Word) : (c.writeReg i d w).regroups = c.regroups := congrArg (fun x => x.2.2.2.2.2.2.2.2.2.2.2.2.2.2.2.2.2.1) (c.writeReg_rest i d w)
@[simp] theorem Core.writeReg_checkpoints (c : Core) (i : Nat) (d : BitVec 8) (w : Word) : (c.writeReg i d w).checkpoints = c.checkpoints := congrArg (fun x => x.2.2.2.2.2.2.2.2.2.2.2.2.2.2.2.2.2.2.1) (c.writeReg_rest i d w)
@[simp] theorem Core.writeReg_arithNext (c : Core) (i : Nat) (d : BitVec 8) (w : Word) : (c.writeReg i d w).arithNext = c.arithNext := congrArg (fun x => x.2.2.2.2.2.2.2.2.2.2.2.2.2.2.2.2.2.2.2.1) (c.writeReg_rest i d w)
@[simp] theorem Core.writeReg_place (c : Core) (i : Nat) (d : BitVec 8) (w : Word) : (c.writeReg i d w).place = c.place := congrArg (fun x => x.2.2.2.2.2.2.2.2.2.2.2.2.2.2.2.2.2.2.2.2.1) (c.writeReg_rest i d w)
@[simp] theorem Core.writeReg_reuse (c : Core) (i : Nat) (d : BitVec 8) (w : Word) : (c.writeReg i d w).reuse = c.reuse := congrArg (fun x => x.2.2.2.2.2.2.2.2.2.2.2.2.2.2.2.2.2.2.2.2.2) (c.writeReg_rest i d w)

theorem Core.apply_rest (c : Core) (i : Nat) (w : Write) : (c.apply i w).rest = c.rest := by
  cases w with
  | reg d v => exact c.writeReg_rest i d v
  | pred n b =>
    have h := congrArg Core.rest (c.modThread_eq i (·.setPred n b))
    exact h
  | treg n v =>
    have h := congrArg Core.rest (c.modThread_eq i (·.setTreg n v))
    exact h
  | jump pc =>
    have h := congrArg Core.rest (c.modThread_eq i (fun t => { t with pc := pc }))
    exact h
  | cyclehi v =>
    have h := congrArg Core.rest (c.modThread_eq i (fun t => { t with cyclehi := v }))
    exact h

@[simp] theorem Core.apply_blocks (c : Core) (i : Nat) (w : Write) : (c.apply i w).blocks = c.blocks := congrArg (fun x => x.1) (c.apply_rest i w)
@[simp] theorem Core.apply_shares (c : Core) (i : Nat) (w : Write) : (c.apply i w).shares = c.shares := congrArg (fun x => x.2.1) (c.apply_rest i w)
@[simp] theorem Core.apply_lines (c : Core) (i : Nat) (w : Write) : (c.apply i w).lines = c.lines := congrArg (fun x => x.2.2.1) (c.apply_rest i w)
@[simp] theorem Core.apply_constant (c : Core) (i : Nat) (w : Write) : (c.apply i w).constant = c.constant := congrArg (fun x => x.2.2.2.1) (c.apply_rest i w)
@[simp] theorem Core.apply_icache (c : Core) (i : Nat) (w : Write) : (c.apply i w).icache = c.icache := congrArg (fun x => x.2.2.2.2.1) (c.apply_rest i w)
@[simp] theorem Core.apply_gbuffers (c : Core) (i : Nat) (w : Write) : (c.apply i w).gbuffers = c.gbuffers := congrArg (fun x => x.2.2.2.2.2.1) (c.apply_rest i w)
@[simp] theorem Core.apply_tlb (c : Core) (i : Nat) (w : Write) : (c.apply i w).tlb = c.tlb := congrArg (fun x => x.2.2.2.2.2.2.1) (c.apply_rest i w)
@[simp] theorem Core.apply_walkAhead (c : Core) (i : Nat) (w : Write) : (c.apply i w).walkAhead = c.walkAhead := congrArg (fun x => x.2.2.2.2.2.2.2.1) (c.apply_rest i w)
@[simp] theorem Core.apply_records (c : Core) (i : Nat) (w : Write) : (c.apply i w).records = c.records := congrArg (fun x => x.2.2.2.2.2.2.2.2.1) (c.apply_rest i w)
@[simp] theorem Core.apply_tasks (c : Core) (i : Nat) (w : Write) : (c.apply i w).tasks = c.tasks := congrArg (fun x => x.2.2.2.2.2.2.2.2.2.1) (c.apply_rest i w)
@[simp] theorem Core.apply_holders (c : Core) (i : Nat) (w : Write) : (c.apply i w).holders = c.holders := congrArg (fun x => x.2.2.2.2.2.2.2.2.2.2.1) (c.apply_rest i w)
@[simp] theorem Core.apply_overflow (c : Core) (i : Nat) (w : Write) : (c.apply i w).overflow = c.overflow := congrArg (fun x => x.2.2.2.2.2.2.2.2.2.2.2.1) (c.apply_rest i w)
@[simp] theorem Core.apply_far (c : Core) (i : Nat) (w : Write) : (c.apply i w).far = c.far := congrArg (fun x => x.2.2.2.2.2.2.2.2.2.2.2.2.1) (c.apply_rest i w)
@[simp] theorem Core.apply_bp (c : Core) (i : Nat) (w : Write) : (c.apply i w).bp = c.bp := congrArg (fun x => x.2.2.2.2.2.2.2.2.2.2.2.2.2.1) (c.apply_rest i w)
@[simp] theorem Core.apply_tracker (c : Core) (i : Nat) (w : Write) : (c.apply i w).tracker = c.tracker := congrArg (fun x => x.2.2.2.2.2.2.2.2.2.2.2.2.2.2.1) (c.apply_rest i w)
@[simp] theorem Core.apply_full (c : Core) (i : Nat) (w : Write) : (c.apply i w).full = c.full := congrArg (fun x => x.2.2.2.2.2.2.2.2.2.2.2.2.2.2.2.1) (c.apply_rest i w)
@[simp] theorem Core.apply_shared (c : Core) (i : Nat) (w : Write) : (c.apply i w).shared = c.shared := congrArg (fun x => x.2.2.2.2.2.2.2.2.2.2.2.2.2.2.2.2.1) (c.apply_rest i w)
@[simp] theorem Core.apply_regroups (c : Core) (i : Nat) (w : Write) : (c.apply i w).regroups = c.regroups := congrArg (fun x => x.2.2.2.2.2.2.2.2.2.2.2.2.2.2.2.2.2.1) (c.apply_rest i w)
@[simp] theorem Core.apply_checkpoints (c : Core) (i : Nat) (w : Write) : (c.apply i w).checkpoints = c.checkpoints := congrArg (fun x => x.2.2.2.2.2.2.2.2.2.2.2.2.2.2.2.2.2.2.1) (c.apply_rest i w)
@[simp] theorem Core.apply_arithNext (c : Core) (i : Nat) (w : Write) : (c.apply i w).arithNext = c.arithNext := congrArg (fun x => x.2.2.2.2.2.2.2.2.2.2.2.2.2.2.2.2.2.2.2.1) (c.apply_rest i w)
@[simp] theorem Core.apply_place (c : Core) (i : Nat) (w : Write) : (c.apply i w).place = c.place := congrArg (fun x => x.2.2.2.2.2.2.2.2.2.2.2.2.2.2.2.2.2.2.2.2.1) (c.apply_rest i w)
@[simp] theorem Core.apply_reuse (c : Core) (i : Nat) (w : Write) : (c.apply i w).reuse = c.reuse := congrArg (fun x => x.2.2.2.2.2.2.2.2.2.2.2.2.2.2.2.2.2.2.2.2.2) (c.apply_rest i w)

theorem Thread.setPred_eq (t : Thread) (n : BitVec 3) (b : Bool) : t.setPred n b = { t with preds := (t.setPred n b).preds } := by
  unfold Thread.setPred; split <;> rfl

@[simp] theorem Thread.setPred_lid (t : Thread) (n : BitVec 3) (b : Bool) : (t.setPred n b).lid = t.lid := (congrArg Thread.lid (t.setPred_eq n b) :)
@[simp] theorem Thread.setPred_block (t : Thread) (n : BitVec 3) (b : Bool) : (t.setPred n b).block = t.block := (congrArg Thread.block (t.setPred_eq n b) :)
@[simp] theorem Thread.setPred_lvid0 (t : Thread) (n : BitVec 3) (b : Bool) : (t.setPred n b).lvid0 = t.lvid0 := (congrArg Thread.lvid0 (t.setPred_eq n b) :)
@[simp] theorem Thread.setPred_lvid1 (t : Thread) (n : BitVec 3) (b : Bool) : (t.setPred n b).lvid1 = t.lvid1 := (congrArg Thread.lvid1 (t.setPred_eq n b) :)
@[simp] theorem Thread.setPred_pc (t : Thread) (n : BitVec 3) (b : Bool) : (t.setPred n b).pc = t.pc := (congrArg Thread.pc (t.setPred_eq n b) :)
@[simp] theorem Thread.setPred_mode (t : Thread) (n : BitVec 3) (b : Bool) : (t.setPred n b).mode = t.mode := (congrArg Thread.mode (t.setPred_eq n b) :)
@[simp] theorem Thread.setPred_tregs (t : Thread) (n : BitVec 3) (b : Bool) : (t.setPred n b).tregs = t.tregs := (congrArg Thread.tregs (t.setPred_eq n b) :)
@[simp] theorem Thread.setPred_depth (t : Thread) (n : BitVec 3) (b : Bool) : (t.setPred n b).depth = t.depth := (congrArg Thread.depth (t.setPred_eq n b) :)
@[simp] theorem Thread.setPred_cache (t : Thread) (n : BitVec 3) (b : Bool) : (t.setPred n b).cache = t.cache := (congrArg Thread.cache (t.setPred_eq n b) :)
@[simp] theorem Thread.setPred_cyclehi (t : Thread) (n : BitVec 3) (b : Bool) : (t.setPred n b).cyclehi = t.cyclehi := (congrArg Thread.cyclehi (t.setPred_eq n b) :)
@[simp] theorem Thread.setPred_fstat (t : Thread) (n : BitVec 3) (b : Bool) : (t.setPred n b).fstat = t.fstat := (congrArg Thread.fstat (t.setPred_eq n b) :)
@[simp] theorem Thread.setPred_faddr (t : Thread) (n : BitVec 3) (b : Bool) : (t.setPred n b).faddr = t.faddr := (congrArg Thread.faddr (t.setPred_eq n b) :)
@[simp] theorem Thread.setPred_fidx (t : Thread) (n : BitVec 3) (b : Bool) : (t.setPred n b).fidx = t.fidx := (congrArg Thread.fidx (t.setPred_eq n b) :)
@[simp] theorem Thread.setPred_trapc (t : Thread) (n : BitVec 3) (b : Bool) : (t.setPred n b).trapc = t.trapc := (congrArg Thread.trapc (t.setPred_eq n b) :)
@[simp] theorem Thread.setPred_epc (t : Thread) (n : BitVec 3) (b : Bool) : (t.setPred n b).epc = t.epc := (congrArg Thread.epc (t.setPred_eq n b) :)
@[simp] theorem Thread.setPred_rgflags (t : Thread) (n : BitVec 3) (b : Bool) : (t.setPred n b).rgflags = t.rgflags := (congrArg Thread.rgflags (t.setPred_eq n b) :)
@[simp] theorem Thread.setPred_bndcnt (t : Thread) (n : BitVec 3) (b : Bool) : (t.setPred n b).bndcnt = t.bndcnt := (congrArg Thread.bndcnt (t.setPred_eq n b) :)
@[simp] theorem Thread.setPred_stacklim (t : Thread) (n : BitVec 3) (b : Bool) : (t.setPred n b).stacklim = t.stacklim := (congrArg Thread.stacklim (t.setPred_eq n b) :)
@[simp] theorem Thread.setPred_region (t : Thread) (n : BitVec 3) (b : Bool) : (t.setPred n b).region = t.region := (congrArg Thread.region (t.setPred_eq n b) :)
@[simp] theorem Thread.setPred_park (t : Thread) (n : BitVec 3) (b : Bool) : (t.setPred n b).park = t.park := (congrArg Thread.park (t.setPred_eq n b) :)
@[simp] theorem Thread.setPred_taints (t : Thread) (n : BitVec 3) (b : Bool) : (t.setPred n b).taints = t.taints := (congrArg Thread.taints (t.setPred_eq n b) :)
@[simp] theorem Thread.setPred_boundTrap (t : Thread) (n : BitVec 3) (b : Bool) : (t.setPred n b).boundTrap = t.boundTrap := (congrArg Thread.boundTrap (t.setPred_eq n b) :)

@[simp] theorem Thread.setTreg_lid (t : Thread) (n : BitVec 3) (w : Word) : (t.setTreg n w).lid = t.lid := rfl
@[simp] theorem Thread.setTreg_block (t : Thread) (n : BitVec 3) (w : Word) : (t.setTreg n w).block = t.block := rfl
@[simp] theorem Thread.setTreg_lvid0 (t : Thread) (n : BitVec 3) (w : Word) : (t.setTreg n w).lvid0 = t.lvid0 := rfl
@[simp] theorem Thread.setTreg_lvid1 (t : Thread) (n : BitVec 3) (w : Word) : (t.setTreg n w).lvid1 = t.lvid1 := rfl
@[simp] theorem Thread.setTreg_pc (t : Thread) (n : BitVec 3) (w : Word) : (t.setTreg n w).pc = t.pc := rfl
@[simp] theorem Thread.setTreg_mode (t : Thread) (n : BitVec 3) (w : Word) : (t.setTreg n w).mode = t.mode := rfl
@[simp] theorem Thread.setTreg_preds (t : Thread) (n : BitVec 3) (w : Word) : (t.setTreg n w).preds = t.preds := rfl
@[simp] theorem Thread.setTreg_depth (t : Thread) (n : BitVec 3) (w : Word) : (t.setTreg n w).depth = t.depth := rfl
@[simp] theorem Thread.setTreg_cache (t : Thread) (n : BitVec 3) (w : Word) : (t.setTreg n w).cache = t.cache := rfl
@[simp] theorem Thread.setTreg_cyclehi (t : Thread) (n : BitVec 3) (w : Word) : (t.setTreg n w).cyclehi = t.cyclehi := rfl
@[simp] theorem Thread.setTreg_fstat (t : Thread) (n : BitVec 3) (w : Word) : (t.setTreg n w).fstat = t.fstat := rfl
@[simp] theorem Thread.setTreg_faddr (t : Thread) (n : BitVec 3) (w : Word) : (t.setTreg n w).faddr = t.faddr := rfl
@[simp] theorem Thread.setTreg_fidx (t : Thread) (n : BitVec 3) (w : Word) : (t.setTreg n w).fidx = t.fidx := rfl
@[simp] theorem Thread.setTreg_trapc (t : Thread) (n : BitVec 3) (w : Word) : (t.setTreg n w).trapc = t.trapc := rfl
@[simp] theorem Thread.setTreg_epc (t : Thread) (n : BitVec 3) (w : Word) : (t.setTreg n w).epc = t.epc := rfl
@[simp] theorem Thread.setTreg_rgflags (t : Thread) (n : BitVec 3) (w : Word) : (t.setTreg n w).rgflags = t.rgflags := rfl
@[simp] theorem Thread.setTreg_bndcnt (t : Thread) (n : BitVec 3) (w : Word) : (t.setTreg n w).bndcnt = t.bndcnt := rfl
@[simp] theorem Thread.setTreg_stacklim (t : Thread) (n : BitVec 3) (w : Word) : (t.setTreg n w).stacklim = t.stacklim := rfl
@[simp] theorem Thread.setTreg_region (t : Thread) (n : BitVec 3) (w : Word) : (t.setTreg n w).region = t.region := rfl
@[simp] theorem Thread.setTreg_park (t : Thread) (n : BitVec 3) (w : Word) : (t.setTreg n w).park = t.park := rfl
@[simp] theorem Thread.setTreg_taints (t : Thread) (n : BitVec 3) (w : Word) : (t.setTreg n w).taints = t.taints := rfl
@[simp] theorem Thread.setTreg_boundTrap (t : Thread) (n : BitVec 3) (w : Word) : (t.setTreg n w).boundTrap = t.boundTrap := rfl

@[simp] theorem Thread.enter_lid (t : Thread) (c : Nat) (e h : DWord) : (t.enter c e h).lid = t.lid := by simp only [Thread.enter]
@[simp] theorem Thread.enter_block (t : Thread) (c : Nat) (e h : DWord) : (t.enter c e h).block = t.block := by simp only [Thread.enter]
@[simp] theorem Thread.enter_lvid0 (t : Thread) (c : Nat) (e h : DWord) : (t.enter c e h).lvid0 = t.lvid0 := by simp only [Thread.enter]
@[simp] theorem Thread.enter_lvid1 (t : Thread) (c : Nat) (e h : DWord) : (t.enter c e h).lvid1 = t.lvid1 := by simp only [Thread.enter]
@[simp] theorem Thread.enter_preds (t : Thread) (c : Nat) (e h : DWord) : (t.enter c e h).preds = t.preds := by simp only [Thread.enter]
@[simp] theorem Thread.enter_tregs (t : Thread) (c : Nat) (e h : DWord) : (t.enter c e h).tregs = t.tregs := by simp only [Thread.enter]
@[simp] theorem Thread.enter_depth (t : Thread) (c : Nat) (e h : DWord) : (t.enter c e h).depth = t.depth := by simp only [Thread.enter]
@[simp] theorem Thread.enter_cache (t : Thread) (c : Nat) (e h : DWord) : (t.enter c e h).cache = t.cache := by simp only [Thread.enter]
@[simp] theorem Thread.enter_cyclehi (t : Thread) (c : Nat) (e h : DWord) : (t.enter c e h).cyclehi = t.cyclehi := by simp only [Thread.enter]
@[simp] theorem Thread.enter_fstat (t : Thread) (c : Nat) (e h : DWord) : (t.enter c e h).fstat = t.fstat := by simp only [Thread.enter]
@[simp] theorem Thread.enter_faddr (t : Thread) (c : Nat) (e h : DWord) : (t.enter c e h).faddr = t.faddr := by simp only [Thread.enter]
@[simp] theorem Thread.enter_fidx (t : Thread) (c : Nat) (e h : DWord) : (t.enter c e h).fidx = t.fidx := by simp only [Thread.enter]
@[simp] theorem Thread.enter_rgflags (t : Thread) (c : Nat) (e h : DWord) : (t.enter c e h).rgflags = t.rgflags := by simp only [Thread.enter]
@[simp] theorem Thread.enter_bndcnt (t : Thread) (c : Nat) (e h : DWord) : (t.enter c e h).bndcnt = t.bndcnt := by simp only [Thread.enter]
@[simp] theorem Thread.enter_stacklim (t : Thread) (c : Nat) (e h : DWord) : (t.enter c e h).stacklim = t.stacklim := by simp only [Thread.enter]
@[simp] theorem Thread.enter_region (t : Thread) (c : Nat) (e h : DWord) : (t.enter c e h).region = t.region := by simp only [Thread.enter]
@[simp] theorem Thread.enter_taints (t : Thread) (c : Nat) (e h : DWord) : (t.enter c e h).taints = t.taints := by simp only [Thread.enter]
@[simp] theorem Thread.enter_boundTrap (t : Thread) (c : Nat) (e h : DWord) : (t.enter c e h).boundTrap = t.boundTrap := by simp only [Thread.enter]

@[simp] theorem Thread.leave_lid (t : Thread)  : (t.leave ).lid = t.lid := rfl
@[simp] theorem Thread.leave_block (t : Thread)  : (t.leave ).block = t.block := rfl
@[simp] theorem Thread.leave_lvid0 (t : Thread)  : (t.leave ).lvid0 = t.lvid0 := rfl
@[simp] theorem Thread.leave_lvid1 (t : Thread)  : (t.leave ).lvid1 = t.lvid1 := rfl
@[simp] theorem Thread.leave_preds (t : Thread)  : (t.leave ).preds = t.preds := rfl
@[simp] theorem Thread.leave_tregs (t : Thread)  : (t.leave ).tregs = t.tregs := rfl
@[simp] theorem Thread.leave_depth (t : Thread)  : (t.leave ).depth = t.depth := rfl
@[simp] theorem Thread.leave_cache (t : Thread)  : (t.leave ).cache = t.cache := rfl
@[simp] theorem Thread.leave_cyclehi (t : Thread)  : (t.leave ).cyclehi = t.cyclehi := rfl
@[simp] theorem Thread.leave_fstat (t : Thread)  : (t.leave ).fstat = t.fstat := rfl
@[simp] theorem Thread.leave_faddr (t : Thread)  : (t.leave ).faddr = t.faddr := rfl
@[simp] theorem Thread.leave_fidx (t : Thread)  : (t.leave ).fidx = t.fidx := rfl
@[simp] theorem Thread.leave_trapc (t : Thread)  : (t.leave ).trapc = t.trapc := rfl
@[simp] theorem Thread.leave_epc (t : Thread)  : (t.leave ).epc = t.epc := rfl
@[simp] theorem Thread.leave_rgflags (t : Thread)  : (t.leave ).rgflags = t.rgflags := rfl
@[simp] theorem Thread.leave_bndcnt (t : Thread)  : (t.leave ).bndcnt = t.bndcnt := rfl
@[simp] theorem Thread.leave_stacklim (t : Thread)  : (t.leave ).stacklim = t.stacklim := rfl
@[simp] theorem Thread.leave_region (t : Thread)  : (t.leave ).region = t.region := rfl
@[simp] theorem Thread.leave_taints (t : Thread)  : (t.leave ).taints = t.taints := rfl
@[simp] theorem Thread.leave_boundTrap (t : Thread)  : (t.leave ).boundTrap = t.boundTrap := rfl

theorem Thread.faultRegs_lid (t : Thread) (w : Word) (v : DWord) : ({ t with fstat := w, faddr := v } : Thread).lid = t.lid := rfl
theorem Thread.faultRegs_block (t : Thread) (w : Word) (v : DWord) : ({ t with fstat := w, faddr := v } : Thread).block = t.block := rfl
theorem Thread.faultRegs_lvid0 (t : Thread) (w : Word) (v : DWord) : ({ t with fstat := w, faddr := v } : Thread).lvid0 = t.lvid0 := rfl
theorem Thread.faultRegs_lvid1 (t : Thread) (w : Word) (v : DWord) : ({ t with fstat := w, faddr := v } : Thread).lvid1 = t.lvid1 := rfl
theorem Thread.faultRegs_pc (t : Thread) (w : Word) (v : DWord) : ({ t with fstat := w, faddr := v } : Thread).pc = t.pc := rfl
theorem Thread.faultRegs_mode (t : Thread) (w : Word) (v : DWord) : ({ t with fstat := w, faddr := v } : Thread).mode = t.mode := rfl
theorem Thread.faultRegs_preds (t : Thread) (w : Word) (v : DWord) : ({ t with fstat := w, faddr := v } : Thread).preds = t.preds := rfl
theorem Thread.faultRegs_tregs (t : Thread) (w : Word) (v : DWord) : ({ t with fstat := w, faddr := v } : Thread).tregs = t.tregs := rfl
theorem Thread.faultRegs_depth (t : Thread) (w : Word) (v : DWord) : ({ t with fstat := w, faddr := v } : Thread).depth = t.depth := rfl
theorem Thread.faultRegs_cache (t : Thread) (w : Word) (v : DWord) : ({ t with fstat := w, faddr := v } : Thread).cache = t.cache := rfl
theorem Thread.faultRegs_cyclehi (t : Thread) (w : Word) (v : DWord) : ({ t with fstat := w, faddr := v } : Thread).cyclehi = t.cyclehi := rfl
theorem Thread.faultRegs_fidx (t : Thread) (w : Word) (v : DWord) : ({ t with fstat := w, faddr := v } : Thread).fidx = t.fidx := rfl
theorem Thread.faultRegs_trapc (t : Thread) (w : Word) (v : DWord) : ({ t with fstat := w, faddr := v } : Thread).trapc = t.trapc := rfl
theorem Thread.faultRegs_epc (t : Thread) (w : Word) (v : DWord) : ({ t with fstat := w, faddr := v } : Thread).epc = t.epc := rfl
theorem Thread.faultRegs_rgflags (t : Thread) (w : Word) (v : DWord) : ({ t with fstat := w, faddr := v } : Thread).rgflags = t.rgflags := rfl
theorem Thread.faultRegs_bndcnt (t : Thread) (w : Word) (v : DWord) : ({ t with fstat := w, faddr := v } : Thread).bndcnt = t.bndcnt := rfl
theorem Thread.faultRegs_stacklim (t : Thread) (w : Word) (v : DWord) : ({ t with fstat := w, faddr := v } : Thread).stacklim = t.stacklim := rfl
theorem Thread.faultRegs_region (t : Thread) (w : Word) (v : DWord) : ({ t with fstat := w, faddr := v } : Thread).region = t.region := rfl
theorem Thread.faultRegs_park (t : Thread) (w : Word) (v : DWord) : ({ t with fstat := w, faddr := v } : Thread).park = t.park := rfl
theorem Thread.faultRegs_taints (t : Thread) (w : Word) (v : DWord) : ({ t with fstat := w, faddr := v } : Thread).taints = t.taints := rfl
theorem Thread.faultRegs_boundTrap (t : Thread) (w : Word) (v : DWord) : ({ t with fstat := w, faddr := v } : Thread).boundTrap = t.boundTrap := rfl

@[simp] theorem Thread.seeFault_lid (t : Thread) (f : FaultInfo) : (t.seeFault f).lid = t.lid := Thread.faultRegs_lid t _ _
@[simp] theorem Thread.seeFault_block (t : Thread) (f : FaultInfo) : (t.seeFault f).block = t.block := Thread.faultRegs_block t _ _
@[simp] theorem Thread.seeFault_lvid0 (t : Thread) (f : FaultInfo) : (t.seeFault f).lvid0 = t.lvid0 := Thread.faultRegs_lvid0 t _ _
@[simp] theorem Thread.seeFault_lvid1 (t : Thread) (f : FaultInfo) : (t.seeFault f).lvid1 = t.lvid1 := Thread.faultRegs_lvid1 t _ _
@[simp] theorem Thread.seeFault_pc (t : Thread) (f : FaultInfo) : (t.seeFault f).pc = t.pc := Thread.faultRegs_pc t _ _
@[simp] theorem Thread.seeFault_mode (t : Thread) (f : FaultInfo) : (t.seeFault f).mode = t.mode := Thread.faultRegs_mode t _ _
@[simp] theorem Thread.seeFault_preds (t : Thread) (f : FaultInfo) : (t.seeFault f).preds = t.preds := Thread.faultRegs_preds t _ _
@[simp] theorem Thread.seeFault_tregs (t : Thread) (f : FaultInfo) : (t.seeFault f).tregs = t.tregs := Thread.faultRegs_tregs t _ _
@[simp] theorem Thread.seeFault_depth (t : Thread) (f : FaultInfo) : (t.seeFault f).depth = t.depth := Thread.faultRegs_depth t _ _
@[simp] theorem Thread.seeFault_cache (t : Thread) (f : FaultInfo) : (t.seeFault f).cache = t.cache := Thread.faultRegs_cache t _ _
@[simp] theorem Thread.seeFault_cyclehi (t : Thread) (f : FaultInfo) : (t.seeFault f).cyclehi = t.cyclehi := Thread.faultRegs_cyclehi t _ _
@[simp] theorem Thread.seeFault_fidx (t : Thread) (f : FaultInfo) : (t.seeFault f).fidx = t.fidx := Thread.faultRegs_fidx t _ _
@[simp] theorem Thread.seeFault_trapc (t : Thread) (f : FaultInfo) : (t.seeFault f).trapc = t.trapc := Thread.faultRegs_trapc t _ _
@[simp] theorem Thread.seeFault_epc (t : Thread) (f : FaultInfo) : (t.seeFault f).epc = t.epc := Thread.faultRegs_epc t _ _
@[simp] theorem Thread.seeFault_rgflags (t : Thread) (f : FaultInfo) : (t.seeFault f).rgflags = t.rgflags := Thread.faultRegs_rgflags t _ _
@[simp] theorem Thread.seeFault_bndcnt (t : Thread) (f : FaultInfo) : (t.seeFault f).bndcnt = t.bndcnt := Thread.faultRegs_bndcnt t _ _
@[simp] theorem Thread.seeFault_stacklim (t : Thread) (f : FaultInfo) : (t.seeFault f).stacklim = t.stacklim := Thread.faultRegs_stacklim t _ _
@[simp] theorem Thread.seeFault_region (t : Thread) (f : FaultInfo) : (t.seeFault f).region = t.region := Thread.faultRegs_region t _ _
@[simp] theorem Thread.seeFault_park (t : Thread) (f : FaultInfo) : (t.seeFault f).park = t.park := Thread.faultRegs_park t _ _
@[simp] theorem Thread.seeFault_taints (t : Thread) (f : FaultInfo) : (t.seeFault f).taints = t.taints := Thread.faultRegs_taints t _ _
@[simp] theorem Thread.seeFault_boundTrap (t : Thread) (f : FaultInfo) : (t.seeFault f).boundTrap = t.boundTrap := Thread.faultRegs_boundTrap t _ _

end Sys2Proof.Machine
end

