-- ==== Sys2Proof/Laws/Tables.lean ====
section
/-! SUPPORT. Reading after writing, for the sparse tables and the sparse memory. -/

namespace Sys2Proof.Machine

@[simp] theorem tget_nil {α : Type} (k : Nat) : tget ([] : List (Nat × α)) k = none := rfl

@[simp] theorem tget_tset_self {α : Type} (l : List (Nat × α)) (k : Nat) (v : α) : tget (tset l k v) k = some v := by
  induction l with
  | nil => simp [tset, tget]
  | cons e r ih =>
    obtain ⟨k', v'⟩ := e
    by_cases h : k' = k <;> simp [tset, tget, h, ih]

theorem tget_tset_ne {α : Type} (l : List (Nat × α)) {k k' : Nat} (v : α) (h : k' ≠ k) : tget (tset l k v) k' = tget l k' := by
  induction l with
  | nil => simp [tset, tget, Ne.symm h]
  | cons e r ih =>
    obtain ⟨x, y⟩ := e
    by_cases hx : x = k
    · subst hx; simp [tset, tget, Ne.symm h]
    · by_cases hy : x = k'
      · rw [tset, if_neg hx, tget, tget, if_pos hy, if_pos hy]
      · rw [tset, if_neg hx, tget, tget, if_neg hy, if_neg hy, ih]

theorem tget_tset {α : Type} (l : List (Nat × α)) (k k' : Nat) (v : α) :
    tget (tset l k v) k' = if k' = k then some v else tget l k' := by
  by_cases h : k' = k
  · subst h; simp
  · simp [h, tget_tset_ne l v h]

theorem tget_mem {α : Type} {l : List (Nat × α)} {k : Nat} {v : α} (h : tget l k = some v) : (k, v) ∈ l := by
  induction l with
  | nil => simp at h
  | cons e r ih =>
    obtain ⟨j, w⟩ := e
    simp only [tget] at h
    split at h
    · cases h
      simp [*]
    · exact List.mem_cons_of_mem _ (ih h)

@[simp] theorem tget_tdel_self {α : Type} (l : List (Nat × α)) (k : Nat) : tget (tdel l k) k = none := by
  induction l with
  | nil => rfl
  | cons e r ih =>
    obtain ⟨x, y⟩ := e
    by_cases h : x = k <;> simp_all [tdel, tget]

theorem tget_tdel_ne {α : Type} (l : List (Nat × α)) {k k' : Nat} (h : k' ≠ k) : tget (tdel l k) k' = tget l k' := by
  induction l with
  | nil => rfl
  | cons e r ih =>
    obtain ⟨x, y⟩ := e
    by_cases hx : x = k
    · subst hx; simp_all [tdel, tget, Ne.symm h]
    · by_cases hy : x = k' <;> simp_all [tdel, tget]

/-- Cells whose addresses rise from `lo` say nothing of an address below it. -/
theorem cellsGet_below : ∀ (l : List Host.Cell) (lo a : Nat), wfCellsFrom lo l = true → a < lo → cellsGet l a = 0
  | [], _, _, _, _ => rfl
  | (x, y) :: r, lo, a, w, h => by
    simp only [wfCellsFrom, Bool.and_eq_true, decide_eq_true_eq] at w
    have hx : x ≠ a := by omega
    simp [cellsGet, hx, cellsGet_below r (x + 1) a w.2 (by omega)]

theorem cellsGet_cons (x : Nat) (y : Byte) (r : List Host.Cell) (a : Nat) :
    cellsGet ((x, y) :: r) a = if a = x then y else cellsGet r a := by
  by_cases h : x = a
  · subst h; simp [cellsGet]
  · simp [cellsGet, h, Ne.symm h]

theorem cellsGet_cellsPut : ∀ (l : List Host.Cell) (lo a a' : Nat) (v : Byte), wfCellsFrom lo l = true →
    cellsGet (cellsPut l a v) a' = if a' = a then v else cellsGet l a'
  | [], _, a, a', v, _ => by
    unfold cellsPut
    by_cases hv : v = 0
    · rw [if_pos hv, hv]
      split <;> rfl
    · rw [if_neg hv, cellsGet_cons]
  | (x, y) :: r, lo, a, a', v, w => by
    simp only [wfCellsFrom, Bool.and_eq_true, decide_eq_true_eq] at w
    have ih := cellsGet_cellsPut r (x + 1) a a' v w.2
    have hb : a' ≤ x → cellsGet r a' = 0 := fun e => cellsGet_below r (x + 1) a' w.2 (by omega)
    unfold cellsPut
    by_cases h1 : a < x
    · rw [if_pos h1]
      by_cases hv : v = 0
      · rw [if_pos hv, hv]
        by_cases e : a' = a
        · rw [if_pos e, cellsGet_cons, if_neg (by omega), hb (by omega)]
        · rw [if_neg e]
      · rw [if_neg hv, cellsGet_cons]
    · rw [if_neg h1]
      by_cases h2 : a = x
      · rw [if_pos h2]
        by_cases hv : v = 0
        · rw [if_pos hv, hv]
          by_cases e : a' = a
          · rw [if_pos e, hb (by omega)]
          · rw [if_neg e, cellsGet_cons, if_neg (by omega)]
        · rw [if_neg hv, cellsGet_cons, cellsGet_cons, ← h2]
          by_cases e : a' = a
          · rw [if_pos e, if_pos e]
          · rw [if_neg e, if_neg e, if_neg e]
      · rw [if_neg h2, cellsGet_cons, cellsGet_cons, ih]
        by_cases e : a' = a
        · rw [if_neg (by omega), if_pos e, if_pos e]
        · rw [if_neg e, if_neg e]

/-- A byte read after a byte write (00 R4). -/
theorem Memory.get_put (m : Memory) (a a' : Nat) (v : Byte) : (m.put a v).get a' = if a' = a then v else m.get a' :=
  cellsGet_cellsPut m.cells 0 a a' v m.canon

@[simp] theorem Memory.get_put_self (m : Memory) (a : Nat) (v : Byte) : (m.put a v).get a = v := by simp [Memory.get_put]

theorem Memory.get_put_ne (m : Memory) {a a' : Nat} (v : Byte) (h : a' ≠ a) : (m.put a v).get a' = m.get a' := by
  simp [Memory.get_put, h]

@[simp] theorem Memory.get_empty (a : Nat) : Memory.empty.get a = 0 := rfl

/-- Every memory is in the canonical form, so every operation keeps it. -/
theorem Memory.wf_all (m : Memory) : m.wf = true := m.canon

/-- Bytes outside a wide write read as before. -/
theorem Memory.get_putN_out (n : Nat) : ∀ (m : Memory) (a v a' : Nat), (a' < a ∨ a + n ≤ a') → (m.putN a n v).get a' = m.get a' := by
  induction n with
  | zero => intro m a v a' _; rfl
  | succ n ih =>
    intro m a v a' h
    rw [Memory.putN, ih _ _ _ _ (by omega), Memory.get_put_ne _ _ (by omega)]

/-- Byte i of a wide write. -/
theorem Memory.get_putN_in (n : Nat) : ∀ (m : Memory) (a v i : Nat), i < n →
    (m.putN a n v).get (a + i) = BitVec.ofNat 8 (v / 256 ^ i) := by
  induction n with
  | zero => intro _ _ _ _ h; omega
  | succ n ih =>
    intro m a v i h
    cases i with
    | zero => rw [Memory.putN, Memory.get_putN_out n _ _ _ _ (by omega)]; simp
    | succ i =>
      rw [Memory.putN, show a + (i + 1) = a + 1 + i by omega, ih _ _ _ _ (by omega), Nat.div_div_eq_div_mul, Nat.pow_succ,
        Nat.mul_comm 256]

/-- A wide read depends on its bytes alone. -/
theorem Memory.getN_congr (n : Nat) : ∀ (m m' : Memory) (a : Nat), (∀ i, i < n → m'.get (a + i) = m.get (a + i)) →
    m'.getN a n = m.getN a n := by
  induction n with
  | zero => intros; rfl
  | succ n ih =>
    intro m m' a h
    have h0 := h 0 (by omega)
    simp only [Nat.add_zero] at h0
    rw [Memory.getN, Memory.getN, h0, ih m m' (a + 1) (fun i hi => by
      have := h (i + 1) (by omega)
      rwa [show a + (i + 1) = a + 1 + i by omega] at this)]

/-- A wide read of what a wide write wrote. -/
theorem Memory.getN_putN (n : Nat) : ∀ (m : Memory) (a v : Nat), (m.putN a n v).getN a n = v % 256 ^ n := by
  induction n with
  | zero => intro m a v; simp [Memory.getN, Nat.mod_one]
  | succ n ih =>
    intro m a v
    rw [Memory.getN, Memory.putN, ih, Memory.get_putN_out n _ _ _ _ (by omega)]
    simp only [Memory.get_put_self, BitVec.toNat_ofNat]
    have h : (256 : Nat) ^ (n + 1) = 256 * 256 ^ n := by rw [Nat.pow_succ, Nat.mul_comm]
    rw [h, Nat.mod_mul]

/-- A word read back. -/
@[simp] theorem Memory.get32_put32 (m : Memory) (a : Nat) (w : Word) : (m.put32 a w).get32 a = w := by
  unfold Memory.get32 Memory.put32
  rw [Memory.getN_putN]
  apply BitVec.eq_of_toNat_eq
  have := w.isLt
  simp only [BitVec.toNat_ofNat]
  omega

/-- Bytes outside a word write read as before. -/
theorem Memory.get_put32_out (m : Memory) {a a' : Nat} (w : Word) (h : a' < a ∨ a + 4 ≤ a') : (m.put32 a w).get a' = m.get a' :=
  Memory.get_putN_out 4 m a w.toNat a' h

/-- A word apart from a word write. -/
theorem Memory.get32_put32_ne (m : Memory) {a a' : Nat} (w : Word) (h : a' + 4 ≤ a ∨ a + 4 ≤ a') :
    (m.put32 a w).get32 a' = m.get32 a' := by
  unfold Memory.get32
  rw [Memory.getN_congr 4 m (m.put32 a w) a' (fun i hi => Memory.get_put32_out m w (by omega))]

end Sys2Proof.Machine
end

