-- ==== Sys2Proof/Laws/Access.lean ====
section
/-! SUPPORT. What the accessors read after each of the accessors writes. -/

namespace Sys2Proof.Machine

@[simp] theorem State.core_setCore_self (s : State) (n : Nat) (c : Core) : (s.setCore n c).core n = c := by
  simp [State.core, State.setCore]

theorem State.core_setCore_ne (s : State) {n m : Nat} (c : Core) (h : m ≠ n) : (s.setCore n c).core m = s.core m := by
  simp [State.core, State.setCore, tget_tset_ne _ _ h]

@[simp] theorem State.core_modCore_self (s : State) (n : Nat) (f : Core → Core) : (s.modCore n f).core n = f (s.core n) := by
  simp [State.modCore]

theorem State.core_modCore_ne (s : State) {n m : Nat} (f : Core → Core) (h : m ≠ n) : (s.modCore n f).core m = s.core m := by
  simp [State.modCore, State.core_setCore_ne s _ h]

@[simp] theorem State.core_modThread_self (s : State) (n i : Nat) (f : Thread → Thread) :
    (s.modThread n i f).core n = (s.core n).modThread i f := by simp [State.modThread]

theorem State.core_modThread_ne (s : State) {n m : Nat} (i : Nat) (f : Thread → Thread) (h : m ≠ n) :
    (s.modThread n i f).core m = s.core m := State.core_modCore_ne s _ h

@[simp] theorem State.core_modLaunch (s : State) (l n : Nat) (f : Launch → Launch) : (s.modLaunch l f).core n = s.core n := rfl

@[simp] theorem Core.thread?_setThread_self (c : Core) (i : Nat) (t : Thread) : (c.setThread i t).thread? i = some t := by
  simp [Core.thread?, Core.setThread]

theorem Core.thread?_setThread_ne (c : Core) {i j : Nat} (t : Thread) (h : j ≠ i) : (c.setThread i t).thread? j = c.thread? j := by
  simp [Core.thread?, Core.setThread, tget_tset_ne _ _ h]

theorem Core.thread?_modThread_self (c : Core) (i : Nat) (f : Thread → Thread) :
    (c.modThread i f).thread? i = (c.thread? i).map f := by
  unfold Core.modThread
  cases h : c.thread? i <;> simp [h]

theorem Core.thread?_modThread_ne (c : Core) {i j : Nat} (f : Thread → Thread) (h : j ≠ i) :
    (c.modThread i f).thread? j = c.thread? j := by
  unfold Core.modThread
  split
  · exact Core.thread?_setThread_ne c _ h
  · rfl

theorem Core.thread?_modThread (c : Core) (i j : Nat) (f : Thread → Thread) :
    (c.modThread i f).thread? j = if j = i then (c.thread? i).map f else c.thread? j := by
  split <;> rename_i h
  · subst h; exact c.thread?_modThread_self j f
  · exact c.thread?_modThread_ne f h

/-- What only the threads' table decides. -/
theorem Core.thread?_congr {c c' : Core} (h : c'.threads = c.threads) (i : Nat) : c'.thread? i = c.thread? i := by
  simp [Core.thread?, h]

@[simp] theorem Core.thread?_writeV (c : Core) (i n j : Nat) (w : Word) : (c.writeV i n w).thread? j = c.thread? j :=
  Core.thread?_congr (by simp) j

@[simp] theorem Core.thread?_writeK (c : Core) (i j : Nat) (n : BitVec 4) (w : Word) : (c.writeK i n w).thread? j = c.thread? j :=
  Core.thread?_congr (by simp) j

theorem State.thread?_modThread_self (s : State) (n i : Nat) (f : Thread → Thread) :
    (s.modThread n i f).thread? n i = (s.thread? n i).map f := by
  simp [State.thread?, Core.thread?_modThread_self]

theorem State.thread?_modThread_ne (s : State) (n : Nat) {i j : Nat} (f : Thread → Thread) (h : j ≠ i) :
    (s.modThread n i f).thread? n j = s.thread? n j := by
  simp [State.thread?, Core.thread?_modThread_ne _ _ h]

@[simp] theorem Core.crew?_setCrew_self (c : Core) (i : Nat) (x : Crew) : (c.setCrew i x).crew? i = some x := by
  simp [Core.crew?, Core.setCrew]

theorem Core.crew?_setCrew_ne (c : Core) {i j : Nat} (x : Crew) (h : j ≠ i) : (c.setCrew i x).crew? j = c.crew? j := by
  simp [Core.crew?, Core.setCrew, tget_tset_ne _ _ h]

theorem Core.crew?_modCrew (c : Core) (i j : Nat) (f : Crew → Crew) :
    (c.modCrew i f).crew? j = if j = i then (c.crew? i).map f else c.crew? j := by
  unfold Core.modCrew
  by_cases e : j = i
  · subst e
    cases h : c.crew? j <;> simp [h]
  · cases h : c.crew? i <;> simp [e, Core.crew?_setCrew_ne _ _ e]

/-- Where a v register lies is decided by the crews alone. -/
theorem Core.vOff_congr {c c' : Core} (h : c'.crews = c.crews) (slot n : Nat) : c'.vOff slot n = c.vOff slot n := by
  simp [Core.vOff, Core.crew?, h]

/-- What a k register holds is decided by the crews alone. -/
theorem Core.readK_congr {c c' : Core} (h : c'.crews = c.crews) (crew : Nat) (n : BitVec 4) : c'.readK crew n = c.readK crew n := by
  simp [Core.readK, Core.crew?, h]

/-- A v register read after it is written. -/
theorem Core.readV_writeV_self (c : Core) {slot n a : Nat} (w : Word) (h : c.vOff slot n = some a) :
    (c.writeV slot n w).readV slot n = some w := by
  have hv : (c.writeV slot n w).vOff slot n = some a := by 
    have e := c.writeV_eq slot n w
    rw [Core.vOff_congr (congrArg Core.crews e)]; exact h
  rw [Core.readV, hv]
  simp [Core.writeV, h]

/-- The store after a v register is written. -/
theorem Core.store_writeV (c : Core) {slot n a : Nat} (w : Word) (h : c.vOff slot n = some a) :
    (c.writeV slot n w).store = c.store.put32 a w := by simp [Core.writeV, h]

/-- A k register read after a k register is written, in a crew that exists. -/
theorem Core.readK_writeK (c : Core) {crew : Nat} {x : Crew} (h : c.crew? crew = some x) (n m : BitVec 4) (w : Word) :
    (c.writeK crew n w).readK crew m = if m = n then w else c.readK crew m := by
  have g : ∀ (v : Vector (BitVec 32) 16), (v.set n.toNat w n.isLt).get m.toFin = if m = n then w else v.get m.toFin := by
    intro v
    have e : (n.toNat = m.toNat) ↔ m = n := ⟨fun k => BitVec.eq_of_toNat_eq k.symm, fun k => by rw [k]⟩
    show (v.set n.toNat w n.isLt)[m.toNat] = if m = n then w else v[m.toNat]
    rw [Vector.getElem_set]
    simp only [e]
  simp only [Core.readK, Core.writeK, Core.crew?_modCrew, ↓reduceIte, h, Option.map_some]
  exact g x.k

/-- The advance of a thread, and of no other. -/
theorem Core.thread?_advance (c : Core) (slot len j : Nat) :
    (c.advance slot len).thread? j = if j = slot then (c.thread? slot).map (fun t => { t with
      pc := t.pc + BitVec.ofNat 64 len
      park := none }) else c.thread? j := by
  rw [← Core.thread?_modThread]
  unfold Core.advance
  dsimp only
  split <;> exact Core.thread?_congr (by simp) j

/-- A keyed list with values changed by key. -/
theorem tget_map {α : Type} (f : Nat → α → α) (l : List (Nat × α)) (k : Nat) :
    tget (l.map (fun e => (e.1, f e.1 e.2))) k = (tget l k).map (f k) := by
  induction l with
  | nil => rfl
  | cons e r ih =>
    rw [List.map_cons]
    unfold tget
    by_cases h : e.1 = k
    · simp [h]
    · simp only [h, ↓reduceIte]
      exact ih

/-- The threads that see a register are those of the crew, or the thread alone. -/
theorem Core.thread?_modSeeing (c : Core) (slot j : Nat) (d : BitVec 8) (f : Thread → Thread) :
    (c.modSeeing slot d f).thread? j =
      if (d.toNat < 0xE0 ∧ j = slot) ∨ (¬d.toNat < 0xE0 ∧ j / 64 = slot / 64) then (c.thread? j).map f else c.thread? j := by
  unfold Core.modSeeing
  by_cases h : d.toNat < 0xE0
  · simp only [h, ↓reduceIte, true_and, not_true, false_and, or_false]
    rw [Core.thread?_modThread]
    split <;> rename_i e
    · rw [e]
    · rfl
  · simp only [h, ↓reduceIte, false_and, not_false_iff, true_and, false_or]
    have e := tget_map (fun k t => if k / 64 = slot / 64 then f t else t) c.threads j
    have g : ∀ e : Nat × Thread, (e.1, if e.1 / 64 = slot / 64 then f e.2 else e.2) = if e.1 / 64 = slot / 64 then (e.1, f e.2) else e := by
      intro e; split <;> rfl
    simp only [g] at e
    show tget _ j = _
    rw [e]
    show Option.map _ (c.thread? j) = _
    split
    · rfl
    · cases c.thread? j <;> rfl

/-- What a superseded register makes of a thread that sees it. -/
def Thread.superseded (t : Thread) (d : BitVec 8) : Thread :=
  { t with taints := t.taints.map (fun x => { x with regs := x.regs.filter (· != d) }) }

/-- A superseded register changes the threads that see it. -/
theorem Core.thread?_supersede (c : Core) (slot j : Nat) (d : BitVec 8) :
    (c.supersede slot d).thread? j =
      if (d.toNat < 0xE0 ∧ j = slot) ∨ (¬d.toNat < 0xE0 ∧ j / 64 = slot / 64) then (c.thread? j).map (·.superseded d) else c.thread? j := by
  unfold Core.supersede
  dsimp only
  rw [Core.thread?_congr (Core.dropHeld_threads _ slot d), Core.thread?_modSeeing]
  cases c.loads.any (·.writes slot d) <;> rfl

@[simp] theorem Core.thread?_putV (c : Core) (slot n j : Nat) (w : Word) : (c.putV slot n w).thread? j = c.thread? j :=
  Core.thread?_congr (by simp) j

/-- What a superseded register leaves of the operand latches. -/
theorem Core.latch_supersede (c : Core) (slot : Nat) (d : BitVec 8) :
    (c.supersede slot d).latch = c.latch.filter (fun e => !(e.1 == slot && e.2.1 == d)) := by
  unfold Core.supersede Core.dropHeld
  dsimp only
  rw [Core.modSeeing_latch]
  cases c.loads.any (·.writes slot d) <;> rfl

/-- What a superseded register leaves of the pending loads. -/
theorem Core.loads_supersede (c : Core) (slot : Nat) (d : BitVec 8) :
    (c.supersede slot d).loads =
      c.loads.map (fun l => if l.writes slot d then { l with dests := l.dests.filter (·.1 != d) } else l) := by
  unfold Core.supersede
  dsimp only
  rw [Core.dropHeld_loads, Core.modSeeing_loads]
  cases h : c.loads.any (·.writes slot d)
  · simp only [Bool.false_eq_true, ↓reduceIte]
    refine (List.map_id _).symm.trans (List.map_congr_left (fun l hl => ?_))
    have := List.any_eq_false.1 h l hl
    simp [this]
  · rfl

/-- An advance puts nothing into the operand latches of another thread. -/
theorem Core.latch_advance (c : Core) (slot len : Nat) (e : Nat × BitVec 8 × Nat) (h : e ∈ (c.advance slot len).latch) (k : e.1 ≠ slot) :
    e ∈ c.latch := by
  have g : (c.advance slot len).latch = ((c.modThread slot (fun t =>
      { t with pc := t.pc + BitVec.ofNat 64 len, park := none })).ageLatch slot).latch := by
    unfold Core.advance
    dsimp only
    split <;> rfl
  rw [g] at h
  unfold Core.ageLatch at h
  split at h
  · obtain ⟨x, hx, rfl⟩ := List.mem_map.1 h
    have m := (List.mem_filter.1 hx).1
    rw [Core.modThread_latch] at m
    by_cases q : x.1 = slot
    · rw [if_pos q] at k
      exact absurd q k
    · rw [if_neg q]
      exact m
  · rwa [Core.modThread_latch] at h

/-- An advance counts the lookahead windows of the thread's loads down. -/
theorem Core.loads_advance (c : Core) (slot len : Nat) :
    (c.advance slot len).loads = c.loads.map (fun l => if l.slot = slot then { l with la := l.la - 1 } else l) := by
  unfold Core.advance
  dsimp only
  rw [Core.ageLatch_loads, Core.modThread_loads]
  cases h : c.loads.any (fun l => l.slot == slot)
  · rw [if_neg (by simp)]
    rw [Core.ageLatch_loads, Core.modThread_loads]
    refine (List.map_id _).symm.trans (List.map_congr_left (fun l hl => ?_))
    have := List.any_eq_false.1 h l hl
    simp only [beq_iff_eq] at this
    simp [this]
  · rfl

@[simp] theorem Thread.treg_setTreg_self (t : Thread) (n : BitVec 3) (w : Word) : (t.setTreg n w).treg n = w := by
  show (t.tregs.set n.toNat w n.isLt)[n.toNat] = w
  rw [Vector.getElem_set, if_pos rfl]

theorem Thread.treg_setTreg_ne (t : Thread) {n m : BitVec 3} (w : Word) (h : m ≠ n) : (t.setTreg n w).treg m = t.treg m := by
  show (t.tregs.set n.toNat w n.isLt)[m.toNat] = t.tregs[m.toNat]
  rw [Vector.getElem_set, if_neg (fun k => h (BitVec.eq_of_toNat_eq k.symm))]

/-- p7 reads true whatever is written (04 R99). -/
@[simp] theorem Thread.pred_seven (t : Thread) : t.pred 7 = true := by simp [Thread.pred]

@[simp] theorem Thread.setPred_seven (t : Thread) (b : Bool) : t.setPred 7 b = t := by simp [Thread.setPred]

/-- A predicate read after one is written (04 R99). -/
theorem Thread.pred_setPred (t : Thread) (n m : BitVec 3) (b : Bool) (h : n ≠ 7) :
    (t.setPred n b).pred m = if m = n then b else t.pred m := by
  have hn : n.toNat < 7 := by
    have := n.isLt
    rcases Nat.lt_or_ge n.toNat 7 with k | k
    · exact k
    · exact absurd (BitVec.eq_of_toNat_eq (show n.toNat = (7#3).toNat by simp; omega)) h
  have e : (m.toNat = n.toNat) ↔ m = n := ⟨fun k => BitVec.eq_of_toNat_eq k, fun k => by rw [k]⟩
  have sp : t.setPred n b = { t with preds := if b then t.preds ||| (1#7 <<< n.toNat) else t.preds &&& ~~~(1#7 <<< n.toNat) } := by
    unfold Thread.setPred
    exact if_neg h
  rw [sp]
  by_cases g : m = n
  · subst g
    have h' : (m == 7#3) = false := by simpa using h
    cases b <;> simp [Thread.pred, h', hn, -BitVec.ofNat_eq_ofNat]
  · have : ¬ m.toNat = n.toNat := fun k => g (e.1 k)
    have k : (1#7 <<< n.toNat).getLsbD m.toNat = false := by
      rw [BitVec.getLsbD_shiftLeft]
      by_cases q : m.toNat < n.toNat
      · simp [q]
      · have : m.toNat - n.toNat ≠ 0 := by omega
        simp [this]
    by_cases q : m = 7#3
    · simp [Thread.pred, q, if_neg (fun z => g (q.trans z))]
    · have l : m.toNat < 7 := by
        have := m.isLt
        rcases Nat.lt_or_ge m.toNat 7 with k | k
        · exact k
        · exact absurd (BitVec.eq_of_toNat_eq (show m.toNat = (7#3).toNat by simp; omega)) q
      rw [if_neg g]
      cases b
      · show (m == 7 || (t.preds &&& ~~~(1#7 <<< n.toNat)).getLsbD m.toNat) = (m == 7 || t.preds.getLsbD m.toNat)
        rw [BitVec.getLsbD_and, BitVec.getLsbD_not, k]
        simp [l]
      · show (m == 7 || (t.preds ||| (1#7 <<< n.toNat)).getLsbD m.toNat) = (m == 7 || t.preds.getLsbD m.toNat)
        rw [BitVec.getLsbD_or, k]
        simp

end Sys2Proof.Machine
end

