-- ==== Sys2Proof/Laws/Encoding.lean ====
section
/-! SUPPORT. The words of an encoding: bytes to words and back, the fields of each word, and what the decoder reads of a whole encoding. -/

namespace Sys2Proof

/-! ## Bytes and words -/

/-- A field that lies wholly in the low part. -/
theorem extract_low {n m : Nat} (a : BitVec n) (b : BitVec m) {s k : Nat} (h : s + k ≤ m) :
    (a ++ b).extractLsb' s k = b.extractLsb' s k := by
  ext i hi
  simp only [BitVec.getElem_extractLsb', BitVec.getLsbD_append]
  rw [if_pos (by omega)]

/-- A field that lies wholly in the high part. -/
theorem extract_high {n m : Nat} (a : BitVec n) (b : BitVec m) {s k : Nat} (h : m ≤ s) :
    (a ++ b).extractLsb' s k = a.extractLsb' (s - m) k := by
  ext i hi
  simp only [BitVec.getElem_extractLsb', BitVec.getLsbD_append]
  rw [if_neg (by omega)]
  congr 1
  omega

/-- A field that is the whole. -/
theorem extract_all {n : Nat} (a : BitVec n) : a.extractLsb' 0 n = a := by
  ext i hi
  simp

@[simp] theorem le32_bytes (w : Word) :
    le32 (w.extractLsb' 0 8) (w.extractLsb' 8 8) (w.extractLsb' 16 8) (w.extractLsb' 24 8) = w := by
  unfold le32
  ext i hi
  simp only [BitVec.getElem_append, BitVec.getElem_extractLsb']
  split_ifs <;> (rw [← BitVec.getLsbD_eq_getElem]; congr 1; omega)

@[simp] theorem le64_bytes (w : DWord) :
    le64 (w.extractLsb' 0 8) (w.extractLsb' 8 8) (w.extractLsb' 16 8) (w.extractLsb' 24 8) (w.extractLsb' 32 8) (w.extractLsb' 40 8)
      (w.extractLsb' 48 8) (w.extractLsb' 56 8) = w := by
  unfold le64
  ext i hi
  simp only [BitVec.getElem_append, BitVec.getElem_extractLsb']
  split_ifs <;> (rw [← BitVec.getLsbD_eq_getElem]; congr 1; omega)

@[simp] theorem bytes32_le32 (b0 b1 b2 b3 : Byte) : bytes32 (le32 b0 b1 b2 b3) = [b0, b1, b2, b3] := by
  unfold le32 bytes32
  simp only [List.cons.injEq, and_true]
  refine ⟨?_, ?_, ?_, ?_⟩ <;>
    (ext i hi; simp only [BitVec.getElem_extractLsb', BitVec.getLsbD_append]
     split_ifs <;> first | omega | (rw [← BitVec.getLsbD_eq_getElem]; congr 1; omega))

@[simp] theorem bytes64_le64 (b0 b1 b2 b3 b4 b5 b6 b7 : Byte) :
    bytes64 (le64 b0 b1 b2 b3 b4 b5 b6 b7) = [b0, b1, b2, b3, b4, b5, b6, b7] := by
  unfold le64 bytes64
  simp only [List.cons.injEq, and_true]
  refine ⟨?_, ?_, ?_, ?_, ?_, ?_, ?_, ?_⟩ <;>
    (ext i hi; simp only [BitVec.getElem_extractLsb', BitVec.getLsbD_append]
     split_ifs <;> first | omega | (rw [← BitVec.getLsbD_eq_getElem]; congr 1; omega))

/-! ## The S-form base word (03 R61) -/

theorem bit_beq (b : Bool) : (bit b == 1) = b := by cases b <;> rfl

theorem sWord_len (hold : Bool) (g : Guard) (b a d : BitVec 6) (op : BitVec 7) (lit : Bool) :
    (sWord hold g b a d op lit).extractLsb' 0 2 = if lit then 1#2 else 0#2 := by
  unfold sWord
  rw [extract_low _ _ (by decide), extract_all]

theorem sWord_op (hold : Bool) (g : Guard) (b a d : BitVec 6) (op : BitVec 7) (lit : Bool) :
    (sWord hold g b a d op lit).extractLsb' 2 7 = op := by
  unfold sWord
  rw [extract_high _ _ (by decide), extract_low _ _ (by decide), extract_all]

theorem sWord_d (hold : Bool) (g : Guard) (b a d : BitVec 6) (op : BitVec 7) (lit : Bool) :
    (sWord hold g b a d op lit).extractLsb' 9 6 = d := by
  unfold sWord
  rw [extract_high _ _ (by decide), extract_high _ _ (by decide), extract_low _ _ (by decide), extract_all]

theorem sWord_a (hold : Bool) (g : Guard) (b a d : BitVec 6) (op : BitVec 7) (lit : Bool) :
    (sWord hold g b a d op lit).extractLsb' 15 6 = a := by
  unfold sWord
  rw [extract_high _ _ (by decide), extract_high _ _ (by decide), extract_high _ _ (by decide), extract_low _ _ (by decide), extract_all]

theorem sWord_b (hold : Bool) (g : Guard) (b a d : BitVec 6) (op : BitVec 7) (lit : Bool) :
    (sWord hold g b a d op lit).extractLsb' 21 6 = b := by
  unfold sWord
  rw [extract_high _ _ (by decide), extract_high _ _ (by decide), extract_high _ _ (by decide), extract_high _ _ (by decide), extract_low _ _ (by decide), extract_all]

theorem sWord_p (hold : Bool) (g : Guard) (b a d : BitVec 6) (op : BitVec 7) (lit : Bool) :
    (sWord hold g b a d op lit).extractLsb' 27 3 = g.p := by
  unfold sWord
  rw [extract_high _ _ (by decide), extract_high _ _ (by decide), extract_high _ _ (by decide), extract_high _ _ (by decide), extract_high _ _ (by decide), extract_low _ _ (by decide), extract_all]

theorem sWord_neg (hold : Bool) (g : Guard) (b a d : BitVec 6) (op : BitVec 7) (lit : Bool) :
    (sWord hold g b a d op lit).extractLsb' 30 1 = bit g.neg := by
  unfold sWord
  rw [extract_high _ _ (by decide), extract_high _ _ (by decide), extract_high _ _ (by decide), extract_high _ _ (by decide), extract_high _ _ (by decide), extract_high _ _ (by decide), extract_low _ _ (by decide), extract_all]

theorem sWord_hold (hold : Bool) (g : Guard) (b a d : BitVec 6) (op : BitVec 7) (lit : Bool) :
    (sWord hold g b a d op lit).extractLsb' 31 1 = bit hold := by
  unfold sWord
  rw [extract_high _ _ (by decide), extract_high _ _ (by decide), extract_high _ _ (by decide), extract_high _ _ (by decide), extract_high _ _ (by decide), extract_high _ _ (by decide), extract_high _ _ (by decide), extract_all]

theorem sWord_guard (hold : Bool) (g : Guard) (b a d : BitVec 6) (op : BitVec 7) (lit : Bool) : sGuard (sWord hold g b a d op lit) = g := by
  simp only [sGuard, sWord_neg, sWord_p, bit_beq]

/-! ## The X-form words (03 R65, R66) -/

/-- The base word of an X-form. -/
def xBase (op : BitVec 7) (x : XOps) : Word := 0#1 ++ x.a ++ x.d ++ x.sub ++ op ++ (if x.lit.isSome then 3#2 else 2#2)

/-- The extension word. -/
def xExt (x : XOps) : DWord := x.imm ++ 0#2 ++ bit x.te ++ x.t ++ x.hold ++ x.la ++ bit x.g.neg ++ x.g.p ++ x.c ++ x.b

theorem encX_words (op : BitVec 7) (x : XOps) :
    encX op x = bytes32 (xBase op x) ++ bytes64 (xExt x) ++ (match x.lit with | some v => bytes64 v | none => []) := rfl

theorem xBase_len (op : BitVec 7) (x : XOps) : (xBase op x).extractLsb' 0 2 = if x.lit.isSome then 3#2 else 2#2 := by
  unfold xBase
  rw [extract_low _ _ (by decide), extract_all]

theorem xBase_op (op : BitVec 7) (x : XOps) : (xBase op x).extractLsb' 2 7 = op := by
  unfold xBase
  rw [extract_high _ _ (by decide), extract_low _ _ (by decide), extract_all]

theorem xBase_sub (op : BitVec 7) (x : XOps) : (xBase op x).extractLsb' 9 6 = x.sub := by
  unfold xBase
  rw [extract_high _ _ (by decide), extract_high _ _ (by decide), extract_low _ _ (by decide), extract_all]

theorem xBase_d (op : BitVec 7) (x : XOps) : (xBase op x).extractLsb' 15 8 = x.d := by
  unfold xBase
  rw [extract_high _ _ (by decide), extract_high _ _ (by decide), extract_high _ _ (by decide), extract_low _ _ (by decide), extract_all]

theorem xBase_a (op : BitVec 7) (x : XOps) : (xBase op x).extractLsb' 23 8 = x.a := by
  unfold xBase
  rw [extract_high _ _ (by decide), extract_high _ _ (by decide), extract_high _ _ (by decide), extract_high _ _ (by decide), extract_low _ _ (by decide), extract_all]

theorem xBase_top (op : BitVec 7) (x : XOps) : (xBase op x).extractLsb' 31 1 = 0#1 := by
  unfold xBase
  rw [extract_high _ _ (by decide), extract_high _ _ (by decide), extract_high _ _ (by decide), extract_high _ _ (by decide), extract_high _ _ (by decide), extract_all]

theorem xExt_b (x : XOps) : (xExt x).extractLsb' 0 8 = x.b := by
  unfold xExt
  rw [extract_low _ _ (by decide), extract_all]

theorem xExt_c (x : XOps) : (xExt x).extractLsb' 8 8 = x.c := by
  unfold xExt
  rw [extract_high _ _ (by decide), extract_low _ _ (by decide), extract_all]

theorem xExt_p (x : XOps) : (xExt x).extractLsb' 16 3 = x.g.p := by
  unfold xExt
  rw [extract_high _ _ (by decide), extract_high _ _ (by decide), extract_low _ _ (by decide), extract_all]

theorem xExt_neg (x : XOps) : (xExt x).extractLsb' 19 1 = bit x.g.neg := by
  unfold xExt
  rw [extract_high _ _ (by decide), extract_high _ _ (by decide), extract_high _ _ (by decide), extract_low _ _ (by decide), extract_all]

theorem xExt_la (x : XOps) : (xExt x).extractLsb' 20 4 = x.la := by
  unfold xExt
  rw [extract_high _ _ (by decide), extract_high _ _ (by decide), extract_high _ _ (by decide), extract_high _ _ (by decide), extract_low _ _ (by decide), extract_all]

theorem xExt_hold (x : XOps) : (xExt x).extractLsb' 24 2 = x.hold := by
  unfold xExt
  rw [extract_high _ _ (by decide), extract_high _ _ (by decide), extract_high _ _ (by decide), extract_high _ _ (by decide), extract_high _ _ (by decide), extract_low _ _ (by decide), extract_all]

theorem xExt_t (x : XOps) : (xExt x).extractLsb' 26 3 = x.t := by
  unfold xExt
  rw [extract_high _ _ (by decide), extract_high _ _ (by decide), extract_high _ _ (by decide), extract_high _ _ (by decide), extract_high _ _ (by decide), extract_high _ _ (by decide), extract_low _ _ (by decide), extract_all]

theorem xExt_te (x : XOps) : (xExt x).extractLsb' 29 1 = bit x.te := by
  unfold xExt
  rw [extract_high _ _ (by decide), extract_high _ _ (by decide), extract_high _ _ (by decide), extract_high _ _ (by decide), extract_high _ _ (by decide), extract_high _ _ (by decide), extract_high _ _ (by decide), extract_low _ _ (by decide), extract_all]

theorem xExt_gap (x : XOps) : (xExt x).extractLsb' 30 2 = 0#2 := by
  unfold xExt
  rw [extract_high _ _ (by decide), extract_high _ _ (by decide), extract_high _ _ (by decide), extract_high _ _ (by decide), extract_high _ _ (by decide), extract_high _ _ (by decide), extract_high _ _ (by decide), extract_high _ _ (by decide), extract_low _ _ (by decide), extract_all]

theorem xExt_imm (x : XOps) : (xExt x).extractLsb' 32 32 = x.imm := by
  unfold xExt
  rw [extract_high _ _ (by decide), extract_high _ _ (by decide), extract_high _ _ (by decide), extract_high _ _ (by decide), extract_high _ _ (by decide), extract_high _ _ (by decide), extract_high _ _ (by decide), extract_high _ _ (by decide), extract_high _ _ (by decide), extract_all]

/-- The fields of an X-form's words are its fields. -/
theorem xFields_words (op : BitVec 7) (x : XOps) : xFields (xBase op x) (xExt x) x.lit = x := by
  simp only [xFields, xBase_a, xBase_d, xBase_sub, xExt_b, xExt_c, xExt_p, xExt_neg, xExt_la, xExt_hold, xExt_t, xExt_te, xExt_imm,
    bit_beq]

/-! ## What the decoder reads -/

/-- The decoder reads an X-form's words as the X-form of its opcode with its fields. -/
theorem decode_encX (op : BitVec 7) (x : XOps) (rest : List Byte) :
    decode (encX op x ++ rest) =
      match xForm op.toNat x with
      | none => .error .opcode
      | some i => accept i (if x.lit.isSome then 20 else 12) := by
  have key : ∀ lit, x.lit = lit → decodeX (xBase op x) (xExt x) lit =
      match xForm op.toNat x with
      | none => .error .opcode
      | some i => accept i (if x.lit.isSome then 20 else 12) := by
    intro lit h
    subst h
    simp only [decodeX, xFields_words, xBase_top, xExt_gap, xBase_op]
    rfl
  rw [encX_words]
  cases h : x.lit with
  | none =>
    have hl : (xBase op x).extractLsb' 0 2 = 2#2 := by rw [xBase_len, h]; rfl
    have k := key none h
    rw [h] at k
    rw [← k]
    simp only [bytes32, bytes64, List.cons_append, List.nil_append, decode, le32_bytes, le64_bytes, hl]
    rfl
  | some v =>
    have hl : (xBase op x).extractLsb' 0 2 = 3#2 := by rw [xBase_len, h]; rfl
    have k := key (some v) h
    rw [h] at k
    rw [← k]
    simp only [bytes32, bytes64, List.cons_append, List.nil_append, decode, le32_bytes, le64_bytes, hl]
    rfl

/-- The decoder reads an S-form's base word, and the literal where bits [1:0] say that one follows. -/
theorem decode_sBytes (w : Word) (lit : Option DWord) (rest : List Byte) (h : w.extractLsb' 0 2 = if lit.isSome then 1#2 else 0#2) :
    decode (sBytes w lit ++ rest) = decodeS w lit := by
  cases lit with
  | none =>
    simp only [sBytes, bytes32, List.cons_append, List.nil_append, List.append_nil, decode, le32_bytes, h]
    rfl
  | some v =>
    simp only [sBytes, bytes32, bytes64, List.cons_append, List.nil_append, decode, le32_bytes, le64_bytes, h]
    rfl

theorem accept_ok {i j : Instr} {n m : Nat} (h : accept i n = .ok (j, m)) : i = j ∧ n = m ∧ j.wf = true := by
  unfold accept at h
  split at h
  · cases h
    exact ⟨rfl, rfl, by assumption⟩
  · cases h

theorem decodeS_ok {w : Word} {lit : Option DWord} {i : Instr} {n : Nat} (h : decodeS w lit = .ok (i, n)) :
    sForm (w.extractLsb' 2 7).toNat w lit = some (some i) ∧ n = (if lit.isSome then 12 else 4) ∧ i.wf = true := by
  unfold decodeS at h
  split at h
  · cases h
  · cases h
  · obtain ⟨rfl, rfl, k⟩ := accept_ok h
    exact ⟨by assumption, rfl, k⟩

theorem decodeX_ok {w : Word} {e : DWord} {lit : Option DWord} {i : Instr} {n : Nat} (h : decodeX w e lit = .ok (i, n)) :
    (w.extractLsb' 31 1 == 1 || e.extractLsb' 30 2 != 0) = false ∧ xForm (w.extractLsb' 2 7).toNat (xFields w e lit) = some i ∧
      n = (if lit.isSome then 20 else 12) ∧ i.wf = true := by
  unfold decodeX at h
  dsimp only at h
  split at h
  · cases h
  · split at h
    · cases h
    · obtain ⟨rfl, rfl, k⟩ := accept_ok h
      exact ⟨Bool.eq_false_iff.2 (by assumption), by assumption, rfl, k⟩

/-- What decodes is well formed (03 R80). -/
theorem decode_wf {l : List Byte} {i : Instr} {n : Nat} (h : decode l = .ok (i, n)) : i.wf = true := by
  unfold decode at h
  split at h
  · dsimp only at h
    split at h
    · exact (decodeS_ok h).2.2
    · split at h
      · exact (decodeS_ok h).2.2
      · cases h
    · split at h
      · exact (decodeX_ok h).2.2.2
      · cases h
    · split at h
      · exact (decodeX_ok h).2.2.2
      · cases h
  · cases h

end Sys2Proof
end

