-- ==== Sys2Proof/Laws/Ops.lean ====
section
/-! SUPPORT. What the shared operations do: a group of one thread, a thread's advance and register writes, the hint HOLD, a trap. -/

namespace Sys2Proof.Machine
open Sys2Proof

/-- A group of one thread whose instruction acts at once. -/
theorem State.runGroup_solo {s : State} {core slot : Nat} {t : Thread} (h : Solo s core slot t) (len : Nat) (g : Guard)
    (f : State → Nat → Nat → Thread → Except Stop (List Write)) :
    s.runGroup len g f = s.commit core len slot (if t.guard g then f s core slot t else .ok []) := by
  obtain ⟨lid, pc, hc⟩ := h.cur
  simp [State.runGroup, hc, State.plan, h.thread]

/-- A group of one thread whose instruction acts in sequence. -/
theorem State.runSeq_solo {s : State} {core slot : Nat} {t : Thread} (h : Solo s core slot t) (len : Nat) (g : Guard)
    (f : State → Nat → Nat → Thread → State) :
    s.runSeq len g f = if t.guard g then f s core slot t else s.modCore core (·.advance slot len) := by
  obtain ⟨lid, pc, hc⟩ := h.cur
  simp [State.runSeq, hc, State.seqOne, h.thread]

/-- The check for unmapped entries passes (02 R56). -/
theorem Core.checkMapped_ok {c : Core} {slot : Nat} {codes : List (BitVec 8)} (h : MappedAll c slot codes) :
    c.checkMapped slot codes = .ok () := by
  have e : codes.any (c.unmapped slot) = false := by
    rw [List.any_eq_false]
    intro d hd
    unfold Core.unmapped
    by_cases k : d.toNat < 0xE0
    · have m := h d hd k
      cases hh : c.vOff slot d.toNat <;> simp_all
    · simp [k]
  simp [Core.checkMapped, need, e]

theorem OnlyCore.refl (core : Nat) (s : State) : OnlyCore core s s := ⟨rfl, fun _ _ => rfl⟩

theorem OnlyCore.trans {core : Nat} {s s' s'' : State} (h : OnlyCore core s s') (k : OnlyCore core s' s'') : OnlyCore core s s'' :=
  ⟨by rw [k.1, h.1], fun n hn => (k.2 n hn).trans (h.2 n hn)⟩

theorem OnlyCore.modCore (core : Nat) (s : State) (f : Core → Core) : OnlyCore core s (s.modCore core f) :=
  ⟨rfl, fun _ hn => State.core_modCore_ne s f hn⟩

/-- Frames whose kept fields agree, of cores with the same crews, loads and marks of lost words. -/
theorem RegFrame.of_rest {c c' : Core} (h : c'.rest = c.rest)
    (crews : ∀ i, Option.Rel (fun x x' : Crew => x' = { x with k := x'.k }) (c.crew? i) (c'.crew? i))
    (loads : ∃ f : Load → Load, (∀ l, LoadThinned l (f l)) ∧ c'.loads = c.loads.map f)
    (bad : ∃ kept : Nat → Bool, c'.bad = c.bad.filter (fun e => kept e.1)) : RegFrame c c' := by
  refine ⟨?_, crews, loads, bad⟩
  clear crews loads bad
  cases c; cases c'
  simp only [Core.rest, Prod.mk.injEq] at h
  obtain ⟨h1, h2, h3, h4, h5, h6, h7, h8, h9, h10, h11, h12, h13, h14, h15, h16, h17, h18, h19, h20, h21, h22⟩ := h
  subst h1 h2 h3 h4 h5 h6 h7 h8 h9 h10 h11 h12 h13 h14 h15 h16 h17 h18 h19 h20 h21 h22
  rfl

theorem crew_same (x : Option Crew) : Option.Rel (fun x x' : Crew => x' = { x with k := x'.k }) x x := by
  cases x with
  | none => exact .none
  | some x => exact .some rfl

theorem LoadThinned.refl (l : Load) : LoadThinned l l :=
  ⟨fun _ => true, by rw [List.filter_eq_self.2 (fun _ _ => rfl)], Nat.le_refl _⟩

theorem LoadThinned.trans {l l' l'' : Load} (h : LoadThinned l l') (k : LoadThinned l' l'') : LoadThinned l l'' := by
  obtain ⟨a, h, n⟩ := h
  obtain ⟨b, k, m⟩ := k
  refine ⟨fun d => a d && b d, ?_, Nat.le_trans m n⟩
  rw [k, h]
  simp only [List.filter_filter, Bool.and_comm]

theorem loads_same {c c' : Core} (h : c'.loads = c.loads) : ∃ f : Load → Load, (∀ l, LoadThinned l (f l)) ∧ c'.loads = c.loads.map f :=
  ⟨id, LoadThinned.refl, by rw [List.map_id, h]⟩

theorem bad_same {c c' : Core} (h : c'.bad = c.bad) : ∃ kept : Nat → Bool, c'.bad = c.bad.filter (fun e => kept e.1) :=
  ⟨fun _ => true, by rw [List.filter_eq_self.2 (fun _ _ => rfl), h]⟩

/-- Cores that agree in all but threads, the store and the operand latches. -/
theorem RegFrame.of_same {c c' : Core} (h : c'.rest = c.rest) (crews : c'.crews = c.crews) (loads : c'.loads = c.loads) (bad : c'.bad = c.bad) :
    RegFrame c c' :=
  RegFrame.of_rest h (fun i => by unfold Core.crew?; rw [crews]; exact crew_same _) (loads_same loads) (bad_same bad)

theorem RegFrame.refl (c : Core) : RegFrame c c := RegFrame.of_same rfl rfl rfl rfl

theorem RegFrame.trans {c c' c'' : Core} (h : RegFrame c c') (k : RegFrame c' c'') : RegFrame c c'' := by
  refine ⟨?_, fun i => ?_, ?_, ?_⟩
  · rw [k.rest, h.rest]
  · have a := h.crews i
    have b := k.crews i
    revert a b
    cases c.crew? i <;> cases c'.crew? i <;> cases c''.crew? i <;> intro a b <;> cases a <;> cases b
    · exact .none
    · rename_i a b
      exact .some (by rw [b, a])
  · obtain ⟨f, hf, e⟩ := h.loads
    obtain ⟨g, hg, e'⟩ := k.loads
    exact ⟨g ∘ f, fun l => (hf l).trans (hg (f l)), by rw [e', e, List.map_map]⟩
  · obtain ⟨a, e⟩ := h.bad
    obtain ⟨b, e'⟩ := k.bad
    exact ⟨fun n => a n && b n, by rw [e', e]; simp only [List.filter_filter, Bool.and_comm]⟩

theorem RegFrame.advance (c : Core) (slot len : Nat) : RegFrame c (c.advance slot len) := by
  refine RegFrame.of_rest (congrArg (fun x => x.1) (c.advance_regs slot len) :) (fun i => ?_) ⟨_, fun l => ?_, c.loads_advance slot len⟩
    (bad_same (c.advance_bad slot len))
  · unfold Core.crew?; rw [c.advance_crews slot len]; exact crew_same _
  · split
    · exact ⟨fun _ => true, by rw [List.filter_eq_self.2 (fun _ _ => rfl)], Nat.sub_le _ _⟩
    · exact LoadThinned.refl l

theorem RegFrame.supersede (c : Core) (slot : Nat) (d : BitVec 8) : RegFrame c (c.supersede slot d) := by
  refine RegFrame.of_rest (congrArg (fun x => x.1) (c.supersede_regs slot d) :) (fun i => ?_) ⟨_, fun l => ?_, c.loads_supersede slot d⟩
    (bad_same (c.supersede_bad slot d))
  · unfold Core.crew?; rw [c.supersede_crews slot d]; exact crew_same _
  · split
    · exact ⟨(· != d), rfl, Nat.le_refl _⟩
    · exact LoadThinned.refl l

theorem RegFrame.putV (c : Core) (slot n : Nat) (w : Word) : RegFrame c (c.putV slot n w) := by
  refine RegFrame.of_rest (congrArg Core.rest (c.putV_eq slot n w) :) (fun i => ?_) (loads_same (by simp)) ?_
  · unfold Core.crew?; rw [c.putV_crews slot n w]; exact crew_same _
  · rw [Core.putV_bad]
    unfold Core.writeV
    split
    · rename_i a _
      dsimp only
      split
      · exact ⟨fun _ => false, by simp⟩
      · exact ⟨(· != a / 4), rfl⟩
    · exact bad_same rfl

theorem RegFrame.writeK (c : Core) (crew : Nat) (n : BitVec 4) (w : Word) : RegFrame c (c.writeK crew n w) := by
  refine RegFrame.of_rest (congrArg Core.rest (c.modCrew_eq crew _) :) (fun i => ?_) (loads_same (by simp)) (bad_same (by simp))
  unfold Core.writeK
  rw [Core.crew?_modCrew]
  split
  · rename_i h
    subst h
    cases c.crew? i with
    | none => exact .none
    | some x => exact .some rfl
  · exact crew_same _

theorem RegFrame.writeReg (c : Core) (slot : Nat) (d : BitVec 8) (w : Word) : RegFrame c (c.writeReg slot d w) := by
  unfold Core.writeReg
  split
  · exact (RegFrame.supersede c slot d).trans (RegFrame.putV _ slot _ w)
  · split
    · exact (RegFrame.supersede c slot d).trans (RegFrame.writeK _ _ _ w)
    · exact RegFrame.refl c

theorem RegFrame.modThread (c : Core) (slot : Nat) (f : Thread → Thread) : RegFrame c (c.modThread slot f) := by
  have h := c.modThread_eq slot f
  exact RegFrame.of_same (congrArg Core.rest h :) (congrArg Core.crews h :) (congrArg Core.loads h :) (congrArg Core.bad h :)

/-- A core of which the operand latches alone changed. -/
theorem RegFrame.latch (c : Core) (l : List (Nat × BitVec 8 × Nat)) : RegFrame c { c with latch := l } := RegFrame.of_same rfl rfl rfl rfl

theorem RegFrame.apply (c : Core) (slot : Nat) (w : Write) : RegFrame c (c.apply slot w) := by
  cases w with
  | reg d v => exact RegFrame.writeReg c slot d v
  | pred n b => exact RegFrame.modThread c slot _
  | treg n v => exact RegFrame.modThread c slot _
  | jump pc => exact RegFrame.modThread c slot _
  | cyclehi v => exact RegFrame.modThread c slot _

theorem OnlyThread.refl (slot : Nat) (c : Core) : OnlyThread slot c c := ⟨fun _ _ => rfl, fun _ h _ => h⟩

theorem OnlyThread.trans {slot : Nat} {c c' c'' : Core} (h : OnlyThread slot c c') (k : OnlyThread slot c' c'') : OnlyThread slot c c'' :=
  ⟨fun o ho => (k.same o ho).trans (h.same o ho), fun e he n => h.latch e (k.latch e he n) n⟩

theorem OnlyThread.advance (c : Core) (slot len : Nat) : OnlyThread slot c (c.advance slot len) :=
  ⟨fun o ho => by rw [Core.thread?_advance, if_neg ho], fun e he n => c.latch_advance slot len e he n⟩

theorem OnlyThread.modThread (c : Core) (slot : Nat) (f : Thread → Thread) : OnlyThread slot c (c.modThread slot f) :=
  ⟨fun _ ho => Core.thread?_modThread_ne c f ho, fun e he _ => by rwa [Core.modThread_latch] at he⟩

/-- The register write that a write is, if it is one. -/
def Write.regs : Write → List (BitVec 8 × Word)
  | .reg d w => [(d, w)]
  | _ => []

theorem taints_keep (l : List Taint) : l.map (fun x => { x with regs := x.regs.filter (fun _ => true) }) = l := by
  have : (fun x : Taint => { x with regs := x.regs.filter (fun _ => true) }) = id := by
    funext x
    show ({ x with regs := x.regs.filter (fun _ => true) } : Taint) = x
    rw [List.filter_eq_self.2 (fun _ _ => rfl)]
  rw [this, List.map_id]

theorem Thinned.refl (t : Thread) : Thinned t t := ⟨fun _ => true, by rw [taints_keep]⟩

theorem Thinned.trans {t t' t'' : Thread} (h : Thinned t t') (k : Thinned t' t'') : Thinned t t'' := by
  obtain ⟨b, h⟩ := h
  obtain ⟨b', k⟩ := k
  refine ⟨fun d => b d && b' d, ?_⟩
  rw [k, h]
  simp only [List.filter_filter, List.map_map, Function.comp_def, Bool.and_comm]

theorem Thinned.superseded (t : Thread) (d : BitVec 8) : Thinned t (t.superseded d) := ⟨(· != d), rfl⟩

theorem OthersThinned.of_only {slot : Nat} {c c' : Core} (h : OnlyThread slot c c') : OthersThinned slot c c' :=
  ⟨fun o ho => by
    rw [h.same o ho]
    cases c.thread? o with
    | none => exact .none
    | some t => exact .some (Thinned.refl t), h.latch⟩

theorem OthersThinned.trans {slot : Nat} {c c' c'' : Core} (h : OthersThinned slot c c') (k : OthersThinned slot c' c'') :
    OthersThinned slot c c'' := by
  refine ⟨fun o ho => ?_, fun e he n => h.latch e (k.latch e he n) n⟩
  have h' := h.thinned o ho
  have k' := k.thinned o ho
  revert h' k'
  cases c.thread? o <;> cases c'.thread? o <;> cases c''.thread? o <;> intro h' k' <;> cases h' <;> cases k'
  · exact .none
  · rename_i a b
    exact .some (Thinned.trans a b)

theorem OthersThinned.supersede (c : Core) (slot at_ : Nat) (d : BitVec 8) : OthersThinned slot c (c.supersede at_ d) := by
  refine ⟨fun o _ => ?_, fun e he _ => ?_⟩
  · rw [Core.thread?_supersede]
    split
    · cases c.thread? o with
      | none => exact .none
      | some t => exact .some (Thinned.superseded t d)
    · cases c.thread? o with
      | none => exact .none
      | some t => exact .some (Thinned.refl t)
  · rw [Core.latch_supersede] at he
    exact (List.mem_filter.1 he).1

theorem Core.latch_putV (c : Core) (slot n : Nat) (w : Word) : ∀ e ∈ (c.putV slot n w).latch, e ∈ c.latch := by
  intro e he
  unfold Core.putV at he
  dsimp only at he
  split at he
  · rwa [Core.writeV_latch] at he
  · split at he
    · unfold Core.unlatch at he
      have := (List.mem_filter.1 he).1
      rwa [Core.writeV_latch] at this
    · rwa [Core.writeV_latch] at he

/-- A register write of a thread thins the threads that see the register. -/
theorem OthersThinned.writeReg (c : Core) (slot at_ : Nat) (d : BitVec 8) (w : Word) : OthersThinned slot c (c.writeReg at_ d w) := by
  unfold Core.writeReg
  split
  · exact (OthersThinned.supersede c slot at_ d).trans
      (OthersThinned.of_only ⟨fun o _ => Core.thread?_putV _ _ _ o w, fun e he _ => Core.latch_putV _ _ _ w e he⟩)
  · split
    · exact (OthersThinned.supersede c slot at_ d).trans
        (OthersThinned.of_only ⟨fun o _ => Core.thread?_writeK _ _ o _ w, fun e he _ => by rwa [Core.writeK_latch] at he⟩)
    · exact OthersThinned.of_only (OnlyThread.refl slot c)

theorem OthersThinned.apply (c : Core) (slot : Nat) (w : Write) : OthersThinned slot c (c.apply slot w) := by
  cases w with
  | reg d v => exact OthersThinned.writeReg c slot slot d v
  | pred n b => exact OthersThinned.of_only (OnlyThread.modThread c slot _)
  | treg n v => exact OthersThinned.of_only (OnlyThread.modThread c slot _)
  | jump pc => exact OthersThinned.of_only (OnlyThread.modThread c slot _)
  | cyclehi v => exact OthersThinned.of_only (OnlyThread.modThread c slot _)

/-- Register writes that no other thread sees. -/
theorem OnlyThread.writeReg (c : Core) (slot : Nat) (d : BitVec 8) (w : Word) (h : Own c [(d, w)]) : OnlyThread slot c (c.writeReg slot d w) := by
  refine ⟨fun o ho => ?_, (OthersThinned.writeReg c slot slot d w).latch⟩
  have k := h (d, w) (List.mem_singleton.2 rfl)
  unfold Core.writeReg
  rcases k with ⟨k, e⟩ | k
  · rw [if_pos k, Core.thread?_putV, Core.thread?_supersede, if_neg]
    rintro (⟨-, z⟩ | ⟨z, -⟩)
    · exact ho z
    · exact z k
  · have k : 240 ≤ d.toNat := k
    rw [if_neg (by omega), if_neg (by omega)]

theorem OnlyThread.apply (c : Core) (slot : Nat) {w : Write} (h : Own c w.regs) : OnlyThread slot c (c.apply slot w) := by
  cases w with
  | reg d v => exact OnlyThread.writeReg c slot d v h
  | pred n b => exact OnlyThread.modThread c slot _
  | treg n v => exact OnlyThread.modThread c slot _
  | jump pc => exact OnlyThread.modThread c slot _
  | cyclehi v => exact OnlyThread.modThread c slot _

/-- A thread that differs from u in its marks of aborted loads and the end of its wait alone. -/
def Near (u t' : Thread) : Prop := t' = { u with park := none, taints := t'.taints }

theorem Near.thin {u t t' : Thread} (h : Near u t) (k : Thinned t t') : Near u t' := by
  obtain ⟨b, k⟩ := k
  unfold Near at h ⊢
  rw [k]
  exact congrArg (fun z : Thread => { z with taints := t.taints.map (fun (x : Taint) => { x with regs := x.regs.filter b }) }) h

/-- A thread that a write of a register of its own thins. -/
theorem Near.writeReg {c : Core} {slot : Nat} {u t : Thread} (h : c.thread? slot = some t) (n : Near u t) (d : BitVec 8) (w : Word) :
    ∃ t', (c.writeReg slot d w).thread? slot = some t' ∧ Near u t' := by
  have k := (OthersThinned.writeReg c (slot + 1) slot d w).thinned slot (by omega)
  rw [h] at k
  generalize e : (c.writeReg slot d w).thread? slot = x at k
  cases k with
  | some k => exact ⟨_, rfl, n.thin k⟩

/-- What a register write, a predicate write and the rest make of a thread. -/
def Thread.wrote (u : Thread) : Write → Thread
  | .reg _ _ => u
  | .pred n b => u.setPred n b
  | .treg n w => u.setTreg n w
  | .jump pc => { u with pc := pc }
  | .cyclehi w => { u with cyclehi := w }

theorem Near.advance {c : Core} {slot len : Nat} {t : Thread} (h : c.thread? slot = some t) :
    ∃ t', (c.advance slot len).thread? slot = some t' ∧ Near (t.past len) t' := by
  rw [Core.thread?_advance, if_pos rfl, h]
  exact ⟨_, rfl, rfl⟩

theorem Thread.setPred_near {u t' : Thread} (n : BitVec 3) (b : Bool) (h : Near u t') : Near (u.setPred n b) (t'.setPred n b) := by
  unfold Near at h ⊢
  rw [h]
  unfold Thread.setPred
  split <;> rfl

theorem Near.apply {c : Core} {slot : Nat} {u t : Thread} (w : Write) (h : c.thread? slot = some t) (n : Near u t) :
    ∃ t', (c.apply slot w).thread? slot = some t' ∧ Near (u.wrote w) t' := by
  cases w with
  | reg d v => exact Near.writeReg h n d v
  | pred p b =>
    refine ⟨t.setPred p b, ?_, Thread.setPred_near p b n⟩
    show (c.modThread slot _).thread? slot = _
    rw [Core.thread?_modThread_self, h]; rfl
  | treg p v =>
    refine ⟨t.setTreg p v, ?_, ?_⟩
    · show (c.modThread slot _).thread? slot = _
      rw [Core.thread?_modThread_self, h]; rfl
    · unfold Near at n ⊢
      rw [n]; rfl
  | jump pc =>
    refine ⟨{ t with pc := pc }, ?_, ?_⟩
    · show (c.modThread slot _).thread? slot = _
      rw [Core.thread?_modThread_self, h]; rfl
    · unfold Near at n ⊢
      rw [n]; rfl
  | cyclehi v =>
    refine ⟨{ t with cyclehi := v }, ?_, ?_⟩
    · show (c.modThread slot _).thread? slot = _
      rw [Core.thread?_modThread_self, h]; rfl
    · unfold Near at n ⊢
      rw [n]; rfl

theorem Core.vOff_crews {c : Core} {crews : List (Nat × Crew)}
    (h : ∀ i, (tget crews i).map (·.rbm) = (c.crew? i).map (·.rbm)) {c' : Core} (e : c'.crews = crews) (o n : Nat) :
    c'.vOff o n = c.vOff o n := by
  have k := h (o / 64)
  unfold Core.vOff Core.crew?
  rw [e]
  unfold Core.crew? at k
  cases h1 : tget crews (o / 64) <;> cases h2 : tget c.crews (o / 64) <;> simp [h1, h2] at k ⊢
  rw [k]

theorem Core.vOff_writeK (c : Core) (i : Nat) (m : BitVec 4) (w : Word) (o n : Nat) : (c.writeK i m w).vOff o n = c.vOff o n := by
  refine Core.vOff_crews (fun j => ?_) rfl o n
  show ((c.writeK i m w).crew? j).map (·.rbm) = _
  unfold Core.writeK
  rw [Core.crew?_modCrew]
  by_cases e : j = i
  · subst e; rw [if_pos rfl]; cases c.crew? j <;> rfl
  · rw [if_neg e]

theorem Core.readJ_writeK (c : Core) (i : Nat) (m : BitVec 4) (w : Word) (o : Nat) (n : BitVec 3) :
    (c.writeK i m w).readJ o n = c.readJ o n := by
  unfold Core.readJ Core.writeK
  rw [Core.crew?_modCrew]
  by_cases e : o = i
  · subst e; rw [if_pos rfl]; cases c.crew? o <;> rfl
  · rw [if_neg e]

theorem Core.readK_writeK_ne (c : Core) {i j : Nat} (m n : BitVec 4) (w : Word) (h : j = i → m ≠ n) :
    (c.writeK i m w).readK j n = c.readK j n := by
  by_cases e : j = i
  · subst e
    cases k : c.crew? j with
    | none => simp [Core.readK, Core.writeK, Core.crew?_modCrew, k]
    | some x => rw [Core.readK_writeK c k, if_neg (fun z => h rfl z.symm)]
  · simp [Core.readK, Core.writeK, Core.crew?_modCrew, e]

theorem Core.readJ_congr {c c' : Core} (h : c'.crews = c.crews) (crew : Nat) (n : BitVec 3) : c'.readJ crew n = c.readJ crew n := by
  simp [Core.readJ, Core.crew?, h]

/-- A v register read after it is written. -/
theorem Core.readV_putV_self (c : Core) {slot n a : Nat} (w : Word) (h : c.vOff slot n = some a) :
    (c.putV slot n w).readV slot n = some w := by
  have k := Core.readV_writeV_self c w h
  unfold Core.readV at k ⊢
  rw [Core.vOff_congr (Core.writeV_crews c slot n w)] at k
  rw [Core.vOff_congr (Core.putV_crews c slot n w), Core.putV_store, k]

/-- Nothing of the registers changed. -/
theorem Wrote.nothing {c c' : Core} (slot : Nat) (hs : c'.store = c.store) (hc : c'.crews = c.crews) : Wrote c c' slot [] where
  v := fun _ _ h => by cases h
  k := fun _ _ h => by cases h
  store := fun b _ => by rw [hs]
  others := fun crew n _ => Core.readK_congr hc crew n
  maps := Core.vOff_congr hc
  joins := Core.readJ_congr hc

/-- One register written. -/
theorem Wrote.one (c : Core) (slot : Nat) (d : BitVec 8) (w : Word) (hm : d.toNat < 0xE0 → (c.vOff slot d.toNat).isSome)
    (hk : (c.crew? (slot / 64)).isSome) : Wrote c (c.writeReg slot d w) slot [(d, w)] := by
  have hs := c.supersede_store slot d
  have hc := c.supersede_crews slot d
  have hv := Core.vOff_congr hc
  unfold Core.writeReg
  by_cases h : d.toNat < 0xE0
  · rw [if_pos h]
    obtain ⟨a, ha⟩ := Option.isSome_iff_exists.1 (hm h)
    have ha' : (c.supersede slot d).vOff slot d.toNat = some a := by rw [hv, ha]
    refine ⟨?_, ?_, ?_, ?_, ?_, ?_⟩
    · intro e x hx _
      rw [List.mem_singleton, Prod.mk.injEq] at hx
      rw [hx.1, hx.2]
      exact Core.readV_putV_self _ w ha'
    · intro e x hx h1 _
      rw [List.mem_singleton, Prod.mk.injEq] at hx
      rw [hx.1] at h1; omega
    · intro b hb
      rw [Core.putV_store, Core.store_writeV _ w ha', Memory.get_put32_out _ _ (hb d w a (List.mem_singleton.2 rfl) h ha), hs]
    · intro crew n _
      exact Core.readK_congr ((Core.putV_crews _ _ _ _).trans hc) crew n
    · exact Core.vOff_congr ((Core.putV_crews _ _ _ _).trans hc)
    · exact Core.readJ_congr ((Core.putV_crews _ _ _ _).trans hc)
  · rw [if_neg h]
    by_cases k : d.toNat < 0xF0
    · rw [if_pos k]
      obtain ⟨x, hx⟩ := Option.isSome_iff_exists.1 hk
      have hx' : (c.supersede slot d).crew? (slot / 64) = some x := by unfold Core.crew? at hx ⊢; rw [hc, hx]
      refine ⟨?_, ?_, ?_, ?_, ?_, ?_⟩
      · intro e y hy h1
        rw [List.mem_singleton, Prod.mk.injEq] at hy
        rw [hy.1] at h1; omega
      · intro e y hy _ _
        rw [List.mem_singleton, Prod.mk.injEq] at hy
        rw [hy.1, hy.2, Core.readK_writeK _ hx', if_pos rfl]
      · intro b _
        have := Core.modCrew_store (c.supersede slot d) (slot / 64) (fun x => { x with k := x.k.set ((d.setWidth 4).toNat) w (d.setWidth 4).isLt })
        show ((c.supersede slot d).writeK _ _ _).store.get b = _
        rw [Core.writeK_store, hs]
      · intro crew n hn
        rw [Core.readK_writeK_ne _ _ _ _ (fun e => hn d w (List.mem_singleton.2 rfl) (by omega) k e), Core.readK_congr hc]
      · intro o n
        rw [Core.vOff_writeK, hv]
      · intro crew n
        rw [Core.readJ_writeK, Core.readJ_congr hc]
    · rw [if_neg k]
      refine ⟨?_, ?_, fun _ _ => rfl, fun _ _ _ => rfl, fun _ _ => rfl, fun _ _ => rfl⟩
      · intro e y hy h1
        rw [List.mem_singleton, Prod.mk.injEq] at hy
        rw [hy.1] at h1; omega
      · intro e y hy h1 h2
        rw [List.mem_singleton, Prod.mk.injEq] at hy
        rw [hy.1] at h2; omega

/-- The registers of a pair lie in one map entry, 256 bytes apart. -/
theorem Core.vOff_pair (c : Core) (slot n : Nat) (h : n % 2 = 0) : c.vOff slot (n + 1) = (c.vOff slot n).map (· + 256) := by
  unfold Core.vOff
  cases c.crew? (slot / 64) with
  | none => rfl
  | some x =>
    have e : (n + 1) / 8 = n / 8 := by omega
    have r : (n + 1) % 8 * 256 = n % 8 * 256 + 256 := by omega
    simp only [e, r]
    cases (x.rbm.toList[n / 8]? : Option (Option Nat)) with
    | none => rfl
    | some y => cases y with
      | none => rfl
      | some b =>
        simp only [Option.map_some, Option.some.injEq]
        rw [← Nat.add_assoc, Nat.add_right_comm]

/-- A word read from a store whose bytes there did not change. -/
theorem Memory.get32_congr {m m' : Memory} {a : Nat} (h : ∀ b, a ≤ b → b < a + 4 → m'.get b = m.get b) : m'.get32 a = m.get32 a := by
  unfold Memory.get32
  rw [Memory.getN_congr 4 m m' a (fun i hi => h (a + i) (by omega) (by omega))]

/-- Both registers of a pair written. -/
theorem Wrote.two (c : Core) (slot : Nat) (d : BitVec 8) (lo hi : Word) (even : d.toNat % 2 = 0) (hd : d.toNat < 0xF0)
    (hm : d.toNat < 0xE0 → (c.vOff slot d.toNat).isSome) (hk : (c.crew? (slot / 64)).isSome) :
    Wrote c ((c.writeReg slot d lo).writeReg slot (d + 1) hi) slot [(d, lo), (d + 1, hi)] := by
  have e1 : (d + 1).toNat = d.toNat + 1 := by
    rw [BitVec.toNat_add]; simp; omega
  have w1 := Wrote.one c slot d lo hm hk
  have crew' : ((c.writeReg slot d lo).crew? (slot / 64)).isSome := by
    unfold Core.writeReg
    split
    · have := (Core.putV_crews (c.supersede slot d) slot d.toNat lo).trans (c.supersede_crews slot d)
      unfold Core.crew? at hk ⊢; rw [this]; exact hk
    · unfold Core.writeK
      rw [Core.crew?_modCrew, if_pos rfl]
      have := c.supersede_crews slot d
      unfold Core.crew? at hk ⊢; rw [this]
      simpa using hk
  have hm' : (d + 1).toNat < 0xE0 → ((c.writeReg slot d lo).vOff slot (d + 1).toNat).isSome := by
    intro h
    rw [w1.maps, e1, Core.vOff_pair c slot d.toNat even]
    simpa using hm (by omega)
  have w2 := Wrote.one (c.writeReg slot d lo) slot (d + 1) hi hm' crew'
  have ne : d.setWidth 4 ≠ (d + 1).setWidth 4 := by
    intro z
    have := congrArg BitVec.toNat z
    simp only [BitVec.toNat_setWidth, e1] at this
    omega
  refine ⟨?_, ?_, ?_, ?_, ?_, ?_⟩
  · intro e x hx h
    rw [List.mem_cons, List.mem_singleton, Prod.mk.injEq, Prod.mk.injEq] at hx
    rcases hx with ⟨h1, h2⟩ | ⟨h1, h2⟩
    · subst h1 h2
      have r := w1.v e x (List.mem_singleton.2 rfl) h
      obtain ⟨a, ha⟩ := Option.isSome_iff_exists.1 (hm h)
      have ha1 : (c.writeReg slot e x).vOff slot e.toNat = some a := by rw [w1.maps, ha]
      have ha2 : ((c.writeReg slot e x).writeReg slot (e + 1) hi).vOff slot e.toNat = some a := by rw [w2.maps, ha1]
      rw [Core.readV, ha1] at r
      rw [Core.readV, ha2, ← r]
      simp only [Option.map_some]
      congr 1
      refine Memory.get32_congr (fun b h1 h2 => w2.store b (fun f y a' hf hf' ha' => ?_))
      rw [List.mem_singleton, Prod.mk.injEq] at hf
      rw [hf.1, w1.maps, e1, Core.vOff_pair c slot e.toNat even, ha, Option.map_some] at ha'
      have := Option.some.inj ha'
      omega
    · subst h1 h2
      exact w2.v _ _ (List.mem_singleton.2 rfl) h
  · intro e x hx h h'
    rw [List.mem_cons, List.mem_singleton, Prod.mk.injEq, Prod.mk.injEq] at hx
    rcases hx with ⟨h1, h2⟩ | ⟨h1, h2⟩
    · subst h1 h2
      rw [w2.others (slot / 64) (e.setWidth 4) (fun f y hf _ _ _ => by
        rw [List.mem_singleton, Prod.mk.injEq] at hf
        rw [hf.1]; exact fun z => ne z.symm)]
      exact w1.k _ _ (List.mem_singleton.2 rfl) h h'
    · subst h1 h2
      exact w2.k _ _ (List.mem_singleton.2 rfl) h h'
  · intro b hb
    rw [w2.store b (fun f y a hf hf' ha => by
      rw [List.mem_singleton, Prod.mk.injEq] at hf
      rw [hf.1] at hf' ha
      rw [w1.maps] at ha
      exact hb (d + 1) hi a (by simp) hf' ha)]
    exact w1.store b (fun f y a hf hf' ha => hb f y a (by
      rw [List.mem_singleton] at hf
      rw [hf]; simp) hf' ha)
  · intro crew n hn
    rw [w2.others crew n (fun f y hf h1 h2 h3 => hn f y (by
      rw [List.mem_singleton] at hf
      rw [hf]; simp) h1 h2 h3)]
    exact w1.others crew n (fun f y hf h1 h2 h3 => hn f y (by
      rw [List.mem_singleton] at hf
      rw [hf]; simp) h1 h2 h3)
  · intro o n; rw [w2.maps, w1.maps]
  · intro crew n; rw [w2.joins, w1.joins]

/-- Writes that are no register writes leave the registers alone. -/
theorem Core.apply_quiet (c : Core) (slot : Nat) {w : Write} (h : w.regs = []) :
    (c.apply slot w).store = c.store ∧ (c.apply slot w).crews = c.crews := by
  cases w with
  | reg d v => cases h
  | pred n b => exact ⟨Core.modThread_store c slot _, Core.modThread_crews c slot _⟩
  | treg n v => exact ⟨Core.modThread_store c slot _, Core.modThread_crews c slot _⟩
  | jump pc => exact ⟨Core.modThread_store c slot _, Core.modThread_crews c slot _⟩
  | cyclehi v => exact ⟨Core.modThread_store c slot _, Core.modThread_crews c slot _⟩

/-- Registers written behind a change that leaves the registers alone. -/
theorem Wrote.after {c c' c'' : Core} {slot : Nat} {ws : List (BitVec 8 × Word)} (hs : c'.store = c.store) (hc : c'.crews = c.crews)
    (h : Wrote c' c'' slot ws) : Wrote c c'' slot ws where
  v := h.v
  k := h.k
  store := fun b hb => by rw [h.store b (fun d w a m l o => hb d w a m l (by rwa [Core.vOff_congr hc] at o)), hs]
  others := fun crew n hn => by rw [h.others crew n hn, Core.readK_congr hc]
  maps := fun o n => by rw [h.maps, Core.vOff_congr hc]
  joins := fun crew n => by rw [h.joins, Core.readJ_congr hc]

/-- A change behind register writes that leaves the registers alone. -/
theorem Wrote.before {c c' c'' : Core} {slot : Nat} {ws : List (BitVec 8 × Word)} (h : Wrote c c' slot ws) (hs : c''.store = c'.store)
    (hc : c''.crews = c'.crews) : Wrote c c'' slot ws where
  v := fun d w m l => by
    have k := h.v d w m l
    unfold Core.readV at k ⊢
    rwa [Core.vOff_congr hc, hs]
  k := fun d w m l l' => by rw [Core.readK_congr hc]; exact h.k d w m l l'
  store := fun b hb => by rw [hs]; exact h.store b hb
  others := fun crew n hn => by rw [Core.readK_congr hc]; exact h.others crew n hn
  maps := fun o n => by rw [Core.vOff_congr hc]; exact h.maps o n
  joins := fun crew n => by rw [Core.readJ_congr hc]; exact h.joins crew n

/-- One write of a thread's instruction, as a Result. -/
theorem Result.one {s : State} {core slot : Nat} {t : Thread} (ht : s.thread? core slot = some t) (len : Nat) (w : Write)
    (hm : ∀ d v, w = .reg d v → d.toNat < 0xE0 → ((s.core core).vOff slot d.toNat).isSome)
    (hk : ((s.core core).crew? (slot / 64)).isSome) :
    Result s (s.modCore core (fun c => (c.advance slot len).apply slot w)) core slot ((t.past len).wrote w) w.regs where
  device := OnlyCore.modCore core s _
  frame := by
    rw [State.core_modCore_self]
    exact (RegFrame.advance _ slot len).trans (RegFrame.apply _ slot w)
  threads := by
    rw [State.core_modCore_self]
    exact (OthersThinned.of_only (OnlyThread.advance _ slot len)).trans (OthersThinned.apply _ slot w)
  own := fun h => by
    rw [State.core_modCore_self]
    exact (OnlyThread.advance _ slot len).trans (OnlyThread.apply _ slot (by unfold Own at h ⊢; rwa [Core.advance_shared]))
  regs := by
    rw [State.core_modCore_self]
    refine Wrote.after (Core.advance_store _ slot len) (Core.advance_crews _ slot len) ?_
    cases h : w.regs with
    | nil =>
      obtain ⟨a, b⟩ := Core.apply_quiet ((s.core core).advance slot len) slot h
      exact Wrote.nothing slot a b
    | cons r l =>
      cases w with
      | reg d v =>
        cases h
        refine Wrote.one _ slot d v (fun hd => ?_) ?_
        · rw [Core.vOff_congr (Core.advance_crews _ slot len)]; exact hm d v rfl hd
        · unfold Core.crew? at hk ⊢; rw [Core.advance_crews]; exact hk
      | pred n b => cases h
      | treg n v => cases h
      | jump pc => cases h
      | cyclehi v => cases h
  thread := by
    obtain ⟨t1, h1, n1⟩ := Near.advance (c := s.core core) (slot := slot) (len := len) (t := t) ht
    obtain ⟨t2, h2, n2⟩ := Near.apply w h1 n1
    refine ⟨t2, ?_, n2⟩
    unfold State.thread?
    rw [State.core_modCore_self]
    exact h2

/-- No write: the thread only advances. -/
theorem Result.none {s : State} {core slot : Nat} {t : Thread} (ht : s.thread? core slot = some t) (len : Nat) :
    Result s (s.modCore core (fun c => c.advance slot len)) core slot (t.past len) [] where
  device := OnlyCore.modCore core s _
  frame := by
    rw [State.core_modCore_self]
    exact RegFrame.advance _ slot len
  threads := by
    rw [State.core_modCore_self]
    exact OthersThinned.of_only (OnlyThread.advance _ slot len)
  own := fun _ => by
    rw [State.core_modCore_self]
    exact OnlyThread.advance _ slot len
  regs := by
    rw [State.core_modCore_self]
    exact Wrote.nothing slot (Core.advance_store _ slot len) (Core.advance_crews _ slot len)
  thread := by
    obtain ⟨t1, h1, n1⟩ := Near.advance (c := s.core core) (slot := slot) (len := len) (t := t) ht
    refine ⟨t1, ?_, n1⟩
    unfold State.thread?
    rw [State.core_modCore_self]
    exact h1

/-- The writes of a 64-bit result, as a Result. -/
theorem Result.pair {s : State} {core slot : Nat} {t : Thread} (ht : s.thread? core slot = some t) (len : Nat) (d : BitVec 8) (lo hi : Word)
    (even : d.toNat % 2 = 0) (hd : d.toNat < 0xF0) (hm : d.toNat < 0xE0 → ((s.core core).vOff slot d.toNat).isSome)
    (hk : ((s.core core).crew? (slot / 64)).isSome) :
    Result s (s.modCore core (fun c => ((c.advance slot len).writeReg slot d lo).writeReg slot (d + 1) hi)) core slot (t.past len)
      [(d, lo), (d + 1, hi)] where
  device := OnlyCore.modCore core s _
  frame := by
    rw [State.core_modCore_self]
    exact ((RegFrame.advance _ slot len).trans (RegFrame.apply _ slot (.reg d lo))).trans (RegFrame.apply _ slot (.reg (d + 1) hi))
  threads := by
    rw [State.core_modCore_self]
    exact ((OthersThinned.of_only (OnlyThread.advance _ slot len)).trans (OthersThinned.apply _ slot (.reg d lo))).trans
      (OthersThinned.apply _ slot (.reg (d + 1) hi))
  own := fun h => by
    rw [State.core_modCore_self]
    refine ((OnlyThread.advance _ slot len).trans (OnlyThread.writeReg _ slot d lo ?_)).trans (OnlyThread.writeReg _ slot (d + 1) hi ?_)
    · intro p hp
      rw [Core.advance_shared]
      exact h p (by rw [List.mem_singleton.1 hp]; simp)
    · intro p hp
      rw [Core.writeReg_shared, Core.advance_shared]
      exact h p (by rw [List.mem_singleton.1 hp]; simp)
  regs := by
    rw [State.core_modCore_self]
    refine Wrote.after (Core.advance_store _ slot len) (Core.advance_crews _ slot len) ?_
    refine Wrote.two _ slot d lo hi even hd (fun h => ?_) ?_
    · rw [Core.vOff_congr (Core.advance_crews _ slot len)]; exact hm h
    · unfold Core.crew? at hk ⊢; rw [Core.advance_crews]; exact hk
  thread := by
    obtain ⟨t1, h1, n1⟩ := Near.advance (c := s.core core) (slot := slot) (len := len) (t := t) ht
    obtain ⟨t2, h2, n2⟩ := Near.apply (.reg d lo) h1 n1
    obtain ⟨t3, h3, n3⟩ := Near.apply (.reg (d + 1) hi) h2 n2
    refine ⟨t3, ?_, n3⟩
    unfold State.thread?
    rw [State.core_modCore_self]
    exact h3

/-- A change of the operand latches that brings in entries of the thread alone. -/
theorem OnlyThread.latched (slot : Nat) (c : Core) (l : List (Nat × BitVec 8 × Nat)) (h : ∀ e ∈ l, e.1 ≠ slot → e ∈ c.latch) :
    OnlyThread slot c { c with latch := l } := ⟨fun _ _ => rfl, h⟩

/-- A Result between two changes of the operand latches that bring in entries of the thread alone. -/
theorem Result.between {s s₂ : State} {core slot : Nat} {u : Thread} {ws : List (BitVec 8 × Word)} (a b : Core → List (Nat × BitVec 8 × Nat))
    (ha : ∀ e ∈ a (s.core core), e.1 ≠ slot → e ∈ (s.core core).latch)
    (hb : ∀ e ∈ b (s₂.core core), e.1 ≠ slot → e ∈ (s₂.core core).latch)
    (r : Result (s.modCore core (fun c => { c with latch := a c })) s₂ core slot u ws) :
    Result s (s₂.modCore core (fun c => { c with latch := b c })) core slot u ws := by
  have fst : OnlyThread slot (s.core core) { s.core core with latch := a (s.core core) } := OnlyThread.latched slot _ _ ha
  have snd : OnlyThread slot (s₂.core core) { s₂.core core with latch := b (s₂.core core) } := OnlyThread.latched slot _ _ hb
  refine ⟨((OnlyCore.modCore core s _).trans r.device).trans (OnlyCore.modCore core s₂ _), ?_, ?_, ?_, ?_, ?_⟩
  · have k := r.frame
    rw [State.core_modCore_self] at k ⊢
    exact ((RegFrame.latch _ _).trans k).trans (RegFrame.latch _ _)
  · have k := r.threads
    rw [State.core_modCore_self] at k ⊢
    exact ((OthersThinned.of_only fst).trans k).trans (OthersThinned.of_only snd)
  · intro o
    have k := r.own
    rw [State.core_modCore_self] at k ⊢
    exact (fst.trans (k o)).trans snd
  · have k := r.regs
    rw [State.core_modCore_self] at k ⊢
    have k₁ : Wrote (s.core core) (s₂.core core) slot ws :=
      Wrote.after (c := s.core core) (c' := { s.core core with latch := a (s.core core) }) rfl rfl k
    exact Wrote.before (c'' := { s₂.core core with latch := b (s₂.core core) }) k₁ rfl rfl
  · obtain ⟨t', ht, n⟩ := r.thread
    refine ⟨t', ?_, n⟩
    unfold State.thread? at ht ⊢
    rw [State.core_modCore_self]
    exact ht

/-- The hint HOLD changes the operand latches and nothing else that a Result speaks of (03 R72): an instruction that has its Result whatever the
latches hold has it with the hint too. -/
theorem Result.holding {s : State} {core slot : Nat} {t u : Thread} {ws : List (BitVec 8 × Word)} (h : Solo s core slot t) (x : XOps)
    (f : State → State) (r₀ : Result s (f s) core slot u ws)
    (r : ∀ l : List (Nat × BitVec 8 × Nat),
      Result (s.modCore core (fun c => { c with latch := l })) (f (s.modCore core (fun c => { c with latch := l }))) core slot u ws) :
    Result s (s.holding x f) core slot u ws := by
  obtain ⟨lid, pc, hc⟩ := h.cur
  unfold State.holding
  split
  · exact r₀
  · rw [hc]
    by_cases k : t.guard x.g = true
    · simp only [List.filter_cons, h.thread, Option.map_some, Option.getD_some, k, ↓reduceIte, List.filter_nil, List.foldl_cons, List.foldl_nil]
      have e : s.modCore core (·.latching slot (heldCode x)) =
          s.modCore core (fun c => { c with latch := ((s.core core).latching slot (heldCode x)).latch }) := rfl
      rw [e]
      generalize hs : f (s.modCore core (fun c => { c with latch := ((s.core core).latching slot (heldCode x)).latch })) = s₂
      have e' : s₂.modCore core (·.latched slot) = s₂.modCore core (fun c => { c with latch := (c.latched slot).latch }) := by
        refine congrArg (s₂.setCore core ·) ?_
        show (s₂.core core).latched slot = { s₂.core core with latch := ((s₂.core core).latched slot).latch }
        unfold Core.latched
        split <;> rfl
      rw [e']
      refine Result.between (fun _ => ((s.core core).latching slot (heldCode x)).latch) (fun c => (c.latched slot).latch) ?_ ?_ ?_
      · intro y hy n
        unfold Core.latching at hy
        rcases List.mem_cons.1 hy with rfl | hy
        · exact absurd rfl n
        · exact (List.mem_filter.1 (List.mem_filter.1 hy).1).1
      · intro y hy _
        unfold Core.latched at hy
        split at hy
        · exact hy
        · exact (List.mem_filter.1 hy).1
      · rw [← hs]
        exact r _
    · simp only [List.filter_cons, h.thread, Option.map_some, Option.getD_some, k, Bool.false_eq_true, ↓reduceIte, List.filter_nil, List.foldl_nil]
      exact r₀

end Sys2Proof.Machine
end

