-- ==== Sys2Proof/Laws/PerInstr.lean ====
section
/-! SUPPORT. A fact of every instruction: its encoding has the length that its bits [1:0] say (03 R60), and a happening has none. -/

namespace Sys2Proof

/-- The bytes of two words and more. -/
theorem bytes64_length (w : DWord) : (bytes64 w).length = 8 := rfl

/-- An S-form has four bytes, or twelve with a literal. -/
theorem sBytes_length (w : Word) (lit : Option DWord) :
    (sBytes w lit).length = 0 ∨ (sBytes w lit).length = 4 ∨ (sBytes w lit).length = 12 ∨ (sBytes w lit).length = 20 := by
  cases lit
  · exact .inr (.inl rfl)
  · exact .inr (.inr (.inl rfl))

theorem encBin_length (op : BitVec 7) (o : SBin) :
    (encBin op o).length = 0 ∨ (encBin op o).length = 4 ∨ (encBin op o).length = 12 ∨ (encBin op o).length = 20 := sBytes_length _ _

/-- An X-form has twelve bytes, or twenty with a literal. -/
theorem encX_length (op : BitVec 7) (x : XOps) :
    (encX op x).length = 0 ∨ (encX op x).length = 4 ∨ (encX op x).length = 12 ∨ (encX op x).length = 20 := by
  rcases x with ⟨g, a, b, c, d, sub, imm, te, t, hold, la, lit⟩
  cases lit
  · exact .inr (.inr (.inl rfl))
  · exact .inr (.inr (.inr rfl))

end Sys2Proof

namespace Sys2Proof.Laws.EncodedLength

/-- The encoding has 4, 12 or 20 bytes; a happening of the device has none. -/
def Statement (i : Instr) : Prop :=
  (encode i).length = 0 ∨ (encode i).length = 4 ∨ (encode i).length = 12 ∨ (encode i).length = 20

theorem nop : ∀ x0, Statement (.nop x0) := fun _ => .inr (.inl rfl)
theorem nopX : ∀ x0, Statement (.nopX x0) := fun _ => encX_length _ _
theorem mov : ∀ x0, Statement (.mov x0) := fun _ => sBytes_length _ _
theorem movX : ∀ x0, Statement (.movX x0) := fun _ => encX_length _ _
theorem iadd : ∀ x0, Statement (.iadd x0) := fun _ => encBin_length _ _
theorem iaddX : ∀ x0, Statement (.iaddX x0) := fun _ => encX_length _ _
theorem isub : ∀ x0, Statement (.isub x0) := fun _ => encBin_length _ _
theorem isubX : ∀ x0, Statement (.isubX x0) := fun _ => encX_length _ _
theorem imul : ∀ x0, Statement (.imul x0) := fun _ => encBin_length _ _
theorem imulX : ∀ x0, Statement (.imulX x0) := fun _ => encX_length _ _
theorem imulh : ∀ x0, Statement (.imulh x0) := fun _ => encBin_length _ _
theorem imulhX : ∀ x0, Statement (.imulhX x0) := fun _ => encX_length _ _
theorem imulhu : ∀ x0, Statement (.imulhu x0) := fun _ => encBin_length _ _
theorem imulhuX : ∀ x0, Statement (.imulhuX x0) := fun _ => encX_length _ _
theorem imin : ∀ x0, Statement (.imin x0) := fun _ => encBin_length _ _
theorem iminX : ∀ x0, Statement (.iminX x0) := fun _ => encX_length _ _
theorem imax : ∀ x0, Statement (.imax x0) := fun _ => encBin_length _ _
theorem imaxX : ∀ x0, Statement (.imaxX x0) := fun _ => encX_length _ _
theorem iminu : ∀ x0, Statement (.iminu x0) := fun _ => encBin_length _ _
theorem iminuX : ∀ x0, Statement (.iminuX x0) := fun _ => encX_length _ _
theorem imaxu : ∀ x0, Statement (.imaxu x0) := fun _ => encBin_length _ _
theorem imaxuX : ∀ x0, Statement (.imaxuX x0) := fun _ => encX_length _ _
theorem andS : ∀ x0, Statement (.andS x0) := fun _ => encBin_length _ _
theorem andX : ∀ x0, Statement (.andX x0) := fun _ => encX_length _ _
theorem orS : ∀ x0, Statement (.orS x0) := fun _ => encBin_length _ _
theorem orX : ∀ x0, Statement (.orX x0) := fun _ => encX_length _ _
theorem xorS : ∀ x0, Statement (.xorS x0) := fun _ => encBin_length _ _
theorem xorX : ∀ x0, Statement (.xorX x0) := fun _ => encX_length _ _
theorem andn : ∀ x0, Statement (.andn x0) := fun _ => encBin_length _ _
theorem andnX : ∀ x0, Statement (.andnX x0) := fun _ => encX_length _ _
theorem shl : ∀ x0, Statement (.shl x0) := fun _ => encBin_length _ _
theorem shlX : ∀ x0, Statement (.shlX x0) := fun _ => encX_length _ _
theorem shr : ∀ x0, Statement (.shr x0) := fun _ => encBin_length _ _
theorem shrX : ∀ x0, Statement (.shrX x0) := fun _ => encX_length _ _
theorem sar : ∀ x0, Statement (.sar x0) := fun _ => encBin_length _ _
theorem sarX : ∀ x0, Statement (.sarX x0) := fun _ => encX_length _ _
theorem rotl : ∀ x0, Statement (.rotl x0) := fun _ => encBin_length _ _
theorem rotlX : ∀ x0, Statement (.rotlX x0) := fun _ => encX_length _ _
theorem popc : ∀ x0, Statement (.popc x0) := fun _ => .inr (.inl rfl)
theorem popcX : ∀ x0, Statement (.popcX x0) := fun _ => encX_length _ _
theorem clz : ∀ x0, Statement (.clz x0) := fun _ => .inr (.inl rfl)
theorem clzX : ∀ x0, Statement (.clzX x0) := fun _ => encX_length _ _
theorem ctz : ∀ x0, Statement (.ctz x0) := fun _ => .inr (.inl rfl)
theorem ctzX : ∀ x0, Statement (.ctzX x0) := fun _ => encX_length _ _
theorem brev : ∀ x0, Statement (.brev x0) := fun _ => .inr (.inl rfl)
theorem brevX : ∀ x0, Statement (.brevX x0) := fun _ => encX_length _ _
theorem iabs : ∀ x0, Statement (.iabs x0) := fun _ => .inr (.inl rfl)
theorem iabsX : ∀ x0, Statement (.iabsX x0) := fun _ => encX_length _ _
theorem fadd : ∀ x0, Statement (.fadd x0) := fun _ => encBin_length _ _
theorem faddX : ∀ x0, Statement (.faddX x0) := fun _ => encX_length _ _
theorem fmul : ∀ x0, Statement (.fmul x0) := fun _ => encBin_length _ _
theorem fmulX : ∀ x0, Statement (.fmulX x0) := fun _ => encX_length _ _
theorem fmin : ∀ x0, Statement (.fmin x0) := fun _ => encBin_length _ _
theorem fminX : ∀ x0, Statement (.fminX x0) := fun _ => encX_length _ _
theorem fmax : ∀ x0, Statement (.fmax x0) := fun _ => encBin_length _ _
theorem fmaxX : ∀ x0, Statement (.fmaxX x0) := fun _ => encX_length _ _
theorem isetp : ∀ x0, Statement (.isetp x0) := fun _ => .inr (.inl rfl)
theorem isetpX : ∀ x0, Statement (.isetpX x0) := fun _ => encX_length _ _
theorem fsetp : ∀ x0, Statement (.fsetp x0) := fun _ => .inr (.inl rfl)
theorem fsetpX : ∀ x0, Statement (.fsetpX x0) := fun _ => encX_length _ _
theorem plop : ∀ x0, Statement (.plop x0) := fun _ => .inr (.inl rfl)
theorem plopX : ∀ x0, Statement (.plopX x0) := fun _ => encX_length _ _
theorem bra : ∀ x0, Statement (.bra x0) := fun _ => .inr (.inl rfl)
theorem braX : ∀ x0, Statement (.braX x0) := fun _ => encX_length _ _
theorem call : ∀ x0, Statement (.call x0) := fun _ => .inr (.inl rfl)
theorem callX : ∀ x0, Statement (.callX x0) := fun _ => encX_length _ _
theorem brx : ∀ x0, Statement (.brx x0) := fun _ => .inr (.inl rfl)
theorem brxX : ∀ x0, Statement (.brxX x0) := fun _ => encX_length _ _
theorem callx : ∀ x0, Statement (.callx x0) := fun _ => .inr (.inl rfl)
theorem callxX : ∀ x0, Statement (.callxX x0) := fun _ => encX_length _ _
theorem ret : ∀ x0, Statement (.ret x0) := fun _ => .inr (.inl rfl)
theorem retX : ∀ x0, Statement (.retX x0) := fun _ => encX_length _ _
theorem exit : ∀ x0, Statement (.exit x0) := fun _ => .inr (.inl rfl)
theorem exitX : ∀ x0, Statement (.exitX x0) := fun _ => encX_length _ _
theorem yield : ∀ x0, Statement (.yield x0) := fun _ => .inr (.inl rfl)
theorem yieldX : ∀ x0, Statement (.yieldX x0) := fun _ => encX_length _ _
theorem joinS : ∀ x0, Statement (.joinS x0) := fun _ => .inr (.inl rfl)
theorem joinX : ∀ x0, Statement (.joinX x0) := fun _ => encX_length _ _
theorem jleave : ∀ x0, Statement (.jleave x0) := fun _ => .inr (.inl rfl)
theorem jleaveX : ∀ x0, Statement (.jleaveX x0) := fun _ => encX_length _ _
theorem twait : ∀ x0, Statement (.twait x0) := fun _ => .inr (.inl rfl)
theorem twaitX : ∀ x0, Statement (.twaitX x0) := fun _ => encX_length _ _
theorem tclr : ∀ x0, Statement (.tclr x0) := fun _ => .inr (.inl rfl)
theorem tclrX : ∀ x0, Statement (.tclrX x0) := fun _ => encX_length _ _
theorem brk : ∀ x0, Statement (.brk x0) := fun _ => .inr (.inl rfl)
theorem brkX : ∀ x0, Statement (.brkX x0) := fun _ => encX_length _ _
theorem trap : ∀ x0, Statement (.trap x0) := fun _ => .inr (.inl rfl)
theorem trapX : ∀ x0, Statement (.trapX x0) := fun _ => encX_length _ _
theorem bsync : ∀ x0, Statement (.bsync x0) := fun _ => .inr (.inl rfl)
theorem bsyncX : ∀ x0, Statement (.bsyncX x0) := fun _ => encX_length _ _
theorem imad : ∀ x0, Statement (.imad x0) := fun _ => encX_length _ _
theorem idiv : ∀ x0, Statement (.idiv x0) := fun _ => encX_length _ _
theorem irem : ∀ x0, Statement (.irem x0) := fun _ => encX_length _ _
theorem lea : ∀ x0, Statement (.lea x0) := fun _ => encX_length _ _
theorem sel : ∀ x0, Statement (.sel x0) := fun _ => encX_length _ _
theorem bfx : ∀ x0, Statement (.bfx x0) := fun _ => encX_length _ _
theorem bfi : ∀ x0, Statement (.bfi x0) := fun _ => encX_length _ _
theorem ffma : ∀ x0, Statement (.ffma x0) := fun _ => encX_length _ _
theorem frcp : ∀ x0, Statement (.frcp x0) := fun _ => encX_length _ _
theorem frsq : ∀ x0, Statement (.frsq x0) := fun _ => encX_length _ _
theorem fsqrt : ∀ x0, Statement (.fsqrt x0) := fun _ => encX_length _ _
theorem fex2 : ∀ x0, Statement (.fex2 x0) := fun _ => encX_length _ _
theorem flg2 : ∀ x0, Statement (.flg2 x0) := fun _ => encX_length _ _
theorem fsin : ∀ x0, Statement (.fsin x0) := fun _ => encX_length _ _
theorem fcos : ∀ x0, Statement (.fcos x0) := fun _ => encX_length _ _
theorem ftanh : ∀ x0, Statement (.ftanh x0) := fun _ => encX_length _ _
theorem fcvt : ∀ x0, Statement (.fcvt x0) := fun _ => encX_length _ _
theorem vote : ∀ x0, Statement (.vote x0) := fun _ => encX_length _ _
theorem shfl : ∀ x0, Statement (.shfl x0) := fun _ => encX_length _ _
theorem prfx : ∀ x0, Statement (.prfx x0) := fun _ => encX_length _ _
theorem cred : ∀ x0, Statement (.cred x0) := fun _ => encX_length _ _
theorem jinit : ∀ x0, Statement (.jinit x0) := fun _ => encX_length _ _
theorem tyield : ∀ x0, Statement (.tyield x0) := fun _ => encX_length _ _
theorem tbr : ∀ x0, Statement (.tbr x0) := fun _ => encX_length _ _
theorem tget : ∀ x0, Statement (.tget x0) := fun _ => encX_length _ _
theorem tsetp : ∀ x0, Statement (.tsetp x0) := fun _ => encX_length _ _
theorem ld : ∀ x0, Statement (.ld x0) := fun _ => encX_length _ _
theorem st : ∀ x0, Statement (.st x0) := fun _ => encX_length _ _
theorem ldk : ∀ x0, Statement (.ldk x0) := fun _ => encX_length _ _
theorem atom : ∀ x0, Statement (.atom x0) := fun _ => encX_length _ _
theorem red : ∀ x0, Statement (.red x0) := fun _ => encX_length _ _
theorem stcp : ∀ x0, Statement (.stcp x0) := fun _ => encX_length _ _
theorem pref : ∀ x0, Statement (.pref x0) := fun _ => encX_length _ _
theorem phase : ∀ x0, Statement (.phase x0) := fun _ => encX_length _ _
theorem pfence : ∀ x0, Statement (.pfence x0) := fun _ => encX_length _ _
theorem regionI : ∀ x0, Statement (.regionI x0) := fun _ => encX_length _ _
theorem regionEnd : ∀ x0, Statement (.regionEnd x0) := fun _ => encX_length _ _
theorem boinit : ∀ x0, Statement (.boinit x0) := fun _ => encX_length _ _
theorem boarv : ∀ x0, Statement (.boarv x0) := fun _ => encX_length _ _
theorem bowait : ∀ x0, Statement (.bowait x0) := fun _ => encX_length _ _
theorem botx : ∀ x0, Statement (.botx x0) := fun _ => encX_length _ _
theorem feget : ∀ x0, Statement (.feget x0) := fun _ => encX_length _ _
theorem feput : ∀ x0, Statement (.feput x0) := fun _ => encX_length _ _
theorem shmap : ∀ x0, Statement (.shmap x0) := fun _ => encX_length _ _
theorem rbacq : ∀ x0, Statement (.rbacq x0) := fun _ => encX_length _ _
theorem rbrel : ∀ x0, Statement (.rbrel x0) := fun _ => encX_length _ _
theorem cpy : ∀ x0, Statement (.cpy x0) := fun _ => encX_length _ _
theorem gath : ∀ x0, Statement (.gath x0) := fun _ => encX_length _ _
theorem scat : ∀ x0, Statement (.scat x0) := fun _ => encX_length _ _
theorem srinv : ∀ x0, Statement (.srinv x0) := fun _ => encX_length _ _
theorem mbld : ∀ x0, Statement (.mbld x0) := fun _ => encX_length _ _
theorem mma : ∀ x0, Statement (.mma x0) := fun _ => encX_length _ _
theorem mlut : ∀ x0, Statement (.mlut x0) := fun _ => encX_length _ _
theorem mlma : ∀ x0, Statement (.mlma x0) := fun _ => encX_length _ _
theorem mdrain : ∀ x0, Statement (.mdrain x0) := fun _ => encX_length _ _
theorem mcls : ∀ x0, Statement (.mcls x0) := fun _ => encX_length _ _
theorem gbcfg : ∀ x0, Statement (.gbcfg x0) := fun _ => encX_length _ _
theorem gbset : ∀ x0, Statement (.gbset x0) := fun _ => encX_length _ _
theorem gbclamp : ∀ x0, Statement (.gbclamp x0) := fun _ => encX_length _ _
theorem gbsweep : ∀ x0, Statement (.gbsweep x0) := fun _ => encX_length _ _
theorem gbread : ∀ x0, Statement (.gbread x0) := fun _ => encX_length _ _
theorem gbstat : ∀ x0, Statement (.gbstat x0) := fun _ => encX_length _ _
theorem gbseed : ∀ x0, Statement (.gbseed x0) := fun _ => encX_length _ _
theorem rgrp : ∀ x0, Statement (.rgrp x0) := fun _ => encX_length _ _
theorem gets : ∀ x0, Statement (.gets x0) := fun _ => encX_length _ _
theorem sets : ∀ x0, Statement (.sets x0) := fun _ => encX_length _ _
theorem cctl : ∀ x0, Statement (.cctl x0) := fun _ => encX_length _ _
theorem icinv : ∀ x0, Statement (.icinv x0) := fun _ => encX_length _ _
theorem tlbinv : ∀ x0, Statement (.tlbinv x0) := fun _ => encX_length _ _
theorem eret : ∀ x0, Statement (.eret x0) := fun _ => encX_length _ _
theorem svc : ∀ x0, Statement (.svc x0) := fun _ => encX_length _ _
theorem bound : ∀ x0, Statement (.bound x0) := fun _ => encX_length _ _
theorem tkpass : ∀ x0, Statement (.tkpass x0) := fun _ => encX_length _ _
theorem lnch : ∀ x0, Statement (.lnch x0) := fun _ => encX_length _ _
theorem kaleidoscopeMapsSwitch : ∀ x0, Statement (.kaleidoscopeMapsSwitch x0) := fun _ => .inl rfl
theorem launch : ∀ x0 x1 x2 x3, Statement (.launch x0 x1 x2 x3) := fun _ _ _ _ => .inl rfl
theorem acceptanceToken : Statement .acceptanceToken := .inl rfl
theorem blockPlacement : Statement .blockPlacement := .inl rfl
theorem preemption : ∀ x0 x1, Statement (.preemption x0 x1) := fun _ _ => .inl rfl
theorem launchFailure : ∀ x0, Statement (.launchFailure x0) := fun _ => .inl rfl
theorem blockCompletion : ∀ x0 x1, Statement (.blockCompletion x0 x1) := fun _ _ => .inl rfl
theorem launchCompletion : ∀ x0, Statement (.launchCompletion x0) := fun _ => .inl rfl
theorem rbacqGrant : ∀ x0, Statement (.rbacqGrant x0) := fun _ => .inl rfl
theorem l2PromiseRequest : ∀ x0 x1, Statement (.l2PromiseRequest x0 x1) := fun _ _ => .inl rfl
theorem dramBooking : ∀ x0 x1, Statement (.dramBooking x0 x1) := fun _ _ => .inl rfl
theorem promiseDelivered : ∀ x0 x1 x2, Statement (.promiseDelivered x0 x1 x2) := fun _ _ _ => .inl rfl
theorem loadArrival : ∀ x0 x1, Statement (.loadArrival x0 x1) := fun _ _ => .inl rfl
theorem promiseBroken : ∀ x0 x1 x2, Statement (.promiseBroken x0 x1 x2) := fun _ _ _ => .inl rfl
theorem brokenReestimate : ∀ x0 x1 x2, Statement (.brokenReestimate x0 x1 x2) := fun _ _ _ => .inl rfl
theorem abortCompletion : ∀ x0 x1 x2, Statement (.abortCompletion x0 x1 x2) := fun _ _ _ => .inl rfl
theorem timedWake : ∀ x0, Statement (.timedWake x0) := fun _ => .inl rfl
theorem wakeOverflowReinsert : ∀ x0, Statement (.wakeOverflowReinsert x0) := fun _ => .inl rfl
theorem islandClockStop : ∀ x0, Statement (.islandClockStop x0) := fun _ => .inl rfl
theorem islandClockRestart : ∀ x0, Statement (.islandClockRestart x0) := fun _ => .inl rfl
theorem islandRatioChange : ∀ x0 x1, Statement (.islandRatioChange x0 x1) := fun _ _ => .inl rfl
theorem stackCacheSpillFill : ∀ x0 x1 x2 x3, Statement (.stackCacheSpillFill x0 x1 x2 x3) := fun _ _ _ _ => .inl rfl
theorem walkAhead : ∀ x0 x1, Statement (.walkAhead x0 x1) := fun _ _ => .inl rfl
theorem furesResolve : ∀ x0 x1 x2, Statement (.furesResolve x0 x1 x2) := fun _ _ _ => .inl rfl
theorem furesFail : ∀ x0 x1 x2, Statement (.furesFail x0 x1 x2) := fun _ _ _ => .inl rfl
theorem taskDispatch : ∀ x0 x1, Statement (.taskDispatch x0 x1) := fun _ _ => .inl rfl
theorem engineByteLands : ∀ x0 x1 x2, Statement (.engineByteLands x0 x1 x2) := fun _ _ _ => .inl rfl
theorem engineTaskFault : ∀ x0 x1, Statement (.engineTaskFault x0 x1) := fun _ _ => .inl rfl
theorem matrixTaskSuspend : ∀ x0 x1, Statement (.matrixTaskSuspend x0 x1) := fun _ _ => .inl rfl
theorem taskCompletion : ∀ x0 x1, Statement (.taskCompletion x0 x1) := fun _ _ => .inl rfl
theorem updateOnlyPacket : ∀ x0 x1 x2, Statement (.updateOnlyPacket x0 x1 x2) := fun _ _ _ => .inl rfl
theorem l1Writeback : ∀ x0 x1 x2, Statement (.l1Writeback x0 x1 x2) := fun _ _ _ => .inl rfl
theorem storeAbort : ∀ x0 x1 x2 x3, Statement (.storeAbort x0 x1 x2 x3) := fun _ _ _ _ => .inl rfl
theorem sliceRequestReturn : ∀ x0 x1, Statement (.sliceRequestReturn x0 x1) := fun _ _ => .inl rfl
theorem uncorrectableError : ∀ x0, Statement (.uncorrectableError x0) := fun _ => .inl rfl
theorem rowSelfTest : ∀ x0 x1, Statement (.rowSelfTest x0 x1) := fun _ _ => .inl rfl
theorem amctlGo : ∀ x0 x1 x2, Statement (.amctlGo x0 x1 x2) := fun _ _ _ => .inl rfl
theorem addressMapCommit : Statement .addressMapCommit := .inl rfl
theorem l2quotaWrite : ∀ x0 x1, Statement (.l2quotaWrite x0 x1) := fun _ _ => .inl rfl
theorem sactlApply : ∀ x0, Statement (.sactlApply x0) := fun _ => .inl rfl
theorem slotEditApplied : ∀ x0, Statement (.slotEditApplied x0) := fun _ => .inl rfl
theorem ctxctlSuspend : ∀ x0, Statement (.ctxctlSuspend x0) := fun _ => .inl rfl
theorem ctxctlResume : ∀ x0, Statement (.ctxctlResume x0) := fun _ => .inl rfl
theorem killContext : ∀ x0, Statement (.killContext x0) := fun _ => .inl rfl
theorem killOwner : ∀ x0, Statement (.killOwner x0) := fun _ => .inl rfl
theorem fwrevRevoke : ∀ x0 x1, Statement (.fwrevRevoke x0 x1) := fun _ _ => .inl rfl
theorem pkdropClear : ∀ x0, Statement (.pkdropClear x0) := fun _ => .inl rfl
theorem controlRegisterWrite : ∀ x0 x1 x2 x3, Statement (.controlRegisterWrite x0 x1 x2 x3) := fun _ _ _ _ => .inl rfl
theorem islopWrite : ∀ x0 x1, Statement (.islopWrite x0 x1) := fun _ _ => .inl rfl
theorem fabricRequestTimeout : ∀ x0, Statement (.fabricRequestTimeout x0) := fun _ => .inl rfl
theorem linkReplay : ∀ x0 x1, Statement (.linkReplay x0 x1) := fun _ _ => .inl rfl
theorem linkDown : ∀ x0, Statement (.linkDown x0) := fun _ => .inl rfl
theorem mrd : ∀ x0 x1 x2 x3, Statement (.mrd x0 x1 x2 x3) := fun _ _ _ _ => .inl rfl
theorem mwr : ∀ x0 x1 x2 x3, Statement (.mwr x0 x1 x2 x3) := fun _ _ _ _ => .inl rfl
theorem crd : ∀ x0 x1 x2 x3, Statement (.crd x0 x1 x2 x3) := fun _ _ _ _ => .inl rfl
theorem cwr : ∀ x0 x1 x2 x3 x4, Statement (.cwr x0 x1 x2 x3 x4) := fun _ _ _ _ _ => .inl rfl
theorem wrd : ∀ x0 x1 x2 x3 x4, Statement (.wrd x0 x1 x2 x3 x4) := fun _ _ _ _ _ => .inl rfl
theorem wwr : ∀ x0 x1 x2 x3 x4, Statement (.wwr x0 x1 x2 x3 x4) := fun _ _ _ _ _ => .inl rfl
theorem rsp : ∀ x0 x1 x2, Statement (.rsp x0 x1 x2) := fun _ _ _ => .inl rfl
theorem fabricProtocolViolation : ∀ x0, Statement (.fabricProtocolViolation x0) := fun _ => .inl rfl
theorem rdmaAccess : ∀ x0 x1 x2 x3, Statement (.rdmaAccess x0 x1 x2 x3) := fun _ _ _ _ => .inl rfl
theorem attestationRequest : ∀ x0 x1, Statement (.attestationRequest x0 x1) := fun _ _ => .inl rfl
theorem freeze : Statement .freeze := .inl rfl
theorem reset : Statement .reset := .inl rfl
theorem firmwareImageLoad : ∀ x0, Statement (.firmwareImageLoad x0) := fun _ => .inl rfl
theorem lifetimeRecordUpdate : ∀ x0, Statement (.lifetimeRecordUpdate x0) := fun _ => .inl rfl
theorem lifetimeRecordRead : Statement .lifetimeRecordRead := .inl rfl
theorem powerLimitLower : ∀ x0 x1, Statement (.powerLimitLower x0 x1) := fun _ _ => .inl rfl
theorem debugHalt : ∀ x0, Statement (.debugHalt x0) := fun _ => .inl rfl
theorem contextKeyLoad : ∀ x0 x1, Statement (.contextKeyLoad x0 x1) := fun _ _ => .inl rfl
theorem debugResume : ∀ x0, Statement (.debugResume x0) := fun _ => .inl rfl
theorem cxlWriteCompletion : ∀ x0, Statement (.cxlWriteCompletion x0) := fun _ => .inl rfl
theorem refreshPulledIn : ∀ x0, Statement (.refreshPulledIn x0) := fun _ => .inl rfl
theorem routerFailure : ∀ x0, Statement (.routerFailure x0) := fun _ => .inl rfl

end Sys2Proof.Laws.EncodedLength
end

