-- ==== Sys2Proof/Tests/Slice0.lean ====
section
/-! SUPPORT. Tests: the words of the spec's encodings decode to what they stand for, ill-formed terms are refused, single steps give the
results that the spec works out, and every statement's hypotheses are met by a state and operands. -/

namespace Sys2Proof.Tests
open Sys2Proof Sys2Proof.Machine Sys2Proof.Claims
set_option maxRecDepth 100000

/-! ## Decoding: words written out from the fields of 03 R61 to R70 and the encodings of each instruction -/

/-- NOP; MOV v0, v6; IADD v5, v6, v7; ISUB v5, v6, v7; IMUL v1, v1, v2; IMULH v3, v4, v5; IMULHU v3, v4, v5; IMIN v3, v4, v5; IMAX v3, v4,
v5; IMINU v3, v4, v5; IMAXU v3, v4, v5; AND v1, v1, #1. -/
theorem test_decode_moves_and_integers_1 :
    reads 0x38000000 [] = .ok (.nop ⟨false, 7⟩, 4) ∧
    reads 0x38C00004 [] = .ok (.mov ⟨⟨false, 7⟩, 6, 0, none⟩, 4) ∧
    reads 0x38E30A08 [] = .ok (.iadd ⟨⟨false, 7⟩, false, 6, 7, 5, none⟩, 4) ∧
    reads 0x38E30A0C [] = .ok (.isub ⟨⟨false, 7⟩, false, 6, 7, 5, none⟩, 4) ∧
    reads 0x38408210 [] = .ok (.imul ⟨⟨false, 7⟩, false, 1, 2, 1, none⟩, 4) ∧
    reads 0x38A20614 [] = .ok (.imulh ⟨⟨false, 7⟩, false, 4, 5, 3, none⟩, 4) ∧
    reads 0x38A20618 [] = .ok (.imulhu ⟨⟨false, 7⟩, false, 4, 5, 3, none⟩, 4) ∧
    reads 0x38A2061C [] = .ok (.imin ⟨⟨false, 7⟩, false, 4, 5, 3, none⟩, 4) ∧
    reads 0x38A20620 [] = .ok (.imax ⟨⟨false, 7⟩, false, 4, 5, 3, none⟩, 4) ∧
    reads 0x38A20624 [] = .ok (.iminu ⟨⟨false, 7⟩, false, 4, 5, 3, none⟩, 4) ∧
    reads 0x38A20628 [] = .ok (.imaxu ⟨⟨false, 7⟩, false, 4, 5, 3, none⟩, 4) ∧
    reads 0x3800822D [0x1] = .ok (.andS ⟨⟨false, 7⟩, false, 1, 0, 1, some 0x1⟩, 12) := by
  and_intros <;> rfl

/-- OR v1, v2, v3; XOR v1, v2, v3; ANDN v1, v2, v3 (by the fields of R61); SHL v4, v1, #2; SHR v3, v4, v5; SAR v3, v4, v5; ROTL v3, v4,
v5; POPC v3, v4; CLZ v3, v4; CTZ v3, v4 (by the fields of R61); BREV v3, v4; IABS v3, v4. -/
theorem test_decode_moves_and_integers_2 :
    reads 0x38610230 [] = .ok (.orS ⟨⟨false, 7⟩, false, 2, 3, 1, none⟩, 4) ∧
    reads 0x38610234 [] = .ok (.xorS ⟨⟨false, 7⟩, false, 2, 3, 1, none⟩, 4) ∧
    reads 0x38610238 [] = .ok (.andn ⟨⟨false, 7⟩, false, 2, 3, 1, none⟩, 4) ∧
    reads 0x3800883D [0x2] = .ok (.shl ⟨⟨false, 7⟩, false, 1, 0, 4, some 0x2⟩, 12) ∧
    reads 0x38A20640 [] = .ok (.shr ⟨⟨false, 7⟩, false, 4, 5, 3, none⟩, 4) ∧
    reads 0x38A20644 [] = .ok (.sar ⟨⟨false, 7⟩, false, 4, 5, 3, none⟩, 4) ∧
    reads 0x38A20648 [] = .ok (.rotl ⟨⟨false, 7⟩, false, 4, 5, 3, none⟩, 4) ∧
    reads 0x3802064C [] = .ok (.popc ⟨⟨false, 7⟩, false, 4, 3⟩, 4) ∧
    reads 0x38020650 [] = .ok (.clz ⟨⟨false, 7⟩, false, 4, 3⟩, 4) ∧
    reads 0x38020654 [] = .ok (.ctz ⟨⟨false, 7⟩, false, 4, 3⟩, 4) ∧
    reads 0x38020658 [] = .ok (.brev ⟨⟨false, 7⟩, false, 4, 3⟩, 4) ∧
    reads 0x3802065C [] = .ok (.iabs ⟨⟨false, 7⟩, false, 4, 3⟩, 4) := by
  and_intros <;> rfl

/-- FADD v1, v2, v3; FMUL v4, v5, v6; FMIN v1, v2, v3; FMAX v1, v2, v3; ISETP.LT p1, v2, v3; FSETP.LT p2, v4, v5; PLOP.AND p3, p1, p2. -/
theorem test_decode_floats_and_compares :
    reads 0x38610260 [] = .ok (.fadd ⟨⟨false, 7⟩, false, 2, 3, 1, none⟩, 4) ∧
    reads 0x38C28864 [] = .ok (.fmul ⟨⟨false, 7⟩, false, 5, 6, 4, none⟩, 4) ∧
    reads 0x38610268 [] = .ok (.fmin ⟨⟨false, 7⟩, false, 2, 3, 1, none⟩, 4) ∧
    reads 0x3861026C [] = .ok (.fmax ⟨⟨false, 7⟩, false, 2, 3, 1, none⟩, 4) ∧
    reads 0x38612270 [] = .ok (.isetp ⟨⟨false, 7⟩, false, 2, 3, 2, 1⟩, 4) ∧
    reads 0x38A22474 [] = .ok (.fsetp ⟨⟨false, 7⟩, false, 4, 5, 2, 2⟩, 4) ∧
    reads 0x38408678 [] = .ok (.plop ⟨⟨false, 7⟩, 3, 0, 1, 2⟩, 4) := by
  and_intros <;> rfl

/-- BRA loop; CALL copy; BRX v20; CALLX v20; RET; EXIT; YIELD; JOIN j1; JLEAVE j1; TWAIT t2; TCLR t2; BRK. -/
theorem test_decode_control_1 :
    reads 0x3FFFFA80 [] = .ok (.bra ⟨⟨false, 7⟩, -3⟩, 4) ∧
    reads 0x38007884 [] = .ok (.call ⟨⟨false, 7⟩, 60⟩, 4) ∧
    reads 0x380A0088 [] = .ok (.brx ⟨⟨false, 7⟩, false, 10⟩, 4) ∧
    reads 0x380A008C [] = .ok (.callx ⟨⟨false, 7⟩, false, 10⟩, 4) ∧
    reads 0x38000090 [] = .ok (.ret ⟨false, 7⟩, 4) ∧
    reads 0x38000094 [] = .ok (.exit ⟨false, 7⟩, 4) ∧
    reads 0x38000098 [] = .ok (.yield ⟨false, 7⟩, 4) ∧
    reads 0x3800809C [] = .ok (.joinS ⟨⟨false, 7⟩, 1⟩, 4) ∧
    reads 0x380080A0 [] = .ok (.jleave ⟨⟨false, 7⟩, 1⟩, 4) ∧
    reads 0x380100A4 [] = .ok (.twait ⟨⟨false, 7⟩, 2⟩, 4) ∧
    reads 0x380100A8 [] = .ok (.tclr ⟨⟨false, 7⟩, 2⟩, 4) ∧
    reads 0x380000AC [] = .ok (.brk ⟨false, 7⟩, 4) := by
  and_intros <;> rfl

/-- TRAP #5; BSYNC. -/
theorem test_decode_control_2 :
    reads 0x38000AB0 [] = .ok (.trap ⟨⟨false, 7⟩, 5⟩, 4) ∧
    reads 0x380000B4 [] = .ok (.bsync ⟨false, 7⟩, 4) := by
  and_intros <;> rfl

/-- NOP form=x; MOV.I64 v2, k0; IADD v5, v6, v7, form=x; ISUB.U.SAT v5, v6, v7; IMUL_X v1, v2, v3 (by the fields of R65); IMULH_X v1, v2,
v3 (by the fields of R65); IMULHU_X v1, v2, v3 (by the fields of R65); IMIN.B4 v3, v4, v5; IMAX_X v1, v2, v3 (by the fields of R65);
IMINU.B4 v3, v4, v5; IMAXU_X v1, v2, v3 (by the fields of R65); AND_X v1, v2, v3 (by the fields of R65). -/
theorem test_decode_x_integers_1 :
    reads 0x00000002 [0x70000] = .ok (.nopX X0, 12) ∧
    reads 0x00010206 [0x700E0] = .ok (.movX { X0 with b := 0xe0, d := 2, sub := 1 }, 12) ∧
    reads 0x0302800A [0x70007] = .ok (.iaddX { X0 with a := 6, b := 7, d := 5 }, 12) ∧
    reads 0x0302980E [0x70007] = .ok (.isubX { X0 with a := 6, b := 7, d := 5, sub := 0xc }, 12) ∧
    reads 0x01008012 [0x70003] = .ok (.imulX { X0 with a := 2, b := 3, d := 1 }, 12) ∧
    reads 0x01008016 [0x70003] = .ok (.imulhX { X0 with a := 2, b := 3, d := 1 }, 12) ∧
    reads 0x0100801A [0x70003] = .ok (.imulhuX { X0 with a := 2, b := 3, d := 1 }, 12) ∧
    reads 0x0201861E [0x70005] = .ok (.iminX { X0 with a := 4, b := 5, d := 3, sub := 3 }, 12) ∧
    reads 0x01008022 [0x70003] = .ok (.imaxX { X0 with a := 2, b := 3, d := 1 }, 12) ∧
    reads 0x02018626 [0x70005] = .ok (.iminuX { X0 with a := 4, b := 5, d := 3, sub := 3 }, 12) ∧
    reads 0x0100802A [0x70003] = .ok (.imaxuX { X0 with a := 2, b := 3, d := 1 }, 12) ∧
    reads 0x0100802E [0x70003] = .ok (.andX { X0 with a := 2, b := 3, d := 1 }, 12) := by
  and_intros <;> rfl

/-- OR_X v1, v2, v3 (by the fields of R65); XOR.I64 v4, v6, v8; ANDN.I64 v4, v6, v8; SHL v2, lane, #26; SHR v1, k0, lane; SAR_X v1, v2, v3
(by the fields of R65); ROTL_X v1, v2, v3 (by the fields of R65); POPC.B4 v3, v4; CLZ.I64 v6, v8; CTZ.B4 v3, v4; BREV_X v1, v2 (by the
fields of R65); IABS_X v1, v2 (by the fields of R65). -/
theorem test_decode_x_integers_2 :
    reads 0x01008032 [0x70003] = .ok (.orX { X0 with a := 2, b := 3, d := 1 }, 12) ∧
    reads 0x03020236 [0x70008] = .ok (.xorX { X0 with a := 6, b := 8, d := 4, sub := 1 }, 12) ∧
    reads 0x0302023A [0x70008] = .ok (.andnX { X0 with a := 6, b := 8, d := 4, sub := 1 }, 12) ∧
    reads 0x7C81003F [0x700FE, 0x1A] = .ok (.shlX { X0 with a := 0xf9, b := 0xfe, d := 2, lit := some 0x1a }, 20) ∧
    reads 0x70008042 [0x700F9] = .ok (.shrX { X0 with a := 0xe0, b := 0xf9, d := 1 }, 12) ∧
    reads 0x01008046 [0x70003] = .ok (.sarX { X0 with a := 2, b := 3, d := 1 }, 12) ∧
    reads 0x0100804A [0x70003] = .ok (.rotlX { X0 with a := 2, b := 3, d := 1 }, 12) ∧
    reads 0x0201864E [0x70000] = .ok (.popcX { X0 with a := 4, d := 3, sub := 3 }, 12) ∧
    reads 0x04030252 [0x70000] = .ok (.clzX { X0 with a := 8, d := 6, sub := 1 }, 12) ∧
    reads 0x02018656 [0x70000] = .ok (.ctzX { X0 with a := 4, d := 3, sub := 3 }, 12) ∧
    reads 0x0100805A [0x70000] = .ok (.brevX { X0 with a := 2, d := 1 }, 12) ∧
    reads 0x0100805E [0x70000] = .ok (.iabsX { X0 with a := 2, d := 1 }, 12) := by
  and_intros <;> rfl

/-- FADD.BF16.RDN v1, v2, -v3; FMUL.FP16.RUP.FTZ v4, ,v5,, v6; FMIN_X v1, v2, v3 (by the fields of R65); FMAX_X v1, v2, v3 (by the fields
of R65); ISETP.EQ p1, v1, zero; FSETP.GE p1, ,v4,, v5; PLOP.OR p3, p1, p2 (by R62, R66); BRA far, form=x; CALL +64 (by R65, R148); BRX v4
(by R148); CALLX k2, form=x; RET form=x. -/
theorem test_decode_x_control_1 :
    reads 0x0100A262 [0x400070003] = .ok (.faddX { X0 with a := 2, b := 3, d := 1, sub := 0x11, imm := 4 }, 12) ∧
    reads 0x02827466 [0x200070006] = .ok (.fmulX { X0 with a := 5, b := 6, d := 4, sub := 0x3a, imm := 2 }, 12) ∧
    reads 0x0100806A [0x70003] = .ok (.fminX { X0 with a := 2, b := 3, d := 1 }, 12) ∧
    reads 0x0100806E [0x70003] = .ok (.fmaxX { X0 with a := 2, b := 3, d := 1 }, 12) ∧
    reads 0x00808072 [0x700F8] = .ok (.isetpX { X0 with a := 1, b := 0xf8, d := 1 }, 12) ∧
    reads 0x02148076 [0x200070005] = .ok (.fsetpX { X0 with a := 4, b := 5, d := 0x29, imm := 2 }, 12) ∧
    reads 0x0481807A [0x70002] = .ok (.plopX { X0 with a := 9, b := 2, d := 3 }, 12) ∧
    reads 0x00000082 [0x10000000070000] = .ok (.braX { X0 with imm := 0x100000 }, 12) ∧
    reads 0x00000086 [0x4000070000] = .ok (.callX { X0 with imm := 0x40 }, 12) ∧
    reads 0x0200008A [0x70000] = .ok (.brxX { X0 with a := 4 }, 12) ∧
    reads 0x7100008E [0x70000] = .ok (.callxX { X0 with a := 0xe2 }, 12) ∧
    reads 0x00000092 [0x70000] = .ok (.retX X0, 12) := by
  and_intros <;> rfl

/-- EXIT form=x; YIELD (by R65); JOIN j1, form=x; JLEAVE j1, form=x; TWAIT t2, form=x; TCLR t3 (by R141); BRK (by R65); TRAP #5, form=x;
BSYNC form=x. -/
theorem test_decode_x_control_2 :
    reads 0x00000096 [0x70000] = .ok (.exitX X0, 12) ∧
    reads 0x0000009A [0x70000] = .ok (.yieldX X0, 12) ∧
    reads 0x0080009E [0x70000] = .ok (.joinX { X0 with a := 1 }, 12) ∧
    reads 0x008000A2 [0x70000] = .ok (.jleaveX { X0 with a := 1 }, 12) ∧
    reads 0x010000A6 [0x70000] = .ok (.twaitX { X0 with a := 2 }, 12) ∧
    reads 0x018000AA [0x70000] = .ok (.tclrX { X0 with a := 3 }, 12) ∧
    reads 0x000000AE [0x70000] = .ok (.brkX X0, 12) ∧
    reads 0x000000B2 [0x500070000] = .ok (.trapX { X0 with imm := 5 }, 12) ∧
    reads 0x000000B6 [0x70000] = .ok (.bsyncX X0, 12) := by
  and_intros <;> rfl

/-- IMAD v3, v4, v5, v6; IDIV v3, v4, v5; IREM v3, v4, v5; LEA.I64 v8, v10, v12, #3; SEL v3, v4, v5, p2; BFX.U v5, v7, #8, #4; BFI v5, v7,
v9, #4, #8; FFMA.BF16.RZ v8, -v1, v2, v3; FCVT.S8.F32.RNE.SAT v9, v3; VOTE.BALLOT v4, p3, mask=j0; SHFL.DOWN v5, v6, #1, mask=j0; PRFX
v11, p1, mask=j0. -/
theorem test_decode_x_arithmetic_1 :
    reads 0x020180C2 [0x70605] = .ok (.imad { X0 with a := 4, b := 5, c := 6, d := 3 }, 12) ∧
    reads 0x020180C6 [0x70005] = .ok (.idiv { X0 with a := 4, b := 5, d := 3 }, 12) ∧
    reads 0x020180CA [0x70005] = .ok (.irem { X0 with a := 4, b := 5, d := 3 }, 12) ∧
    reads 0x050402CE [0x30007000C] = .ok (.lea { X0 with a := 0xa, b := 0xc, d := 8, sub := 1, imm := 3 }, 12) ∧
    reads 0x020180D2 [0x70205] = .ok (.sel { X0 with a := 4, b := 5, c := 2, d := 3 }, 12) ∧
    reads 0x038288D6 [0x6800070000] = .ok (.bfx { X0 with a := 7, d := 5, sub := 4, imm := 0x68 }, 12) ∧
    reads 0x038280DA [0xE400070009] = .ok (.bfi { X0 with a := 7, b := 9, d := 5, imm := 0xe4 }, 12) ∧
    reads 0x008412DE [0x100070302] = .ok (.ffma { X0 with a := 1, b := 2, c := 3, d := 8, sub := 9, imm := 1 }, 12) ∧
    reads 0x0184CCE6 [0x70000] = .ok (.fcvt { X0 with a := 3, d := 9, sub := 0x26 }, 12) ∧
    reads 0x018204EE [0x70000] = .ok (.vote { X0 with a := 3, d := 4, sub := 2 }, 12) ∧
    reads 0x030284F3 [0x700FE, 0x1] = .ok (.shfl { X0 with a := 6, b := 0xfe, d := 5, sub := 2, lit := some 0x1 }, 20) ∧
    reads 0x008580F6 [0x70000] = .ok (.prfx { X0 with a := 1, d := 0xb }, 12) := by
  and_intros <;> rfl

/-- CRED.FADD v9, v2, mask=j1. -/
theorem test_decode_x_arithmetic_2 :
    reads 0x010490FA [0x4070000] = .ok (.cred { X0 with a := 2, d := 9, sub := 8, t := 1 }, 12) := rfl

/-- JINIT j0, #-1; TYIELD t2, #-40; TBR.DONE.NOT t3, again; TGET.DIFF v10, t2; TSETP.EARLIER p1, t2, t3; LD.W v9, [v4+16], t2, la=3;
ST.BYPASS [v12+0], v6; LDK v5, [v20+0]; ATOM.CAS v6, [v20+0], v7, v8; RED.ADD [v20+0], v1; STCP.W v12, [v20+0], v2, p1, mask=j0; PREF
[v20+256], t2. -/
theorem test_decode_time_and_memory :
    reads 0x7F0000FF [0x70000, 0xFFFFFFFFFFFFFFFF] = .ok (.jinit { X0 with a := 0xfe, lit := some 0xffffffffffffffff }, 20) ∧
    reads 0x79000102 [0xFFD800070000] = .ok (.tyield { X0 with a := 0xf2, imm := 0xffd8 }, 12) ∧
    reads 0x79801506 [0x4000070000] = .ok (.tbr { X0 with a := 0xf3, sub := 0xa, imm := 0x40 }, 12) ∧
    reads 0x7905030A [0x70000] = .ok (.tget { X0 with a := 0xf2, d := 0xa, sub := 1 }, 12) ∧
    reads 0x7900810E [0x700F3] = .ok (.tsetp { X0 with a := 0xf2, b := 0xf3, d := 1 }, 12) ∧
    reads 0x02048512 [0x1028370000] = .ok (.ld { X0 with a := 4, d := 9, sub := 2, imm := 0x10, te := true, t := 2, la := 3 }, 12) ∧
    reads 0x06006516 [0x70006] = .ok (.st { X0 with a := 0xc, b := 6, sub := 0x32 }, 12) ∧
    reads 0x0A02851A [0x70000] = .ok (.ldk { X0 with a := 0x14, d := 5, sub := 2 }, 12) ∧
    reads 0x0A03051E [0x9000000000070807] = .ok (.atom { X0 with a := 0x14, b := 7, c := 8, d := 6, sub := 2, imm := 0x90000000 }, 12) ∧
    reads 0x0A000522 [0x70001] = .ok (.red { X0 with a := 0x14, b := 1, sub := 2 }, 12) ∧
    reads 0x0A060526 [0x70102] = .ok (.stcp { X0 with a := 0x14, b := 2, c := 1, d := 0xc, sub := 2 }, 12) ∧
    reads 0x0A00012A [0x10028070000] = .ok (.pref { X0 with a := 0x14, imm := 0x100, te := true, t := 2 }, 12) := by
  and_intros <;> rfl

/-- PHASE.QUAD; PFENCE.BLOCK src=CP dst=LS; BOINIT [v20+16], #3; BOARV v3, [v20+16]; BOWAIT [v20+16], v3; BOTX [v20+16], v4; FEGET v9,
v24; FEPUT v24, v2; SHMAP v12, #3, #2; RBACQ #4; RBREL v2. -/
theorem test_decode_ordering_and_sharing :
    reads 0x0000092E [0x70000] = .ok (.phase { X0 with sub := 4 }, 12) ∧
    reads 0x00000532 [0x10800070000] = .ok (.pfence { X0 with sub := 2, imm := 0x108 }, 12) ∧
    reads 0x0A00013B [0x10000700FE, 0x3] = .ok (.boinit { X0 with a := 0x14, b := 0xfe, imm := 0x10, lit := some 0x3 }, 20) ∧
    reads 0x0A01813E [0x1000070000] = .ok (.boarv { X0 with a := 0x14, d := 3, imm := 0x10 }, 12) ∧
    reads 0x0A000142 [0x1000070003] = .ok (.bowait { X0 with a := 0x14, b := 3, imm := 0x10 }, 12) ∧
    reads 0x0A000146 [0x1000070004] = .ok (.botx { X0 with a := 0x14, b := 4, imm := 0x10 }, 12) ∧
    reads 0x0C04814A [0x70000] = .ok (.feget { X0 with a := 0x18, d := 9 }, 12) ∧
    reads 0x010C014E [0x70000] = .ok (.feput { X0 with a := 2, d := 0x18 }, 12) ∧
    reads 0x067C0152 [0x2300070000] = .ok (.shmap { X0 with a := 0xc, d := 0xf8, imm := 0x23 }, 12) ∧
    reads 0x7C000156 [0x400070000] = .ok (.rbacq { X0 with a := 0xf8, imm := 4 }, 12) ∧
    reads 0x0100015A [0x70000] = .ok (.rbrel { X0 with a := 2 }, 12) := by
  and_intros <;> rfl

/-- CPY [v22], [v20], v4, #0x6, signal=v3, wait=0x20; GATH [v20], [v22], [v24], #64, #4, signal=v3; SCAT [v22], [v20], [v24], #4, #4;
SRINV [v20]; MBLD.S1 [v22], signal=v3; MMA.A1.Z [v20], planes=12, signal=v3, wait=0x40; MLUT.S1 [v20], planes=2; MLMA.A1 [v22], signal=v3;
MDRAIN.Z [v24]; MCLS #3. -/
theorem test_decode_engines :
    reads 0x0A0B015E [0x2000600070304] = .ok (.cpy { X0 with a := 0x14, b := 4, c := 3, d := 0x16, imm := 0x20006 }, 12) ∧
    reads 0x0B0A0162 [0x3F0300070318] = .ok (.gath { X0 with a := 0x16, b := 0x18, c := 3, d := 0x14, imm := 0x3f03 }, 12) ∧
    reads 0x0A0B0166 [0x3030007F818] = .ok (.scat { X0 with a := 0x14, b := 0x18, c := 0xf8, d := 0x16, imm := 0x303 }, 12) ∧
    reads 0x0A00016A [0x70000] = .ok (.srinv { X0 with a := 0x14 }, 12) ∧
    reads 0x0B00036E [0x70300] = .ok (.mbld { X0 with a := 0x16, c := 3, sub := 1 }, 12) ∧
    reads 0x0A000D72 [0x4001400070300] = .ok (.mma { X0 with a := 0x14, c := 3, sub := 6, imm := 0x40014 }, 12) ∧
    reads 0x0A000376 [0x20007F800] = .ok (.mlut { X0 with a := 0x14, c := 0xf8, sub := 1, imm := 2 }, 12) ∧
    reads 0x0B00057A [0x70300] = .ok (.mlma { X0 with a := 0x16, c := 3, sub := 2 }, 12) ∧
    reads 0x0C00097E [0x7F800] = .ok (.mdrain { X0 with a := 0x18, c := 0xf8, sub := 4 }, 12) ∧
    reads 0x00000182 [0x300070000] = .ok (.mcls { X0 with imm := 3 }, 12) := by
  and_intros <;> rfl

/-- GBCFG [v20]; GBSET [v20+0x100]; GBCLAMP [v20+0x200]; GBSWEEP.S1 v2, #4, signal=v3; GBREAD.STATES [v20+0x300]; GBSTAT.RESET.ENABLE;
GBSEED.FIX v4; RGRP v10, v3, #8; GETS v1, s.lvid1; SETS s.bpbase, k4; CCTL.WB [v20+0], v4; ICINV #4. -/
theorem test_decode_spinner_and_system_1 :
    reads 0x0A000186 [0x70000] = .ok (.gbcfg { X0 with a := 0x14 }, 12) ∧
    reads 0x0A00018A [0x10000070000] = .ok (.gbset { X0 with a := 0x14, imm := 0x100 }, 12) ∧
    reads 0x0A00018E [0x20000070000] = .ok (.gbclamp { X0 with a := 0x14, imm := 0x200 }, 12) ∧
    reads 0x01000392 [0x300070300] = .ok (.gbsweep { X0 with a := 2, c := 3, sub := 1, imm := 3 }, 12) ∧
    reads 0x0A000196 [0x30000070000] = .ok (.gbread { X0 with a := 0x14, imm := 0x300 }, 12) ∧
    reads 0x0000079A [0x70000] = .ok (.gbstat { X0 with sub := 3 }, 12) ∧
    reads 0x0200059E [0x70000] = .ok (.gbseed { X0 with a := 4, sub := 2 }, 12) ∧
    reads 0x018501A2 [0x800070000] = .ok (.rgrp { X0 with a := 3, d := 0xa, imm := 8 }, 12) ∧
    reads 0x000081A6 [0x1100070000] = .ok (.gets { X0 with d := 1, imm := 0x11 }, 12) ∧
    reads 0x720001AA [0x3200070000] = .ok (.sets { X0 with a := 0xe4, imm := 0x32 }, 12) ∧
    reads 0x0A0001AE [0x70004] = .ok (.cctl { X0 with a := 0x14, b := 4 }, 12) ∧
    reads 0x000001B2 [0x400070000] = .ok (.icinv { X0 with imm := 4 }, 12) := by
  and_intros <;> rfl

/-- TLBINV.PAGE v20, v2; ERET; SVC #5; BOUND #5, v2, v3, #2; TKPASS; LNCH p1, [v20+0]. -/
theorem test_decode_spinner_and_system_2 :
    reads 0x0A0001B6 [0x70002] = .ok (.tlbinv { X0 with a := 0x14, b := 2 }, 12) ∧
    reads 0x000001BA [0x70000] = .ok (.eret X0, 12) ∧
    reads 0x000001BE [0x500070000] = .ok (.svc { X0 with imm := 5 }, 12) ∧
    reads 0x010001C2 [0x20500070003] = .ok (.bound { X0 with a := 2, b := 3, imm := 0x205 }, 12) ∧
    reads 0x000001C6 [0x70000] = .ok (.tkpass X0, 12) ∧
    reads 0x0A0081CA [0x70000] = .ok (.lnch { X0 with a := 0x14, d := 1 }, 12) := by
  and_intros <;> rfl

/-- FRCP v1, v2 (by the fields of R65, R79); FRSQ v1, v2 (by the fields of R65, R79); FSQRT v3, v4; FEX2 v3, -v4, la=2; FLG2 v1, v2 (by
the fields of R65, R79); FSIN v1, v2 (by the fields of R65, R79); FCOS v1, v2 (by the fields of R65, R79); FTANH.BF16 v3, v4; REGION;
REGION.END. -/
theorem test_decode_special_functions :
    reads 0x010080E2 [0x70000] = .ok (.frcp { X0 with a := 2, d := 1 }, 12) ∧
    reads 0x010080E2 [0x10000070000] = .ok (.frsq { X0 with a := 2, d := 1, imm := 0x100 }, 12) ∧
    reads 0x020180E2 [0x20000070000] = .ok (.fsqrt { X0 with a := 4, d := 3, imm := 0x200 }, 12) ∧
    reads 0x020180E2 [0x30100270000] = .ok (.fex2 { X0 with a := 4, d := 3, imm := 0x301, la := 2 }, 12) ∧
    reads 0x010080E2 [0x40000070000] = .ok (.flg2 { X0 with a := 2, d := 1, imm := 0x400 }, 12) ∧
    reads 0x010080E2 [0x50000070000] = .ok (.fsin { X0 with a := 2, d := 1, imm := 0x500 }, 12) ∧
    reads 0x010080E2 [0x60000070000] = .ok (.fcos { X0 with a := 2, d := 1, imm := 0x600 }, 12) ∧
    reads 0x020182E2 [0x70000070000] = .ok (.ftanh { X0 with a := 4, d := 3, sub := 1, imm := 0x700 }, 12) ∧
    reads 0x00000136 [0x70000] = .ok (.regionI X0, 12) ∧
    reads 0x00000336 [0x70000] = .ok (.regionEnd { X0 with sub := 1 }, 12) := by
  and_intros <;> rfl

/-! ## Well-formedness: a term that each check refuses -/

/-- Ill-formed by the guard G = 7 with GN = 1. -/
theorem test_ill_formed_guards :
    [.nop ⟨true, 7⟩, .nopX { X0 with g := ⟨true, 7⟩ }, .iadd ⟨⟨true, 7⟩, false, 1, 2, 3, none⟩,
      .mov ⟨⟨true, 7⟩, 1, 2, none⟩, .popc ⟨⟨true, 7⟩, false, 1, 2⟩, .isetp ⟨⟨true, 7⟩, false, 1, 2, 0, 1⟩,
      .plop ⟨⟨true, 7⟩, 1, 0, 1, 2⟩, .bra ⟨⟨true, 7⟩, 1⟩, .brx ⟨⟨true, 7⟩, false, 2⟩,
      .joinS ⟨⟨true, 7⟩, 1⟩, .trap ⟨⟨true, 7⟩, 5⟩].all (fun i : Instr => !i.wf) = true := by
  decide

/-- Ill-formed by a literal that is not used, missing, or with a B of its own. -/
theorem test_ill_formed_literals :
    [.iadd ⟨⟨false, 7⟩, false, 1, 2, 3, some 5⟩, .mov ⟨⟨false, 7⟩, 1, 2, some 5⟩, .iaddX { X0 with lit := some 5 },
      .iaddX { X0 with a := 0xFE }, .nopX { X0 with lit := some 5 }].all (fun i : Instr => !i.wf) = true := by
  decide

/-- Ill-formed by TE, T, HOLD and LA where the form has none. -/
theorem test_ill_formed_hints :
    [.iaddX { X0 with te := true }, .ld { X0 with t := 1 }, .vote { X0 with te := true, t := 1, lit := some 1 },
      .stcp { X0 with te := true, d := 0xF8 }, .nopX { X0 with hold := 1 }, .iabsX { X0 with hold := 2 },
      .iaddX { X0 with hold := 3 }, .iaddX { X0 with la := 1 }].all (fun i : Instr => !i.wf) = true := by
  decide

/-- Ill-formed by operand codes of the wrong kind. -/
theorem test_ill_formed_operand_codes :
    [.iaddX { X0 with a := 0xFC }, .iaddX { X0 with b := 0xFF }, .iaddX { X0 with d := 0xF0 },
      .iaddX { X0 with d := 0xF9 }, .iaddX { X0 with sub := 1, a := 3 }, .iaddX { X0 with sub := 1, b := 0xF0 },
      .iaddX { X0 with sub := 1, d := 5 }, .iaddX { X0 with c := 1 }, .imad { X0 with c := 0xFD },
      .sel { X0 with c := 0x10 }, .brxX { X0 with a := 3 }, .joinX { X0 with a := 8 },
      .jinit { X0 with a := 1 }, .jinit { X0 with d := 8 }, .tyield X0,
      .tget X0, .tsetp { X0 with a := 0xF0 }, .cred { X0 with a := 0xF0 },
      .shfl { X0 with b := 0xF9 }, .vote { X0 with a := 0x10 }, .prfx { X0 with a := 0x10 },
      .isetpX { X0 with d := 0x40 }, .plopX { X0 with d := 8 }].all (fun i : Instr => !i.wf) = true := by
  decide

/-- Ill-formed by SUB. -/
theorem test_ill_formed_modifiers :
    [.iaddX { X0 with sub := 0x10 }, .imulX { X0 with sub := 4 }, .imulhX { X0 with sub := 2 },
      .idiv { X0 with sub := 2 }, .popcX { X0 with sub := 4 }, .bfx { X0 with sub := 2 },
      .faddX { X0 with sub := 3 }, .fminX { X0 with sub := 8 }, .fsetpX { X0 with sub := 1 },
      .fcvt { X0 with sub := 7 }, .vote { X0 with sub := 4 }, .prfx { X0 with sub := 2 },
      .cred { X0 with sub := 11 }, .shfl { X0 with sub := 4 }, .tbr { X0 with a := 0xF0, sub := 7 },
      .tget { X0 with a := 0xF0, sub := 2 }, .phase { X0 with sub := 1 }, .phase { X0 with sub := 0x1A },
      .pfence { X0 with sub := 1, imm := 0x0101 }, .regionI { X0 with sub := 2 }].all (fun i : Instr => !i.wf) = true := by
  decide

/-- Ill-formed by IMM. -/
theorem test_ill_formed_immediates :
    [.iaddX { X0 with imm := 1 }, .lea { X0 with imm := 8 }, .bfx { X0 with imm := 0x3E1 },
      .bfi { X0 with imm := 0x400 }, .faddX { X0 with imm := 0x10 }, .ffma { X0 with imm := 0x40 },
      .frcp { X0 with imm := 0x100 }, .fcvt { X0 with sub := 1, imm := 1 }, .braX { X0 with imm := 2 },
      .trapX { X0 with imm := 0x100 }, .svc { X0 with imm := 0x10000 }, .tyield { X0 with a := 0xF0, imm := 0x10000 },
      .tbr { X0 with a := 0xF0, imm := 1 }, .pfence { X0 with sub := 2, imm := 0x0100 }, .pfence { X0 with sub := 2, imm := 0x0001 }].all (fun i : Instr => !i.wf) = true := by
  decide

/-- Ill-formed by the memory forms. -/
theorem test_ill_formed_memory_forms :
    [.ld { X0 with a := 1 }, .ld { X0 with sub := 5 }, .ld { X0 with sub := 0xA },
      .ld { X0 with sub := 4, d := 2 }, .ld { X0 with a := 0xF8, imm := 4, lit := some 0 }, .st { X0 with sub := 8 },
      .st { X0 with d := 1 }, .st { X0 with sub := 3, b := 1 }, .ldk { X0 with b := 1 },
      .atom { X0 with sub := 1 }, .atom { X0 with sub := 2, imm := 0xD0000000 }, .atom { X0 with sub := 3, imm := 0xA0000000 },
      .red { X0 with sub := 2, imm := 0x80000000 }, .red { X0 with sub := 2, imm := 0x90000000 }, .red { X0 with sub := 2, d := 1 },
      .stcp { X0 with sub := 4, d := 0xF8 }, .pref { X0 with sub := 1 }, .boinit { X0 with sub := 1 },
      .boarv { X0 with sub := 2 }, .feput { X0 with d := 0xFA }, .shmap X0,
      .rbacq { X0 with a := 0xF9 }].all (fun i : Instr => !i.wf) = true := by
  decide

/-- Ill-formed by the engine forms. -/
theorem test_ill_formed_engines :
    [.cpy { X0 with d := 1 }, .gath { X0 with b := 1 }, .scat { X0 with a := 1 },
      .srinv { X0 with a := 1 }, .mbld { X0 with sub := 2 }, .mma { X0 with imm := 0x20 },
      .mlut { X0 with imm := 0x10 }, .mlma { X0 with sub := 8 }, .mdrain { X0 with sub := 1 },
      .mcls { X0 with imm := 4 }, .gbcfg { X0 with a := 1 }, .gbset { X0 with b := 1 },
      .gbclamp { X0 with a := 0xFE, lit := some 0 }, .gbsweep { X0 with sub := 2 }, .gbread { X0 with sub := 2 },
      .gbstat { X0 with sub := 4 }, .gbseed { X0 with sub := 3 }].all (fun i : Instr => !i.wf) = true := by
  decide

/-- Ill-formed by the system forms. -/
theorem test_ill_formed_system_forms :
    [.rgrp { X0 with imm := 225 }, .gets { X0 with imm := 0x7 }, .sets { X0 with imm := 0x0 },
      .cctl { X0 with sub := 6 }, .icinv { X0 with imm := 1 }, .tlbinv { X0 with sub := 3 },
      .eret { X0 with imm := 1 }, .tkpass { X0 with a := 1 }, .bound { X0 with imm := 0x40 },
      .lnch { X0 with d := 8 }].all (fun i : Instr => !i.wf) = true := by
  decide

/-- Ill-formed by units that the package does not have. -/
theorem test_ill_formed_happenings :
    [.launch ⟨18, 0, 0⟩ 0 0 0, .launch ⟨0, 0, 0⟩ 4 0 0, .launch ⟨0, 0, 0⟩ 0 0 64,
      .kaleidoscopeMapsSwitch 256, .islandClockStop 128, .furesResolve 4 0 0,
      .amctlGo 0 8 0, .sactlApply 4, .killContext 64,
      .linkDown 18].all (fun i : Instr => !i.wf) = true := by
  decide

/-! ## Steps: the examples that the spec works out -/

/-- Core 0 with one thread whose v registers hold the given values. -/
def coreOf (vs : List (Nat × Word)) : Core := vs.foldl (fun c e => c.writeV 0 e.1 e.2) placeCore

/-- A device where that thread's group has issued. -/
def dev (vs : List (Nat × Word)) : State :=
  { State.reset with
    cores := [(0, coreOf vs)], launches := [placeLaunch], cur := some { core := 0, lid := 1, pc := 0x10000, slots := [0] } }

/-- Whether the instruction of some words, run on v registers, leaves others. -/
def runs (w : Word) (es : List DWord) (ins outs : List (Nat × Word)) : Bool :=
  match reads w es with
  | .ok (i, _) =>
    match exec i (dev ins) with
    | .next s => outs.all (fun e => (s.core 0).readV 0 e.1 == some e.2)
    | _ => false
  | .error _ => false
/-- The example of 20 R364. -/
theorem test_andn_pair : runs 0x0302023A [0x70008] [(6, 0xFFFFFFFF), (7, 0xFF), (8, 0xFFFF), (9, 1)] [(4, 0xFFFF0000), (5, 0xFE)] = true := by decide

/-- The example of 20 R371. -/
theorem test_bfx_unsigned : runs 0x038288D6 [0x6800070000] [(7, 0x12345678)] [(5, 6)] = true := by decide

/-- The example of 20 R371. -/
theorem test_bfx_signed : runs 0x038280D6 [0x6800070000] [(7, 0xA00)] [(5, 0xFFFFFFFA)] = true := by decide

/-- The example of 20 R371. -/
theorem test_bfi : runs 0x038280DA [0xE400070009] [(7, 0xAB), (9, 0xFFFFFFFF)] [(5, 0xFFFFFABF)] = true := by decide

/-- The example of 20 R376. -/
theorem test_clz : runs 0x38020650 [] [(4, 0x8000)] [(3, 0x10)] = true := by decide

/-- The example of 20 R376. -/
theorem test_clz_pair : runs 0x04030252 [0x70000] [(8, 0), (9, 1)] [(6, 0x1F), (7, 0)] = true := by decide

/-- The example of 20 R376. -/
theorem test_ctz_bytes : runs 0x02018656 [0x70000] [(4, 0x800100)] [(3, 0x8070008)] = true := by decide

/-- The example of 20 R376. -/
theorem test_brev : runs 0x38020658 [] [(4, 1)] [(3, 0x80000000)] = true := by decide

/-- The example of 21 R403. -/
theorem test_iabs : runs 0x3802065C [] [(4, 0xFFFFFFFB)] [(3, 5)] = true := by decide

/-- The example of 21 R403. -/
theorem test_iabs_most_negative : runs 0x3802065C [] [(4, 0x80000000)] [(3, 0x80000000)] = true := by decide

/-- The example of 21 R405. -/
theorem test_iadd_saturates_halves : runs 0x0302940A [0x70007] [(6, 0x7FF00010), (7, 0x200005)] [(5, 0x7FFF0015)] = true := by decide

/-- The example of 21 R405. -/
theorem test_iadd_unsigned_halves : runs 0x03029C0A [0x70007] [(6, 0x7FF00010), (7, 0x200005)] [(5, 0x80100015)] = true := by decide

/-- The example of 21 R405. -/
theorem test_isub_saturates_unsigned : runs 0x0302980E [0x70007] [(6, 3), (7, 5)] [(5, 0)] = true := by decide

/-- The example of 21 R405. -/
theorem test_isub : runs 0x38E30A0C [] [(6, 3), (7, 5)] [(5, 0xFFFFFFFE)] = true := by decide

/-- The example of 21 R408. -/
theorem test_idiv : runs 0x020180C6 [0x70005] [(4, 0xFFFFFFF9), (5, 2)] [(3, 0xFFFFFFFD)] = true := by decide

/-- The example of 21 R408. -/
theorem test_irem : runs 0x020180CA [0x70005] [(4, 0xFFFFFFF9), (5, 2)] [(3, 0xFFFFFFFF)] = true := by decide

/-- The example of 21 R408. -/
theorem test_idiv_by_zero : runs 0x020180C6 [0x70005] [(4, 0xFFFFFFF9), (5, 0)] [(3, 0xFFFFFFFF)] = true := by decide

/-- The example of 21 R409. -/
theorem test_imad : runs 0x020180C2 [0x70605] [(4, 0x10000), (5, 0x10000), (6, 0xFFFFFFFF)] [(3, 0xFFFFFFFF)] = true := by decide

/-- The example of 21 R409. -/
theorem test_imad_saturates : runs 0x020190C2 [0x70605] [(4, 0x10000), (5, 0x10000), (6, 0xFFFFFFFF)] [(3, 0x7FFFFFFF)] = true := by decide

/-- The example of 21 R410. -/
theorem test_imin_bytes : runs 0x0201861E [0x70005] [(4, 0x80FF017F), (5, 0x1010201)] [(3, 0x80FF0101)] = true := by decide

/-- The example of 21 R410. -/
theorem test_iminu_bytes : runs 0x02018626 [0x70005] [(4, 0x80FF017F), (5, 0x1010201)] [(3, 0x1010101)] = true := by decide

/-- The example of 21 R411. -/
theorem test_imul : runs 0x38A20610 [] [(4, 0xFFFFFFFF), (5, 2)] [(3, 0xFFFFFFFE)] = true := by decide

/-- The example of 21 R411. -/
theorem test_imulh : runs 0x38A20614 [] [(4, 0xFFFFFFFF), (5, 2)] [(3, 0xFFFFFFFF)] = true := by decide

/-- The example of 21 R411. -/
theorem test_imulhu : runs 0x38A20618 [] [(4, 0xFFFFFFFF), (5, 2)] [(3, 1)] = true := by decide

/-- The example of 21 R422. -/
theorem test_lea_pair : runs 0x050402CE [0x30007000C] [(10, 0x1000), (11, 0x10), (12, 5), (13, 0)] [(8, 0x1028), (9, 0x10)] = true := by decide

/-- The example of 22 R438. -/
theorem test_popc : runs 0x3802064C [] [(4, 0xF1)] [(3, 5)] = true := by decide

/-- The example of 22 R438. -/
theorem test_popc_bytes : runs 0x0201864E [0x70000] [(4, 0xF01FF00)] [(3, 0x4010800)] = true := by decide

/-- The example of 22 R451. -/
theorem test_shl : runs 0x38A2063C [] [(4, 0x800000F0), (5, 0x24)] [(3, 0xF00)] = true := by decide

/-- The example of 22 R451. -/
theorem test_shr : runs 0x38A20640 [] [(4, 0x800000F0), (5, 4)] [(3, 0x800000F)] = true := by decide

/-- The example of 22 R451. -/
theorem test_sar : runs 0x38A20644 [] [(4, 0x800000F0), (5, 0x24)] [(3, 0xF800000F)] = true := by decide

/-- The example of 22 R451. -/
theorem test_rotl : runs 0x38A20648 [] [(4, 0x800000F0), (5, 4)] [(3, 0xF08)] = true := by decide

/-- The example of 20 R388. -/
theorem test_fadd_bf16_even : runs 0x01008262 [0x70003] [(2, 0x3F804000), (3, 0x3B803B80)] [(1, 0x3F804000)] = true := by decide

/-- The example of 20 R391. -/
theorem test_fmin_zeros : runs 0x38610268 [] [(2, 0x80000000), (3, 0)] [(1, 0x80000000)] = true := by decide

/-- The example of 20 R391. -/
theorem test_fmax_nan : runs 0x3861026C [] [(2, 0x7FC00001), (3, 0x40400000)] [(1, 0x40400000)] = true := by decide

/-- The example of 14 R282. -/
theorem test_fcvt_clamps : runs 0x0184CCE6 [0x70000] [(3, 0x43488000)] [(9, 0x7F)] = true := by decide

/-- The example of 14 R282. -/
theorem test_fcvt_wraps : runs 0x01848CE6 [0x70000] [(3, 0x43488000)] [(9, 0xFFFFFF80)] = true := by decide

/-- The example of 14 R282. -/
theorem test_fcvt_bf16 : runs 0x018412E6 [0x70000] [(3, 0x43488000)] [(8, 0x4348)] = true := by decide
/-! ## Witnesses: states and operands that meet the hypotheses of the statements -/

/-- The thread of `dev`. -/
def thr : Thread := newThread placeRec 0 0 0

/-- `dev` with its thread changed. -/
def devT (vs : List (Nat × Word)) (f : Thread → Thread) : State := (dev vs).modThread 0 0 f

/-- `dev` with its core changed. -/
def devC (vs : List (Nat × Word)) (f : Core → Core) : State := (dev vs).modCore 0 f

theorem solo_dev (vs : List (Nat × Word)) (h : (dev vs).thread? 0 0 = some thr) (k : (((dev vs).core 0).crew? 0).isSome) :
    Solo (dev vs) 0 0 thr := ⟨⟨1, 0x10000, rfl⟩, h, k⟩

theorem noFaults_of {s : State} {core slot : Nat} (h : (s.core core).loads = []) : NoFaults s core slot := fun l hl => by
  rw [h] at hl
  cases hl

theorem plain_of {s : State} {core slot : Nat} {t : Thread} (h : t.openRegion = none) (hl : (s.core core).loads = [])
    (hr : (s.rcd t.lid).rbk = false) (hd : (s.rcd t.lid).det = false) (hh : s.heldStores core t.lid t.block = [])
    (hg : t.region = none := by rfl) : Plain s core slot t :=
  ⟨h, fun r e => by rw [hg] at e; exact absurd e (by simp), noFaults_of hl, hr, hd, hh⟩

theorem walkClear_of {s : State} (h : s.cores.all (fun c => c.2.lines.all (fun l => l.upd.isNone)) = true) (e : Option Tlb) :
    WalkClear s e := fun _ _ _ _ c hc l hl _ => by
  have := List.all_eq_true.1 (List.all_eq_true.1 h c hc) l hl
  simpa using this

theorem mapped_of {c : Core} {slot : Nat} {codes : List (BitVec 8)}
    (h : codes.all (fun d => !decide (d.toNat < 0xE0) || (c.vOff slot d.toNat).isSome) = true) : MappedAll c slot codes := by
  intro d hd hlt
  have := List.all_eq_true.1 h d hd
  simpa [hlt] using this

/-- IADD with a register result and with a pair result. -/
theorem witness_IntBinaryResult :
    let s := dev [(0, 2), (1, 3), (2, 5), (3, 7)]
    (∃ f, intBinary (.iaddX { X0 with d := 4, a := 0, b := 1 }) = some ({ X0 with d := 4, a := 0, b := 1 }, 12, f)) ∧
    (∃ f, intBinary (.iaddX { X0 with sub := 1, d := 4, a := 0, b := 2 }) = some ({ X0 with sub := 1, d := 4, a := 0, b := 2 }, 12, f)) ∧
    Solo s 0 0 thr ∧ thr.guard ⟨false, 7⟩ = true ∧ PairDst 4 ∧ MappedAll (s.core 0) 0 [4, 5] ∧
    s.src32 0 0 thr none 0 = .ok 2 ∧ s.src32 0 0 thr none 1 = .ok 3 ∧ s.src32 0 0 thr none 2 = .ok 5 ∧
    s.src64 0 0 thr none 0 = .ok 0x300000002 ∧ s.src64 0 0 thr none 2 = .ok 0x700000005 ∧ s.src64 0 0 thr none 6 = .ok 0 :=
  ⟨⟨_, rfl⟩, ⟨_, rfl⟩, solo_dev _ rfl rfl, rfl, .inl ⟨rfl, by decide⟩, mapped_of rfl, rfl, rfl, rfl, rfl, rfl, rfl⟩

/-- A crew with four entries mapped, and a load that writes v1. -/
def lean (c : Core) : Core :=
  { c with crews := [(0, { newCrew 1 (0, 0) 0 with rbm := Vector.ofFn (fun i : Fin 28 => if i.val < 4 then some i.val else none) })] }

/-- A load of the thread that has not resolved. -/
def pendingLoad (d : BitVec 8) : Load :=
  { id := 9, slot := 0, kind := .ld, treg := none, hidden := 0, dests := [(d, 0)], data := none, va := 0, pc := 0x10000, la := 0
    issued := 0, source := 0, req := none, hint := 0, own := none, slots := [], promised := none, cause := none, booked := none, heldData := false
    heldAbort := none, ending := none, fault := none, leaf := 0, size := 4, signed := false, overlaid := [] }

theorem witness_OperandStops :
    let s := devC [] lean
    let u := devC [] (fun c => { c with loads := [pendingLoad 1] })
    (∃ f, intBinary (.iaddX X0) = some (X0, 12, f)) ∧ Solo s 0 0 thr ∧ Solo u 0 0 thr ∧ thr.guard ⟨false, 7⟩ = true ∧ Handled s thr ∧
    (s.core 0).vOff 0 0x20 = none ∧ ¬MappedAll (s.core 0) 0 [0x20] ∧ MappedAll (s.core 0) 0 [1] ∧ thr.taintOf 0x20 = none ∧
    (s.core 0).blocking 0 0x20 = [] ∧ MappedAll (u.core 0) 0 [2] ∧ thr.taintOf 1 = none ∧ (u.core 0).blocking 0 1 = [9] :=
  ⟨⟨_, rfl⟩, ⟨⟨_, _, rfl⟩, rfl, rfl⟩, ⟨⟨_, _, rfl⟩, rfl, rfl⟩, rfl, ⟨rfl, by decide⟩, rfl,
    fun h => absurd (h 0x20 (by simp) (by decide)) (by decide), mapped_of rfl, rfl, rfl, mapped_of rfl, rfl, rfl⟩

theorem witness_IntUnaryResult :
    let s := dev [(0, 2), (1, 3)]
    (∃ f, intUnary (.popcX { X0 with sub := 1, d := 4 }) = some ({ X0 with sub := 1, d := 4 }, 12, f)) ∧
    (∃ f, intUnary (.clzX { X0 with d := 4 }) = some ({ X0 with d := 4 }, 12, f)) ∧
    Solo s 0 0 thr ∧ thr.guard ⟨false, 7⟩ = true ∧ PairDst 4 ∧ MappedAll (s.core 0) 0 [4, 5] ∧
    s.src32 0 0 thr none 0 = .ok 2 ∧ s.src64 0 0 thr none 0 = .ok 0x300000002 :=
  ⟨⟨_, rfl⟩, ⟨_, rfl⟩, solo_dev _ rfl rfl, rfl, .inl ⟨rfl, by decide⟩, mapped_of rfl, rfl, rfl⟩

theorem witness_MoveSelectResult :
    let s := dev [(0, 2), (1, 3), (2, 5), (3, 7)]
    moves (.movX { X0 with sub := 1, d := 4, b := 2 }) = some ({ X0 with sub := 1, d := 4, b := 2 }, 12) ∧
    (Instr.sel { X0 with d := 4, b := 1, c := 9 }).wf = true ∧ (Instr.sel { X0 with sub := 1, d := 4, b := 2 }).wf = true ∧
    Solo s 0 0 thr ∧ PairDst 4 ∧ MappedAll (s.core 0) 0 [4, 5] ∧
    s.src32 0 0 thr none 0 = .ok 2 ∧ s.src32 0 0 thr none 1 = .ok 3 ∧ s.src64 0 0 thr none 0 = .ok 0x300000002 ∧
    s.src64 0 0 thr none 2 = .ok 0x700000005 :=
  ⟨rfl, rfl, rfl, solo_dev _ rfl rfl, .inl ⟨rfl, by decide⟩, mapped_of rfl, rfl, rfl, rfl, rfl⟩

theorem witness_BitFieldResult :
    let s := dev [(0, 2), (1, 3), (2, 5), (3, 7)]
    (Instr.bfx { X0 with d := 4, imm := 0x3E0 }).wf = true ∧ (Instr.bfx { X0 with sub := 1, d := 4 }).wf = true ∧
    (Instr.bfi { X0 with d := 4, b := 1, imm := 0x1F }).wf = true ∧ (Instr.bfi { X0 with sub := 1, d := 4, b := 2 }).wf = true ∧
    Solo s 0 0 thr ∧ MappedAll (s.core 0) 0 [4, 5] ∧ s.src32 0 0 thr none 0 = .ok 2 ∧ s.src32 0 0 thr none 1 = .ok 3 ∧
    s.src64 0 0 thr none 0 = .ok 0x300000002 ∧ s.src64 0 0 thr none 2 = .ok 0x700000005 :=
  ⟨rfl, rfl, rfl, rfl, solo_dev _ rfl rfl, mapped_of rfl, rfl, rfl, rfl, rfl⟩

theorem witness_IntCompareResult :
    let s := dev [(0, 2), (1, 3), (2, 5), (3, 7)]
    intCompare (.isetpX { X0 with d := 0x17, b := 1 }) = some ({ X0 with d := 0x17, b := 1 }, 12) ∧
    intCompare (.isetpX { X0 with sub := 1, d := 1, b := 2 }) = some ({ X0 with sub := 1, d := 1, b := 2 }, 12) ∧
    Solo s 0 0 thr ∧ s.src32 0 0 thr none 0 = .ok 2 ∧ s.src32 0 0 thr none 1 = .ok 3 ∧
    s.src64 0 0 thr none 0 = .ok 0x300000002 ∧ s.src64 0 0 thr none 2 = .ok 0x700000005 :=
  ⟨rfl, rfl, solo_dev _ rfl rfl, rfl, rfl, rfl, rfl⟩

theorem witness_PredicateLogicResult :
    predLogic (.plop ⟨⟨false, 7⟩, 7, 2, 1, 7⟩) = some ((SPlop.mk ⟨false, 7⟩ 7 2 1 7).toX, 4) ∧ Solo (dev []) 0 0 thr :=
  ⟨rfl, solo_dev _ rfl rfl⟩

theorem witness_FloatBinaryResult :
    let s := dev [(0, 0x3F800000), (1, 0x40000000), (2, 0x7FC00000)]
    (∃ f, floatBinary (.faddX { X0 with d := 2, b := 1 }) = some ({ X0 with d := 2, b := 1 }, 12, f)) ∧
    (∃ f, floatBinary (.fmin ⟨⟨false, 7⟩, false, 0, 1, 2, none⟩) = some ((SBin.mk ⟨false, 7⟩ false 0 1 2 none).toX, 4, f)) ∧
    Solo s 0 0 thr ∧ MappedAll (s.core 0) 0 [2] ∧ s.src32 0 0 thr none 0 = .ok 0x3F800000 ∧ s.src32 0 0 thr none 1 = .ok 0x40000000 ∧
    s.src32 0 0 thr none 2 = .ok 0x7FC00000 :=
  ⟨⟨_, rfl⟩, ⟨_, rfl⟩, solo_dev _ rfl rfl, mapped_of rfl, rfl, rfl, rfl⟩

theorem witness_FloatUnaryResult :
    let s := dev [(0, 0x3F800000)]
    (∃ f, floatUnary (.frcp X0) = some (X0, f)) ∧ (∃ f, floatUnary (.fcvt { X0 with sub := 1 }) = some ({ X0 with sub := 1 }, f)) ∧
    Solo s 0 0 thr ∧ MappedAll (s.core 0) 0 [3] ∧ s.src32 0 0 thr none 0 = .ok 0x3F800000 :=
  ⟨⟨_, rfl⟩, ⟨_, rfl⟩, solo_dev _ rfl rfl, mapped_of rfl, rfl⟩

theorem witness_FloatCompareResult :
    let s := dev [(0, 0x80000000), (1, 0x7FC00000)]
    floatCompare (.fsetpX { X0 with d := 0x3F, b := 1 }) = some ({ X0 with d := 0x3F, b := 1 }, 12) ∧ Solo s 0 0 thr ∧
    s.src32 0 0 thr none 0 = .ok 0x80000000 ∧ s.src32 0 0 thr none 1 = .ok 0x7FC00000 :=
  ⟨rfl, solo_dev _ rfl rfl, rfl, rfl⟩

theorem witness_NanResults :
    (fmtOf 0).isNan 0x7FC00001 = true ∧ (fmtOf 0).isNan 0x3F800000 = false ∧ fp32.isNan (0x7FC00001#32).toNat = true := by decide

theorem witness_GuardAndNopResult :
    guarded (.iadd ⟨⟨true, 1⟩, false, 0, 1, 2, none⟩) = some (⟨true, 1⟩, 4) ∧ guarded (.exit ⟨false, 1⟩) = some (⟨false, 1⟩, 4) ∧
    Solo (devT [] (fun t => { t with preds := 2 })) 0 0 { thr with preds := 2 } ∧
    ({ thr with preds := 2 } : Thread).guard ⟨true, 1⟩ = false ∧ thr.guard ⟨false, 1⟩ = false ∧
    nops (.nop ⟨false, 7⟩) = some (⟨false, 7⟩, 4) ∧ Solo (dev []) 0 0 thr :=
  ⟨rfl, rfl, ⟨⟨_, _, rfl⟩, rfl, rfl⟩, rfl, rfl, rfl, solo_dev _ rfl rfl⟩

theorem witness_BranchResult :
    let s := dev [(2, 0x20000), (3, 0), (4, 0x20002), (5, 0)]
    relBranch (.bra ⟨⟨false, 7⟩, -3⟩) = some (⟨false, 7⟩, 4, -12) ∧ Solo s 0 0 thr ∧ Handled s thr ∧
    pairBranch (.brx ⟨⟨false, 7⟩, false, 1⟩) = some ((SPair.mk ⟨false, 7⟩ false 1).toX, 4) ∧ MappedAll (s.core 0) 0 [2, 3, 4, 5] ∧
    s.src64 0 0 thr none 2 = .ok 0x20000 ∧ s.src64 0 0 thr none 4 = .ok 0x20002 ∧ (0x20002#64).extractLsb' 0 2 ≠ 0 :=
  ⟨rfl, solo_dev _ rfl rfl, ⟨rfl, by decide⟩, rfl, mapped_of rfl, rfl, rfl, by decide⟩

theorem witness_CallReturnResult :
    let s := dev [(2, 0x20000), (3, 0)]
    let t8 : Thread := { thr with depth := 1, cache := [0x10004] }
    let tl : Thread := { thr with stacklim := 7 }
    calls s 0 0 thr (.call ⟨⟨false, 7⟩, 4⟩) = some (⟨false, 7⟩, 4, 0x10010) ∧
    calls s 0 0 thr (.callx ⟨⟨false, 7⟩, false, 1⟩) = some (⟨false, 7⟩, 4, 0x20000) ∧ Solo s 0 0 thr ∧ Handled s thr ∧
    MappedAll (s.core 0) 0 (callCodes (.callx ⟨⟨false, 7⟩, false, 1⟩)) ∧ 8 * (thr.depth + 1) ≤ thr.stacklim.toNat ∧ thr.cache.length < 8 ∧
    Solo (devT [] (fun _ => tl)) 0 0 tl ∧ tl.stacklim.toNat < 8 * (tl.depth + 1) ∧
    returns (.ret ⟨false, 7⟩) = some (⟨false, 7⟩, 4) ∧ Solo (devT [] (fun _ => t8)) 0 0 t8 ∧ 0 < t8.depth ∧ t8.cache = [0x10004] ∧
    thr.depth = 0 :=
  ⟨rfl, rfl, solo_dev _ rfl rfl, ⟨rfl, by decide⟩, mapped_of rfl, by decide, by decide, ⟨⟨_, _, rfl⟩, rfl, rfl⟩, by decide, rfl,
    ⟨⟨_, _, rfl⟩, rfl, rfl⟩, by decide, rfl, rfl⟩

theorem witness_TrapInstructions :
    let h : Thread := { thr with mode := .handler }
    traps (.trap ⟨⟨false, 7⟩, 5⟩) = some (⟨false, 7⟩, 4, 0x12, 5) ∧ traps (.brk ⟨false, 7⟩) = some (⟨false, 7⟩, 4, 0x11, 0) ∧
    Solo (dev []) 0 0 thr ∧ Handled (dev []) thr ∧ Solo (devT [] (fun _ => h)) 0 0 h ∧ ¬Handled (devT [] (fun _ => h)) h ∧
    (devT [] (fun _ => h)).launch? 1 = some placeLaunch ∧ placeLaunch.ended = none :=
  ⟨rfl, rfl, solo_dev _ rfl rfl, ⟨rfl, by decide⟩, ⟨⟨_, _, rfl⟩, rfl, rfl⟩, fun h => absurd h.1 (by decide), rfl, rfl⟩

theorem witness_ReturnFromTrap :
    let h : Thread := { thr with mode := .handler, epc := 0x10008 }
    Solo (devT [] (fun _ => h)) 0 0 h ∧ h.mode = .handler ∧ h.epc.extractLsb' 0 2 = 0 ∧ Solo (dev []) 0 0 thr ∧ Handled (dev []) thr :=
  ⟨⟨⟨_, _, rfl⟩, rfl, rfl⟩, rfl, rfl, solo_dev _ rfl rfl, ⟨rfl, by decide⟩⟩

/-- Core 0 with join mask 1 and its arrivals. -/
def joined (m a : DWord) (c : Core) : Core := c.modCrew 0 (fun y => { y with j := y.j.set 1 (m, a) })

theorem witness_JoinMaskResult :
    Solo (dev [(2, 3)]) 0 0 thr ∧ (dev [(2, 3)]).src64 0 0 thr none 2 = .ok 3 ∧ (((dev [(2, 3)]).core 0).readJ 0 1).2 = 0 ∧
    Solo (devC [] (joined 3 2)) 0 0 thr ∧ (((devC [] (joined 3 2)).core 0).readJ 0 1) = (3, 2) ∧ Handled (devC [] (joined 3 2)) thr ∧
    leaves (.jleave ⟨⟨false, 7⟩, 1⟩) = some (⟨false, 7⟩, 1, 4) ∧ Solo (devC [] (joined 7 2)) 0 0 thr ∧
    ((2 : DWord) &&& ~~~1 ≠ 7 &&& ~~~1) ∧ ((1 : DWord) &&& ~~~1 = 0) :=
  ⟨solo_dev _ rfl rfl, rfl, rfl, ⟨⟨_, _, rfl⟩, rfl, rfl⟩, rfl, ⟨rfl, by decide⟩, rfl, ⟨⟨_, _, rfl⟩, rfl, rfl⟩, by decide, by decide⟩

theorem witness_JoinResult :
    joins (.joinS ⟨⟨false, 7⟩, 1⟩) = some (⟨false, 7⟩, 1, 4) ∧ Solo (devC [] (joined 3 0)) 0 0 thr ∧
    ((devC [] (joined 3 0)).core 0).readJ 0 1 = (3, 0) ∧ Solo (devC [] (joined 1 0)) 0 0 thr ∧
    ((devC [] (joined 1 0)).core 0).readJ 0 1 = (1, 0) ∧ ((devC [] (joined 1 0)).core 0).slotsIn 0 = [0] ∧
    Solo (devC [] (joined 2 0)) 0 0 thr ∧ ((devC [] (joined 2 0)).core 0).readJ 0 1 = (2, 0) ∧ Handled (devC [] (joined 2 0)) thr :=
  ⟨rfl, ⟨⟨_, _, rfl⟩, rfl, rfl⟩, rfl, ⟨⟨_, _, rfl⟩, rfl, rfl⟩, rfl, rfl, ⟨⟨_, _, rfl⟩, rfl, rfl⟩, rfl, ⟨rfl, by decide⟩⟩

/-- `dev` with a second thread in lane 1. -/
def two (f : Thread → Thread) : State :=
  devC [] (fun c => { c with threads := [(0, thr), (1, f (newThread placeRec 0 1 0))] })

theorem witness_YieldResult :
    yields (.yield ⟨false, 7⟩) = some (⟨false, 7⟩, 4) ∧ Solo (dev []) 0 0 thr ∧
    ((dev []).readyThreads 0).filter (fun e => e.1 != 0) = [] ∧ Solo (two id) 0 0 thr ∧
    (((two id).readyThreads 0).filter (fun e => e.1 != 0)).map (fun e => (e.2.pc.toNat, e.2.lid)) = [(0x10000, 1)] :=
  ⟨rfl, solo_dev _ rfl rfl, rfl, ⟨⟨_, _, rfl⟩, rfl, rfl⟩, rfl⟩

/-- `thr` with time register 2 in a state, at cycle 5. -/
def timed (st : BitVec 3) : Thread := thr.setTreg 2 (st ++ 5#29)

theorem witness_TimeRegisterWaits :
    twaits (.twait ⟨⟨false, 7⟩, 2⟩) = some (⟨false, 7⟩, 2, 4) ∧ tclrs (.tclr ⟨⟨false, 7⟩, 2⟩) = some (⟨false, 7⟩, 2, 4) ∧
    (∀ st, Solo (devT [] (fun _ => timed st)) 0 0 (timed st)) ∧ (∀ st, tstate ((timed st).treg 2) = st.toNat) := by
  refine ⟨rfl, rfl, fun st => ⟨⟨_, _, rfl⟩, rfl, rfl⟩, by decide⟩

theorem witness_ExitFreesThread :
    let s := devC [] (fun c => { c with
      threads := [(0, thr), (64, newThread placeRec 0 0 1)], crews := c.crews ++ [(1, newCrew 1 (1, 0) 0)] })
    exits (.exit ⟨false, 7⟩) = some ⟨false, 7⟩ ∧ Solo s 0 0 thr ∧ thr.openRegion = none ∧ (s.rcd 1).rbk = false ∧
    (s.core 0).slotsOf 1 0 = [0, 64] ∧ (s.core 0).slotsIn 0 = [0] ∧ (s.core 0).loads = [] ∧ s.fabric = [] :=
  ⟨rfl, ⟨⟨_, _, rfl⟩, rfl, rfl⟩, rfl, rfl, rfl, rfl, rfl, rfl⟩

theorem witness_BlockBarrierResult :
    bsyncs (.bsync ⟨false, 7⟩) = some (⟨false, 7⟩, 4) ∧ Solo (two id) 0 0 thr ∧ Solo (dev []) 0 0 thr ∧ thr.openRegion = none ∧
    thr.region = none ∧ ((dev []).rcd 1).rbk = false ∧ ((dev []).rcd 1).det = false ∧ (dev []).hasMarble 0 0 thr = false ∧
    (two id).hasMarble 0 0 thr = false ∧ (∃ b, ((dev []).core 0).block? 1 0 = some b ∧ b.arrivals = 0) ∧
    (∃ b, ((two id).core 0).block? 1 0 = some b ∧ b.arrivals + 1 < (((two id).core 0).slotsOf 1 0).length) ∧
    ((dev []).core 0).slotsOf 1 0 = [0] ∧
    NoFaults (dev []) 0 0 ∧ NoFaults (two id) 0 0 ∧ (∀ l ∈ (dev []).launches, l.passed = []) ∧ (∀ l ∈ (two id).launches, l.passed = []) :=
  ⟨rfl, ⟨⟨_, _, rfl⟩, rfl, rfl⟩, solo_dev _ rfl rfl, rfl, rfl, rfl, rfl, rfl, rfl, ⟨_, rfl, rfl⟩, ⟨_, rfl, by decide⟩, rfl, noFaults_of rfl, noFaults_of rfl,
    by decide, by decide⟩

theorem noneCrossing_of {s : State} {core slot : Nat} (h : (s.core core).threads.all (fun e => !e.2.atCross) = true) :
    NoneCrossing s core slot := fun o u _ _ hu => by
  have := List.all_eq_true.1 h (o, u) (tget_mem hu)
  simpa using this

/-- A thread outside a mask, one that it names alone with its guard true and false, one that a second live thread has not joined, and
an STCP that stores and one that does not. -/
theorem witness_CrossLaneResult :
    let x : XOps := { X0 with d := 2, sub := 2, te := true, lit := some 1 }
    let o : XOps := { x with lit := some 2 }
    let f : XOps := { x with g := ⟨false, 1⟩ }
    let b : XOps := { X0 with g := ⟨false, 1⟩, d := 2, sub := 2, te := true, lit := some 3 }
    let y : XOps := { X0 with a := 0xF8, lit := some 0x00FF000000100000, d := 0xF8, sub := 2, c := 7, t := 1 }
    let s := dev [(0, 4)]
    let j := devC [] (joined 1 0)
    crossOps (.vote x) = some x ∧ Solo s 0 0 thr ∧ NoneCrossing s 0 0 ∧ Handled s thr ∧
    (crossMask s 0 0 o).getLsbD 0 = false ∧ (crossMask s 0 0 x).getLsbD 0 = true ∧ (s.core 0).slotsIn 0 = [0] ∧
    thr.guard f.g = false ∧ thr.guard x.g = true ∧ MappedAll (s.core 0) 0 (aloneCodes (.vote x)) ∧ PairDst x.d ∧
    aloneResult (.vote x) 0 true 0 = some (.pair 1) ∧ (s.src32 0 0 thr none 0 = .ok 4) ∧
    Solo (two id) 0 0 thr ∧ NoneCrossing (two id) 0 0 ∧ (∃ u, (two id).thread? 0 1 = some u) ∧ (crossMask (two id) 0 0 b).getLsbD 1 = true ∧
    Solo j 0 0 thr ∧ NoneCrossing j 0 0 ∧ (crossMask j 0 0 y).getLsbD 0 = true ∧ Plain j 0 0 thr ∧
    MappedAll (j.core 0) 0 ([y.d] ++ baseCodes y ++ codesOf y.b 4) ∧ j.address 0 0 thr y y.imm.toInt = .ok 0x00FF000000100000 ∧
    (∃ v, j.srcN 0 0 thr y.lit y.b 4 = .ok v) ∧ thr.pred 7 = true ∧ thr.pred 1 = false ∧
    (∃ e, j.resolve 0 thr.lid (j.ctxOf thr) (j.core 0).tlb (j.priv thr) .atomic 0x00FF000000100000 4 .write .ls = .ok (.store 0 0x100000, e)) := by
  refine ⟨rfl, solo_dev _ rfl rfl, noneCrossing_of rfl, ⟨rfl, by decide⟩, rfl, rfl, rfl, rfl, rfl, mapped_of rfl, .inl ⟨rfl, by decide⟩, rfl,
    rfl, ⟨⟨_, _, rfl⟩, rfl, rfl⟩, noneCrossing_of rfl, ⟨_, rfl⟩, rfl, ⟨⟨_, _, rfl⟩, rfl, rfl⟩, noneCrossing_of rfl, rfl,
    plain_of rfl rfl rfl rfl rfl, mapped_of rfl, rfl, ⟨_, rfl⟩, rfl, rfl, ⟨_, rfl⟩⟩

/-- The launch of `dev`, deterministic, with its marble at the thread's crew, or with checkpoints. -/
def ruled (f : LaunchRec → LaunchRec) (m : Option (Nat × Nat)) : State :=
  { dev [] with launches := [{ placeLaunch with rcd := f placeLaunch.rcd, marble := m }] }

theorem witness_TimeBranchResult :
    let d := ruled (fun r => { r with det := true }) (some (0, 0))
    Solo (dev [(1, 7)]) 0 0 thr ∧ NotDet (dev [(1, 7)]) ∧ thr.guard X0.g = true ∧ (dev [(1, 7)]).src32 0 0 thr none 1 = .ok 7 ∧
    MappedAll ((dev [(1, 7)]).core 0) 0 [2] ∧ (∀ st, Solo (devT [] (fun _ => timed st)) 0 0 (timed st)) ∧
    (∀ st, ((timed st).treg 2).extractLsb' 29 3 = st) ∧
    0 < (((timed 2).treg 2).extractLsb' 0 29 + BitVec.ofInt 29 (100#16).toInt - (devT [] (fun _ => timed 2)).now29 0).toInt ∧
    (((timed 2).treg 2).extractLsb' 0 29 + BitVec.ofInt 29 (-100#16).toInt - (devT [] (fun _ => timed 2)).now29 0).toInt ≤ 0 ∧
    Solo d 0 0 thr ∧ d.cur.map (·.lid) = some thr.lid ∧ (∃ l, d.launch? 1 = some l ∧ l.rcd.det = true) := by
  refine ⟨solo_dev _ rfl rfl, fun g h => by cases h; rfl, rfl, rfl, mapped_of rfl, fun st => ⟨⟨_, _, rfl⟩, rfl, rfl⟩, by decide, by decide,
    by decide, ⟨⟨_, _, rfl⟩, rfl, rfl⟩, rfl, ⟨_, rfl, rfl⟩⟩

/-- An access of a word at the literal address v. -/
def at_ (v : DWord) : XOps := { X0 with a := 0xF8, b := 1, d := 2, sub := 2, lit := some v }

theorem witness_StoreToCoreStore :
    let x := at_ 0x00FF000000100000
    let s := dev [(1, 7)]
    Solo s 0 0 thr ∧ Ready s 0 0 thr x (bytesOfAccess x) x.imm.toInt 0x00FF000000100000 (codesOf x.b (bytesOfAccess x)) ∧ Plain s 0 0 thr ∧
    s.srcN 0 0 thr x.lit x.b (bytesOfAccess x) = .ok 7 ∧
    (∃ e, s.resolve 0 thr.lid (s.ctxOf thr) (s.core 0).tlb (s.priv thr) .ldst 0x00FF000000100000 4 .write .ls = .ok (.store 0 0x100000, e)) :=
  ⟨solo_dev _ rfl rfl, ⟨rfl, mapped_of rfl, fun h => absurd h (by decide), rfl, by decide⟩, plain_of rfl rfl rfl rfl rfl, rfl, ⟨_, rfl⟩⟩

/-- A device whose context 0 maps 64 GiB, with a thread whose group has issued. -/
def devM (vs : List (Nat × Word)) : State :=
  { State.reset.withThread with cores := [(0, coreOf vs)], cur := some { core := 0, lid := 1, pc := 0x10000, slots := [0] } }

theorem witness_StoreToMemory :
    let x : XOps := { at_ 0x30000 with sub := 0x32 }
    let s := devM [(1, 7)]
    Solo s 0 0 thr ∧ Ready s 0 0 thr x (bytesOfAccess x) x.imm.toInt 0x30000 (codesOf x.b (bytesOfAccess x)) ∧ Plain s 0 0 thr ∧
    s.srcN 0 0 thr x.lit x.b (bytesOfAccess x) = .ok 7 ∧
    (∃ e leaf, s.resolve 0 thr.lid (s.ctxOf thr) (s.core 0).tlb (s.priv thr) .ldst 0x30000 4 .write .ls = .ok (.mem 0x30000 leaf, some e)) ∧
    x.sub.extractLsb' 4 2 = 3 ∧ (at_ 0x30000).sub.extractLsb' 4 2 ≠ 3 ∧ NoCopies s (0x30000 / 128) ∧ (∃ l, s.locate 0x30000 = .ok l) ∧
    0x30000 % 128 + bytesOfAccess x ≤ 128 ∧ (s.core 0).line? 1 (0x30000 / 128) = none ∧
    (s.core 0).l1Out 1 (0x30000 / 128) = none ∧ ∀ e, WalkClear s (some e) := by
  refine ⟨⟨⟨_, _, rfl⟩, rfl, rfl⟩, ⟨rfl, mapped_of rfl, fun h => absurd h (by decide), rfl, by decide⟩, plain_of rfl rfl rfl rfl rfl, rfl,
    ⟨_, _, rfl⟩, rfl, by decide, ?_, ⟨_, rfl⟩, by decide, rfl, rfl, fun e => walkClear_of rfl _⟩
  intro e he l hl
  simp only [devM, List.mem_singleton] at he
  subst he
  cases hl

/-- `thr` with a region open that holds some stores. -/
def inRegion (l : List Buffered) : Thread := { thr with region := some { start := 0x10000, stores := l } }

/-- A store of four bytes in the scratchpad at 32 × k. -/
def storeAt (k : Nat) : Buffered := buffered thr 0 (0x00FF000000100000 + 32 * BitVec.ofNat 64 k) 4 0 7 none

theorem witness_StoreInRegion :
    let x := at_ 0x00FF000000100200
    let t := inRegion []
    let u := inRegion ((List.range 16).map storeAt)
    let s := devT [(1, 7)] (fun _ => t)
    let r := devT [(1, 7)] (fun _ => u)
    Solo s 0 0 t ∧ Ready s 0 0 t x (bytesOfAccess x) x.imm.toInt 0x00FF000000100200 (codesOf x.b (bytesOfAccess x)) ∧
    t.openRegion = some { start := 0x10000, stores := [] } ∧ (∀ e, WalkClear s e) ∧ (s.rcd 1).rbk = false ∧ s.srcN 0 0 t x.lit x.b (bytesOfAccess x) = .ok 7 ∧
    (∃ e, s.resolve 0 1 (s.ctxOf t) (s.core 0).tlb (s.priv t) .ldst 0x00FF000000100200 4 .write .ls = .ok (.store 0 0x100200, e) ∧
      (granules 0 ([] ++ [buffered t 0 0x00FF000000100200 4 0 7 e])).length ≤ 16) ∧
    Solo r 0 0 u ∧ Handled r u ∧ u.openRegion = some { start := 0x10000, stores := (List.range 16).map storeAt } ∧ (∀ e, WalkClear r e) ∧
    (∃ e, r.resolve 0 1 (r.ctxOf u) (r.core 0).tlb (r.priv u) .ldst 0x00FF000000100200 4 .write .ls = .ok (.store 0 0x100200, e) ∧
      16 < (granules 0 ((List.range 16).map storeAt ++ [buffered u 0 0x00FF000000100200 4 0 7 e])).length) :=
  ⟨⟨⟨_, _, rfl⟩, rfl, rfl⟩, ⟨rfl, mapped_of rfl, fun h => absurd h (by decide), rfl, by decide⟩, rfl, walkClear_of rfl, rfl, rfl, ⟨_, rfl, by decide⟩,
    ⟨⟨_, _, rfl⟩, rfl, rfl⟩, ⟨rfl, by decide⟩, rfl, walkClear_of rfl, ⟨_, rfl, by decide⟩⟩

/-- A misaligned address, one outside the core store, and one whose region has no bounds. -/
theorem witness_AccessTraps :
    let x := at_ 0x00FF000000100002
    let y := at_ 0x00FF000000040000
    let z := at_ 0x0100000000030000
    let s := dev [(1, 7)]
    let m := devM [(1, 7)]
    Solo s 0 0 thr ∧ Handled s thr ∧ thr.guard x.g = true ∧ s.address 0 0 thr x x.imm.toInt = .ok 0x00FF000000100002 ∧
    MappedAll (s.core 0) 0 [2, 1] ∧ 0x00FF000000100002 % bytesOfAccess x ≠ 0 ∧ s.srcN 0 0 thr x.lit x.b (bytesOfAccess x) = .ok 7 ∧
    s.address 0 0 thr y y.imm.toInt = .ok 0x00FF000000040000 ∧
    (∃ f, s.resolve 0 1 (s.ctxOf thr) (s.core 0).tlb (s.priv thr) .ldst 0x00FF000000040000 4 .read .ls = .error f ∧ f.kind = .permission) ∧
    (∃ f, s.resolve 0 1 (s.ctxOf thr) (s.core 0).tlb (s.priv thr) .ldst 0x00FF000000040000 4 .write .ls = .error f ∧ f.kind = .permission) ∧
    Solo m 0 0 thr ∧ Handled m thr ∧ m.address 0 0 thr z z.imm.toInt = .ok 0x0100000000030000 ∧
    (∃ f, m.resolve 0 1 (m.ctxOf thr) (m.core 0).tlb (m.priv thr) .ldst 0x0100000000030000 4 .read .ls = .error f ∧ f.kind = .bounds) ∧
    (∃ f, m.resolve 0 1 (m.ctxOf thr) (m.core 0).tlb (m.priv thr) .ldst 0x0100000000030000 4 .write .ls = .error f ∧ f.kind = .bounds) :=
  ⟨solo_dev _ rfl rfl, ⟨rfl, by decide⟩, rfl, rfl, mapped_of rfl, by decide, rfl, rfl, ⟨_, rfl, rfl⟩, ⟨_, rfl, rfl⟩,
    ⟨⟨_, _, rfl⟩, rfl, rfl⟩, ⟨rfl, by decide⟩, rfl, ⟨_, rfl, rfl⟩, ⟨_, rfl, rfl⟩⟩

theorem noCopies_of {s : State} {line : Nat} (h : s.cores.all (fun e => e.2.lines.all (fun l => l.addr != line)) = true) :
    NoCopies s line := fun e he l hl => by
  have := List.all_eq_true.1 (List.all_eq_true.1 h e he) l hl
  simpa using this

/-- Loads of the core store, of a store of the thread's open region, of memory with a bypass hint, and of memory through the share. -/
theorem witness_LoadResult :
    let x := at_ 0x00FF000000100000
    let y := at_ 0x30000
    let t := inRegion [storeAt 0]
    let s := dev []
    let r := devT [] (fun _ => t)
    let m := devM []
    Solo s 0 0 thr ∧ Ready s 0 0 thr x 4 x.imm.toInt 0x00FF000000100000 [2] ∧
    (∃ e, s.resolve 0 1 (s.ctxOf thr) (s.core 0).tlb (s.priv thr) .ldst 0x00FF000000100000 4 .read .ls = .ok (.store 0 0x100000, e)) ∧
    (s.core 0).badIn 0x100000 4 = none ∧ s.above 0 thr = [] ∧
    Solo r 0 0 t ∧ Ready r 0 0 t x 4 x.imm.toInt 0x00FF000000100000 [2] ∧
    (∃ e, r.resolve 0 1 (r.ctxOf t) (r.core 0).tlb (r.priv t) .ldst 0x00FF000000100000 4 .read .ls = .ok (.store 0 0x100000, e)) ∧
    r.above 0 t = [] ++ [storeAt 0] ∧ (storeAt 0).va = 0x00FF000000100000 ∧ leafNq (storeAt 0).leaf = false ∧
    Solo m 0 0 thr ∧ Ready m 0 0 thr y 4 y.imm.toInt 0x30000 [2] ∧ m.above 0 thr = [] ∧ NoCopies m (0x30000 / 128) ∧
    (m.rcd 1).det = false ∧ (m.core 0).l1Out 1 (0x30000 / 128) = none ∧ (∀ e, WalkClear s e ∧ WalkClear r e ∧ WalkClear m e) ∧
    (∃ e leaf, m.resolve 0 1 (m.ctxOf thr) (m.core 0).tlb (m.priv thr) .ldst 0x30000 4 .read .ls = .ok (.mem 0x30000 leaf, e) ∧
      (∃ v, m.readPa (m.ctxOf thr) (leafMac leaf) 0x30000 4 = .ok v) ∧ ∃ w, m.readPa (m.ctxOf thr) (leafMac leaf) 0x30000 32 = .ok w) :=
  ⟨solo_dev _ rfl rfl, ⟨rfl, mapped_of rfl, fun h => absurd h (by decide), rfl, by decide⟩, ⟨_, rfl⟩, rfl, rfl,
    ⟨⟨_, _, rfl⟩, rfl, rfl⟩, ⟨rfl, mapped_of rfl, fun h => absurd h (by decide), rfl, by decide⟩, ⟨_, rfl⟩, rfl, rfl, rfl,
    ⟨⟨_, _, rfl⟩, rfl, rfl⟩, ⟨rfl, mapped_of rfl, fun h => absurd h (by decide), rfl, by decide⟩, rfl, noCopies_of rfl, rfl,
    rfl, fun e => ⟨walkClear_of rfl e, walkClear_of rfl e, walkClear_of rfl e⟩, ⟨_, _, rfl, ⟨_, rfl⟩, ⟨_, rfl⟩⟩⟩

/-- CAS and an update without a result, in the core store and in memory. -/
theorem witness_AtomicResult :
    let x : XOps := { at_ 0x00FF000000100000 with imm := 0x90000000 }
    let y : XOps := { at_ 0x30000 with d := 0 }
    let s := dev [(1, 7)]
    let m := devM [(1, 7)]
    Solo s 0 0 thr ∧ Plain s 0 0 thr ∧ (x.imm.extractLsb' 28 4).toNat = 9 ∧ s.srcN 0 0 thr x.lit x.b 4 = .ok 7 ∧
    s.srcN 0 0 thr x.lit x.c 4 = .ok 0 ∧
    Ready s 0 0 thr x 4 (x.imm.extractLsb' 0 28).toInt 0x00FF000000100000 ([2] ++ codesOf x.b 4 ++ codesOf x.c 4) ∧
    (∃ e, s.resolve 0 1 (s.ctxOf thr) (s.core 0).tlb (s.priv thr) .atomic 0x00FF000000100000 4 .atomic .ls = .ok (.store 0 0x100000, e)) ∧
    (s.core 0).badIn 0x100000 4 = none ∧
    (∃ e, s.resolve 0 1 (s.ctxOf thr) (s.core 0).tlb (s.priv thr) .atomic 0x00FF000000100000 4 .reduce .ls = .ok (.store 0 0x100000, e)) ∧
    Solo m 0 0 thr ∧ Plain m 0 0 thr ∧ (y.imm.extractLsb' 28 4).toNat ≠ 9 ∧ NoCopies m (0x30000 / 128) ∧
    Ready m 0 0 thr y 4 (y.imm.extractLsb' 0 28).toInt 0x30000 (codesOf y.d 4 ++ codesOf y.b 4) ∧
    (∃ e leaf, m.resolve 0 1 (m.ctxOf thr) (m.core 0).tlb (m.priv thr) .atomic 0x30000 4 .atomic .ls = .ok (.mem 0x30000 leaf, e) ∧
      ∃ v, m.readPa (m.ctxOf thr) (leafMac leaf) 0x30000 4 = .ok v) ∧
    (∃ e leaf, m.resolve 0 1 (m.ctxOf thr) (m.core 0).tlb (m.priv thr) .atomic 0x30000 4 .reduce .ls = .ok (.mem 0x30000 leaf, e)) ∧
    (m.core 0).l1Out 1 (0x30000 / 128) = none ∧ ∀ e, WalkClear s e ∧ WalkClear m e :=
  ⟨solo_dev _ rfl rfl, plain_of rfl rfl rfl rfl rfl, rfl, rfl, rfl, ⟨rfl, mapped_of rfl, fun h => absurd h (by decide), rfl, by decide⟩,
    ⟨_, rfl⟩, rfl, ⟨_, rfl⟩, ⟨⟨_, _, rfl⟩, rfl, rfl⟩, plain_of rfl rfl rfl rfl rfl, by decide, noCopies_of rfl,
    ⟨rfl, mapped_of rfl, fun h => absurd h (by decide), rfl, by decide⟩, ⟨_, _, rfl, ⟨_, rfl⟩⟩, ⟨_, _, rfl⟩,
    rfl, fun e => ⟨walkClear_of rfl e, walkClear_of rfl e⟩⟩

theorem ok_of {ε α : Type} {e : Except ε α} (h : e.toOption.isSome = true) : ∃ v, e = .ok v := by
  cases e with
  | ok v => exact ⟨v, rfl⟩
  | error x => cases h

/-- LDK that bypasses, that hits and that misses; PREF of a control-window address and of memory. -/
theorem witness_ConstantLoadPrefetchResult :
    let y := at_ 0x30000
    let m := devM []
    let h := m.modCore 0 (fun c => { c with constant := [(0x30000 / 64, 5)] })
    let p : XOps := { X0 with a := 0xF8, lit := some 0x00FD000000000000 }
    let q : XOps := { X0 with a := 0xF8, sub := 0x30, lit := some 0x30000 }
    Solo m 0 0 thr ∧ Ready m 0 0 thr y 4 y.imm.toInt 0x30000 [2] ∧ NoCopies m (0x30000 / 128) ∧
    (∃ e leaf, m.resolve 0 1 (m.ctxOf thr) (m.core 0).tlb (m.priv thr) .other 0x30000 4 .read .kr = .ok (.mem 0x30000 leaf, e) ∧
      (∃ v, m.readPa (m.ctxOf thr) (leafMac leaf) 0x30000 4 = .ok v) ∧ ∃ w, m.readPa (m.ctxOf thr) (leafMac leaf) 0x30000 64 = .ok w) ∧
    tget (m.core 0).constant (0x30000 / 64) = none ∧ Solo h 0 0 thr ∧ tget (h.core 0).constant (h.ctxOf thr * 2 ^ 48 + 0x30000 / 64) = some 5 ∧
    Ready m 0 0 thr p 1 p.imm.toInt 0x00FD000000000000 [] ∧ Ready m 0 0 thr q 1 q.imm.toInt 0x30000 [] ∧ q.sub.extractLsb' 4 2 = 3 ∧
    (∃ e leaf, m.resolve 0 1 (m.ctxOf thr) (m.core 0).tlb (m.priv thr) .ldst 0x30000 1 .read .ls = .ok (.mem 0x30000 leaf, e) ∧
      (∃ v, m.readPa (m.ctxOf thr) (leafMac leaf) 0x30000 64 = .ok v) ∧ ∃ w, m.readPa (m.ctxOf thr) (leafMac leaf) 0x30040 64 = .ok w) ∧
    (∃ leaf e, m.resolve 0 1 (m.ctxOf thr) (m.core 0).tlb (m.priv thr) .ldst 0x30000 1 .read .ls = .ok (.mem 0x30000 leaf, e) ∧
      ∀ k, k < 4 → ∃ v, m.readPa (m.ctxOf thr) (leafMac leaf) (0x30000 / 128 * 128 + 32 * k) 32 = .ok v) ∧
    (m.core 0).l1Out 1 (0x30000 / 128) = none ∧ ∀ e, WalkClear m e := by
  refine ⟨⟨⟨_, _, rfl⟩, rfl, rfl⟩, ⟨rfl, mapped_of rfl, fun h => absurd h (by decide), rfl, by decide⟩, noCopies_of rfl, ?_, ?_,
    ⟨⟨_, _, rfl⟩, rfl, rfl⟩, ?_, ?_, ?_, rfl, ?_, ?_, rfl, walkClear_of rfl⟩
  · refine ⟨_, _, rfl, ?_, ?_⟩
    · exact ok_of (by decide)
    · exact ok_of (by decide)
  · rfl
  · exact (by decide : tget [(0x30000 / 64, (5 : BitVec 1024))] (0 * 2 ^ 48 + 0x30000 / 64) = some 5)
  · exact ⟨rfl, mapped_of rfl, fun h => absurd h (by decide), rfl, by decide⟩
  · exact ⟨rfl, mapped_of rfl, fun h => absurd h (by decide), rfl, by decide⟩
  · exact ⟨_, _, rfl, ok_of (by decide), ok_of (by decide)⟩
  · refine ⟨_, _, rfl, fun k hk => ?_⟩
    have h : k = 0 ∨ k = 1 ∨ k = 2 ∨ k = 3 := by omega
    rcases h with rfl | rfl | rfl | rfl <;> exact ok_of (by decide)

theorem cleanShare_of {s : State} {core lid : Nat} (h : (s.core core).lines = []) : CleanShare s core lid := fun l hl _ => by
  rw [h] at hl
  cases hl

/-- A line of the launch's share with one dirty byte. -/
def dirtyLine : Line :=
  { lid := 1, addr := 0x600, data := 5, valid := 1, newer := 0, dirty := 1#128 <<< 3, upd := none, retain := false, last := (0, 0, 0, 0, 0), leaf := 0 }

theorem witness_PhaseResult :
    let s := devM []
    let d := s.modCore 0 (fun c => { c with lines := [dirtyLine] })
    let b := ruled (fun r => { r with rbk := true }) none
    let w : State := { two id with launches := b.launches }
    Solo s 0 0 thr ∧ thr.openRegion = none ∧ (s.rcd 1).rbk = false ∧ CleanShare s 0 1 ∧ s.fabric = [] ∧ s.cxlAwait = [] ∧
    Solo d 0 0 thr ∧ (d.core 0).lines.filter (fun l => l.lid == 1) = [dirtyLine] ∧ dirtyLine.upd = none ∧ (∃ l, d.locate (0x600 * 128 + 3) = .ok l) ∧
    Solo b 0 0 thr ∧ (b.rcd 1).rbk = true ∧ (∃ k, (b.core 0).block? 1 0 = some k ∧ k.deferred = []) ∧ (b.core 0).slotsOf 1 0 = [0] ∧
    Solo w 0 0 thr ∧ (w.rcd 1).rbk = true ∧ (∃ k, (w.core 0).block? 1 0 = some k ∧ k.deferred = []) ∧
    (∃ u, w.thread? 0 1 = some u ∧ u.lid = 1 ∧ u.block = 0 ∧ u.park = none) ∧ thr.mode = .user ∧
    thr.awaited = false ∧ NoFaults s 0 0 ∧ NoFaults d 0 0 ∧ NoFaults b 0 0 ∧ NoFaults w 0 0 :=
  ⟨⟨⟨_, _, rfl⟩, rfl, rfl⟩, rfl, rfl, cleanShare_of rfl, rfl, rfl, ⟨⟨_, _, rfl⟩, rfl, rfl⟩, rfl, rfl, ⟨_, rfl⟩,
    ⟨⟨_, _, rfl⟩, rfl, rfl⟩, rfl, ⟨_, rfl, rfl⟩, rfl, ⟨⟨_, _, rfl⟩, rfl, rfl⟩, rfl, ⟨_, rfl, rfl⟩, ⟨_, rfl, rfl, rfl, rfl⟩, rfl,
    rfl, noFaults_of rfl, noFaults_of rfl, noFaults_of rfl, noFaults_of rfl⟩

/-- A gather task of the block that runs. -/
def gathering : Task :=
  { id := 3, op := .gath 0 0 0 1 1, lid := 1, block := 0, tid := (0, 0), pc := 0x10000, signal := none, wait := none, cls := 0
    state := .running, steps := 0, done := [], sweeps := 0, viol := none, idx := [], got := [], copies := [], part := 0, err := false }

theorem witness_PathFenceResult :
    let s := devC [] (fun c => { c with tasks := [gathering] })
    Solo (dev []) 0 0 thr ∧ thr.park = none ∧ CleanShare (dev []) 0 1 ∧ (dev []).sourceTasks 0 thr 0x3C = [] ∧
    Solo s 0 0 thr ∧ CleanShare s 0 1 ∧ s.sourceTasks 0 thr 0x3C = [3] ∧
    thr.openRegion = none ∧ NoFaults (dev []) 0 0 ∧ NoFaults s 0 0 :=
  ⟨solo_dev _ rfl rfl, rfl, cleanShare_of rfl, rfl, ⟨⟨_, _, rfl⟩, rfl, rfl⟩, cleanShare_of rfl, rfl, rfl, noFaults_of rfl, noFaults_of rfl⟩

theorem witness_RegionResult :
    let t := inRegion [storeAt 0]
    let n := ruled (fun r => { r with reg := false }) none
    let h : Thread := { thr with mode := .handler }
    regions (.regionI X0) = some (X0, false) ∧ regions (.regionEnd { X0 with sub := 1 }) = some ({ X0 with sub := 1 }, true) ∧
    Solo (dev []) 0 0 thr ∧ ((dev []).rcd 1).reg = true ∧ thr.mode = .user ∧ thr.region = none ∧
    Solo (devT [] (fun _ => t)) 0 0 t ∧ t.region = some { start := 0x10000, stores := [storeAt 0] } ∧ t.taints = [] ∧
    ((devT [] (fun _ => t)).rcd 1).det = false ∧ ((devT [] (fun _ => t)).rcd 1).rbk = false ∧
    0x00FF000000000000 ≤ ((storeAt 0).va.extractLsb' 0 56).toNat ∧ Solo n 0 0 thr ∧ (n.rcd 1).reg = false ∧ Handled n thr ∧
    NoFaults (dev []) 0 0 ∧ NoFaults (devT [] (fun _ => t)) 0 0 ∧ (∀ b ∈ [storeAt 0], leafDs b.leaf = false) ∧ Solo (devT [] (fun _ => h)) 0 0 h ∧ h.mode = .handler ∧
    ∃ l, (devT [] (fun _ => h)).launch? 1 = some l ∧ l.ended = none :=
  ⟨rfl, rfl, solo_dev _ rfl rfl, rfl, rfl, rfl, ⟨⟨_, _, rfl⟩, rfl, rfl⟩, rfl, rfl, rfl, rfl, by decide, ⟨⟨_, _, rfl⟩, rfl, rfl⟩, rfl,
    ⟨rfl, by decide⟩, noFaults_of rfl, noFaults_of rfl, by decide, ⟨⟨_, _, rfl⟩, rfl, rfl⟩, rfl, _, rfl, rfl⟩

theorem witness_MarbleAndLaunchRequest :
    let d := ruled (fun r => { r with det := true }) (some (0, 0))
    let x : XOps := { X0 with a := 0xF8, lit := some 0x30000 }
    let y : XOps := { X0 with a := 0xF8, lit := some 0x30010 }
    Solo (dev []) 0 0 thr ∧ thr.openRegion = none ∧ ((dev []).rcd 1).det = false ∧ CleanShare (dev []) 0 1 ∧
    MappedAll ((dev []).core 0) 0 (baseCodes x) ∧ (dev []).address 0 0 thr x x.imm.toInt = .ok 0x30000 ∧
    (dev []).address 0 0 thr y y.imm.toInt = .ok 0x30010 ∧ Handled (dev []) thr ∧
    Solo d 0 0 thr ∧ (d.rcd 1).det = true ∧ d.hasMarble 0 0 thr = true ∧ (∃ l, d.launch? 1 = some l ∧ l.marble = some (0, 0)) ∧
    (d.core 0).loads = [] ∧ d.fabric = [] ∧ thr.park ≠ some .marble ∧ (∀ e ∈ (d.core 0).threads, e.2.openRegion = none) ∧
    (∀ n, d.nextOrder 1 (0, 0) [] = some n → d.waitsAtBsync 1 n = false) ∧ NoFaults (dev []) 0 0 ∧ NoFaults d 0 0 :=
  ⟨solo_dev _ rfl rfl, rfl, rfl, cleanShare_of rfl, mapped_of rfl, rfl, rfl, ⟨rfl, by decide⟩, ⟨⟨_, _, rfl⟩, rfl, rfl⟩, rfl, rfl,
    ⟨_, rfl, rfl⟩, rfl, rfl, by decide, by decide, fun n h => by cases h; rfl, noFaults_of rfl, noFaults_of rfl⟩

theorem noWaiter_of {c : Core} {p : Nat} (h : c.threads.all (fun e => e.2.park.isNone) = true) : NoWaiter c p := fun e he q len hq => by
  have := List.all_eq_true.1 h e he
  rw [hq] at this
  cases this

/-- The core of `dev` with an object of one arrival at the start of the scratchpad. -/
def objected (w0 w1 : Word) (c : Core) : Core := { c with store := (c.store.put32 0x100000 w0).put32 0x100004 w1 }

theorem witness_BarrierObjectResult :
    let x : XOps := { X0 with a := 0xF8, b := 1, d := 2 }
    let s := devC [(1, 1)] (objected 1 0)
    let u : Thread := { newThread placeRec 0 1 0 with park := some (.bowait 0x100000 false 12) }
    let w := devC [(1, 0xFFFFFFFF)] (fun c => { objected 0x00010001 1 c with threads := [(0, thr), (1, u)] })
    Solo s 0 0 thr ∧ s.src32 0 0 thr x.lit x.a = .ok 0 ∧ s.spbase 0 thr = 0x100000 ∧ s.src32 0 0 thr x.lit x.b = .ok 1 ∧
    (s.core 0).awaited 1 0 (s.spbase 0 thr) 0x100000 = false ∧ ObjectAt s 0 0 thr x 0x100000 ∧ MappedAll (s.core 0) 0 [x.d] ∧
    Apart (s.core 0) 0 x.d 0x100000 8 ∧ NoWaiter (s.core 0) 0x100000 ∧ pend ((s.core 0).store.get32 0x100004) = 0 ∧
    arr ((s.core 0).store.get32 0x100000) + 1 ≤ Claims.due ((s.core 0).store.get32 0x100000) ∧
    Solo w 0 0 thr ∧ ObjectAt w 0 0 thr x 0x100000 ∧ w.src32 0 0 thr x.lit x.b = .ok (-1) ∧ (w.core 0).threads = [(0, thr), (1, u)] ∧
    pend ((w.core 0).store.get32 0x100004) + (-1 : Word).toInt = 0 ∧
    arr ((w.core 0).store.get32 0x100000) = Claims.due ((w.core 0).store.get32 0x100000) ∧ NoFaults s 0 0 ∧ NoFaults w 0 0 :=
  ⟨⟨⟨_, _, rfl⟩, rfl, rfl⟩, rfl, rfl, rfl, rfl, ⟨⟨0, rfl, by decide, by decide, by decide⟩, rfl, by decide, by decide, by decide⟩,
    mapped_of rfl, fun _ => ⟨_, rfl, .inl (by decide)⟩, noWaiter_of rfl, by decide, by decide, ⟨⟨_, _, rfl⟩, rfl, rfl⟩,
    ⟨⟨0, rfl, by decide, by decide, by decide⟩, rfl, by decide, by decide, by decide⟩, rfl, rfl, by decide, by decide, noFaults_of rfl, noFaults_of rfl⟩

theorem firstAt_of {c : Core} {o n : Nat} {f : Bool} (h : c.threads.all (fun e => e.2.park.isNone) = true) : FirstAt c o f n := fun e he k hq => by
  have := List.all_eq_true.1 h e he
  rw [hq] at this
  cases this

/-- Two crews of `dev` that share register block 0; the slot of v1 is full or empty. -/
def sharing (f : Bool) (c : Core) : Core :=
  { c with
    threads := [(0, thr), (64, newThread placeRec 0 0 1)]
    crews := c.crews ++ [(1, { newCrew 1 (1, 0) 0 with rbm := Vector.ofFn (fun i : Fin 28 => if i.val = 0 then some 0 else none) })]
    shared := [0]
    full := if f then [256] else [] }

theorem witness_FullEmptyResult :
    let x : XOps := { X0 with a := 1, d := 8 }
    let y : XOps := { X0 with a := 8, d := 1 }
    let s := devC [(1, 7)] (sharing true)
    let e := devC [(1, 7)] (sharing false)
    Solo s 0 0 thr ∧ Solo e 0 0 thr ∧ thr.openRegion = none ∧ thr.park = none ∧ MappedAll (s.core 0) 0 [1, 8] ∧ MappedAll (e.core 0) 0 [1, 8] ∧
    FirstAt (s.core 0) 256 true (slotOrder thr 256 s.time) ∧ FirstAt (e.core 0) 256 false (slotOrder thr 256 e.time) ∧ (s.core 0).vOff 0 1 = some 256 ∧ (e.core 0).vOff 0 1 = some 256 ∧
    (s.core 0).shared.contains (256 / 2048) = true ∧ s.src32 0 0 thr none x.a = .ok 7 ∧ (s.core 0).full.contains 256 = true ∧
    (e.core 0).full.contains 256 = false ∧ (e.core 0).hasPartner 0 256 = true ∧ (s.core 0).hasPartner 0 256 = true ∧
    e.src32 0 0 thr none y.a = .ok 0 ∧ s.src32 0 0 thr none y.a = .ok 0 ∧ (∃ o, (s.core 0).vOff 0 8 = some o ∧ (s.core 0).shared.contains (o / 2048) = false) ∧
    x.a.toNat = 1 ∧ Handled s thr ∧ NoFaults s 0 0 ∧ NoFaults e 0 0 :=
  ⟨⟨⟨_, _, rfl⟩, rfl, rfl⟩, ⟨⟨_, _, rfl⟩, rfl, rfl⟩, rfl, rfl, mapped_of rfl, mapped_of rfl, firstAt_of rfl, firstAt_of rfl,
    rfl, rfl, rfl, rfl, rfl, rfl, rfl, rfl, rfl, rfl, ⟨_, rfl, rfl⟩, rfl, ⟨rfl, by decide⟩, noFaults_of rfl, noFaults_of rfl⟩

theorem witness_RegisterBlockResult :
    let x : XOps := { X0 with a := 0 }
    let s := devC [(0, 5)] lean
    let z := devC [(0, 0)] lean
    let q := devC [(0, 5)] (fun c => { lean c with
      crews := (lean c).crews ++ [(1, newCrew 1 (1, 0) 0)], shares := [(1, 2044)] })
    Solo s 0 0 thr ∧ s.src32 0 0 thr x.lit x.a = .ok 5 ∧ MappedTo (s.core 0) 0 4 ∧ (s.rcd 1).rbmax = 28 ∧ NoneHeld (s.core 0) ∧
    (s.core 0).regroups = [] ∧ 5 - 4 ≤ s.ordinaryFree (s.core 0) ∧ Handled s thr ∧
    Solo (dev [(0, 28)]) 0 0 thr ∧ (dev [(0, 28)]).src32 0 0 thr x.lit x.a = .ok 28 ∧ MappedTo ((dev [(0, 28)]).core 0) 0 28 ∧
    Solo z 0 0 thr ∧ z.src32 0 0 thr x.lit x.a = .ok 0 ∧ Handled z thr ∧ (z.rcd 1).rbinit = 28 ∧
    NoLoads ((dev [(0, 28)]).core 0) 0 ∧ NoneHeld ((dev [(0, 28)]).core 0) ∧
    Solo q 0 0 thr ∧ q.src32 0 0 thr x.lit x.a = .ok 5 ∧ MappedTo (q.core 0) 0 4 ∧ NoneHeld (q.core 0) ∧
    (∃ y, (q.core 0).crew? 1 = some y) ∧ q.ordinaryFree (q.core 0) < 5 - 4 := by
  refine ⟨⟨⟨_, _, rfl⟩, rfl, rfl⟩, rfl, ⟨by decide, _, rfl, by decide⟩, rfl, ?_, rfl, by decide, ⟨rfl, by decide⟩, solo_dev _ rfl rfl, rfl,
    ⟨by decide, _, rfl, by decide⟩, ⟨⟨_, _, rfl⟩, rfl, rfl⟩, rfl, ⟨rfl, by decide⟩, rfl, ?_, ?_, ⟨⟨_, _, rfl⟩, rfl, rfl⟩, rfl,
    ⟨by decide, _, rfl, by decide⟩, ?_, ⟨_, rfl⟩, by decide⟩
  · exact fun e he => by revert e; decide
  · exact fun l hl => by cases hl
  · exact fun e he => by revert e; decide
  · exact fun e he => by revert e; decide

/-- A thread of the block’s second crew; the first crew is its partner. -/
theorem witness_SharedMapResult :
    let x : XOps := { X0 with a := 0xF8, d := 0xF8 }
    let y : XOps := { x with imm := 0x3FF }
    let t : Thread := { thr with lvid1 := 1 }
    let s := devC [] (fun c => { sharing false c with threads := [(64, newThread placeRec 0 0 0), (0, t)] })
    Solo s 0 0 t ∧ t.guard x.g = true ∧ s.src32 0 0 t x.lit x.a = .ok 0 ∧ 0 < (s.rcd 1).size 1 ∧ (s.core 0).partnerCrew 1 0 0 = some 1 ∧
    (∃ me other, (s.core 0).crew? 0 = some me ∧ (s.core 0).crew? 1 = some other ∧ (me.entry 0).isSome ∧ (other.entry 0).isSome) ∧
    NoLoads (s.core 0) 0 ∧ Handled s t ∧ 28 < (y.imm.extractLsb' 0 5).toNat + ((y.imm.extractLsb' 5 5).toNat + 1) :=
  ⟨⟨⟨_, _, rfl⟩, rfl, rfl⟩, rfl, rfl, by decide, rfl, ⟨_, _, rfl, rfl, rfl, rfl⟩, fun l h => (by cases h), ⟨rfl, by decide⟩, by decide⟩

theorem unjoined : ∀ m ∈ (newCrew 1 (0, 0) 0).j.toList, m.1 = 0 := by simp [newCrew]

/-- Alone at RGRP, a second thread that has not come, and a count that needs too many blocks. -/
theorem witness_RegroupResult :
    let x : XOps := { X0 with d := 0xF8, imm := 8 }
    let s := dev [(0, 3)]
    let n := ruled (fun r => { r with rbmax := 0 }) none
    Solo s 0 0 thr ∧ thr.openRegion = none ∧ thr.mode = .user ∧ (s.core 0).loads = [] ∧ s.src32 0 0 thr none x.a = .ok 3 ∧
    (s.core 0).regroups = [] ∧ max ((8 + 7) / 8) (s.rcd 1).rbinit ≤ (s.rcd 1).rbmax ∧ (s.core 0).threads = [(0, thr)] ∧
    (∃ y, (s.core 0).crew? 0 = some y ∧ (∀ m ∈ y.j.toList, m.1 = 0) ∧ (8 + 7) / 8 ≤ y.entries) ∧ (s.core 0).shared = [] ∧
    (∀ l, s.launch? 1 = some l → l.marble = none) ∧ (∀ b, (s.core 0).block? 1 0 = some b → b.rolling = false) ∧
    Solo (two id) 0 0 thr ∧ (∃ u, ((two id).core 0).threads = [(0, thr), (1, u)] ∧ u.lid = 1 ∧ u.block = 0 ∧ u.park = none) ∧
    s.fabric = [] ∧ (two id).fabric = [] ∧ (∃ w, (two id).src32 0 0 thr none x.a = .ok w) ∧ ((two id).core 0).loads = [] ∧ ((two id).core 0).regroups = [] ∧
    Solo n 0 0 thr ∧ (n.rcd 1).rbmax < max ((8 + 7) / 8) (n.rcd 1).rbinit ∧ Handled n thr := by
  refine ⟨solo_dev _ rfl rfl, rfl, rfl, rfl, rfl, rfl, by decide, rfl, ⟨_, rfl, fun m hm => unjoined m hm, (by decide : 1 ≤ 28)⟩, rfl, fun l h => by cases h; rfl, fun b h => by cases h; rfl,
    ⟨⟨_, _, rfl⟩, rfl, rfl⟩, ⟨_, rfl, rfl, rfl, rfl⟩, rfl, rfl, ⟨_, rfl⟩, rfl, rfl, ⟨⟨_, _, rfl⟩, rfl, rfl⟩, by decide, ⟨rfl, by decide⟩⟩

/-- A register of every thread, one that handler mode alone writes, a broken-promise register, and bounds in and out of order. -/
theorem witness_SystemRegisterResult :
    let h : Thread := { thr with mode := .handler }
    let s := dev [(0, 0x3F800000), (1, 0x40000000)]
    let x : XOps := { X0 with b := 1 }
    let y : XOps := { X0 with a := 1 }
    Solo s 0 0 thr ∧ Handled s thr ∧ MappedAll (s.core 0) 0 [0, 1] ∧ (∃ w, sysValue s 0 0 thr 8 = some w) ∧ (∃ w, sysValue s 0 0 thr 0x40 = some w) ∧
    s.src32 0 0 thr X0.lit X0.a = .ok 0x3F800000 ∧ (∃ u, sysWritten (thr.past 12) 0x50 0x3F800000 = some u) ∧ ¬handlerOnly 0x50 ∧
    handlerOnly 0x40 ∧ Solo (devT [] (fun _ => h)) 0 0 h ∧ (∃ u, sysWritten (h.past 12) 0x40 0 = some u) ∧ h.mode = .handler ∧
    (∃ b, (s.core 0).block? 1 0 = some b) ∧ s.src32 0 0 thr x.lit x.b = .ok 0x40000000 ∧ s.src32 0 0 thr y.lit y.b = .ok 0x3F800000 ∧
    fp32.lt 0x40000000 0x3F800000 = false ∧ fp32.lt 0x3F800000 0x40000000 = true :=
  ⟨solo_dev _ rfl rfl, ⟨rfl, by decide⟩, mapped_of rfl, ⟨_, rfl⟩, ⟨_, rfl⟩, rfl, ⟨_, rfl⟩, by simp [handlerOnly], by simp [handlerOnly],
    ⟨⟨_, _, rfl⟩, rfl, rfl⟩, ⟨_, rfl⟩, rfl, ⟨_, rfl⟩, rfl, rfl, by decide, by decide⟩

theorem noneHolds_of {s : State} {core slot : Nat} {t : Thread}
    (h : s.cores.all (fun c => c.2.threads.all (fun e => (e.2.region.map (·.stores)).getD [] == []) && c.2.blocks.all (·.deferred == [])) = true) :
    NoneHolds s core slot t := fun c hc => by
  have := List.all_eq_true.1 h c hc
  simp only [Bool.and_eq_true, List.all_eq_true, beq_iff_eq] at this
  exact ⟨fun e he => .inr (this.1 e he), fun b hb => .inr (this.2 b hb)⟩

theorem witness_CacheControlResult :
    let h : Thread := { thr with mode := .handler }
    let s := dev [(2, 0x30000), (3, 0)]
    let x : XOps := { X0 with a := 2, b := 0xF8 }
    let d := devM []
    let l := d.modCore 0 (fun c => { c with lines := [dirtyLine] })
    let p := (devT [] (fun _ => h)).setCw4 0 0x50030 4
    Solo s 0 0 thr ∧ Handled s thr ∧ MappedAll (s.core 0) 0 (baseCodes x ++ [x.b]) ∧ s.address 0 0 thr x x.imm.toInt = .ok 0x30000 ∧
    s.src32 0 0 thr x.lit x.b = .ok 0 ∧ Solo l 0 0 thr ∧ (l.core 0).lines.filter (fun l => l.lid == 1) = [dirtyLine] ∧
    (∃ k, l.locate (0x600 * 128 + 3) = .ok k) ∧ Solo (devT [] (fun _ => h)) 0 0 h ∧ h.mode = .handler ∧ (devT [] (fun _ => h)).fabric = [] ∧
    (devT [] (fun _ => h)).src32 0 0 h none 0xF8 = .ok 0 ∧ (devT [] (fun _ => h)).ctxOf h = 0 ∧ s.src64 0 0 thr x.lit x.a = .ok 0x30000 ∧
    Solo p 0 0 h ∧ p.fabric = [] ∧ (p.ctxctl (p.ctxOf h)).getLsbD 2 = true ∧
    NoneHolds (devT [] (fun _ => h)) 0 0 h ∧ NoneHolds p 0 0 h :=
  ⟨solo_dev _ rfl rfl, ⟨rfl, by decide⟩, mapped_of rfl, rfl, rfl, ⟨⟨_, _, rfl⟩, rfl, rfl⟩, rfl, ⟨_, rfl⟩, ⟨⟨_, _, rfl⟩, rfl, rfl⟩, rfl, rfl,
    rfl, rfl, rfl, ⟨⟨_, _, rfl⟩, rfl, rfl⟩, rfl, by decide,
    noneHolds_of (by decide), noneHolds_of (by decide)⟩

/-- A configuration of 200 variables. -/
def someCfg : SpinCfg := { n := 200, c := 2, wsh := 0, cmap := [], bias := [], tiles := [] }

/-- The core of `dev` whose block has it. -/
def spinning (c : Core) : Core := { c with blocks := c.blocks.map (fun b => { b with spin := { b.spin with cfg := some someCfg } }) }

theorem witness_SpinnerResult :
    let s := devC [(2, 0x30000), (3, 0)] spinning
    let d := ruled (fun r => { r with det := true }) none
    let x : XOps := { X0 with a := 0xF8 }
    Solo s 0 0 thr ∧ SpinFree s 0 0 thr ∧ (∃ b, (s.core 0).block? 1 0 = some b ∧ b.spin.cfg = some someCfg ∧ b.spin.lost = none) ∧ (s.rcd 1).det = false ∧
    Solo d 0 0 thr ∧ SpinFree d 0 0 thr ∧ (∃ b, (d.core 0).block? 1 0 = some b) ∧ (d.rcd 1).det = true ∧ Handled d thr ∧
    MappedAll (s.core 0) 0 (pairOf 2) ∧ s.src64 0 0 thr none 2 = .ok 0x30000 ∧ MappedAll (s.core 0) 0 [2] ∧ s.src32 0 0 thr none 2 = .ok 0x30000 ∧
    SpinObject s 0 0 thr x 0x100000 (byteCount someCfg.n) ∧ SpinObject s 0 0 thr x 0x100000 (512 + byteCount someCfg.n) ∧
    SpinObject s 0 0 thr x 0x100000 (2 * someCfg.n) ∧ (s.core 0).badIn 0x100000 (byteCount someCfg.n) = none ∧
    (s.core 0).badIn (0x100000 + 512) (byteCount someCfg.n) = none :=
  ⟨⟨⟨_, _, rfl⟩, rfl, rfl⟩, ⟨rfl, noFaults_of rfl, rfl, rfl, .inl rfl⟩, ⟨_, rfl, rfl, rfl⟩, rfl, ⟨⟨_, _, rfl⟩, rfl, rfl⟩,
    ⟨rfl, noFaults_of rfl, rfl, rfl, .inl rfl⟩, ⟨_, rfl⟩,
    rfl, ⟨rfl, by decide⟩, mapped_of rfl, rfl, mapped_of rfl, rfl, ⟨mapped_of rfl, 0, rfl, by decide, by decide, by decide⟩,
    ⟨mapped_of rfl, 0, rfl, by decide, by decide, by decide⟩, ⟨mapped_of rfl, 0, rfl, by decide, by decide, by decide⟩, rfl, rfl⟩

/-- A shape record: fields by offset, lowest bit and value. -/
def shapeWord (l : List (Nat × Nat × Nat)) : BitVec 1536 := BitVec.ofNat 1536 (l.foldl (fun n f => n + f.2.2 * 2 ^ (8 * f.1 + f.2.1)) 0)

/-- A record of 96 by 4 BF16 elements. -/
def tileWord : BitVec 1536 :=
  shapeWord [(8, 0, 4), (8, 10, 2), (0x10, 0, 96), (0x14, 0, 4), (0x18, 0, 1), (0x1C, 0, 1), (0x20, 0, 1), (0x48, 0, 96), (0x4A, 0, 4), (0x4C, 0, 1),
    (0x4E, 0, 1), (0x50, 0, 1), (0x90, 3, 1)]

theorem witness_TaskIssueResult :
    let s := devC [(2, 0x30000), (3, 0), (4, 0x30040), (5, 0)] (fun c => { spinning c with records := [(0, 0x30000, tileWord), (0, 0x30040, tileWord)] })
    let x : XOps := { X0 with a := 2, b := 2, d := 2, c := 0xF8 }
    let c : XOps := { X0 with a := 2, b := 0xF8, d := 4, c := 0xF8 }
    let g : XOps := { X0 with a := 0xF8, c := 0xF8, imm := 0x10000 }
    Solo s 0 0 thr ∧ thr.openRegion = none ∧ thr.park = none ∧ (s.core 0).tasks.length < 64 ∧
    (∃ op, listTask (.gath x) 0x30000 0x30000 0x30000 = some (x, op)) ∧
    MappedAll (s.core 0) 0 (pairOf x.d ++ pairOf x.a ++ pairOf x.b ++ [x.c]) ∧ s.src64 0 0 thr x.lit x.d = .ok 0x30000 ∧
    s.src64 0 0 thr x.lit x.a = .ok 0x30000 ∧ s.src64 0 0 thr x.lit x.b = .ok 0x30000 ∧ (0x30000 : DWord).toNat % 4 = 0 ∧
    TaskObjects s 0 0 thr x none none ∧ Cached s 0 thr 0x30000 (shapeOf tileWord) ∧ Cached s 0 thr 0x30040 (shapeOf tileWord) ∧
    (∃ op, macroTask (.mbld x) (shapeOf tileWord) (s.issuedDesc 0 thr 0) { act := 0, hi := 0x7F800000, lo := 0xFF800000 } = some (x, op)) ∧
    (0x30000 : DWord).toNat % 64 = 0 ∧ s.src64 0 0 thr c.lit c.d = .ok 0x30040 ∧ s.src64 0 0 thr c.lit c.a = .ok 0x30000 ∧
    (shapeOf tileWord).blocks = true ∧ c.imm.extractLsb' 0 16 = 0 ∧
    (∃ b, (s.core 0).block? 1 0 = some b ∧ b.spin.cfg = some someCfg) ∧ s.src32 0 0 thr g.lit g.a = .ok 0 ∧ (0 : Word).extractLsb' 23 8 ≠ 255 ∧
    TaskObjects s 0 0 thr g none (some 16) ∧ NoFaults s 0 0 :=
  ⟨⟨⟨_, _, rfl⟩, rfl, rfl⟩, rfl, rfl, by decide, ⟨_, rfl⟩, mapped_of rfl, rfl, rfl, rfl, by decide,
    ⟨.inl ⟨rfl, rfl⟩, rfl, fun o h => by cases h⟩, ⟨_, rfl, by decide, rfl⟩, ⟨_, rfl, by decide, rfl⟩, ⟨_, rfl⟩, by decide, rfl, rfl, by decide, rfl,
    ⟨_, rfl, rfl⟩, rfl, by decide, ⟨.inl ⟨rfl, rfl⟩, rfl, fun o h => by cases h; exact ⟨by decide, rfl⟩⟩, noFaults_of rfl⟩

/-- `dev` at cycle 9 of island 0, which runs or not, with a load that names time register 2 in state st at cycle 5. -/
def promised (run : Bool) (st : BitVec 3) : State :=
  let s := devC [] (fun c => { c with
    threads := [(0, timed st)]
    loads := [{ pendingLoad 1 with treg := some 2, data := some 7, va := 0x30000 }] })
  { s with islands := [(0, { cycle := 9, running := run, held := none })] }

theorem loadAt_promised (run : Bool) (st : BitVec 3) :
    LoadAt (promised run st) 0 9 { pendingLoad 1 with treg := some 2, data := some 7, va := 0x30000 } (timed st) 2 :=
  ⟨rfl, rfl, rfl⟩

/-- The load of `promised`, with some change. -/
def aLoad (f : Load → Load) : Load := f { pendingLoad 1 with treg := some 2, data := some 7, va := 0x30000 }

/-- `promised` with its load changed, over the memory of `devM`. -/
def loading (run : Bool) (st : BitVec 3) (f : Load → Load) : State :=
  { devM [] with
    cores := [(0, { ((promised run st).core 0) with loads := [aLoad f] })]
    islands := [(0, { cycle := 9, running := run, held := none })] }

/-- The request of a line of memory, to its slice. -/
def requesting (l : Load) : Load := { l with source := 3, req := some (5, 0x30000, 32) }

/-- A line of the slice's set of 0x30000, with a pin. -/
def pinnedLine (slice a : Nat) : L2Line :=
  { slice := slice, addr := a, valid := 1, dirty := 0, cls := 0, stream := false, pins := [{ core := 1, load := 3 }] }

theorem mayPromise_of {s : State} {core : Nat} {l : Load} {c : BitVec 29} (o : l.own = none) (e : l.ending = none) (z : l.source ≠ 4)
    (a : ¬0 < (s.now29 core - c).toInt) (b : l.source ≠ 3 ∨ s.pinned core l.id = true) (d : l.source < 8 ∨ l.slots ≠ []) : MayPromise s core l c := by
  unfold MayPromise
  rw [o]
  exact ⟨e, z, a, b, d⟩

theorem mayPromise_own {s : State} {core : Nat} {l : Load} {c : BitVec 29} (o : l.own = some c) (e : l.ending = none) (z : l.source ≠ 4)
    (a : ¬0 < ((l.issued + 2 : BitVec 29) - s.now29 core).toInt) : MayPromise s core l c := by
  unfold MayPromise
  rw [o]
  exact ⟨e, z, rfl, a⟩

/-- A promise of two loads that one request serves, and of one; data that arrive while the clock stands and while it runs, on time and late; a
fault; a promise that is over; a request that is pinned, one whose set is full of pins and one that has room. -/
theorem witness_PromiseStages :
    let two : State := { promised true 1 with cores := [(0, { ((promised true 1).core 0) with
      threads := [(0, timed 1), (1, timed 1)]
      loads := [aLoad (fun l => { l with req := some (5, 0x30000, 32) }), aLoad (fun l => { l with id := 10, slot := 1, req := some (5, 0x30000, 32) })] })] }
    let q := loading true 1 requesting
    let slice := match q.locate 0x30000 with | .ok l => l.slice | .error _ => 0
    let p : State := { q with l2 := [{ pinnedLine slice (0x30000 / 128) with pins := [{ core := 0, load := 9 }] }] }
    let w : State := { q with l2 := (List.range 16).map (fun i => pinnedLine slice (1024 * (i + 2) + (513 ^^^ (i + 2)))) }
    let f := loading true 1 (fun l => { l with fault := some (.absent, 0) })
    (∃ l, (two.core 0).load? 9 = some l ∧ ∃ k u, k ∈ (two.core 0).loads ∧ k.id = 10 ∧ l.shares k = true ∧ k.treg = some 2 ∧ two.thread? 0 k.slot = some u ∧
      (u.treg 2).extractLsb' 29 3 = 1 ∧ MayPromise two 0 k 9) ∧
    (two.island (0 / 2)).running = true ∧ ¬After (two.now29 0) 9 ∧
    (∀ st, LoadAt (promised true st) 0 9 (aLoad id) (timed st) 2 ∧ LoadAt (promised false st) 0 9 (aLoad id) (timed st) 2) ∧
    (∀ st, ((timed st).treg 2).extractLsb' 29 3 = st) ∧ (aLoad id).source ≠ 3 ∧ (∀ k ∈ ((promised true 1).core 0).loads, k = aLoad id) ∧
    (promised true 2).waitsAtSlice (aLoad id) = false ∧ ((promised false 2).island (0 / 2)).running = false ∧ (aLoad id).dests = [(1, 0)] ∧
    ((promised true 2).core 0).vOff 0 1 = some 256 ∧ ((promised true 2).core 0).shared = [] ∧
    (((promised true 2).core 0).bpRegs ((promised true 2).ctxOf (timed 2))).base = 0 ∧
    (∀ st, After ((promised true st).now29 0) (((timed st).treg 2).extractLsb' 0 29)) ∧ Overdue ((promised true 2).now29 0) ((timed 2).treg 2) ∧
    ¬Overdue ((promised true 1).now29 0) ((timed 1).treg 2) ∧
    LoadAt f 0 9 (aLoad (fun l => { l with fault := some (.absent, 0) })) (timed 1) 2 ∧
    ((q.core 0).load? 9 = some (aLoad requesting) ∧ (∃ loc, q.locate 0x30000 = .ok loc) ∧ q.sliceFull 0x30000 = false ∧ q.pinned 0 9 = false ∧
      (∃ s1 slots, q.bookReturn (slice / 16) (slice % 16 * 2 + 1) 0 = (s1, some slots)) ∧ q.l2 = [] ∧ p.pinned 0 9 = true ∧ w.sliceFull 0x30000 = true) := by
  refine ⟨⟨_, rfl, _, _, .tail _ (.head _), rfl, rfl, rfl, rfl, rfl, mayPromise_of rfl rfl (by decide) (by decide) (.inl (by decide)) (.inl (by decide))⟩, rfl, by simp only [After]; decide, fun st => ⟨⟨rfl, rfl, rfl⟩, ⟨rfl, rfl, rfl⟩⟩,
    by decide, by decide, fun k h => List.mem_singleton.1 h, rfl, rfl, rfl, rfl, rfl, rfl, by simp only [After]; decide, by simp only [Overdue, After]; decide,
    by simp only [Overdue, After]; decide, ⟨rfl, rfl, rfl⟩, ⟨rfl, ⟨_, rfl⟩, by decide, by decide, ⟨_, _, rfl⟩, rfl, by decide, by decide⟩⟩

/-- Replays of a link before and after the last one that it may fail; a thread in TYIELD whose time has come; wakes set far ahead. -/
theorem witness_PromiseStages_more :
    let u : Thread := { timed 2 with park := some (.tyield 2 0 false 12) }
    let s := { promised true 2 with cores := [(0, { placeCore with threads := [(0, u)] })] }
    let f := { s with cores := [(0, { placeCore with threads := [(0, u)], far := [(0, 0)] })] }
    let h := { s with cores := [(0, { placeCore with threads := [(0, u)], far := [(1, 0)] })] }
    let r := { State.reset with replays := [(3, 16)] }
    State.reset.failedInRow 3 < 16 ∧ 16 ≤ r.failedInRow 3 ∧ SlotsApart (s.core 0) ∧ s.thread? 0 0 = some u ∧ u.park = some (.tyield 2 0 false 12) ∧
    ¬After ((u.treg 2).extractLsb' 0 29 + BitVec.ofInt 29 (0 : BitVec 16).toInt) (s.now29 0) ∧
    (∀ o ∈ (h.core 0).far, h.time < o.1) ∧ (f.core 0).overflow = [] ∧ (f.core 0).far = [(0, 0)] ∧ 0 ≤ f.time ∧ f.thread? 0 0 = some u :=
  ⟨by decide, by decide, by simp only [SlotsApart]; decide, rfl, rfl, by simp only [After]; decide, by decide, rfl, rfl, by decide, rfl⟩

theorem other_core {s : State} {n : Nat} {c : Core} (h : s.cores = [(0, c)]) (hn : n ≠ 0) : s.core n = Core.reset := by
  simp [State.core, h, tget, hn.symm]

/-- Island 0 with a value of ISLOP and with a change that waits or not. -/
def clocked (s : State) (w : Word) (h : Option (BitVec 4)) : State :=
  { s.setCw4 0 0x72000 w with islands := [(0, { cycle := 9, running := true, held := h })] }

/-- A stopped island without a load, with one whose data are missing and with one whose data are held; an island whose ratio changes, with and
without a change that waits, to point 0 with a resident block, and with a promise that it converts; one that stands; operating points to be
taken, to be held and to be lowered. -/
theorem witness_IslandClocks :
    let s := { dev [] with islands := [(0, { cycle := 9, running := false, held := none })] }
    let held (l : Load) : Load := { l with heldData := true, dests := [] }
    let c := clocked State.reset 0x800D0004 none
    let h := clocked State.reset 0x800D0004 (some 3)
    let z := clocked (dev []) 0x800D0000 none
    let a := clocked (promised true 2) 0x800D0004 none
    (s.island 0).running = false ∧ (∀ c, c / 2 = 0 → (s.core c).loads = []) ∧ (State.reset.island 0).running = true ∧
    ((promised false 2).core 0).loads = [aLoad id] ∧ (aLoad id).treg = some 2 ∧ (promised false 2).thread? 0 0 = some (timed 2) ∧
    (∀ c, c / 2 = 0 → c ≠ 0 → ((promised false 2).core c).loads = []) ∧ ((timed 2).treg 2).extractLsb' 29 3 = 2 ∧ (aLoad id).heldData = false ∧
    (aLoad id).heldAbort = none ∧ ((promised false 2).island 0).running = false ∧
    (((loading false 2 held).core 0).loads = [aLoad held] ∧ (aLoad held).heldData = true ∧ (aLoad held).data = some 7 ∧ (aLoad held).dests = [] ∧
      (loading false 2 held).thread? 0 0 = some (timed 2) ∧ ((loading false 2 held).island 0).running = false ∧
      (∀ c, c / 2 = 0 → c ≠ 0 → ((loading false 2 held).core c).loads = []) ∧ (((loading false 2 held).core 0).bpRegs 0).base = 0) ∧
    ((islop c 0).getLsbD 31 = true ∧ (c.island 0).held = none ∧ (islop c 0).extractLsb' 0 4 ≠ 0 ∧ (h.island 0).held = some 3 ∧ (islop h 0).getLsbD 31 = true ∧
      (islop h 0).extractLsb' 0 4 ≠ 0) ∧
    ((islop z 0).getLsbD 31 = true ∧ (islop z 0).extractLsb' 0 4 = 0 ∧ (z.core 0).blocks ≠ []) ∧
    ((islop a 0).getLsbD 31 = true ∧ (islop a 0).extractLsb' 0 4 ≠ 0 ∧ LoadAt a 0 9 (aLoad id) (timed 2) 2 ∧ After 100 (((timed 2).treg 2).extractLsb' 0 29)) ∧
    ((islop State.reset 0).getLsbD 31 = false ∧ 14 ≤ (14 : BitVec 4).toNat ∧ (13 : BitVec 4).toNat ≤ 13 ∧ (3 : BitVec 4) ≠ 0 ∧
      (3 : BitVec 4).toNat < ((islop State.reset 0).extractLsb' 0 4).toNat ∧ (3 : BitVec 4).toNat < ((islop c 0).extractLsb' 0 4).toNat) :=
  ⟨rfl, fun c _ => by
      by_cases h : c = 0
      · subst h; rfl
      · rw [other_core rfl h]; rfl,
    rfl, rfl, rfl, rfl, fun c _ h => by rw [other_core rfl h]; rfl, by decide, rfl, rfl, rfl,
    ⟨rfl, rfl, rfl, rfl, rfl, rfl, fun c _ h => by rw [other_core rfl h]; rfl, rfl⟩,
    ⟨by decide, rfl, by decide, rfl, by decide, by decide⟩, ⟨by decide, by decide, by decide⟩,
    ⟨by decide, by decide, ⟨rfl, rfl, rfl⟩, by simp only [After]; decide⟩,
    ⟨by decide, by decide, by decide, by decide, by decide, by decide⟩⟩

/-- The fault area of context 0 lies at 0 and is free. -/
theorem areaFree_of {s : State} (b : (s.cw8 0 (0x50010 + 0 * 0x40)).toNat = 0) (h : (s.cw4 0 (0x50018 + 0 * 0x40)).toNat % 128 = 0)
    (p : ((List.range 32).map (fun o => (s.locate (0 + o)).toOption.map Loc.key)) = (List.range 32).map (fun o => some (0 + o)))
    (v : ((s.readPa 0 false 0x14 4).toOption.map (fun v => v / 2 ^ 31 % 2)) = some 0)
    (c : s.cores.all (fun e => e.2.lines.all (fun l => l.addr != 0)) = true) : AreaFree s 0 0 := by
  refine ⟨by decide, by rw [b, h], by decide, ⟨0, by decide, ?_⟩, ?_, noCopies_of c⟩
  · intro o ho
    have := congrArg (fun l => l[o]?) p
    simp only [List.getElem?_map, List.getElem?_range ho, Option.map_some] at this
    revert this
    cases s.locate (0 + o) with
    | error e => intro h; cases h
    | ok x => intro h; exact ⟨x, rfl, by simpa [Except.toOption] using h⟩
  · revert v
    cases h : s.readPa 0 false 0x14 4 with
    | error e => intro v; cases v
    | ok x => exact fun v => ⟨x, by rw [← h], by simpa [Except.toOption] using v⟩

/-- A task of the block that copies bytes of a table. -/
def gath (d a : DWord) (n : Nat) : Task := { gathering with op := .gath d a 0 n 1, idx := List.replicate n 0, signal := some 0x40 }

/-- `devM` with some tasks. -/
def tasked (l : List Task) : State := (devM []).modCore 0 (fun c => { c with tasks := l })

/-- A record of 16 by 1 BF16 elements whose second page begins at its second element. -/
def pagesWord : BitVec 1536 :=
  shapeWord [(0, 0, 0x1FFFE), (8, 0, 4), (8, 10, 2), (0x10, 0, 16), (0x14, 0, 1), (0x18, 0, 1), (0x1C, 0, 1), (0x20, 0, 1), (0x48, 0, 16), (0x4A, 0, 1),
    (0x4C, 0, 1), (0x4E, 0, 1), (0x50, 0, 1), (0x90, 3, 1)]

/-- An engine that dispatches, one that has nothing left to do, a page that is absent and one that may not be written, a byte that lands. -/
theorem witness_TaskEvents :
    let w : Task := { gath 0 0 0 with state := .waiting }
    let z := gath 0 0 0
    let a := gath 0x00FF000000100020 0x1000000000 1
    let n := (tasked [a]).setCw8 0 0x50000 0
    let p := gath 0x00FF000000100020 0x00FF000000040000 1
    let b := gath 0x00FF000000100020 0x00FF000000100000 1
    (((tasked [w]).island 0).running = true ∧ ((tasked [w]).core 0).task? 3 = some w ∧ w ∈ (tasked [w]).eligibleTasks 0 .gather ∧
      w.op.list.2 ≤ w.idx.length) ∧
    (Working (tasked [z]) 0 z ∧ PlainEnd z.op ∧ (tasked [z]).taskLeft 0 z = false ∧ (tasked [z]).fabric = [] ∧
      (∃ k, ((tasked [z]).core 0).block? 1 0 = some k ∧ k.rolling = false) ∧ z.viol = none ∧ z.part = 0) ∧
    (Working n 0 a ∧ n.taskLeft 0 a = true ∧
      ∃ s1 f, n.taskStep 0 a = .error (.fault s1 f) ∧ SlicesOnly n s1 ∧ f.kind.code ≤ 3 ∧ AreaFree n 0 0) ∧
    (Working (tasked [p]) 0 p ∧ (tasked [p]).taskLeft 0 p = true ∧
      ∃ s1 f, (tasked [p]).taskStep 0 p = .error (.fault s1 f) ∧ SlicesOnly (tasked [p]) s1 ∧ f.kind.code = 4 ∧ NoCopies (tasked [p]) ((tasked [p]).recordSlot 0 / 128)) ∧
    (Working (tasked [b]) 0 b ∧ b.steps ≤ 0 ∧ 0 < 3 * 1 ∧ 0 ∉ b.done ∧ 1 ≤ b.idx.length ∧ b.piece 0 = (0x00FF000000100000, 0x00FF000000100020, 1) ∧
      (tasked [b]).resolve 0 1 0 ((tasked [b]).core 0).walkAhead false .engine 0x00FF000000100000 1 .read .ga = .ok (.store 0 0x100000, none) ∧
      (tasked [b]).resolve 0 1 0 ((tasked [b]).core 0).walkAhead false .engine 0x00FF000000100020 1 .write .ga =
        .ok (.store 0 0x100020, none) ∧
      ((tasked [b]).core 0).badIn 0x100000 1 = none ∧ -(2 ^ 27 : Int) ≤ pend (((tasked [b]).core 0).store.get32 0x100044) - 1) := by
  refine ⟨⟨rfl, rfl, by decide, by decide⟩, ⟨⟨rfl, rfl, rfl⟩, ⟨fun _ _ _ h => (nomatch h), fun _ _ _ h => (nomatch h)⟩, rfl, rfl, ⟨_, rfl, rfl⟩, rfl, rfl⟩,
    ⟨⟨rfl, rfl, rfl⟩, rfl, _, _, rfl, rfl, by decide, areaFree_of rfl rfl (by decide) (by decide) (by decide)⟩,
    ⟨⟨rfl, rfl, rfl⟩, rfl, _, _, rfl, rfl, by decide, noCopies_of (by decide)⟩,
    ⟨⟨rfl, rfl, rfl⟩, by decide, by decide, by decide, by decide, by decide, rfl, rfl, rfl, by decide⟩⟩

/-- A higher class at a step boundary, pages ahead that are present and that are not, a page that one thread waits for, and stack words
that leave and enter the stack cache. -/
theorem witness_TaskEvents_more :
    let g : Task := { gathering with op := .gbsweep 0 1 0 }
    let h : Task := { gathering with id := 4, op := .mbld 1 (shapeOf pagesWord), cls := 3, state := .waiting }
    let m : Task := { gathering with op := .mma 0 0 true 1 (shapeOf pagesWord) }
    let n : State := { tasked [m] with cw := [] }
    let t : Thread := { thr with park := some (.page 0x30000 false .ls 0x10000 .absent 1) }
    let w := devT [] (fun _ => t)
    let u : Thread := { thr with depth := 1, cache := [0x10004] }
    let e : Thread := { thr with depth := 1 }
    let s := ruled (fun r => { r with stack := 0x00FF000000100000 }) none
    (Working (tasked [g, h]) 0 g ∧ g.op.yields = true ∧
      ((tasked [g, h]).core 0).tasks.find? (fun j => j.state == .running && j.op.yields) = some g ∧ h ∈ (tasked [g, h]).eligibleTasks 0 .matrix ∧
      g.cls < h.cls ∧ (∀ u ∈ h.op.units, u ≠ 4 → u ∉ g.op.units) ∧ (∀ j ∈ ((tasked [g, h]).core 0).tasks, j.state ≠ .yielded) ∧ (tasked [g, h]).taskLeft 0 g = true) ∧
    (tasked [g]).eligibleTasks 0 .matrix = [] ∧
    (Working (tasked [m]) 0 m ∧ m.pagesAhead = [0x20000] ∧
      (∃ e, (tasked [m]).fresh? 0 0x20000 0 = .ok e ∧ leafMig e.leaf ≠ 1 ∧ leafTier e.leaf ≠ 2) ∧ (0x20000 : DWord).toNat % 2 ^ 56 < 0x00FD000000000000 ∧ (∀ e, WalkClear (tasked [m]) e) ∧ Working n 0 m ∧ ∃ f, n.fresh? 0 0x20000 0 = .error f) ∧
    (OnlyWaiter w 0 0 t 0 3 ∧ Handled w t ∧ Handled (devM []) thr ∧
      ∃ leaf size, (devM []).walk 0 0x30000 = .ok (leaf, size) ∧ leafMigrating leaf .read = false) ∧
    (u.cache.length ≤ u.depth ∧ (s.rcd 1).rbk = false ∧
      (∃ m off e, s.resolve 0 1 0 (s.core 0).tlb false .ldst (addOff (s.rcd 1).stack (u.global (s.rcd 1) * (s.rcd 1).stkb.toNat + 8 * (1 - 1) : Nat))
        8 .write .ls = .ok (.store m off, e)) ∧
      e.cache.length < 8 ∧ e.cache.length < e.depth ∧ s.above 0 e = [] ∧
      (∃ m off v, s.resolve 0 1 0 (s.core 0).tlb false .ldst (addOff (s.rcd 1).stack (e.global (s.rcd 1) * (s.rcd 1).stkb.toNat + 8 * (1 - 0 - 1) : Nat))
        8 .read .ls = .ok (.store m off, v) ∧ (s.core m).badIn off 8 = none)) := by
  refine ⟨⟨⟨rfl, rfl, rfl⟩, rfl, rfl, by decide, by decide, by decide, by decide, rfl⟩, rfl, ⟨⟨rfl, rfl, rfl⟩, by decide, ⟨_, rfl, by decide, by decide⟩, by decide, walkClear_of rfl, ⟨rfl, rfl, rfl⟩, _, rfl⟩,
    ⟨⟨rfl, rfl, ?_, ?_, ?_⟩, ⟨rfl, by decide⟩, ⟨rfl, by decide⟩, _, _, rfl, by decide⟩, ⟨by decide, rfl, ⟨_, _, _, rfl⟩, by decide, by decide, rfl, _, _, _, rfl, rfl⟩⟩
  · intro n _ h e he
    rw [other_core rfl h] at he
    cases he
  · intro n _ k hk
    by_cases h : n = 0
    · subst h; cases hk
    · rw [other_core rfl h] at hk; cases hk
  · intro n _ b hb
    by_cases h : n = 0
    · subst h; revert b; decide
    · rw [other_core rfl h] at hb; cases hb

theorem lineLocated_devM : LineLocated (devM []) 0x600 := by
  have h : ((List.range 128).map (fun o => ((devM []).locate (0x600 * 128 + o)).toOption.map Loc.key)) =
      (List.range 128).map (fun o => some (196608 + o % 64 + o / 64 * 1024)) := by decide
  have k : ∀ o, o < 128 → ∃ x, (devM []).locate (0x600 * 128 + o) = .ok x ∧ x.key = 196608 + o % 64 + o / 64 * 1024 := by
    intro o ho
    have := congrArg (fun l => l[o]?) h
    simp only [List.getElem?_map, List.getElem?_range ho, Option.map_some] at this
    revert this
    cases (devM []).locate (0x600 * 128 + o) with
    | error e => intro h; cases h
    | ok x => intro h; exact ⟨x, rfl, by simpa [Except.toOption] using h⟩
  refine ⟨fun o ho => (k o ho).imp fun _ h => h.1, fun o o' x x' ho ho' hx hx' => ?_⟩
  obtain ⟨y, hy, hk⟩ := k o ho
  obtain ⟨z, hz, hl⟩ := k o' ho'
  rw [hx] at hy; rw [hx'] at hz
  cases hy; cases hz
  rw [hk, hl]
  omega

/-- `devM` with a dirty line. -/
def dirtied : State := (devM []).modCore 0 (fun c => { c with lines := [dirtyLine] })

theorem areaFree_dirty : AreaFree dirtied 0 0 := areaFree_of rfl rfl (by decide) (by decide) (by decide)

/-- A share of one set whose eight ways are taken: the dirty line is the one to leave. -/
def crowded : State := (devM []).modCore 0 (fun c => { c with
  lines := (List.range 7).map (fun i => { dirtyLine with addr := 0x700 + i }) ++ [dirtyLine]
  shares := [(1, 1)] })

theorem ways_crowded : (crowded.core 0).l1Ways 1 0x600 = (crowded.core 0).lines :=
  List.filter_eq_self.2 fun l h => by
    have e : (crowded.core 0).l1Sets 1 = 1 := rfl
    have k : (crowded.core 0).lines.all (fun l => l.lid == 1) = true := by decide
    simp [Core.sameSet, e, Nat.mod_one, List.all_eq_true.1 k l h]

/-- A regroup of the thread of `dev`, with no register to hold the new lane. -/
def regrouping : State :=
  devC [] (fun c => { c with
    threads := [(0, { thr with park := some (.rgrp false 8 0 0xF8 12) })]
    crews := [(0, { newCrew 1 (0, 0) 0 with rbm := Vector.ofFn (fun i : Fin 28 => if i.val < 1 then some i.val else none) })]
    regroups := [{ lid := 1, moves := [(0, 0, 0)], n := 8, entries := 1, nonuniform := false, keepMarble := false }] })

/-- A crew that holds one block and asks for two. -/
def asking (c : Core) : Core :=
  { c with crews := [(0, { newCrew 1 (0, 0) 0 with
      rbm := Vector.ofFn (fun i : Fin 28 => if i.val < 1 then some i.val else none)
      held := some (2, 0) })] }

/-- A dirty and an update-only line, a fault area with room, a spare row that is left and one that is not, a regroup of a lone thread, and
a crew whose blocks are free. -/
theorem witness_MemoryEvents :
    let s := dirtied
    let w := crowded
    let u : Line := { dirtyLine with dirty := 0, upd := some (0, 4, [(0, 5)]) }
    let m := (devM []).modCore 0 (fun c => { c with lines := [u] })
    let row := Row.sram 0 0 false
    let d := Row.dram 0 0 false
    let up := (State.reset.setCw4 0 0x70000 0x80000000).setCw4 0 0x70024 1
    let f := { State.reset with spares := List.replicate (Config.moreSpares + 1) row }
    let g := { up with spares := List.replicate (Config.moreSpares + 1) d }
    let r := regrouping
    let a := devC [] asking
    ((s.core 0).line? 1 0x600 = some dirtyLine ∧ dirtyLine.upd = none ∧ dirtyLine.dirty ≠ 0) ∧
    ((w.core 0).line? 1 0x600 = some dirtyLine ∧ LineLocated w 0x600 ∧ 8 ≤ ((w.core 0).l1Ways 1 0x600).length ∧
      (l1Victim ((w.core 0).l1Ways 1 0x600)).map (·.addr) = some 0x600) ∧
    ((m.core 0).line? 1 0x600 = some u ∧ 
      ∃ old v, m.readPa 0 (leafMac u.leaf) (0x600 * 128 + 0) 4 = .ok old ∧ atomicValue 0 4 old (5 : BitVec 64).toNat 0 = some v) ∧
    AreaFree s 0 0 ∧ (∃ l, (devM []).locate 0 = .ok l) ∧
    (State.reset.onRow row = [] ∧ (State.reset.spares.filter (fun r => r.unit == row.unit)).length ≤ Config.moreSpares ∧ f.onRow row = [] ∧
      Config.moreSpares < (f.spares.filter (fun r => r.unit == row.unit)).length ∧ g.onRow d = [] ∧
      Config.moreSpares < (g.spares.filter (fun r => r.unit == d.unit)).length ∧ g.portUp 0 = true ∧ g.admits 0 0 = true) ∧
    (∃ t y, LoneRegroup r 0 0 t y { lid := 1, moves := [(0, 0, 0)], n := 8, entries := 1, nonuniform := false, keepMarble := false } 0xF8 12) ∧
    NoneHeld ((dev []).core 0) ∧
    (∃ y, (a.core 0).crew? 0 = some y ∧ y.held = some (2, 0) ∧ (a.core 0).crews.filter (fun e => e.2.held.isSome) = [(0, y)]) ∧
    MappedTo (a.core 0) 0 1 ∧ (a.core 0).regroups = [] ∧ 2 - 1 ≤ a.ordinaryFree (a.core 0) := by
  refine ⟨⟨rfl, rfl, by decide⟩, ⟨rfl, lineLocated_devM, by rw [ways_crowded]; decide, by rw [ways_crowded]; decide⟩, ⟨rfl, _, _, rfl, rfl⟩, areaFree_dirty, ⟨_, rfl⟩,
    ⟨rfl, by simp [State.reset], rfl, ?_, rfl, ?_, by decide, by decide⟩,
    ⟨_, _, ⟨rfl, rfl, rfl, rfl, ⟨_, _, _, rfl⟩, rfl, rfl, rfl, fun l h => ?_, ⟨?_, by decide, by decide⟩, .inl rfl⟩⟩, fun e h => ?_,
    ⟨_, rfl, rfl, rfl⟩, ⟨by decide, _, rfl, by decide⟩, rfl, by decide⟩
  · simp
  · simp
  · cases h; rfl
  · decide
  · revert e; decide

/-- A slot that a load has booked and that an edit takes from its stop; a region's check while another's commit is in progress. -/
theorem witness_TableEvents_taken :
    let s := { (State.reset.setCw8 0 0x41000 0) with
      slotPending := [0], cores := [(0, { placeCore with loads := [{ pendingLoad 1 with slots := [(0x20800, 0)] }] })] }
    0 ∈ s.slotPending ∧ s.slotsBad 0 = false ∧ (s.core 0).load? 9 = some { pendingLoad 1 with slots := [(0x20800, 0)] } ∧
    (0x20800, 0) ∈ s.slotEdits 0 ∧ (0x20800, 0) ∈ slotsTaken 0x20800 ((tget s.slotActive 0x20800).getD (cwReset (0x20800 / 4 * 8))) 0 ∧
    ({ State.reset with amBusy := [(0, placeRegion)] } : State).amCheck 3
      { ({ State.reset with amBusy := [(0, placeRegion)] } : State).amPending 3 with en := false, cxl := false } true = 3 := by
  refine ⟨by decide, by decide, rfl, by decide, by decide, by decide⟩

/-- A region of an address map that has no rows, and one that is right. -/
theorem witness_TableEvents :
    let m : AmRegion := { base := 0, lim := 0, ofs := 0, cxl := false, en := false, rows := [] }
    let s := { State.reset with amBusy := [(3, m)] }
    let p := { State.reset with amBusy := [(3, placeRegion)] }
    let d := { (State.reset.setCw4 0 0x40000 0x8022) with slotPending := [0] }
    let g := { State.reset with slotPending := [1] }
    mapStatus State.reset 3 ≠ 1 ∧ State.reset.amBusy = [] ∧ mapStatus (State.reset.setCw4 0 0x30618 0x10) 3 = 1 ∧
    gfRank (m.rows.map BitVec.toNat) < 42 ∧ ({ s with amBusy := [] }).amCheck 3 m false = 3 ∧ ({ p with amBusy := [] }).amCheck 3 placeRegion false = 0 ∧
    quotaIn (State.reset.cw4 0 0x20100) 2 = 16 ∧ quotaIn 0 2 < quotaIn (State.reset.cw4 0 0x20100) 2 ∧
    1 ∉ State.reset.slotPending ∧ 0 ∈ d.slotPending ∧ d.slotsBad 0 = true ∧ 1 ∈ g.slotPending ∧ g.slotsBad 1 = false ∧ (∀ e ∈ g.cores, ∀ l ∈ e.2.loads, l.slots = []) := by
  refine ⟨by decide, rfl, by decide, by decide, by decide, by decide, by decide, by decide, by decide, by decide, by decide, by decide, by decide, by decide⟩

/-- Writes values of eight bytes at offsets from a physical address of `devM`. -/
def pokes (s : State) (pa : Nat) (l : List (Nat × Nat)) : State := l.foldl (fun s e => s.poke 0 (pa + e.1) 8 e.2) s

/-- `State.reset` with a mapped context 0, a port that is up and admits tag 0, and a launch record at 0x30000. -/
def asked (f : Requester) : State :=
  let s := { State.reset.withThread with
    cores := [(0, { placeCore with threads := [(0, { thr with park := some (.lnch 0 2 12) })] })]
    boot := .running
    waiting := [{ id := 0, die := 0, va := 0x30000, ctx := 0, from_ := f }] }
  pokes ((s.setCw4 0 0x70000 0x80000000).setCw4 0 0x70024 1) 0x30000
    [(0, 0x10000), (0x18, 0x200), (0x20, 1), (0x28, 0x1100000001), (0x30, 0x2200000001), (0x60, 0x101), (0x68, 0x100), (0x80, 2)]

/-- The host at port 0. -/
def host : Sender := { port := 0, tag := 0, endpoint := 0 }

def request (f : Requester) (va : DWord) : Request := { id := 0, die := 0, va := va, ctx := 0, from_ := f }

theorem noCopies_all {s : State} (h : s.cores.all (fun e => e.2.lines.isEmpty) = true) : ∀ n, NoCopies s n := fun n e he l hl => by
  have := List.all_eq_true.1 h e he
  rw [List.isEmpty_iff.1 this] at hl
  cases hl

/-- A message admitted and one turned away; requests that are refused and that are accepted, from the host and from a thread. -/
theorem witness_LaunchEvents_requests :
    let m := asked (.host host)
    let t := asked (.thread 0 0)
    let r := { t with waiting := [request (.thread 0 0) 0x30010] }
    m.inbound host = true ∧ m.inbound { host with tag := 5 } = false ∧ m.portUp 0 = true ∧ m.inbound { host with port := 1 } = false ∧
    m.portUp 1 = false ∧ (∀ q ∈ ({ m with token := 1 } : State).waiting, q.die ≠ ({ m with token := 1 } : State).token) ∧
    OnlyRequest m (request (.host host) 0x30000) ∧ Answers m host ∧ OnlyRequest r (request (.thread 0 0) 0x30010) ∧
    (0x30010 : DWord).toNat % 256 ≠ 0 ∧
    Asks r (request (.thread 0 0) 0x30010) 0 0 { thr with park := some (.lnch 0 2 12) } 2 12 ∧
    (∀ n, NoCopies t n) ∧ (0x30000 : DWord).toNat % 256 = 0 ∧
    (∃ leaf v leaf' l, t.plain 0 0x30000 256 .read .kr = some (0x30000, leaf) ∧ t.readRun 0 (leafMac leaf) 0x30000 256 4 = .ok v ∧
      launchBad v = false ∧ t.ctxAllowed (request (.thread 0 0) 0x30000) (launchRec v).ctx = true ∧ t.launch? (launchRec v).lid = none ∧
      t.plain 0 (addOff 0x30000 0xA8) 8 .write .ls = some (0x300A8, leaf') ∧ t.locate 0x300A8 = .ok l) := by
  refine ⟨by decide, by decide, by decide, by decide, by decide, by decide, ⟨rfl, rfl, by decide⟩, ⟨by decide, by decide⟩, ⟨rfl, rfl, by decide⟩, by decide,
    ⟨rfl, rfl, rfl, rfl, rfl⟩, noCopies_all rfl, by decide, ?_⟩
  refine ⟨_, _, _, _, rfl, rfl, ?_, ?_, ?_, rfl, rfl⟩
  · decide
  · decide
  · decide

/-- `devM` with another launch table. -/
def launched (l : List Launch) : State := { devM [] with launches := l }

/-- The block of `dev`. -/
def theBlock : Block := { newBlock placeRec 0 0x100000 0 with started := true }

/-- A launch whose turn it is, a block that can be saved and one that has run, a launch that has failed and one that has finished, contexts
with and without a resident block. -/
theorem witness_LaunchEvents :
    let l : Launch := { placeLaunch with rcd := { placeRec with lid := 2, rbinit := 1, rbmax := 1 }, next := 0, order := 4 }
    let h := { launched [l] with cores := [] }
    let v := (devM []).setCw4 0 0x50028 0xFFFF
    let w : Launch := { l with rcd := { l.rcd with preds := [1] } }
    let f := launched [{ placeLaunch with ended := some (3, 5, 0) }, w]
    let d := (devM []).modCore 0 (fun c => { c with blocks := [{ theBlock with retiring := true }] })
    let k : Launch := { placeLaunch with done := 1 }
    let n := launched [k]
    let c : Launch := { k with rcd := { k.rcd with tkind := 1, tgt := 0x40000 } }
    let p := launched [c]
    Head h l ∧ l.rcd.det = false ∧ l.saved = [] ∧ l.rcd.top = 2 ∧ (∀ n, (h.core n).block? 2 l.next = none) ∧ (h.putBlock 0 2 l.next).isSome = true ∧
    (v.home? 1 0 = some 0 ∧ Savable v 0 theBlock placeLaunch) ∧
    (f.launch? 1 = some { placeLaunch with ended := some (3, 5, 0) } ∧ f.launch? 2 = some w ∧ 1 ∈ w.rcd.preds ∧ w.ended = none ∧ w.next = 0 ∧
      w.logical = []) ∧
    (d.home? 1 0 = some 0 ∧ (d.core 0).block? 1 0 = some { theBlock with retiring := true } ∧ d.launch? 1 = some placeLaunch ∧
      d.drained 0 { theBlock with retiring := true } = true ∧ (devM []).drained 0 theBlock = false) ∧
    (Finished n k ∧ (∀ i, NoCopies n i) ∧ k.rcd.tkind = 0 ∧ ∃ leaf x, n.plain 0 (addOff k.va 0xA8) 8 .write .ls = some (0x80A8, leaf) ∧ n.locate 0x80A8 = .ok x) ∧
    (Finished p c ∧ c.rcd.tkind = 1 ∧ ∃ leaf x, (p.setStatus c.home c.va c.status).plain 0 c.rcd.tgt 8 .write .ls = some (0x40000, leaf) ∧
      p.locate 0x40000 = .ok x) ∧
    (placeLaunch.ended = none ∧ placeLaunch.done ≠ placeLaunch.rcd.blocks) ∧
    (∀ e ∈ h.cores, ∀ b ∈ e.2.blocks, (h.rcd b.lid).ctx ≠ 0) ∧ (∀ e ∈ v.cores, ∀ x ∈ e.2.blocks, (v.rcd x.lid).ctx = 0 ↔ x = theBlock) ∧
    placeLaunch.rcd.ctx < 64 := by
  refine ⟨⟨rfl, by decide, by decide, ?_⟩, rfl, rfl, rfl, fun n => rfl, by decide, ⟨by decide, ⟨by decide, rfl, rfl, by decide, by decide, ?_⟩⟩,
    ⟨rfl, rfl, by decide, rfl, rfl, rfl⟩, ⟨by decide, rfl, rfl, by decide, by decide⟩,
    ⟨⟨rfl, rfl, rfl, by decide, rfl, rfl⟩, noCopies_all rfl, rfl, _, _, rfl, rfl⟩,
    ⟨⟨rfl, rfl, rfl, by decide, rfl, rfl⟩, rfl, _, _, rfl, rfl⟩, ⟨rfl, by decide⟩, by decide, by decide, by decide⟩
  · intro k hk _
    simp only [launched, List.mem_singleton] at hk
    subst hk
    exact ⟨by decide, .inl rfl⟩
  · have z : (((devM []).setCw4 0 0x50028 0xFFFF).snapshot 0 [theBlock] true).size = (Config.saveSize 28 1 1 0x1000 0 0).toNat := rfl
    have := (Config.saveSize 28 1 1 0x1000 0 0).isLt
    have a : ((devM []).setCw4 0 0x50028 0xFFFF).saveArea 0 = 0xFFFF * 2 ^ 20 := by decide
    have c : ((devM []).setCw4 0 0x50028 0xFFFF).savedBytes 0 = 0 := rfl
    have r : (((devM []).setCw4 0 0x50028 0xFFFF).rcd theBlock.lid).ctx = 0 := rfl
    simp only [State.savable, List.all_cons, List.all_nil, r, z, a, c, Bool.and_true, Bool.and_eq_true, decide_eq_true_eq]
    exact ⟨⟨⟨⟨⟨⟨rfl, rfl⟩, rfl⟩, rfl⟩, rfl⟩, rfl⟩, by omega⟩

/-- `asked`, with an export entry of one page at 0x30000, a bound queue pair, and a request without an answer. -/
def open_ (f : FabFor) (now : Nat) (l : List Load) : State :=
  let s := asked (.host host)
  let s := pokes ((s.setCw8 0 0x51000 0x50000).setCw4 0 0x80000 0x80000000) 0x50000 [(0, 0x30000), (8, 0xF000000000000001)]
  { s with
    cores := [(0, { placeCore with loads := l })]
    fabric := [{ id := 3, for_ := f, va := 0x30000, ctx := 0, size := 4, write := false, expires := 10 }]
    time := now }

theorem reaches_of {s : State} {w : Acc} {leaf : DWord} {n : Nat} (n1 : 1 ≤ n) (n2 : n ≤ 64)
    (h : ∃ e, s.resolve 0 0 0 [] false .other (BitVec.ofNat 64 0x30000) n w .ls = .ok (.mem 0x30000 leaf, e))
    (c : s.cores.all (fun e => e.2.lines.isEmpty) = true) (k : ∃ l, s.locate 0x30000 = .ok l) : Reaches s 0 0x30000 n w 0x30000 leaf :=
  ⟨by decide, n1, by omega, h, by omega, noCopies_all c, k⟩

/-- Accesses by the host and by a peer that are admitted and that are not; requests that are answered, that expire and that do not. -/
theorem witness_FabricEvents :
    let l : Load := { pendingLoad 1 with treg := some 2, data := none, va := 0x30000 }
    let s := open_ (.load 0 9 .ld none 1 0 0 0 0x10000) 0 [l]
    let r := open_ (.rdma 1 2) 10 []
    let w := open_ (.write 0 1 0 0 0 0x10000) 10 []
    let m : State := { w with boot := .refused }
    (inbounds host (.mrd host 0 0x30000 8) ∧ m.inbound host = false ∧ m.portUp 0 = true ∧ m.portUp 1 = false) ∧
    (s.inbound host = true ∧ HostMay s 0 0 0x30000 8 ∧ ¬HostMay s 5 0 0x30000 8 ∧
      ∃ leaf v, Reaches s 0 0x30000 8 .read 0x30000 leaf ∧ Reaches s 0 0x30000 8 .write 0x30000 leaf ∧ s.readPa 0 (leafMac leaf) 0x30000 8 = .ok v) ∧
    (Exports s 0 0 0 0 8 60 0x30000 ∧ Exports s 0 0 0 0 8 61 0x30000 ∧ (∀ va, ¬Exports s 0 0 1 0 8 60 va)) ∧
    (s.fabric = [{ id := 3, for_ := .load 0 9 .ld none 1 0 0 0 0x10000, va := 0x30000, ctx := 0, size := 4, write := false, expires := 10 }] ∧
      (s.core 0).load? 9 = some l ∧ l.overlaid = [] ∧ l.id = 9 ∧ s.time < 10) ∧
    (r.inbound host = true ∧ w.inbound host = true ∧
      r.fabric = [{ id := 3, for_ := .rdma 1 2, va := 0x30000, ctx := 0, size := 4, write := false, expires := 10 }] ∧ 10 ≤ r.time) ∧
    (w.fabric = [{ id := 3, for_ := .write 0 1 0 0 0 0x10000, va := 0x30000, ctx := 0, size := 4, write := false, expires := 10 }] ∧
      10 ≤ w.time ∧ AreaFree w 0 0) ∧
    (s.boot = .running ∧ Bound_ s 0 0 0 0) := by
  refine ⟨⟨rfl, by decide, by decide, by decide⟩,
    ⟨by decide, by simp only [HostMay]; decide, by simp only [HostMay]; decide, _, _, reaches_of (by decide) (by decide) ⟨_, rfl⟩ rfl ⟨_, rfl⟩,
      reaches_of (by decide) (by decide) ⟨_, rfl⟩ rfl ⟨_, rfl⟩, rfl⟩,
    ⟨by simp only [Exports]; decide, by simp only [Exports]; decide, fun va h => absurd h.1 (by decide)⟩, ⟨rfl, rfl, rfl, rfl, by decide⟩, ⟨by decide, by decide, rfl, by decide⟩,
    ⟨rfl, by decide, areaFree_of rfl rfl (by decide) (by decide) (by decide)⟩, ⟨rfl, by simp only [Bound_]; decide⟩⟩

/-- Accesses by a peer that a revocation and a kill of a context find on their way, and one that a kill leaves. -/
theorem witness_relayed :
    let s := open_ (.host host (some (0, 3))) 0 []
    let r := open_ (.rdma 1 2) 0 []
    (∃ f ∈ s.fabric, f.for_ = .host host (some (0, 3)) ∧ f.ctx = 0 ∧ Answers s host) ∧
    (∃ f ∈ r.fabric, f.ctx ≠ 5 ∧ (∀ m n, f.for_ ≠ .host m (some (5, n))) ∧ ∀ g ∈ r.fabric, g.id = f.id → g = f) := by
  refine ⟨⟨_, .head _, rfl, rfl, by decide, by decide⟩, ⟨_, .head _, by decide, fun m n h => (by cases h), fun g h _ => ?_⟩⟩
  exact List.mem_singleton.1 h

/-- A firmware that verifies and one that does not, a package that waits for one, one that is frozen with a reset to come, and one that runs. -/
theorem witness_ResetState :
    let s := { State.reset with boot := .refused }
    let f := { State.reset with frozen := true, agenda := [.happen .reset] }
    let r := asked (.host host)
    State.reset.fwImage.verifies = true ∧ { State.reset.fwImage with verifies := false }.verifies = false ∧ s.boot = .refused ∧
    State.reset.boot ≠ .refused ∧ f.frozen = true ∧ f.agenda = .happen .reset :: [] ∧ ({ f with agenda := [] } : State).frozen = true ∧
    r.boot = .running ∧ r.inbound host = true ∧ ({ host with port := 18 } : Sender).port = 18 ∧
    ((r.setCw4 0 0x70000 0x80000005).inbound { host with tag := 5 } = true) := by
  refine ⟨rfl, rfl, rfl, by decide, rfl, rfl, rfl, rfl, by decide, rfl, by decide⟩

/-- A program's word where the next step fetches, in a package that runs. -/
def placed (w : Nat) (a : List Turn) : State := { State.reset.withFetchWord 32 w with boot := .running, agenda := a }

/-- The bytes that are fetched for a group. -/
def fetchedBytes (s : State) (g : Group) : Option (List Byte) :=
  match (s.begin g (s.isArith g)).fetch g.core g.lid g.pc with
  | .bytes _ l => some l
  | _ => none

theorem bytes_of {s : State} {g : Group} {l : List Byte} (h : fetchedBytes s g = some l) :
    ∃ v, (s.begin g (s.isArith g)).fetch g.core g.lid g.pc = .bytes v l := by
  revert h
  rw [fetchedBytes]
  cases (s.begin g (s.isArith g)).fetch g.core g.lid g.pc with
  | bytes v k => intro h; cases h; exact ⟨v, rfl⟩
  | fault => intro h; cases h
  | wait => intro h; cases h

/-- What moves in a step: a timed wake that is due; an issue and a happening of the agenda; a happening and a group of the package's own
accord; nothing. The word fetched is IADD, or one of a reserved opcode. -/
theorem witness_StepRunsDecoded :
    let u : Thread := { timed 2 with park := some (.tyield 2 0 false 12) }
    let d := { promised true 2 with cores := [(0, { placeCore with threads := [(0, u)] })] }
    let s := placed 0x38E30A08 [.issue 0 true]
    let r := placed 0x7C []
    let g : Group := { core := 0, lid := 1, pc := 0x10000, slots := [0] }
    let n := { State.reset with boot := .running }
    d.frozen = false ∧ (∃ i, d.due = some i) ∧
    (s.frozen = false ∧ s.due = none ∧ (settled s).agenda = .issue 0 true :: [] ∧ ({ settled s with agenda := [] }).select 0 true = some g ∧
      (∃ v, (({ settled s with agenda := [] }).begin g (({ settled s with agenda := [] }).isArith g)).fetch 0 1 0x10000 = .bytes v (bytes32 0x38E30A08))) ∧
    (r.due = none ∧ (settled r).agenda = [] ∧ ((settled r).flip = false ∨ (settled r).internal = none) ∧
      ({ settled r with flip := !(settled r).flip }).nextGroup = some g ∧
      fetchedBytes { settled r with flip := !(settled r).flip } g = some (bytes32 0x7C) ∧ (decode (bytes32 0x7C)).toOption = none) ∧
    ((settled (placed 0 [.happen .freeze])).agenda = .happen .freeze :: []) ∧
    ((settled { State.reset with flip := true }).flip = true ∧ (settled { State.reset with flip := true }).internal = some .reset ∧
      (settled State.reset).agenda = [] ∧ State.reset.due = none ∧ (settled State.reset).flip = false ∧
      ({ settled State.reset with flip := true }).nextGroup = none ∧ (settled State.reset).internal = some .reset) ∧
    (n.due = none ∧ (settled n).agenda = [] ∧ ({ settled n with flip := !(settled n).flip }).nextGroup = none ∧ (settled n).internal = none) := by
  refine ⟨rfl, ⟨_, rfl⟩, ⟨rfl, rfl, rfl, by decide, bytes_of (by decide)⟩, ⟨rfl, rfl, .inl rfl, by decide, by decide, rfl⟩, rfl,
    ⟨rfl, rfl, rfl, rfl, rfl, rfl, rfl⟩, ⟨rfl, rfl, rfl, by decide⟩⟩

/-- A byte of memory that is upset, the second one of its granule, and happenings that a package whose firmware was refused takes and does
not take. -/
theorem witness_StepRunsDecoded_more :
    let s := { devM [] with agenda := [.upset 0x30001] }
    let t := { s with soft := [0x30000] }
    let r := { State.reset with boot := .refused, agenda := [.happen .freeze] }
    let q := { State.reset with boot := .refused, agenda := [.happen .reset] }
    (s.frozen = false ∧ s.due = none ∧ (settled s).agenda = .upset 0x30001 :: [] ∧
      (∃ l, (settled s).locate 0x30001 = .ok l ∧ l.key = 0x30001) ∧ (settled s).bad = [] ∧ (settled s).soft = []) ∧
    (t.due = none ∧ (settled t).agenda = .upset 0x30001 :: [] ∧ (∃ l, (settled t).locate 0x30001 = .ok l ∧ l.key = 0x30001) ∧
      (settled t).bad = [] ∧ (settled t).soft = [0x30000] ∧ 0x30000 / 64 = 0x30001 / 64) ∧
    (r.due = none ∧ (settled r).agenda = .happen .freeze :: [] ∧ r.boot = .refused) ∧
    (q.due = none ∧ (settled q).agenda = .happen .reset :: []) :=
  ⟨⟨rfl, rfl, rfl, ⟨_, rfl, rfl⟩, rfl, rfl⟩, ⟨rfl, rfl, ⟨_, rfl, rfl⟩, rfl, rfl, rfl⟩, ⟨rfl, rfl, rfl⟩, ⟨rfl, rfl⟩⟩

/-- Well-formed instructions whose words decode; reserved words; an instruction and a step of a package that is trusted. -/
theorem witness_coding_and_trust :
    let s := placed 0x38E30A08 []
    (Instr.nop ⟨false, 7⟩).encoded = true ∧ (Instr.nop ⟨false, 7⟩).wf = true ∧
    decode (encode (.nop ⟨false, 7⟩)) = .ok (.nop ⟨false, 7⟩, 4) ∧
    (((0x000000BC : Word).extractLsb' 2 7).toNat = 0x2F ∧ (0x000000BC : Word).getLsbD 1 = false) ∧
    ((0x80000002 : Word).getLsbD 1 = true ∧ (0x80000002 : Word).getLsbD 31 = true ∧ (0x40000000 : DWord).extractLsb' 30 2 ≠ 0) ∧
    (∃ s', exec (.nop ⟨false, 7⟩) (dev []) = .next s') ∧ (s.boot = .running ∧ s.fwImage.verifies = true) ∧ ∃ s', step s = .next s' := by
  refine ⟨rfl, rfl, rfl, by decide, by decide, ⟨_, rfl⟩, ⟨rfl, rfl⟩, ⟨_, rfl⟩⟩

/-- `dev` with a second thread in lane 1 that stands in a wait, and some change to the core. -/
def waiting (p : Park) (f : Core → Core) : State :=
  devC [] (fun c => f { c with threads := [(0, thr), (1, { newThread placeRec 0 1 0 with park := some p })] })

/-- A thread that waits at JOIN, and the last arrival or the leaving of the last one missing; a thread that waits at BSYNC, and the last one. -/
theorem witness_released :
    let s := waiting (.join 1 4) (joined 3 2)
    let b := waiting (.bsync 4) (fun c => { c with blocks := c.blocks.map (fun b => { b with arrivals := 1 }) })
    Solo s 0 0 thr ∧ ((s.core 0).readJ 0 1) = (3, 2) ∧ ((3 : DWord) &&& 1 ≠ 0) ∧ ((2 : DWord) ||| 1 = 3) ∧ ((3 : DWord) &&& ~~~1 ≠ 0) ∧
    ((2 : DWord) &&& ~~~1 = 3 &&& ~~~1) ∧ (s.core 0).slotsIn 0 = [0, 1] ∧
    Solo b 0 0 thr ∧ thr.openRegion = none ∧ thr.region = none ∧ NoFaults b 0 0 ∧ (b.rcd 1).rbk = false ∧ (b.rcd 1).det = false ∧
    (∀ l ∈ b.launches, l.rcd.lid = 1 → l.passed = [] ∧ l.marble = none) ∧
    (∃ k, (b.core 0).block? 1 0 = some k ∧ k.arrivals + 1 = ((b.core 0).slotsOf 1 0).length) ∧
    (∀ o ∈ (b.core 0).slotsOf 1 0, o ≠ 0 → ∃ u k, b.thread? 0 o = some u ∧ u.park = some (.bsync k)) := by
  refine ⟨⟨⟨_, _, rfl⟩, rfl, rfl⟩, rfl, by decide, by decide, by decide, by decide, rfl, ⟨⟨_, _, rfl⟩, rfl, rfl⟩, rfl, rfl, noFaults_of rfl, rfl, rfl,
    by decide, ⟨_, rfl, rfl⟩, fun o h n => ?_⟩
  have e : o = 0 ∨ o = 1 := by
    have : o ∈ [0, 1] := h
    simpa using this
  rcases e with rfl | rfl
  · exact absurd rfl n
  · exact ⟨_, _, rfl, rfl⟩

/-- Two lanes of a crew at a cross-lane instruction, of which lane 1 has come. -/
def meeting (i : Instr) (a b : DWord) (f : Core → Core) : State := waiting (.cross i 3 true a b true 20) f

theorem gathered_of {s : State} {i : Instr} {x : XOps} {a b : DWord} {me : Member} (n : XOps.len x = 20)
    (h : (s.core 0).threads.map (·.1) = [0, 1]) (z : me.slot = 0)
    (p : (s.core 0).participants 0 (crossMask s 0 0 x) = [0, 1]) (m : crossMask s 0 0 x = 3) (act : me.active = thr.guard x.g)
    (br : thr.guard x.g = true → MappedAll (s.core 0) 0 (crossCodes i) ∧ Brings s 0 0 thr i me) (on : me.active = true)
    (u : Thread) (hu : s.thread? 0 1 = some u) (pc : u.pc = thr.pc) (pk : u.park = some (.cross i 3 true a b true 20)) :
    Gathered s 0 0 thr i x me [me, { slot := 1, active := true, a := a, b := b, q := true }] := by
  refine ⟨by simp [p, z], ⟨by simp, z, act⟩, br, ?_, ?_, ?_⟩
  · intro k hk e
    simp only [List.mem_cons, List.not_mem_nil, or_false] at hk
    rcases hk with rfl | rfl
    · rw [on] at e; cases e
    · cases e
  · intro k hk e
    simp only [List.mem_cons, List.not_mem_nil, or_false] at hk
    rcases hk with rfl | rfl
    · exact absurd z e
    · exact ⟨u, hu, pc, by rw [pk, m, n]⟩
  · intro o w _ hw _
    have : o ∈ (s.core 0).threads.map (·.1) := List.mem_map.2 ⟨(o, w), tget_mem hw, rfl⟩
    have h' : (s.core 0).threads.map (·.1) = [0, 1] := h
    rw [h'] at this
    simp [z] at this ⊢
    exact this

/-- VOTE, SHFL, CRED and STCP of two lanes. -/
theorem witness_together :
    let v : XOps := { X0 with a := 7, d := 2, sub := 2, te := true, lit := some 3 }
    let h : XOps := { X0 with a := 0, b := 1, d := 2, te := true, lit := some 3 }
    let r : XOps := { X0 with a := 0, d := 2, sub := 8, te := true, lit := some 3 }
    let p : XOps := { X0 with a := 0xF8, lit := some 0x00FF000000100000, d := 0xF8, b := 2, sub := 2, c := 7, t := 1 }
    let s := meeting (.vote v) 0 0 id
    let sh := meeting (.shfl h) 5 1 id
    let sr := meeting (.cred r) 5 0 id
    let st := meeting (.stcp p) 0x00FF000000100000 7 (joined 3 0)
    let me : Member := { slot := 0, active := true, a := 0, b := 0, q := true }
    let mh : Member := { me with q := false }
    let mp : Member := { me with a := 0x00FF000000100000 }
    let ms (m : Member) (a b : DWord) : List Member := [m, { slot := 1, active := true, a := a, b := b, q := true }]
    Solo s 0 0 thr ∧ NoneCrossing (dev []) 0 0 ∧ Gathered s 0 0 thr (.vote v) v me (ms me 0 0) ∧ (s.core 0).shared = [] ∧
    (∀ m ∈ ms me 0 0, MappedAll (s.core 0) m.slot (crossCodes (.vote v))) ∧
    Solo sh 0 0 thr ∧ Gathered sh 0 0 thr (.shfl h) h mh (ms mh 5 1) ∧ (∀ m ∈ ms mh 5 1, MappedAll (sh.core 0) m.slot (crossCodes (.shfl h))) ∧
    Solo sr 0 0 thr ∧ Gathered sr 0 0 thr (.cred r) r mh (ms mh 5 0) ∧ (∀ m ∈ ms mh 5 0, MappedAll (sr.core 0) m.slot (crossCodes (.cred r))) ∧
    Solo st 0 0 thr ∧ Gathered st 0 0 thr (.stcp p) p mp (ms mp 0x00FF000000100000 7) ∧ (st.core 0).shared = [] ∧
    (((ms mp 0x00FF000000100000 7).filter (·.active)).head? = some mp) ∧ mp.a.toNat % 4 = 0 ∧
    (∀ m ∈ ms mp 0x00FF000000100000 7, ∃ u, st.thread? 0 m.slot = some u ∧ u.lid = 1 ∧ Plain st 0 m.slot u ∧
      MappedAll (st.core 0) m.slot (crossCodes (.stcp p))) ∧
    (st.resolve 0 1 (st.ctxOf thr) (st.core 0).tlb (st.priv thr) .atomic (addOff 0x00FF000000100000 (0 * 4 : Nat)) 4 .write .ls =
      .ok (.store 0 0x100000, none)) ∧
    (st.resolve 0 1 (st.ctxOf thr) (st.core 0).tlb (st.priv thr) .atomic (addOff 0x00FF000000100000 (1 * 4 : Nat)) 4 .write .ls =
      .ok (.store 0 0x100004, none)) := by
  refine ⟨⟨⟨_, _, rfl⟩, rfl, rfl⟩, noneCrossing_of rfl, gathered_of rfl rfl rfl rfl rfl rfl (fun _ => ⟨mapped_of rfl, rfl, rfl, rfl⟩) rfl _ rfl rfl rfl, rfl, ?_,
    ⟨⟨_, _, rfl⟩, rfl, rfl⟩, gathered_of rfl rfl rfl rfl rfl rfl (fun _ => ⟨mapped_of rfl, 0, 0, rfl, rfl, rfl, rfl, rfl⟩) rfl _ rfl rfl rfl, ?_,
    ⟨⟨_, _, rfl⟩, rfl, rfl⟩, gathered_of rfl rfl rfl rfl rfl rfl (fun _ => ⟨mapped_of rfl, 0, rfl, rfl, rfl, rfl⟩) rfl _ rfl rfl rfl, ?_,
    ⟨⟨_, _, rfl⟩, rfl, rfl⟩, gathered_of rfl rfl rfl rfl rfl rfl (fun _ => ⟨mapped_of rfl, rfl, ⟨_, rfl, rfl⟩, rfl⟩) rfl _ rfl rfl rfl, rfl, rfl, by decide, ?_,
    rfl, rfl⟩
  all_goals
    intro m hm
    simp only [List.mem_cons, List.not_mem_nil, or_false] at hm
    rcases hm with rfl | rfl
  · exact mapped_of rfl
  · exact mapped_of rfl
  · exact mapped_of rfl
  · exact mapped_of rfl
  · exact mapped_of rfl
  · exact mapped_of rfl
  · exact ⟨_, rfl, rfl, plain_of rfl rfl rfl rfl rfl, mapped_of rfl⟩
  · exact ⟨_, rfl, rfl, plain_of rfl rfl rfl rfl rfl, mapped_of rfl⟩

/-- Of those that wait for a slot: one that waits until it is empty, and one that has waited longer than the thread; a crew without a partner. -/
theorem witness_FullEmptyResult_waiters :
    let x : XOps := { X0 with a := 1, d := 8 }
    let y : XOps := { X0 with a := 8, d := 1 }
    let u (full : Bool) : Thread := { newThread placeRec 0 0 1 with park := some (.slot 256 full 2) }
    let s (f w : Bool) := { devC [(1, 7)] (fun c => { sharing f c with threads := [(0, thr), (64, u w)] }) with time := 5 }
    let n (f : Bool) := devC [(1, 7)] (fun c => { sharing f c with threads := [(0, thr)] })
    (∀ f w, Solo (s f w) 0 0 thr ∧ NoFaults (s f w) 0 0 ∧ Handled (s f w) thr ∧ MappedAll ((s f w).core 0) 0 [x.a, x.d]) ∧
    FirstAt ((s true false).core 0) 256 true (slotOrder thr 256 5) ∧ (s true false).thread? 0 64 = some (u false) ∧
    FirstAt ((s true false).core 0) 256 false 2 ∧ ¬FirstAt ((s true true).core 0) 256 true (slotOrder thr 256 5) ∧
    ((s true true).core 0).hasPartner 0 256 = true ∧ FirstAt ((s false true).core 0) 256 false (slotOrder thr 256 5) ∧
    ¬FirstAt ((s false false).core 0) 256 false (slotOrder thr 256 5) ∧ ((s false false).core 0).hasPartner 0 256 = true ∧
    (∀ f, Solo (n f) 0 0 thr ∧ Handled (n f) thr ∧ ((n f).core 0).hasPartner 0 256 = false ∧ ((n f).core 0).vOff 0 1 = some 256 ∧
      ((n f).core 0).shared.contains (256 / 2048) = true ∧ ((n f).core 0).full.contains 256 = f ∧ (n f).src32 0 0 thr none y.a = .ok 0) ∧
    (∃ o, ((n true).core 0).vOff 0 x.d.toNat = some o ∧ ((n true).core 0).shared.contains (o / 2048) = false) := by
  have one {c : Core} {p q : Nat × Thread} {o b : Nat} {f : Bool} (h : c.threads = [p, q]) (hp : p.2.park = none)
      (hq : q.2.park ≠ some (.slot o f b)) (g : ∀ k, q.2.park = some (.slot o f k) → k = b) (n : Nat) : FirstAt c o f n := by
    intro e he k hk
    rw [h] at he
    simp only [List.mem_cons, List.not_mem_nil, or_false] at he
    rcases he with rfl | rfl
    · rw [hp] at hk; cases hk
    · exact absurd (by rw [hk, g k hk]) hq
  refine ⟨fun f w => ⟨⟨⟨_, _, rfl⟩, rfl, rfl⟩, noFaults_of rfl, ⟨rfl, show (0x20000 : DWord) ≠ 0 by decide⟩, ?_⟩, ?_, rfl, ?_, ?_, rfl, ?_, ?_, rfl, ?_, ⟨_, rfl, rfl⟩⟩
  · exact mapped_of rfl
  · exact one (b := 2) rfl rfl (by decide) (fun k h => by cases h) _
  · intro e he k hk
    have : e = (0, thr) ∨ e = (64, { newThread placeRec 0 0 1 with park := some (.slot 256 false 2) }) := by
      simpa using (show e ∈ [_, _] from he)
    rcases this with rfl | rfl
    · cases hk
    · cases hk; exact Nat.le_refl _
  · exact fun h => absurd (h (64, _) (.tail _ (.head _)) 2 rfl) (by decide)
  · exact one (b := 2) rfl rfl (by decide) (fun k h => by cases h) _
  · exact fun h => absurd (h (64, _) (.tail _ (.head _)) 2 rfl) (by decide)
  · intro f
    cases f
    · exact ⟨⟨⟨_, _, rfl⟩, rfl, rfl⟩, ⟨rfl, show (0x20000 : DWord) ≠ 0 by decide⟩, rfl, rfl, rfl, rfl, rfl⟩
    · exact ⟨⟨⟨_, _, rfl⟩, rfl, rfl⟩, ⟨rfl, show (0x20000 : DWord) ≠ 0 by decide⟩, rfl, rfl, rfl, rfl, rfl⟩

theorem walkQuiet_of {s : State} {ctx : Nat} {p : DWord} (h : s.cores.all (fun c => c.2.lines.all (fun l => l.upd.isNone)) = true) :
    WalkQuiet s ctx p := fun _ _ c hc l hl _ => by
  have := List.all_eq_true.1 (List.all_eq_true.1 h c hc) l hl
  simpa using this

/-- A store and an update at the point of coherence, a load whose fault's walk sends nothing, and granules whose MAC holds. -/
theorem witness_sealed :
    let x : XOps := { at_ 0x30000 with sub := 0x32 }
    let m := devM [(1, 7)]
    let d := (devM []).modCore 0 (fun c => { c with lines := [dirtyLine] })
    (∃ e leaf, m.resolve 0 1 (m.ctxOf thr) (m.core 0).tlb (m.priv thr) .ldst 0x30000 4 .write .ls = .ok (.mem 0x30000 leaf, some e) ∧
      Sealed m (m.ctxOf thr) leaf 0x30000) ∧
    (∃ e leaf, m.resolve 0 1 (m.ctxOf thr) (m.core 0).tlb (m.priv thr) .atomic 0x30000 4 .reduce .ls = .ok (.mem 0x30000 leaf, e) ∧
      ∃ v, m.readPa (m.ctxOf thr) (leafMac leaf) 0x30000 4 = .ok v ∧ ∃ w, atomicValue 0 4 v 7 0 = some w) ∧
    Ready m 0 0 thr x 4 (x.imm.extractLsb' 0 28).toInt 0x30000 (codesOf x.b 4) ∧ x.sub.extractLsb' 4 2 = 3 ∧ (x.imm.extractLsb' 28 4).toNat = 0 ∧
    (∃ f, m.resolve 0 1 (m.ctxOf thr) (m.core 0).tlb (m.priv thr) .ldst 0x0100000000030000 4 .read .ls = .error f ∧ WalkQuiet m (m.ctxOf thr) f.va) ∧
    Sealed d dirtyLine.last.2.2.2.2 dirtyLine.leaf (dirtyLine.addr * 128 + 3 / 32 * 32) ∧
    (∀ k, k < 4 → Sealed crowded dirtyLine.last.2.2.2.2 dirtyLine.leaf (0x600 * 128 + 32 * k)) ∧
    (∃ leaf v, (asked (.host host)).plain 0 (addOff 0x30000 0xA8) 8 .write .ls = some (v, leaf) ∧ Sealed (asked (.host host)) 0 leaf v) := by
  refine ⟨⟨_, _, rfl, rfl⟩, ⟨_, _, rfl, _, rfl, _, rfl⟩, ⟨rfl, mapped_of rfl, fun h => absurd h (by decide), rfl, by decide⟩, by decide, by decide,
    ⟨_, rfl, walkQuiet_of rfl⟩, rfl, fun k _ => ?_, ⟨_, _, rfl, rfl⟩⟩
  exact rfl

/-- A LNCH over a dirty line; operations of CCTL on the line of its bytes; a TLBINV of one page. -/
theorem witness_lines :
    let x : XOps := { X0 with a := 0xF8, lit := some 0x30000 }
    let c : XOps := { X0 with a := 0xF8, lit := some 0x30000, b := 1 }
    let d := { dirtied with cores := [(0, { (coreOf [(1, 4)]) with lines := [dirtyLine] })] }
    let u := { dirtied with cores := [(0, { (coreOf [(1, 4)]) with lines := [{ dirtyLine with dirty := 0 }] })] }
    let h : Thread := { thr with mode := .handler }
    let z := (devM [(1, 4)]).modThread 0 0 (fun _ => h)
    Solo dirtied 0 0 thr ∧ (dirtied.rcd 1).det = false ∧ (dirtied.core 0).lines.filter (fun l => l.lid == 1) = [dirtyLine] ∧ NoFaults dirtied 0 0 ∧
    MappedAll (dirtied.core 0) 0 (baseCodes x) ∧ dirtied.address 0 0 thr x x.imm.toInt = .ok 0x30000 ∧ (0x30000 : DWord).toNat % 256 = 0 ∧
    Solo d 0 0 thr ∧ MappedAll (d.core 0) 0 (baseCodes c ++ [c.b]) ∧ d.address 0 0 thr c c.imm.toInt = .ok 0x30000 ∧
    d.src32 0 0 thr c.lit c.b = .ok 4 ∧ LineNamed d (d.ctxOf thr) 0x30000 4 0x600 ∧
    (d.core 0).lines.filter (fun l => l.lid == 1 && l.addr == 0x600) = [dirtyLine] ∧ dirtyLine.upd = none ∧
    Sealed d dirtyLine.last.2.2.2.2 dirtyLine.leaf (0x600 * 128 + 3 / 32 * 32) ∧ (∃ l, d.locate (0x600 * 128 + 3) = .ok l) ∧
    Solo u 0 0 thr ∧ LineNamed u (u.ctxOf thr) 0x30000 4 0x600 ∧
    (u.core 0).lines.filter (fun l => l.lid == 1 && l.addr == 0x600) = [{ dirtyLine with dirty := 0 }] ∧
    Solo z 0 0 h ∧ h.mode = .handler ∧ LineNamed z (z.ctxOf h) 0x30000 4 0x600 ∧ (∃ k, z.locate (0x600 * 128) = .ok k ∧ k.cxl = false) ∧ z.l2 = [] ∧
    z.fabric = [] ∧ NoneHolds z 0 0 h ∧ MappedAll (z.core 0) 0 (pairOf 2 ++ [3]) ∧ z.src64 0 0 h none 2 = .ok 0 ∧
    z.src32 0 0 h none 3 = .ok 0 ∧ (0 : Word).toNat = z.ctxOf h := by
  have named (s : State) (h : s.cores.all (fun c => c.2.lines.all (fun l => l.upd.isNone)) = true)
      (k : ∃ e, s.fresh? 0 0x30000 0 = .ok e ∧ leafMig e.leaf ≠ 1 ∧ leafTier e.leaf ≠ 2 ∧ leafRid e.leaf = 0 ∧ leafNq e.leaf = false ∧
        leafFrame e.leaf = 0 ∧ e.va = 0) : LineNamed s 0 0x30000 4 0x600 := by
    obtain ⟨e, f, m, t, r, q, fr, va⟩ := k
    refine ⟨by decide, by decide, by decide, ⟨e, f, m, t, r, q, fun a ha hb => ?_⟩, walkQuiet_of h⟩
    rw [fr, va]
    have : (0x30000 : DWord).toNat / 128 * 128 = 0x600 * 128 := by decide
    rw [this] at ha hb
    omega
  refine ⟨⟨⟨_, _, rfl⟩, rfl, rfl⟩, rfl, rfl, noFaults_of rfl, mapped_of rfl, rfl, by decide, ⟨⟨_, _, rfl⟩, rfl, rfl⟩, mapped_of rfl, rfl, rfl, ?_, rfl, rfl, rfl,
    ⟨_, rfl⟩, ⟨⟨_, _, rfl⟩, rfl, rfl⟩, ?_, rfl, ⟨⟨_, _, rfl⟩, rfl, rfl⟩, rfl, ?_, ⟨_, rfl, rfl⟩, rfl, rfl, noneHolds_of (by decide), mapped_of rfl, rfl, rfl, rfl⟩
  · exact named _ rfl ⟨_, rfl, by decide, by decide, by decide, by decide, by decide, by decide⟩
  · exact named _ rfl ⟨_, rfl, by decide, by decide, by decide, by decide, by decide, by decide⟩
  · exact named _ rfl ⟨_, rfl, by decide, by decide, by decide, by decide, by decide, by decide⟩

/-- Places of a thread and map entries that GETS reads. -/
theorem witness_SystemRegisterResult_places :
    let s := dev []
    let l := devC [] lean
    (∃ w, sysValue s 0 0 thr 0x10 = some w) ∧ (∃ w, sysValue s 0 0 thr 0x1F = some w) ∧ (∃ w, sysValue s 0 0 thr 0x38 = some w) ∧
    (∃ w, sysValue s 0 0 thr 0x41 = some w) ∧ (∃ w, sysValue l 0 0 thr 0x80 = some w) ∧ (∃ w, sysValue l 0 0 thr 0x9B = some w) ∧ Solo s 0 0 thr ∧
    mapEntry s 0 0 3 = some 3 ∧ mapEntry l 0 0 4 = none ∧ Solo l 0 0 thr := by
  exact ⟨⟨_, rfl⟩, ⟨_, rfl⟩, ⟨_, rfl⟩, ⟨_, rfl⟩, ⟨_, rfl⟩, ⟨_, rfl⟩, solo_dev _ rfl rfl, rfl, rfl, ⟨⟨_, _, rfl⟩, rfl, rfl⟩⟩

/-- A group of two threads of `dev`, in lanes 0 and 1. -/
def paired : Group := { core := 0, lid := 1, pc := 0x10000, slots := [0, 1] }

/-- The thread in lane 1. -/
def thr1 : Thread := newThread placeRec 0 1 0

/-- A device where that group has issued. -/
def pairDev (s : State) (vs : List (Nat × Word)) (f : Core → Core) : State :=
  { s with cores := [(0, f { (coreOf vs) with threads := [(0, thr), (1, thr1)] })], cur := some paired }

theorem issued_of {s : State} (h : s.cur = some paired) (a : (s.thread? 0 0).isSome) (b : (s.thread? 0 1).isSome)
    (c : ((s.core 0).crew? 0).isSome) : Issued s paired := by
  refine ⟨h, by simp [paired], ?_, ?_⟩
  all_goals
    intro o ho
    have e : o = 0 ∨ o = 1 := by simpa [paired] using ho
    rcases e with rfl | rfl
    all_goals assumption

theorem witness_IssueGroupResult :
    let i : XOps := { X0 with a := 0, b := 1, d := 0xE2 }
    let x := at_ 0x00FF000000100000
    let y : XOps := { X0 with a := 0xF8, d := 2 }
    let s := pairDev (dev []) [(0, 2), (1, 3)] id
    let o := pairDev (dev []) [] (objected 2 0)
    let d := pairDev (devM []) [] (fun c => { c with lines := [dirtyLine] })
    Issued s paired ∧ (∃ f, intBinary (.iaddX i) = some (i, 12, f)) ∧ i.sub.extractLsb' 0 2 ≠ 1 ∧
    (∀ p t, p ∈ paired.slots ∧ s.thread? 0 p = some t ∧ t.guard i.g = true → MappedAll (s.core 0) p [i.d] ∧
      (∃ a, s.src32 0 p t i.lit i.a = .ok a) ∧ ∃ b, s.src32 0 p t i.lit i.b = .ok b) ∧
    s.thread? 0 0 = some thr ∧ s.thread? 0 1 = some thr1 ∧ Plain s 0 0 thr ∧ Plain s 0 1 thr1 ∧
    Ready s 0 0 thr x 4 (x.imm.extractLsb' 0 28).toInt 0x00FF000000100000 ([2] ++ codesOf x.b 4) ∧
    Ready s 0 1 thr1 x 4 (x.imm.extractLsb' 0 28).toInt 0x00FF000000100000 ([2] ++ codesOf x.b 4) ∧
    s.srcN 0 0 thr x.lit x.b 4 = .ok 3 ∧ s.srcN 0 1 thr1 x.lit x.b 4 = .ok 0 ∧
    (s.resolve 0 1 (s.ctxOf thr) (s.core 0).tlb (s.priv thr) .atomic 0x00FF000000100000 4 .atomic .ls = .ok (.store 0 0x100000, none)) ∧
    (s.resolve 0 1 (s.ctxOf thr1) (s.core 0).tlb (s.priv thr1) .atomic 0x00FF000000100000 4 .atomic .ls = .ok (.store 0 0x100000, none)) ∧
    (s.core 0).badIn 0x100000 4 = none ∧ (∃ v, atomicValue 0 4 0 3 0 = some v ∧ ∃ w, atomicValue 0 4 (v % 256 ^ 4) 0 0 = some w) ∧
    Issued o paired ∧ ObjectAt o 0 0 thr y 0x100000 ∧ ObjectAt o 0 1 thr1 y 0x100000 ∧ Apart (o.core 0) 0 y.d 0x100000 16 ∧
    Apart (o.core 0) 1 y.d 0x100000 16 ∧ NoWaiter (o.core 0) 0x100000 ∧ arr ((o.core 0).store.get32 0x100000) + 1 ≤ Claims.due ((o.core 0).store.get32 0x100000) ∧
    Issued d paired ∧ thr.awaited = false ∧ thr1.awaited = false ∧ (d.rcd 1).rbk = false ∧ (d.core 0).lines.filter (fun l => l.lid == 1) = [dirtyLine] ∧
    (∃ l, d.locate (0x600 * 128 + 3) = .ok l) ∧ Sealed d dirtyLine.last.2.2.2.2 dirtyLine.leaf (0x600 * 128 + 3 / 32 * 32) ∧
    NoFaults d 0 0 ∧ NoFaults d 0 1 := by
  refine ⟨issued_of rfl rfl rfl rfl, ⟨_, rfl⟩, by decide, ?_, rfl, rfl, plain_of rfl rfl rfl rfl rfl, plain_of rfl rfl rfl rfl rfl,
    ⟨rfl, mapped_of rfl, fun h => absurd h (by decide), rfl, by decide⟩, ⟨rfl, mapped_of rfl, fun h => absurd h (by decide), rfl, by decide⟩, rfl, rfl, rfl, rfl, rfl,
    ⟨_, rfl, _, rfl⟩, issued_of rfl rfl rfl rfl, ⟨⟨0, rfl, by decide, by decide, by decide⟩, rfl, by decide, by decide, by decide⟩,
    ⟨⟨0, rfl, by decide, by decide, by decide⟩, rfl, by decide, by decide, by decide⟩, fun _ => ⟨_, rfl, .inl (by decide)⟩, fun _ => ⟨_, rfl, .inl (by decide)⟩,
    noWaiter_of rfl, by decide, issued_of rfl rfl rfl rfl, rfl, rfl, rfl, rfl, ⟨_, rfl⟩, rfl, noFaults_of rfl, noFaults_of rfl⟩
  intro p t ⟨hp, ht, _⟩
  have e : p = 0 ∨ p = 1 := by simpa [paired] using hp
  rcases e with rfl | rfl
  · cases ht; exact ⟨mapped_of rfl, ⟨_, rfl⟩, ⟨_, rfl⟩⟩
  · cases ht; exact ⟨mapped_of rfl, ⟨_, rfl⟩, ⟨_, rfl⟩⟩

/-- `devM` with another page, and its launch with a rule and its marble. -/
def paged (leaf : Nat) (f : LaunchRec → LaunchRec) (m : Option (Nat × Nat)) (g : Core → Core) : State :=
  let s := (devM [(1, 7)]).poke 0 0x4000 8 leaf
  { s with launches := [{ placeLaunch with rcd := f placeLaunch.rcd, marble := m }], cores := [(0, g (coreOf [(1, 7)]))] }

/-- Its checkpoint: the thread as it stood, and its scratchpad. -/
def copyOf : Saved :=
  { blocks := [({ newBlock placeRec 0 0x100000 0 with started := true }, Memory.empty)], crews := [(0, { newCrew 1 (0, 0) 0 with rbm := Vector.ofFn (fun i : Fin 28 => some i.val) })]
    threads := [(0, thr)], regs := Memory.empty, tasks := [], shared := [], full := [], badSpad := [], badRegs := [], size := 0 }

theorem witness_DetRbkMemoryResult :
    let det (r : LaunchRec) : LaunchRec := { r with det := true }
    let rbk (r : LaunchRec) : LaunchRec := { r with rbk := true }
    let x := at_ 0x30000
    let b : XOps := { x with sub := 0x32 }
    let w := paged 0x3F det none id
    let m := paged 0x3F det (some (0, 0)) id
    let r := paged 0x1F rbk none id
    let k : Taint := { order := 0, regs := [1], treg := none, va := 0, kind := .uncorrectable, write := false, path := .ls, level := 0 }
    let t : Thread := { thr with taints := [k] }
    let c := paged 0x1F rbk none (fun c => { c with threads := [(0, t)], checkpoints := [copyOf] })
    let y : XOps := { X0 with b := 1, d := 2 }
    let acc (s : State) (a : Acc) : Prop := ∃ e leaf, s.resolve 0 1 (s.ctxOf thr) (s.core 0).tlb (s.priv thr) .ldst 0x30000 4 a .ls =
      .ok (.mem 0x30000 leaf, some e) ∧ WalkQuiet s e.ctx e.ptr ∧ Sealed s (s.ctxOf thr) leaf 0x30000 ∧ leafTier e.leaf ≠ 2 ∧
      leafDs leaf = decide ((s.rcd 1).det = true) ∧ leafDs e.leaf = decide ((s.rcd 1).det = true) ∧
      ∃ v, s.readPa (s.ctxOf thr) (leafMac leaf) 0x30000 4 = .ok v
    (∀ s ∈ [w, m, r], Solo s 0 0 thr ∧ NoFaults s 0 0 ∧ s.srcN 0 0 thr x.lit x.b 4 = .ok 7 ∧
      Ready s 0 0 thr x 4 x.imm.toInt 0x30000 (codesOf x.b 4) ∧ Ready s 0 0 thr b 4 b.imm.toInt 0x30000 (codesOf b.b 4) ∧
      Ready s 0 0 thr x 4 (x.imm.extractLsb' 0 28).toInt 0x30000 ([2] ++ codesOf x.b 4) ∧ s.heldStores 0 1 0 = [] ∧ NoCopies s (0x30000 / 128) ∧
      (∃ l, s.locate 0x30000 = .ok l) ∧ s.above 0 thr = []) ∧
    acc w .write ∧ acc m .write ∧ acc r .write ∧ acc w .read ∧
    (w.rcd 1).det = true ∧ w.hasMarble 0 0 thr = false ∧ (m.rcd 1).det = true ∧ (m.rcd 1).rbk = false ∧ m.hasMarble 0 0 thr = true ∧
    (r.rcd 1).rbk = true ∧ (r.rcd 1).det = false ∧ (∃ z, (r.core 0).block? 1 0 = some z ∧ z.deferred = []) ∧
    (∃ e : Tlb, r.granuleFree 0 thr (buffered thr 0 0x30000 4 0 7 (some e)) = true) ∧
    Solo c 0 0 t ∧ moves (.movX y) = some (y, 12) ∧ MappedAll (c.core 0) 0 [y.d] ∧ (c.core 0).blocking 0 y.b = [] ∧ t.taintOf y.b = some k ∧
    k.kind = .uncorrectable ∧ (c.rcd 1).rbk = true ∧
    (∃ z v, LoneBlock c 0 0 t z copyOf 0 thr v Memory.empty) := by
  refine ⟨?_, ⟨_, _, rfl, walkQuiet_of rfl, rfl, by decide, rfl, rfl, _, rfl⟩, ⟨_, _, rfl, walkQuiet_of rfl, rfl, by decide, rfl, rfl, _, rfl⟩,
    ⟨_, _, rfl, walkQuiet_of rfl, rfl, by decide, rfl, rfl, _, rfl⟩, ⟨_, _, rfl, walkQuiet_of rfl, rfl, by decide, rfl, rfl, _, rfl⟩, rfl, rfl, rfl, rfl, rfl, rfl, rfl,
    ⟨_, rfl, rfl⟩, ⟨{ ctx := 0, va := 0, size := 0, leaf := 0, bound := (0, 0), window := (0, 0) }, rfl⟩, ⟨⟨_, _, rfl⟩, rfl, rfl⟩, rfl, mapped_of rfl, rfl, rfl, rfl, rfl,
    ⟨_, _, rfl, ⟨rfl, rfl, rfl, rfl, rfl⟩, ⟨rfl, rfl, rfl⟩, rfl, ⟨rfl, rfl⟩, ⟨rfl, rfl, rfl, rfl, rfl⟩, by decide⟩⟩
  intro s hs
  simp only [List.mem_cons, List.not_mem_nil, or_false] at hs
  rcases hs with rfl | rfl | rfl
  all_goals
    exact ⟨⟨⟨_, _, rfl⟩, rfl, rfl⟩, noFaults_of rfl, rfl, ⟨rfl, mapped_of rfl, fun h => absurd h (by decide), rfl, by decide⟩,
      ⟨rfl, mapped_of rfl, fun h => absurd h (by decide), rfl, by decide⟩, ⟨rfl, mapped_of rfl, fun h => absurd h (by decide), rfl, by decide⟩, rfl,
      noCopies_of rfl, ⟨_, rfl⟩, rfl⟩

/-- Values of a float format that are no NaN and whose sum and product are one. -/
theorem witness_NanResults_invalid :
    (fmtOf 0).isNan ((fmtOf 0).add .rne ((fmtOf 0).inf false) ((fmtOf 0).inf true)) = true ∧ (fmtOf 0).isNan ((fmtOf 0).inf false) = false ∧
    (fmtOf 0).isNan ((fmtOf 0).mul .rne ((fmtOf 0).inf false) ((fmtOf 0).zero true)) = true := by decide

/-- A load that its core promises itself, one of another core's store whose return is booked and one whose return is not, promises for other cycles. -/
theorem witness_PromiseStages_own :
    let own (l : Load) : Load := { l with own := some 9 }
    let far (l : Load) : Load := { l with source := 9 }
    let s := loading true 1 own
    let q := loading true 1 far
    let b := loading true 1 (fun l => { l with source := 9, slots := [(0x20800, 0)] })
    (s.core 0).load? 9 = some (aLoad own) ∧ MayPromise s 0 (aLoad own) 9 ∧ LoadAt s 0 9 (aLoad own) (timed 1) 2 ∧ ((timed 1).treg 2).extractLsb' 29 3 = 1 ∧
    (s.island (0 / 2)).running = true ∧ (∀ k ∈ (s.core 0).loads, (aLoad own).shares k = true → k = aLoad own) ∧
    (∀ k ∈ (s.core 0).loads, (aLoad own).shares k = true → ¬MayPromise s 0 k 10) ∧
    (q.core 0).load? 9 = some (aLoad far) ∧ 8 ≤ (aLoad far).source ∧ (aLoad far).slots = [] ∧
    (∃ s1 slots, q.bookReturn (((aLoad far).source - 8) / 16) (((aLoad far).source - 8) % 16 * 2) 0 = (s1, some slots)) ∧
    (b.core 0).load? 9 = some (aLoad (fun l => { l with source := 9, slots := [(0x20800, 0)] })) ∧
    NotReporting s 0 9 ∧ (promised false 2).fabric = [] ∧ After ((promised false 2).now29 0) (((timed 2).treg 2).extractLsb' 0 29) ∧
    After ((promised true 4).now29 0) (((timed 4).treg 2).extractLsb' 0 29) := by
  refine ⟨rfl, mayPromise_own rfl rfl (by decide) (by decide), ⟨rfl, rfl, rfl⟩, by decide, rfl, fun k h _ => List.mem_singleton.1 h, ?_, rfl, by decide, rfl,
    ⟨_, _, rfl⟩, rfl, fun f h => (by cases h), rfl, by simp only [After]; decide, by simp only [After]; decide⟩
  intro k h _ m
  cases List.mem_singleton.1 h
  exact absurd m.2.2.1 (by decide)

/-- A switch of a clock that stands to a point that starts it. -/
theorem witness_IslandClocks_stopped :
    let c := { clocked State.reset 0x80000004 none with islands := [(0, { cycle := 9, running := false, held := none })] }
    (islop c 0).getLsbD 31 = true ∧ (islop c 0).extractLsb' 0 4 ≠ 0 ∧
    ¬((islop c 0).extractLsb' 0 4 = 0 ∨ (islop c 0).extractLsb' 16 4 ≠ 0 ∨ (c.island 0).running = true) ∧ (∀ n, n / 2 = 0 → (c.core n).loads = []) ∧
    ((islop (clocked (promised true 2) 0x800D0004 none) 0).extractLsb' 16 4 ≠ 0) :=
  ⟨by decide, by decide, by decide, fun _ _ => rfl, by decide⟩

/-- A piece of four bytes that lands in two steps of its count, of which the second completes the phase. -/
theorem witness_TaskEvents_landing :
    let b : Task := { gath 0x00FF000000100020 0x00FF000000100000 1 with op := .gath 0x00FF000000100020 0x00FF000000100000 0 1 4 }
    let s := (tasked [b]).modCore 0 (fun c => { c with store := ((c.store.put32 0x100040 0x00010001).put32 0x100044 2) })
    Working s 0 b ∧ b.piece 0 = (0x00FF000000100000, 0x00FF000000100020, 4) ∧ 0 ∉ b.done ∧ 1 ≤ b.idx.length ∧
    (∃ k, (s.core 0).block? 1 0 = some k ∧ k.spbase = 0x100000) ∧ b.signal = some 0x40 ∧
    s.resolve 0 1 0 (s.core 0).walkAhead false .engine 0x00FF000000100000 4 .read .ga = .ok (.store 0 0x100000, none) ∧
    s.resolve 0 1 0 (s.core 0).walkAhead false .engine 0x00FF000000100020 4 .write .ga = .ok (.store 0 0x100020, none) ∧
    (s.core 0).badIn 0x100000 4 = none ∧ -(2 ^ 27 : Int) ≤ pend ((s.core 0).store.get32 0x100044) - (4 : Nat) ∧
    arr ((s.core 0).store.get32 0x100040) = Claims.due ((s.core 0).store.get32 0x100040) ∧ 0 < pend ((s.core 0).store.get32 0x100044) ∧
    pend ((s.core 0).store.get32 0x100044) ≤ 4 :=
  ⟨⟨rfl, rfl, rfl⟩, by decide, by decide, by decide, ⟨_, rfl, rfl⟩, rfl, rfl, rfl, rfl, by decide, by decide, by decide, by decide⟩

/-- A failed launch without a block or record left, whose share holds one dirty byte. -/
theorem witness_LaunchEvents_failed :
    let s := { dirtied with
      launches := [{ placeLaunch with ended := some (3, 5, 0) }]
      cores := [(0, { Core.reset with lines := [dirtyLine], shares := [(1, 256)] })] }
    s.launch? 1 = some { placeLaunch with ended := some (3, 5, 0) } ∧ s.residents 1 = [] ∧ placeLaunch.saved = [] ∧
    s.cores.flatMap (fun e => (e.2.lines.filter (fun z => z.lid == 1)).map (fun z => (e.1, z))) = [(0, dirtyLine)] ∧
    (∃ x, s.locate (0x600 * 128 + 3) = .ok x) ∧ Sealed s dirtyLine.last.2.2.2.2 dirtyLine.leaf (0x600 * 128 + 3 / 32 * 32) :=
  ⟨rfl, rfl, rfl, by decide, ⟨_, rfl⟩, rfl⟩

/-- The management controller's reads of the control window; an entry whose line has no update-only copy; the window load's answer of a group. -/
theorem witness_FabricEvents_more :
    let l : Load := { pendingLoad 1 with treg := some 2, data := none, va := 0x30004, req := some (3, 0x30000, 32) }
    let s := open_ (.load 0 9 .ld (some (3, 0x30000, 32)) 1 0 0 0 0x10000) 0 [l]
    let k : Sender := { port := 18, tag := 0, endpoint := 0 }
    k.port = 18 ∧ ((8 = 4 ∨ 8 = 8) ∧ 0x71010 % 8 = 0 ∧ 0 < 4) ∧ EntryQuiet s 0 0 ∧ s.inbound host = true ∧ host.port ≠ 18 ∧
    (s.core 0).load? l.id = some l ∧ (∀ y ∈ (s.core 0).loads, y.id = l.id → y = l) ∧ l.req = some (3, 0x30000, 32) ∧ l.overlaid = [] ∧ s.time < 10 ∧
    (∃ leaf v, Reaches s 0 0x30000 8 .write 0x30000 leaf ∧ Sealed s 0 leaf 0x30000 ∧ s.readPa 0 (leafMac leaf) 0x30000 8 = .ok v) := by
  refine ⟨rfl, by decide, fun c hc y hy _ => ?_, by decide, by decide, rfl, fun y h _ => List.mem_singleton.1 h, rfl, rfl, by decide,
    _, _, reaches_of (by decide) (by decide) ⟨_, rfl⟩ rfl ⟨_, rfl⟩, rfl, rfl⟩
  cases List.mem_singleton.1 hc
  cases hy

end Sys2Proof.Tests
end

section
namespace Sys2Proof

/-! ## Fields under a mask -/

/-- A word with ones in one field and zeros elsewhere. -/
def fieldMask (s k : Nat) : Word := (BitVec.allOnes k).setWidth 32 <<< s

/-- A field is 0 where the word under its mask is. -/
theorem and_fieldMask (w : Word) {s k : Nat} (h : s + k ≤ 32) : w &&& fieldMask s k = 0 ↔ w.extractLsb' s k = 0 := by
  constructor <;> intro z
  · ext i hi
    have b := congrArg (·.getLsbD (s + i)) z
    simpa [fieldMask, hi, show s + i < 32 by omega, show i < 32 by omega] using b
  · ext i hi
    by_cases f : s ≤ i ∧ i - s < k
    · have b := congrArg (·.getLsbD (i - s)) z
      simp only [BitVec.getLsbD_extractLsb', f.2, decide_true, Bool.true_and, Nat.add_sub_cancel' f.1] at b
      simp [← BitVec.getLsbD_eq_getElem, b]
    · simp [fieldMask]
      omega

/-- A word with ones in some fields and zeros elsewhere. -/
def maskOf (fs : List (Nat × Nat)) : Word := fs.foldr (fun f m => fieldMask f.1 f.2 ||| m) 0

/-- The fields are 0 where the word under their mask is. -/
theorem and_maskOf (w : Word) (fs : List (Nat × Nat)) (h : ∀ f ∈ fs, f.1 + f.2 ≤ 32) :
    w &&& maskOf fs = 0 ↔ ∀ f ∈ fs, w.extractLsb' f.1 f.2 = 0 := by
  induction fs with
  | nil => simp [maskOf]
  | cons f fs ih =>
    rw [List.forall_mem_cons] at h ⊢
    rw [← ih h.2, ← and_fieldMask w h.1]
    simp only [maskOf, List.foldr_cons, BitVec.and_or_distrib_left]
    exact BitVec.or_eq_zero_iff

/-! ## A word from its fields -/

/-- A field within a field. -/
theorem extract_extract {n : Nat} (w : BitVec n) {s k s' k' : Nat} (h : s' + k' ≤ k) :
    (w.extractLsb' s k).extractLsb' s' k' = w.extractLsb' (s + s') k' := by
  ext i hi
  simp [show s' + i < k by omega, Nat.add_assoc]

/-- Neighbouring fields joined. -/
theorem extract_join {n : Nat} (w : BitVec n) {s s' k k' : Nat} (h : s' = s + k) :
    w.extractLsb' s' k' ++ w.extractLsb' s k = w.extractLsb' s (k' + k) := BitVec.extractLsb'_append_extractLsb'_eq_extractLsb' h

/-- A part of operand B, A or D of an S-form's base word. -/
theorem sWord_inB (hold : Bool) (g : Guard) (b a d : BitVec 6) (op : BitVec 7) (lit : Bool) {s k : Nat} (h : 21 ≤ s) (h' : s + k ≤ 27) :
    (sWord hold g b a d op lit).extractLsb' s k = b.extractLsb' (s - 21) k := by
  conv_rhs => rw [← sWord_b hold g b a d op lit, extract_extract _ (by omega), Nat.add_sub_cancel' h]

theorem sWord_inA (hold : Bool) (g : Guard) (b a d : BitVec 6) (op : BitVec 7) (lit : Bool) {s k : Nat} (h : 15 ≤ s) (h' : s + k ≤ 21) :
    (sWord hold g b a d op lit).extractLsb' s k = a.extractLsb' (s - 15) k := by
  conv_rhs => rw [← sWord_a hold g b a d op lit, extract_extract _ (by omega), Nat.add_sub_cancel' h]

theorem sWord_inD (hold : Bool) (g : Guard) (b a d : BitVec 6) (op : BitVec 7) (lit : Bool) {s k : Nat} (h : 9 ≤ s) (h' : s + k ≤ 15) :
    (sWord hold g b a d op lit).extractLsb' s k = d.extractLsb' (s - 9) k := by
  conv_rhs => rw [← sWord_d hold g b a d op lit, extract_extract _ (by omega), Nat.add_sub_cancel' h]

/-- A bit as a Boolean and back. -/
theorem bit_of_beq (b : BitVec 1) : bit (b == 1) = b := by
  revert b; decide

/-- The base word of an S-form whose fields are those of w. -/
theorem sWord_eq {w : Word} {hold : Bool} {g : Guard} {b a d : BitVec 6} {op : BitVec 7} {lit : Bool}
    (hhold : bit hold = w.extractLsb' 31 1) (hg : g = sGuard w) (hb : b = w.extractLsb' 21 6) (ha : a = w.extractLsb' 15 6)
    (hd : d = w.extractLsb' 9 6) (hop : op = w.extractLsb' 2 7) (hlen : (if lit then 1#2 else 0#2) = w.extractLsb' 0 2) :
    sWord hold g b a d op lit = w := by
  simp only [sWord, hhold, hg, hb, ha, hd, hop, hlen, sGuard, bit_of_beq]
  simp (disch := decide) only [extract_join]
  exact extract_all w

/-- The words of an X-form are those that its fields were read from. -/
theorem xBase_xFields {w : Word} {e : DWord} {lit : Option DWord} (htop : w.extractLsb' 31 1 = 0)
    (hlen : w.extractLsb' 0 2 = if lit.isSome then 3#2 else 2#2) : xBase (w.extractLsb' 2 7) (xFields w e lit) = w := by
  dsimp only [xBase, xFields]
  rw [← hlen, show (0#1) = w.extractLsb' 31 1 from htop.symm]
  simp (disch := decide) only [extract_join]
  exact extract_all w

theorem xExt_xFields {w : Word} {e : DWord} {lit : Option DWord} (hgap : e.extractLsb' 30 2 = 0) : xExt (xFields w e lit) = e := by
  simp only [xExt, xFields, bit_of_beq]
  rw [show (0#2) = e.extractLsb' 30 2 from hgap.symm]
  simp (disch := decide) only [extract_join]
  exact extract_all e


/-! ## The formats of the S-forms (03 R61, R62) -/

/-- A format of the S-forms: the base word of an opcode with operands, the operands that a base word and its literal hold, and the fields, as position
and width, that have to be 0. -/
structure SFormat (R : Type) where
  word : BitVec 7 → R → Word
  lit : R → Option DWord
  fields : Word → Option DWord → R
  unused : List (Nat × Nat)
  takesLit : Bool
  guard : R → Guard

/-- A base word and its literal are of an opcode and a format. -/
structure SFormat.Fits {R : Type} (F : SFormat R) (op : BitVec 7) (w : Word) (lit : Option DWord) : Prop where
  op : w.extractLsb' 2 7 = op
  len : w.extractLsb' 0 2 = if lit.isSome then 1#2 else 0#2
  unused : ∀ f ∈ F.unused, w.extractLsb' f.1 f.2 = 0
  lit : F.takesLit = false → lit = none

/-- Operands and words of a format stand for each other. -/
structure SFormat.Lawful {R : Type} (F : SFormat R) : Prop where
  inWord : ∀ f ∈ F.unused, f.1 + f.2 ≤ 32
  fits : ∀ op o, F.Fits op (F.word op o) (F.lit o)
  fields_word : ∀ op o, F.fields (F.word op o) (F.lit o) = o
  guard_fields : ∀ w lit, F.guard (F.fields w lit) = sGuard w
  word_fields : ∀ {op w lit}, F.Fits op w lit → F.word op (F.fields w lit) = w ∧ F.lit (F.fields w lit) = lit

/-- Two sources and a destination. -/
def binFormat : SFormat SBin where
  word op o := sWord o.hold o.g o.b o.a o.d op o.lit.isSome
  lit o := o.lit
  fields w lit := ⟨sGuard w, w.extractLsb' 31 1 == 1, w.extractLsb' 15 6, w.extractLsb' 21 6, w.extractLsb' 9 6, lit⟩
  unused := []
  takesLit := true
  guard o := o.g

theorem binFormat_lawful : binFormat.Lawful where
  inWord := by decide
  fits op o := ⟨sWord_op .., sWord_len .., by simp [binFormat], by simp [binFormat]⟩
  fields_word op o := by simp only [binFormat, sWord_guard, sWord_hold, sWord_a, sWord_b, sWord_d, bit_beq]
  guard_fields _ _ := rfl
  word_fields h := ⟨sWord_eq (bit_of_beq _) rfl rfl rfl rfl h.op.symm h.len.symm, rfl⟩

/-- A destination, and a source or the literal. -/
def movFormat : SFormat SMov where
  word op o := sWord false o.g o.b 0 o.d op o.lit.isSome
  lit o := o.lit
  fields w lit := ⟨sGuard w, w.extractLsb' 21 6, w.extractLsb' 9 6, lit⟩
  unused := [(31, 1), (15, 6)]
  takesLit := true
  guard o := o.g

theorem movFormat_lawful : movFormat.Lawful where
  inWord := by decide
  fits op o := ⟨sWord_op .., sWord_len .., by simp [movFormat, sWord_hold, sWord_a, bit], by simp [movFormat]⟩
  fields_word op o := by simp only [movFormat, sWord_guard, sWord_b, sWord_d]
  guard_fields _ _ := rfl
  word_fields h := by
    obtain ⟨hop, hlen, hz, -⟩ := h
    simp only [movFormat, List.forall_mem_cons] at hz
    exact ⟨sWord_eq hz.1.symm rfl rfl hz.2.1.symm rfl hop.symm hlen.symm, rfl⟩

/-- A destination and one source. -/
def unFormat : SFormat SUn where
  word op o := sWord o.hold o.g 0 o.a o.d op false
  lit _ := none
  fields w _ := ⟨sGuard w, w.extractLsb' 31 1 == 1, w.extractLsb' 15 6, w.extractLsb' 9 6⟩
  unused := [(21, 6)]
  takesLit := false
  guard o := o.g

theorem unFormat_lawful : unFormat.Lawful where
  inWord := by decide
  fits op o := ⟨sWord_op .., sWord_len .., by simp [unFormat, sWord_b], fun _ => rfl⟩
  fields_word op o := by simp only [unFormat, sWord_guard, sWord_hold, sWord_a, sWord_d, bit_beq]
  guard_fields _ _ := rfl
  word_fields h := by
    obtain ⟨hop, hlen, hz, hl⟩ := h
    obtain rfl := hl rfl
    simp only [unFormat, List.forall_mem_cons] at hz
    exact ⟨sWord_eq (bit_of_beq _) rfl hz.1.symm rfl rfl hop.symm hlen.symm, rfl⟩

/-- A condition, two sources and a destination predicate. -/
def cmpFormat : SFormat SCmp where
  word op o := sWord o.hold o.g o.b o.a (o.cond ++ o.pd) op false
  lit _ := none
  fields w _ := ⟨sGuard w, w.extractLsb' 31 1 == 1, w.extractLsb' 15 6, w.extractLsb' 21 6, w.extractLsb' 12 3, w.extractLsb' 9 3⟩
  unused := []
  takesLit := false
  guard o := o.g

theorem cmpFormat_lawful : cmpFormat.Lawful where
  inWord := by decide
  fits op o := ⟨sWord_op .., sWord_len .., by simp [cmpFormat], fun _ => rfl⟩
  fields_word op o := by
    simp (disch := decide) only [cmpFormat, sWord_guard, sWord_hold, sWord_a, sWord_b, sWord_inD, extract_high, extract_low, extract_all,
      bit_beq, Nat.reduceSub]
  guard_fields _ _ := rfl
  word_fields h := by
    obtain ⟨hop, hlen, -, hl⟩ := h
    obtain rfl := hl rfl
    exact ⟨sWord_eq (bit_of_beq _) rfl rfl rfl (extract_join _ rfl) hop.symm hlen.symm, rfl⟩

/-- Two source predicates, a function and a destination predicate. -/
def plopFormat : SFormat SPlop where
  word op o := sWord false o.g (0#3 ++ o.pb) (o.fn ++ o.pa) (0#3 ++ o.pd) op false
  lit _ := none
  fields w _ := ⟨sGuard w, w.extractLsb' 9 3, w.extractLsb' 18 3, w.extractLsb' 15 3, w.extractLsb' 21 3⟩
  unused := [(31, 1), (24, 3), (12, 3)]
  takesLit := false
  guard o := o.g

theorem plopFormat_lawful : plopFormat.Lawful where
  inWord := by decide
  fits op o := by
    refine ⟨sWord_op .., sWord_len .., ?_, fun _ => rfl⟩
    simp (disch := decide) only [plopFormat, List.forall_mem_cons, sWord_hold, sWord_inB, sWord_inD, extract_high, extract_all, Nat.reduceSub]
    exact ⟨rfl, rfl, rfl, by simp⟩
  fields_word op o := by
    simp (disch := decide) only [plopFormat, sWord_guard, sWord_inA, sWord_inB, sWord_inD, extract_high, extract_low, extract_all, Nat.reduceSub]
  guard_fields _ _ := rfl
  word_fields h := by
    obtain ⟨hop, hlen, hz, hl⟩ := h
    obtain rfl := hl rfl
    simp only [plopFormat, List.forall_mem_cons] at hz
    obtain ⟨htop, hb, hd, -⟩ := hz
    refine ⟨sWord_eq htop.symm rfl ?_ (extract_join _ rfl) ?_ hop.symm hlen.symm, rfl⟩
    · exact (congrArg (· ++ _) hb.symm).trans (extract_join _ rfl)
    · exact (congrArg (· ++ _) hd.symm).trans (extract_join _ rfl)

/-- A branch offset. -/
def brFormat : SFormat SBr where
  word op o := 0#1 ++ bit o.g.neg ++ o.g.p ++ o.off ++ op ++ 0#2
  lit _ := none
  fields w _ := ⟨sGuard w, w.extractLsb' 9 18⟩
  unused := [(31, 1)]
  takesLit := false
  guard o := o.g

theorem brFormat_lawful : brFormat.Lawful where
  inWord := by decide
  fits op o := by
    refine ⟨?_, ?_, ?_, fun _ => rfl⟩ <;>
      simp (disch := decide) only [brFormat, List.forall_mem_cons, extract_high, extract_low, extract_all, Nat.reduceSub]
    · rfl
    · exact ⟨rfl, by simp⟩
  fields_word op o := by
    simp (disch := decide) only [brFormat, sGuard, extract_high, extract_low, extract_all, bit_beq, Nat.reduceSub]
  guard_fields _ _ := rfl
  word_fields h := by
    obtain ⟨hop, hlen, hz, hl⟩ := h
    obtain rfl := hl rfl
    simp only [brFormat, List.forall_mem_cons] at hz
    refine ⟨?_, rfl⟩
    dsimp only [brFormat, sGuard]
    rw [bit_of_beq, ← hop, show (0#1) = _ from hz.1.symm, show (0#2) = _ from hlen.symm]
    simp (disch := decide) only [extract_join]
    exact extract_all _

/-- A register pair as a branch target. -/
def pairFormat : SFormat SPair where
  word op o := sWord o.hold o.g 0 (o.a ++ 0#1) 0 op false
  lit _ := none
  fields w _ := ⟨sGuard w, w.extractLsb' 31 1 == 1, w.extractLsb' 16 5⟩
  unused := [(21, 6), (15, 1), (9, 6)]
  takesLit := false
  guard o := o.g

theorem pairFormat_lawful : pairFormat.Lawful where
  inWord := by decide
  fits op o := by
    refine ⟨sWord_op .., sWord_len .., ?_, fun _ => rfl⟩
    simp (disch := decide) only [pairFormat, List.forall_mem_cons, sWord_b, sWord_d, sWord_inA, extract_low, extract_all, Nat.reduceSub]
    exact ⟨trivial, rfl, trivial, by simp⟩
  fields_word op o := by
    simp (disch := decide) only [pairFormat, sWord_guard, sWord_hold, sWord_inA, extract_high, extract_all, bit_beq, Nat.reduceSub]
  guard_fields _ _ := rfl
  word_fields h := by
    obtain ⟨hop, hlen, hz, hl⟩ := h
    obtain rfl := hl rfl
    simp only [pairFormat, List.forall_mem_cons] at hz
    obtain ⟨hb, ha, hd, -⟩ := hz
    exact ⟨sWord_eq (bit_of_beq _) rfl hb.symm ((congrArg (_ ++ ·) ha.symm).trans (extract_join _ rfl)) hd.symm hop.symm hlen.symm, rfl⟩

/-- The number of a join mask or a time register. -/
def numFormat : SFormat SNum where
  word op o := sWord false o.g 0 (0#3 ++ o.n) 0 op false
  lit _ := none
  fields w _ := ⟨sGuard w, w.extractLsb' 15 3⟩
  unused := [(31, 1), (21, 6), (18, 3), (9, 6)]
  takesLit := false
  guard o := o.g

theorem numFormat_lawful : numFormat.Lawful where
  inWord := by decide
  fits op o := by
    refine ⟨sWord_op .., sWord_len .., ?_, fun _ => rfl⟩
    simp (disch := decide) only [numFormat, List.forall_mem_cons, sWord_hold, sWord_b, sWord_d, sWord_inA, extract_high, extract_all, Nat.reduceSub]
    exact ⟨rfl, trivial, rfl, trivial, by simp⟩
  fields_word op o := by
    simp (disch := decide) only [numFormat, sWord_guard, sWord_inA, extract_low, extract_all, Nat.reduceSub]
  guard_fields _ _ := rfl
  word_fields h := by
    obtain ⟨hop, hlen, hz, hl⟩ := h
    obtain rfl := hl rfl
    simp only [numFormat, List.forall_mem_cons] at hz
    obtain ⟨htop, hb, ha, hd, -⟩ := hz
    exact ⟨sWord_eq htop.symm rfl hb.symm ((congrArg (· ++ _) ha.symm).trans (extract_join _ rfl)) hd.symm hop.symm hlen.symm, rfl⟩

/-- The code of TRAP. -/
def trapFormat : SFormat STrap where
  word op o := 0#1 ++ bit o.g.neg ++ o.g.p ++ 0#10 ++ o.code ++ op ++ 0#2
  lit _ := none
  fields w _ := ⟨sGuard w, w.extractLsb' 9 8⟩
  unused := [(31, 1), (17, 10)]
  takesLit := false
  guard o := o.g

theorem trapFormat_lawful : trapFormat.Lawful where
  inWord := by decide
  fits op o := by
    refine ⟨?_, ?_, ?_, fun _ => rfl⟩ <;>
      simp (disch := decide) only [trapFormat, List.forall_mem_cons, extract_high, extract_low, extract_all, Nat.reduceSub]
    · rfl
    · exact ⟨rfl, rfl, by simp⟩
  fields_word op o := by
    simp (disch := decide) only [trapFormat, sGuard, extract_high, extract_low, extract_all, bit_beq, Nat.reduceSub]
  guard_fields _ _ := rfl
  word_fields h := by
    obtain ⟨hop, hlen, hz, hl⟩ := h
    obtain rfl := hl rfl
    simp only [trapFormat, List.forall_mem_cons] at hz
    refine ⟨?_, rfl⟩
    dsimp only [trapFormat, sGuard]
    rw [bit_of_beq, ← hop, show (0#1) = _ from hz.1.symm, show (0#10) = _ from hz.2.1.symm, show (0#2) = _ from hlen.symm]
    simp (disch := decide) only [extract_join]
    exact extract_all _

/-- No operands. -/
def bareFormat : SFormat Guard where
  word op g := sWord false g 0 0 0 op false
  lit _ := none
  fields w _ := sGuard w
  unused := [(31, 1), (21, 6), (15, 6), (9, 6)]
  takesLit := false
  guard g := g

theorem bareFormat_lawful : bareFormat.Lawful where
  inWord := by decide
  fits op o := by
    refine ⟨sWord_op .., sWord_len .., ?_, fun _ => rfl⟩
    simp [bareFormat, sWord_hold, sWord_a, sWord_b, sWord_d, bit]
  fields_word op o := sWord_guard ..
  guard_fields _ _ := rfl
  word_fields h := by
    obtain ⟨hop, hlen, hz, hl⟩ := h
    obtain rfl := hl rfl
    simp only [bareFormat, List.forall_mem_cons] at hz
    obtain ⟨htop, hb, ha, hd, -⟩ := hz
    exact ⟨sWord_eq htop.symm rfl hb.symm ha.symm hd.symm hop.symm hlen.symm, rfl⟩

/-! ## The rows of the S-form table (03 R62, R74) -/

/-- What a row of the S-form table reads from a base word and its literal. -/
def SFormat.reading {R : Type} (F : SFormat R) (c : R → Instr) (w : Word) (lit : Option DWord) : Option Instr :=
  match F.takesLit, F.unused with
  | true, [] => some (c (F.fields w lit))
  | true, fs => if w &&& maskOf fs == 0 then some (c (F.fields w lit)) else none
  | false, fs => if w &&& maskOf fs == 0 && lit.isNone then some (c (F.fields w lit)) else none

theorem SFormat.reading_eq_some {R : Type} {F : SFormat R} (hF : F.Lawful) {c : R → Instr} {w : Word} {lit : Option DWord} {i : Instr} :
    F.reading c w lit = some i ↔
      ((∀ f ∈ F.unused, w.extractLsb' f.1 f.2 = 0) ∧ (F.takesLit = false → lit = none)) ∧ c (F.fields w lit) = i := by
  rw [← and_maskOf w _ hF.inWord]
  unfold SFormat.reading
  split
  · simp [*, maskOf]
  · simp [*]
  · simp [*]

/-- A row of the S-form table: an opcode's constructor, encoded and read in a format, and well formed with a guard that is not reserved alone. -/
structure SRow {R : Type} (op : BitVec 7) (F : SFormat R) (c : R → Instr) : Prop where
  lawful : F.Lawful
  encode_eq : ∀ o, encode (c o) = sBytes (F.word op o) (F.lit o)
  sForm_eq : ∀ w lit, sForm op.toNat w lit = some (F.reading c w lit)
  guard_wf : ∀ o, (c o).wf = true → (F.guard o).wf = true

theorem SRow.encode_of_reading {R : Type} {op : BitVec 7} {F : SFormat R} {c : R → Instr} (r : SRow op F c) {w : Word} {lit : Option DWord}
    {i : Instr} (hop : w.extractLsb' 2 7 = op) (hlen : w.extractLsb' 0 2 = if lit.isSome then 1#2 else 0#2) (h : F.reading c w lit = some i) :
    encode i = sBytes w lit := by
  obtain ⟨⟨hu, hl⟩, rfl⟩ := (SFormat.reading_eq_some r.lawful).1 h
  obtain ⟨hw, hlit⟩ := r.lawful.word_fields ⟨hop, hlen, hu, hl⟩
  rw [r.encode_eq, hw, hlit]

theorem SRow.guard_of_reading {R : Type} {op : BitVec 7} {F : SFormat R} {c : R → Instr} (r : SRow op F c) {w : Word} {lit : Option DWord}
    {i : Instr} (h : F.reading c w lit = some i) (hw : i.wf = true) : (sGuard w).wf = true := by
  obtain ⟨-, rfl⟩ := (SFormat.reading_eq_some r.lawful).1 h
  rw [← r.lawful.guard_fields w lit]
  exact r.guard_wf _ hw

/-- The decoder reads the encoding of an instruction as that instruction, whatever stands after it. -/
def ReadBack (i : Instr) : Prop := ∀ rest, decode (encode i ++ rest) = accept i (encode i).length

theorem SRow.readBack {R : Type} {op : BitVec 7} {F : SFormat R} {c : R → Instr} (r : SRow op F c) (o : R) : ReadBack (c o) := by
  intro rest
  obtain ⟨hop, hlen, hu, hl⟩ := r.lawful.fits op o
  have read := (SFormat.reading_eq_some r.lawful).2 ⟨⟨hu, hl⟩, congrArg c (r.lawful.fields_word op o)⟩
  rw [r.encode_eq, decode_sBytes _ _ _ hlen, decodeS, hop, r.sForm_eq, read]
  cases F.lit o <;> rfl

/-- The rows of two sources, and those whose every well-formedness check is that of the guard. -/
theorem SRow.bin {op : BitVec 7} {c : SBin → Instr} (henc : ∀ o, encode (c o) = encBin op o)
    (hform : ∀ w lit, sForm op.toNat w lit = some (binFormat.reading c w lit)) (hwf : ∀ o, (c o).wf = o.wf) : SRow op binFormat c :=
  ⟨binFormat_lawful, henc, hform, fun o h => (Bool.and_eq_true_iff.1 ((hwf o).symm.trans h)).1⟩

theorem SRow.mov : SRow 0x01 movFormat .mov :=
  ⟨movFormat_lawful, fun _ => rfl, fun _ _ => rfl, fun _ h => (Bool.and_eq_true_iff.1 h).1⟩

theorem SRow.of_guard {R : Type} {op : BitVec 7} {F : SFormat R} {c : R → Instr} (lawful : F.Lawful)
    (henc : ∀ o, encode (c o) = sBytes (F.word op o) (F.lit o)) (hform : ∀ w lit, sForm op.toNat w lit = some (F.reading c w lit))
    (hwf : ∀ o, (c o).wf = (F.guard o).wf) : SRow op F c :=
  ⟨lawful, henc, hform, fun o h => (hwf o).symm.trans h⟩

/-- What the S-form table reads, it reads in a row: the cases are the rows of the table in order. -/
theorem exists_sRow {op : Nat} {w : Word} {lit : Option DWord} {i : Instr} (h : sForm op w lit = some (some i)) :
    ∃ R, ∃ F : SFormat R, ∃ c, SRow (BitVec.ofNat 7 op) F c ∧ F.reading c w lit = some i := by
  have row {R : Type} {op : Nat} {c : R → Instr} (F : SFormat R) (h : some (F.reading c w lit) = some (some i))
      (r : SRow (BitVec.ofNat 7 op) F c) :
      ∃ R, ∃ F : SFormat R, ∃ c, SRow (BitVec.ofNat 7 op) F c ∧ F.reading c w lit = some i := ⟨R, F, c, r, Option.some.inj h⟩
  unfold sForm at h
  dsimp only at h
  split at h
  · exact row bareFormat h (.of_guard bareFormat_lawful (fun _ => rfl) (fun _ _ => rfl) (fun _ => rfl))
  · exact row movFormat h .mov
  iterate 17 next => exact row binFormat h (.bin (fun _ => rfl) (fun _ _ => rfl) (fun _ => rfl))
  iterate 5 next => exact row unFormat h (.of_guard unFormat_lawful (fun _ => rfl) (fun _ _ => rfl) (fun _ => rfl))
  iterate 4 next => exact row binFormat h (.bin (fun _ => rfl) (fun _ _ => rfl) (fun _ => rfl))
  iterate 2 next => exact row cmpFormat h (.of_guard cmpFormat_lawful (fun _ => rfl) (fun _ _ => rfl) (fun _ => rfl))
  · exact row plopFormat h (.of_guard plopFormat_lawful (fun _ => rfl) (fun _ _ => rfl) (fun _ => rfl))
  iterate 2 next => exact row brFormat h (.of_guard brFormat_lawful (fun _ => rfl) (fun _ _ => rfl) (fun _ => rfl))
  iterate 2 next => exact row pairFormat h (.of_guard pairFormat_lawful (fun _ => rfl) (fun _ _ => rfl) (fun _ => rfl))
  iterate 3 next => exact row bareFormat h (.of_guard bareFormat_lawful (fun _ => rfl) (fun _ _ => rfl) (fun _ => rfl))
  iterate 4 next => exact row numFormat h (.of_guard numFormat_lawful (fun _ => rfl) (fun _ _ => rfl) (fun _ => rfl))
  · exact row bareFormat h (.of_guard bareFormat_lawful (fun _ => rfl) (fun _ _ => rfl) (fun _ => rfl))
  · exact row trapFormat h (.of_guard trapFormat_lawful (fun _ => rfl) (fun _ _ => rfl) (fun _ => rfl))
  · exact row bareFormat h (.of_guard bareFormat_lawful (fun _ => rfl) (fun _ _ => rfl) (fun _ => rfl))
  · cases h

/-- An opcode above the last row, or the one that no row has, is reserved (03 R74). -/
theorem sForm_reserved {op : Nat} (h : op = 0x1F ∨ 0x2E ≤ op) (w : Word) (lit : Option DWord) : sForm op w lit = none := by
  unfold sForm
  dsimp only
  split
  case h_46 => rfl
  all_goals omega

/-! ## The X-form table (03 R74, R75) -/

/-- An X-form's place in the encoding: it is encoded with an opcode and its fields, and has an entry that says what they may be. -/
structure XRow (op : BitVec 7) (x : XOps) (i : Instr) : Prop where
  encode_eq : encode i = encX op x
  shape : ∃ r, i.shape = some (x, r)

/-- CCTL has an entry with and without a range. -/
theorem cctl_shape (x : XOps) : ∃ r, (Instr.cctl x).shape = some (x, r) := by
  unfold Instr.shape
  dsimp only
  split <;> exact ⟨_, rfl⟩

/-- What the X-form table reads has the opcode and the fields that it was read from. -/
theorem xRow_of_xForm {op : Nat} {x : XOps} {i : Instr} (h : xForm op x = some i) : XRow (BitVec.ofNat 7 op) x i := by
  unfold xForm at h
  split at h
  case h_102 =>
    obtain rfl := Option.some.inj h
    exact ⟨rfl, cctl_shape x⟩
  case h_110 =>
    split at h
    case h_9 => cases h
    all_goals
      obtain rfl := Option.some.inj h
      exact ⟨rfl, _, rfl⟩
  case h_111 =>
    obtain rfl := Option.some.inj h
    split <;> exact ⟨rfl, _, rfl⟩
  case h_112 => cases h
  all_goals
    obtain rfl := Option.some.inj h
    exact ⟨rfl, _, rfl⟩

theorem xForm_reserved {op : Nat} (h : op = 0x1F ∨ op = 0x2E ∨ op = 0x2F ∨ op = 0x3A ∨ 0x73 ≤ op) (x : XOps) : xForm op x = none := by
  unfold xForm
  split
  case h_112 => rfl
  all_goals omega

/-- A well-formed X-form passes each check of its entry. -/
theorem wf_of_shape {i : Instr} {x : XOps} {r : XShape} (h : i.shape = some (x, r)) (hw : i.wf = true) : x.fits r = true := by
  unfold Instr.wf at hw
  rwa [h] at hw

theorem XOps.fits_guard {x : XOps} {r : XShape} (h : x.fits r = true) : x.g.wf = true := by
  simp only [XOps.fits, Bool.and_eq_true] at h
  simp only [h]

theorem XOps.fits_sub {x : XOps} {r : XShape} (h : x.fits r = true) : r.sub = true := by
  simp only [XOps.fits, Bool.and_eq_true] at h
  simp only [h]

theorem XOps.fits_imm {x : XOps} {r : XShape} (h : x.fits r = true) : r.imm = true := by
  simp only [XOps.fits, Bool.and_eq_true] at h
  simp only [h]

/-- The bytes of an X-form: twelve, or twenty with a literal (03 R60). -/
theorem encX_length_eq (op : BitVec 7) (x : XOps) : (encX op x).length = if x.lit.isSome then 20 else 12 := by
  rw [encX_words]
  cases x.lit <;> rfl

/-- An X-form whose opcode reads its fields as the instruction itself is read back. -/
theorem readBack_of_xForm {i : Instr} {op : BitVec 7} {x : XOps} (henc : encode i = encX op x) (hform : xForm op.toNat x = some i) : ReadBack i := by
  intro rest
  rw [henc, decode_encX, hform, encX_length_eq]

/-- The member of FSPEC that a well-formed one's IMM names (20 R393). -/
theorem fspec_member {i : Instr} {x : XOps} {k : BitVec 4} (hs : i.shape = some (x, XShape.fspec x k)) (hw : i.wf = true) :
    x.imm.extractLsb' 8 4 = k := by
  have h := XOps.fits_imm (wf_of_shape hs hw)
  have e := congrArg (BitVec.extractLsb' 8 4) (beq_iff_eq.1 h : x.imm &&& 0xFFFFFFFC#32 = k.setWidth 32 <<< 8)
  rw [BitVec.extractLsb'_and, show (0xFFFFFFFC#32).extractLsb' 8 4 = BitVec.allOnes 4 from rfl, BitVec.and_allOnes] at e
  rw [e]
  ext j hj
  simp [show 8 + j < 32 by omega, BitVec.getLsbD_eq_getElem hj]

/-- The members of FSPEC by their codes (20 R393). -/
def fspecForm (code : Nat) (x : XOps) : Option Instr :=
  match code with
  | 0 => some (.frcp x)
  | 1 => some (.frsq x)
  | 2 => some (.fsqrt x)
  | 3 => some (.fex2 x)
  | 4 => some (.flg2 x)
  | 5 => some (.fsin x)
  | 6 => some (.fcos x)
  | 7 => some (.ftanh x)
  | _ => none

theorem xForm_fspec (x : XOps) : xForm 0x38 x = fspecForm (x.imm.extractLsb' 8 4).toNat x := rfl

theorem xForm_region (x : XOps) : xForm 0x4D x = some (if x.sub == 1 then .regionEnd x else .regionI x) := rfl

theorem readBack_fspec {i : Instr} {x : XOps} {k : BitVec 4} (hs : i.shape = some (x, XShape.fspec x k)) (hw : i.wf = true)
    (henc : encode i = encX 0x38 x) (hform : fspecForm k.toNat x = some i) : ReadBack i :=
  readBack_of_xForm henc (by rw [← hform, ← fspec_member hs hw]; rfl)

/-- Every well-formed instruction is read back from its encoding. -/
theorem readBack_of_wf (i : Instr) (he : i.encoded = true) (hw : i.wf = true) : ReadBack i := by
  cases i with
  | nop g | ret g | exit g | yield g | brk g | bsync g =>
    exact (SRow.of_guard bareFormat_lawful (fun _ => rfl) (fun _ _ => rfl) (fun _ => rfl)).readBack g
  | mov o => exact SRow.mov.readBack o
  | iadd o | isub o | imul o | imulh o | imulhu o | imin o | imax o | iminu o | imaxu o | andS o | orS o | xorS o | andn o | shl o | shr o | sar o
  | rotl o | fadd o | fmul o | fmin o | fmax o => exact (SRow.bin (fun _ => rfl) (fun _ _ => rfl) (fun _ => rfl)).readBack o
  | popc o | clz o | ctz o | brev o | iabs o => exact (SRow.of_guard unFormat_lawful (fun _ => rfl) (fun _ _ => rfl) (fun _ => rfl)).readBack o
  | isetp o | fsetp o => exact (SRow.of_guard cmpFormat_lawful (fun _ => rfl) (fun _ _ => rfl) (fun _ => rfl)).readBack o
  | plop o => exact (SRow.of_guard plopFormat_lawful (fun _ => rfl) (fun _ _ => rfl) (fun _ => rfl)).readBack o
  | bra o | call o => exact (SRow.of_guard brFormat_lawful (fun _ => rfl) (fun _ _ => rfl) (fun _ => rfl)).readBack o
  | brx o | callx o => exact (SRow.of_guard pairFormat_lawful (fun _ => rfl) (fun _ _ => rfl) (fun _ => rfl)).readBack o
  | joinS o | jleave o | twait o | tclr o => exact (SRow.of_guard numFormat_lawful (fun _ => rfl) (fun _ _ => rfl) (fun _ => rfl)).readBack o
  | trap o => exact (SRow.of_guard trapFormat_lawful (fun _ => rfl) (fun _ _ => rfl) (fun _ => rfl)).readBack o
  | frcp x | frsq x | fsqrt x | fex2 x | flg2 x | fsin x | fcos x | ftanh x =>
    exact readBack_fspec rfl hw rfl rfl
  | regionI x => 
    have h : x.sub = 0 := beq_iff_eq.1 (XOps.fits_sub (wf_of_shape (i := .regionI x) rfl hw))
    exact readBack_of_xForm (op := 0x4D#7) rfl ((xForm_region x).trans (by rw [h]; rfl))
  | regionEnd x => 
    have h : x.sub = 1 := beq_iff_eq.1 (XOps.fits_sub (wf_of_shape (i := .regionEnd x) rfl hw))
    exact readBack_of_xForm (op := 0x4D#7) rfl ((xForm_region x).trans (by rw [h]; rfl))
  | nopX x | movX x | iaddX x | isubX x | imulX x | imulhX x | imulhuX x | iminX x | imaxX x | iminuX x | imaxuX x | andX x | orX x | xorX x
  | andnX x | shlX x | shrX x | sarX x | rotlX x | popcX x | clzX x | ctzX x | brevX x | iabsX x | faddX x | fmulX x | fminX x | fmaxX x
  | isetpX x | fsetpX x | plopX x | braX x | callX x | brxX x | callxX x | retX x | exitX x | yieldX x | joinX x | jleaveX x | twaitX x | tclrX x
  | brkX x | trapX x | bsyncX x | imad x | idiv x | irem x | lea x | sel x | bfx x | bfi x | ffma x | fcvt x | vote x | shfl x | prfx x | cred x
  | jinit x | tyield x | tbr x | tget x | tsetp x | ld x | st x | ldk x | atom x | red x | stcp x | pref x | phase x | pfence x | boinit x | boarv x
  | bowait x | botx x | feget x | feput x | shmap x | rbacq x | rbrel x | cpy x | gath x | scat x | srinv x | mbld x | mma x | mlut x | mlma x
  | mdrain x | mcls x | gbcfg x | gbset x | gbclamp x | gbsweep x | gbread x | gbstat x | gbseed x | rgrp x | gets x | sets x | cctl x | icinv x
  | tlbinv x | eret x | svc x | bound x | tkpass x | lnch x => exact readBack_of_xForm (x := x) rfl rfl
  | _ => cases he

/-! ## The words that a decoded instruction was read from -/

/-- The bytes of a literal, if there is one. -/
def litBytes (lit : Option DWord) : List Byte := match lit with | some v => bytes64 v | none => []

/-- The words at the front of some bytes that decode to an instruction: an S-form or an X-form, each with or without its literal (03 R60). -/
inductive DecodedFrom (w : Word) (rest : List Byte) (i : Instr) (n : Nat) : Prop where
  | sForm (lit : Option DWord) (tail : List Byte) (len : w.extractLsb' 0 2 = if lit.isSome then 1#2 else 0#2)
      (bytes : rest = litBytes lit ++ tail) (decoded : decodeS w lit = .ok (i, n))
  | xForm (e : DWord) (lit : Option DWord) (tail : List Byte) (len : w.extractLsb' 0 2 = if lit.isSome then 3#2 else 2#2)
      (bytes : rest = bytes64 e ++ litBytes lit ++ tail) (decoded : decodeX w e lit = .ok (i, n))

theorem decodedFrom_of_word {w : Word} {rest : List Byte} {i : Instr} {n : Nat} (h : decode (bytes32 w ++ rest) = .ok (i, n)) :
    DecodedFrom w rest i n := by
  simp only [bytes32, List.cons_append, List.nil_append, decode, le32_bytes] at h
  have l2 := (w.extractLsb' 0 2).isLt
  split at h
  case h_1 hl => exact .sForm none rest (BitVec.eq_of_toNat_eq hl) rfl h
  case h_2 hl =>
    split at h
    · exact .sForm (some _) _ (BitVec.eq_of_toNat_eq hl) (by simp only [litBytes, bytes64_le64]; rfl) h
    · cases h
  case h_3 hl =>
    split at h
    · exact .xForm _ none _ (BitVec.eq_of_toNat_eq hl) (by simp only [litBytes, bytes64_le64]; rfl) h
    · cases h
  case h_4 h0 h1 h2 =>
    replace h0 : (w.extractLsb' 0 2).toNat ≠ 0 := h0
    replace h1 : (w.extractLsb' 0 2).toNat ≠ 1 := h1
    replace h2 : (w.extractLsb' 0 2).toNat ≠ 2 := h2
    have hl : (w.extractLsb' 0 2).toNat = 3 := by omega
    split at h
    · exact .xForm _ (some _) _ (BitVec.eq_of_toNat_eq hl) (by simp only [litBytes, bytes64_le64]; rfl) h
    · cases h

/-- Bytes that decode begin with a word. -/
theorem exists_word_of_decode {l : List Byte} {i : Instr} {n : Nat} (h : decode l = .ok (i, n)) : ∃ w rest, l = bytes32 w ++ rest := by
  match l, h with
  | b0 :: b1 :: b2 :: b3 :: rest, _ => exact ⟨le32 b0 b1 b2 b3, rest, by rw [bytes32_le32]; rfl⟩

/-- The words that an instruction was decoded from are its encoding. -/
theorem encode_of_decoded {w : Word} {rest : List Byte} {i : Instr} {n : Nat} (h : DecodedFrom w rest i n) :
    ∃ tail, bytes32 w ++ rest = encode i ++ tail ∧ n = (encode i).length ∧ 0 < n := by
  cases h with
  | sForm lit tail len bytes decoded =>
    obtain ⟨form, rfl, -⟩ := decodeS_ok decoded
    obtain ⟨R, F, c, row, read⟩ := exists_sRow form
    rw [BitVec.ofNat_toNat, BitVec.setWidth_eq] at row
    have enc := row.encode_of_reading rfl len read
    refine ⟨tail, ?_, ?_⟩
    · rw [enc, bytes, ← List.append_assoc]; rfl
    · rw [enc]; cases lit <;> exact ⟨rfl, Nat.succ_pos _⟩
  | xForm e lit tail len bytes decoded =>
    obtain ⟨hz, form, rfl, -⟩ := decodeX_ok decoded
    have row := xRow_of_xForm form
    rw [BitVec.ofNat_toNat, BitVec.setWidth_eq] at row
    simp only [Bool.or_eq_false_iff, beq_eq_false_iff_ne, bne_eq_false_iff_eq] at hz
    have top : w.extractLsb' 31 1 = 0 := by
      have : ∀ b : BitVec 1, b ≠ 1 → b = 0 := by decide
      exact this _ hz.1
    have enc : encode i = bytes32 w ++ bytes64 e ++ litBytes lit := by
      rw [row.encode_eq, encX_words, xBase_xFields top len, xExt_xFields hz.2]; rfl
    refine ⟨tail, ?_, ?_⟩
    · rw [enc, bytes]; simp only [List.append_assoc]
    · rw [enc]; cases lit <;> exact ⟨rfl, Nat.succ_pos _⟩

end Sys2Proof

open Sys2Proof

/-- Settles O56: each S-form is a row of a format and each X-form an entry of its table, and a row is read back. -/
theorem decodeEncode : Obligations.DecodeEncode := by
  intro i rest he hw
  rw [readBack_of_wf i he hw rest, accept, if_pos hw]

/-- Settles O57: the bytes that decode begin with the words of an S-form or an X-form, and the fields that these hold are encoded by them. -/
theorem encodeDecode : Obligations.EncodeDecode := by
  intro l i n h
  obtain ⟨w, rest, rfl⟩ := exists_word_of_decode h
  obtain ⟨tail, hl, rfl, pos⟩ := encode_of_decoded (decodedFrom_of_word h)
  refine ⟨?_, decode_wf h, ?_, ?_⟩
  · rw [Instr.encoded, bne_iff_ne]
    exact List.ne_nil_of_length_pos pos
  · rw [hl, List.length_append]
    exact Nat.le_add_right _ _
  · rw [hl, List.take_left]

namespace Sys2Proof

/-! ## Refusals (03 R80) -/

theorem toOption_eq_none {r : Except Reject (Instr × Nat)} (h : ∀ i n, r ≠ .ok (i, n)) : r.toOption = none := by
  cases r with
  | error _ => rfl
  | ok p => exact absurd rfl (h p.1 p.2)

/-- The guard that a field of four ones holds is reserved (03 R70). -/
theorem reserved_guard {m s : Nat} {w : BitVec m} (z : w.extractLsb' s 4 = 0xF) :
    (Guard.mk (w.extractLsb' (s + 3) 1 == 1) (w.extractLsb' s 3)).wf = false := by
  have neg : w.extractLsb' (s + 3) 1 = 1 := by rw [← extract_extract (k := 4) w (by decide), z]; rfl
  have p : w.extractLsb' s 3 = 7 := (extract_extract (s' := 0) (k := 4) w (by decide)).symm.trans (by rw [z]; rfl)
  rw [neg, p]; rfl

/-- What an S-form's words that decode do not hold. -/
theorem decodeS_unreserved {w : Word} {lit : Option DWord} {i : Instr} {n : Nat} (h : decodeS w lit = .ok (i, n)) :
    ¬((w.extractLsb' 2 7).toNat = 0x1F ∨ 0x2E ≤ (w.extractLsb' 2 7).toNat) ∧ w.extractLsb' 27 4 ≠ 0xF := by
  obtain ⟨form, -, wf⟩ := decodeS_ok h
  constructor
  · intro hr
    rw [sForm_reserved hr] at form
    cases form
  · intro z
    obtain ⟨R, F, c, row, read⟩ := exists_sRow form
    have guard := row.guard_of_reading read wf
    rw [sGuard, reserved_guard z] at guard
    cases guard

/-- What an X-form's words that decode do not hold. -/
theorem decodeX_unreserved {w : Word} {e : DWord} {lit : Option DWord} {i : Instr} {n : Nat} (h : decodeX w e lit = .ok (i, n)) :
    ¬((w.extractLsb' 2 7).toNat = 0x1F ∨ (w.extractLsb' 2 7).toNat = 0x2E ∨ (w.extractLsb' 2 7).toNat = 0x2F ∨ (w.extractLsb' 2 7).toNat = 0x3A ∨
      0x73 ≤ (w.extractLsb' 2 7).toNat) ∧ w.getLsbD 31 = false ∧ e.extractLsb' 16 4 ≠ 0xF ∧ e.extractLsb' 30 2 = 0 := by
  obtain ⟨hz, form, -, wf⟩ := decodeX_ok h
  simp only [Bool.or_eq_false_iff, beq_eq_false_iff_ne, bne_eq_false_iff_eq] at hz
  refine ⟨fun hr => ?_, ?_, fun z => ?_, hz.2⟩
  · rw [xForm_reserved hr] at form
    cases form
  · rw [BitVec.getLsbD_eq_extractLsb', beq_eq_false_iff_ne]
    exact hz.1
  · obtain ⟨r, hr⟩ := (xRow_of_xForm form).shape
    have guard := XOps.fits_guard (wf_of_shape hr wf)
    rw [xFields, reserved_guard z] at guard
    cases guard

/-- Bytes whose words do not decode are refused. -/
theorem refused_of_word {w : Word} {rest : List Byte} (h : ∀ i n, ¬DecodedFrom w rest i n) : (decode (bytes32 w ++ rest)).toOption = none :=
  toOption_eq_none fun i n hd => h i n (decodedFrom_of_word hd)

/-- Bit 1 of a base word tells an X-form from an S-form (03 R60). -/
theorem xform_of_len {w : Word} {l : BitVec 2} (h : w.extractLsb' 0 2 = l) : w.getLsbD 1 = l.getLsbD 1 := by
  rw [← h]; simp

theorem not_xform_of_sForm {w : Word} {lit : Option DWord} (h : w.extractLsb' 0 2 = if lit.isSome then 1#2 else 0#2) : w.getLsbD 1 = false := by
  rw [xform_of_len h]
  split <;> rfl

theorem xform_of_xForm {w : Word} {lit : Option DWord} (h : w.extractLsb' 0 2 = if lit.isSome then 3#2 else 2#2) : w.getLsbD 1 = true := by
  rw [xform_of_len h]
  split <;> rfl

/-- Bytes are of one doubleword. -/
theorem bytes64_append_inj {e e' : DWord} {r r' : List Byte} (h : bytes64 e ++ r = bytes64 e' ++ r') : e = e' := by
  have front := List.append_inj_left h rfl
  rw [← le64_bytes e, ← le64_bytes e']
  simp only [bytes64, List.cons.injEq, and_true] at front
  simp only [front]

end Sys2Proof

open Sys2Proof

/-- Settles O58: words that decode are of a row with a guard that is not reserved, and the fields between are 0. -/
theorem reservedEncodings : Obligations.ReservedEncodings := by
  intro w rest op xform
  refine ⟨fun hop => ?_, fun hs hr => ?_, fun hx htop => ?_, fun hx e he => ?_⟩
  · refine refused_of_word fun i n d => ?_
    cases d with
    | sForm lit tail len bytes decoded => exact (decodeS_unreserved decoded).1 (by omega)
    | xForm e lit tail len bytes decoded => exact (decodeX_unreserved decoded).1 hop
  · refine refused_of_word fun i n d => ?_
    cases d with
    | sForm lit tail len bytes decoded =>
      obtain ⟨hop, hg⟩ := decodeS_unreserved decoded
      exact hr.elim (fun h => hop (.inr h)) hg
    | xForm e lit tail len bytes decoded => cases hs.symm.trans (xform_of_xForm len)
  · refine refused_of_word fun i n d => ?_
    cases d with
    | sForm lit tail len bytes decoded => cases hx.symm.trans (not_xform_of_sForm len)
    | xForm e lit tail len bytes decoded => cases htop.symm.trans (decodeX_unreserved decoded).2.1
  · rw [List.append_assoc]
    refine refused_of_word fun i n d => ?_
    cases d with
    | sForm lit tail len bytes decoded => cases hx.symm.trans (not_xform_of_sForm len)
    | xForm e' lit tail len bytes decoded =>
      rw [List.append_assoc] at bytes
      obtain rfl := bytes64_append_inj bytes
      obtain ⟨-, -, hg, hgap⟩ := decodeX_unreserved decoded
      exact he.elim hg (fun h => h hgap)

/-- Settles O59: the decoder is run on each word. -/
theorem wordsDecode : Obligations.WordsDecode := by
  refine ⟨?_, ?_, ?_, ?_, ?_, ?_, ?_, ?_, ?_, ?_, ?_, ?_, ?_, ?_, ?_, ?_⟩ <;> rfl

end

section
namespace Sys2Proof.Machine
open Sys2Proof Sys2Proof.Claims

/-! ## A thread whose guard is false (03 R70) -/

section Solo
variable {s : State} {core slot : Nat} {t : Thread} (h : Solo s core slot t)
include h

/-- In a group of one thread with a false guard, an instruction that acts at once, in sequence, once per crew or in turn advances the thread. -/
theorem State.runGroup_off {g : Guard} (off : t.guard g = false) (len : Nat) (f : State → Nat → Nat → Thread → Except Stop (List Write)) :
    s.runGroup len g f = s.modCore core (·.advance slot len) := by
  rw [State.runGroup_solo h, off]
  rfl

theorem State.runSeq_off {g : Guard} (off : t.guard g = false) (len : Nat) (f : State → Nat → Nat → Thread → State) :
    s.runSeq len g f = s.modCore core (·.advance slot len) := by
  rw [State.runSeq_solo h, off]
  rfl

theorem State.runCrews_off {g : Guard} (off : t.guard g = false) (len : Nat) (f : State → Nat → Nat → List Nat → Thread → State) :
    s.runCrews len g f = s.modCore core (·.advance slot len) := by
  obtain ⟨lid, pc, hc⟩ := h.cur
  have crews : s.byCrew g { core := core, lid := lid, pc := pc, slots := [slot] } = [] := by
    simp [State.byCrew, h.thread, off]
  simp [State.runCrews, hc, h.thread, off, crews, Core.advanceAll]

theorem State.runInTurn_off {g : Guard} (off : t.guard g = false) (len : Nat) (f : State → Nat → Nat → Thread → State) :
    s.runInTurn len g f = s.modCore core (·.advance slot len) := by
  obtain ⟨lid, pc, hc⟩ := h.cur
  simp [State.runInTurn, hc, State.turnOne, h.thread, off]

/-- The hint HOLD of an instruction whose thread does not run it does nothing (03 R72). -/
theorem State.holding_off {x : XOps} (off : t.guard x.g = false) (f : State → State) : s.holding x f = f s := by
  obtain ⟨lid, pc, hc⟩ := h.cur
  simp [State.holding, hc, h.thread, off]

/-- Such an instruction does not make the launch dependent on time (05 R146). -/
theorem State.timeDep_off {g : Guard} (off : t.guard g = false) (s' : State) : s'.timeDep s g = s' := by
  obtain ⟨lid, pc, hc⟩ := h.cur
  simp [State.timeDep, hc, h.thread, off]

end Solo

/-- With a false guard, the instruction advances the only thread of its group past itself and does nothing else. -/
def SkipsOff (i : Instr) (g : Guard) (len : Nat) : Prop :=
  ∀ s core slot t, Solo s core slot t → t.guard g = false → exec i s = .next (s.modCore core (·.advance slot len))

section
variable {i : Instr} {g : Guard} {x : XOps} {len : Nat}

/-- An instruction skips a thread whose guard is false where its meaning runs the group in one of the model's ways. -/
theorem SkipsOff.group {f : State → State → Nat → Nat → Thread → Except Stop (List Write)}
    (e : ∀ s, exec i s = done (s.runGroup len g (f s))) : SkipsOff i g len := fun s _ _ _ h off =>
  (e s).trans (congrArg done (State.runGroup_off h off len _))

theorem SkipsOff.seq {f : State → State → Nat → Nat → Thread → State}
    (e : ∀ s, exec i s = done (s.runSeq len g (f s))) : SkipsOff i g len := fun s _ _ _ h off =>
  (e s).trans (congrArg done (State.runSeq_off h off len _))

theorem SkipsOff.crews {f : State → Nat → Nat → List Nat → Thread → State}
    (e : ∀ s, exec i s = done (s.runCrews len g f)) : SkipsOff i g len := fun s _ _ _ h off =>
  (e s).trans (congrArg done (State.runCrews_off h off len _))

theorem SkipsOff.inTurn {f : State → Nat → Nat → Thread → State}
    (e : ∀ s, exec i s = done (s.runInTurn len g f)) : SkipsOff i g len := fun s _ _ _ h off =>
  (e s).trans (congrArg done (State.runInTurn_off h off len _))

theorem SkipsOff.heldGroup {f : State → Nat → Nat → Thread → Except Stop (List Write)}
    (e : ∀ s, exec i s = done (s.holding x (·.runGroup len x.g f))) : SkipsOff i x.g len := fun s _ _ _ h off =>
  (e s).trans (congrArg done ((State.holding_off h off _).trans (State.runGroup_off h off len _)))

theorem SkipsOff.heldSeq {f : State → State → Nat → Nat → Thread → State}
    (e : ∀ s, exec i s = done (s.holding x (fun s => s.runSeq len x.g (f s)))) : SkipsOff i x.g len := fun s _ _ _ h off =>
  (e s).trans (congrArg done ((State.holding_off h off _).trans (State.runSeq_off h off len _)))

theorem SkipsOff.heldCrews {f : State → Nat → Nat → List Nat → Thread → State}
    (e : ∀ s, exec i s = done (s.holding x (·.runCrews len x.g f))) : SkipsOff i x.g len := fun s _ _ _ h off =>
  (e s).trans (congrArg done ((State.holding_off h off _).trans (State.runCrews_off h off len _)))

/-- An instruction whose meaning is that of one that skips but for the mark of a launch that depends on time. -/
theorem SkipsOff.timed {f : State → State} (e : ∀ s, exec i s = done ((f s).timeDep s g))
    (k : ∀ s core slot t, Solo s core slot t → t.guard g = false → f s = s.modCore core (·.advance slot len)) : SkipsOff i g len :=
  fun s core slot t h off => (e s).trans (congrArg done ((State.timeDep_off h off _).trans (k s core slot t h off)))

end

theorem skipsOff_jinit (x : XOps) : SkipsOff (.jinit x) x.g x.len := by
  intro s core slot t h off
  obtain ⟨lid, pc, hc⟩ := h.cur
  show execJinit x s = _
  simp [execJinit, hc, State.holding_off h off, State.jinitOne, h.thread, off, done]

theorem skipsOff_tkpass (x : XOps) : SkipsOff (.tkpass x) x.g x.len := by
  intro s core slot t h off
  obtain ⟨lid, pc, hc⟩ := h.cur
  have active : s.active x.g { core := core, lid := lid, pc := pc, slots := [slot] } = [] := by simp [State.active, h.thread, off]
  show execTkpass x s = _
  simp only [execTkpass, hc, active, List.foldl_nil]
  exact congrArg done (State.runSeq_off h off _ _)

/-- Every instruction but those of the cross-lane rendezvous skips a thread whose guard is false: the cases are the ways in which the model runs a
group. -/
theorem skipsOff_of_guarded {i : Instr} {g : Guard} {len : Nat} (hi : guarded i = some (g, len)) : SkipsOff i g len := by
  cases i with
  | nop o | nopX o | bra o | braX o | gets o => cases hi; exact .group (fun _ => rfl)
  | mov o | iadd o | isub o | imul o | imulh o | imulhu o | imin o | imax o | iminu o | imaxu o | andS o | orS o | xorS o | andn o | shl o | shr o
  | sar o | rotl o | fadd o | fmul o | fmin o | fmax o | popc o | clz o | ctz o | brev o | iabs o | isetp o | fsetp o | plop o | brx o =>
    cases hi; exact .heldGroup (x := o.toX) (fun _ => rfl)
  | movX x | iaddX x | isubX x | imulX x | imulhX x | imulhuX x | iminX x | imaxX x | iminuX x | imaxuX x | andX x | orX x | xorX x | andnX x
  | shlX x | shrX x | sarX x | rotlX x | popcX x | clzX x | ctzX x | brevX x | iabsX x | faddX x | fmulX x | fminX x | fmaxX x | isetpX x
  | fsetpX x | plopX x | brxX x | imad x | idiv x | irem x | lea x | sel x | bfx x | bfi x | ffma x | frcp x | frsq x | fsqrt x | fex2 x | flg2 x
  | fsin x | fcos x | ftanh x | fcvt x => cases hi; exact .heldGroup (fun _ => rfl)
  | call o | callX o | ret o | retX o | exit o | exitX o | yield o | yieldX o | joinS o | joinX o | jleave o | jleaveX o | twait o | twaitX o
  | tclr o | tclrX o | brk o | brkX o | trap o | trapX o | bsync o | bsyncX o | tyield o | phase o | pfence o | regionI o | regionEnd o | cpy o
  | gath o | scat o | srinv o | mbld o | mma o | mlut o | mlma o | mdrain o | mcls o | gbsweep o | rgrp o | sets o | icinv o | eret o | svc o
  | lnch o => cases hi; exact .seq (fun _ => rfl)
  | callx o => cases hi; exact .heldSeq (x := o.toX) (fun _ => rfl)
  | callxX x | ld x | st x | ldk x | atom x | red x | pref x | boinit x | boarv x | bowait x | botx x | feget x | feput x | cctl x | tlbinv x
  | bound x => cases hi; exact .heldSeq (fun _ => rfl)
  | rbacq x | rbrel x => cases hi; exact .crews (fun _ => rfl)
  | shmap x => cases hi; exact .heldCrews (fun _ => rfl)
  | gbcfg x | gbset x | gbclamp x | gbread x | gbstat x | gbseed x => cases hi; exact .inTurn (fun _ => rfl)
  | tget x | tsetp x => cases hi; exact .timed (fun _ => rfl) (fun _ _ _ _ h off => State.runGroup_off h off _ _)
  | tbr x =>
    cases hi
    exact .timed (fun _ => rfl) (fun _ _ _ _ h off => (State.holding_off h off _).trans (State.runGroup_off h off _ _))
  | jinit x => cases hi; exact skipsOff_jinit x
  | tkpass x => cases hi; exact skipsOff_tkpass x
  | _ => cases hi

/-- NOP advances its thread whatever its guard says (21 R431). -/
theorem nop_advances {i : Instr} {g : Guard} {len : Nat} (hi : nops i = some (g, len)) {s : State} {core slot : Nat} {t : Thread}
    (h : Solo s core slot t) : exec i s = .next (s.modCore core (·.advance slot len)) := by
  have plain : s.runGroup len g (fun _ _ _ _ => .ok []) = s.modCore core (·.advance slot len) := by
    rw [State.runGroup_solo h, ite_self]
    rfl
  cases i with
  | nop o | nopX o => cases hi; exact congrArg done plain
  | _ => cases hi

/-- A thread that only advances past its instruction. -/
theorem completes_of_advance {i : Instr} {s : State} {core slot len : Nat} {t : Thread} (h : Solo s core slot t)
    (e : exec i s = .next (s.modCore core (·.advance slot len))) : Completes i s (fun s' => Result s s' core slot (t.past len) []) :=
  ⟨_, e, Result.none h.thread len⟩

end Sys2Proof.Machine

open Sys2Proof.Machine

/-- Settles O12: each way in which the model runs a group skips a thread whose guard is false, and NOP makes no write. -/
theorem guardAndNopResult : Obligations.GuardAndNopResult :=
  ⟨fun _ _ _ hi s core slot t h off => completes_of_advance h (skipsOff_of_guarded hi s core slot t h off),
    fun _ _ _ hi _ _ _ _ h => completes_of_advance h (nop_advances hi h)⟩

end

section
/-! ## What no instruction and no settling touches: the boot stage, the firmware, the freeze, the life record, the spares, the halts and the keys

One lemma for each operation that settling a step is made of, in the order of their definitions. -/

namespace Sys2Proof.Machine
open Sys2Proof

/-- An update of other fields keeps the vault: its record is read from the fields, and `State.vault_eta` puts it together again. -/
@[simp] theorem State.vault_mk (mem gran bad soft cw am amBusy slotActive slotPending l2 sliceWait keys launches waiting token unresolved
    fabric outbox revoking killing boot fwImage frozen life tally tests replays spares retired halted cxlAwait islands cores agenda flip cur
    free time assign seq) :
    (State.mk mem gran bad soft cw am amBusy slotActive slotPending l2 sliceWait keys launches waiting token unresolved fabric outbox revoking
      killing boot fwImage frozen life tally tests replays spares retired halted cxlAwait islands cores agenda flip cur free time assign seq).vault =
    ⟨boot, fwImage, frozen, life, spares, retired, halted, keys⟩ := rfl

@[simp] theorem State.vault_eta (s : State) :
    (⟨s.boot, s.fwImage, s.frozen, s.life, s.spares, s.retired, s.halted, s.keys⟩ : Vault) = s.vault := rfl

@[simp] theorem ite_vault (c : Prop) [Decidable c] (a b : State) : (if c then a else b).vault = if c then a.vault else b.vault := apply_ite _ _ _ _

/-- A fold keeps the vault where each of its steps does. -/
@[simp] theorem foldl_vault {α : Type} {f : State → α → State} (h : ∀ s a, (f s a).vault = s.vault) (l : List α) (s : State) :
    (l.foldl f s).vault = s.vault := by
  induction l generalizing s with
  | nil => rfl
  | cons a l ih => rw [List.foldl_cons, ih, h]

@[simp] theorem State.setCore_vault (s : State) (n : Nat) (c : Core) : (s.setCore n c).vault = s.vault := by
  unfold State.setCore
  simp

@[simp] theorem State.modCore_vault (s : State) (n : Nat) (f : Core → Core) : (s.modCore n f).vault = s.vault := by
  unfold State.modCore
  simp

theorem State.putPa_vault {s s' : State} {ctx : Nat} {mac : Bool} {pa n v : Nat} (h : s.putPa ctx mac pa n v = .ok s') : s'.vault = s.vault := by
  unfold State.putPa at h
  split at h <;> cases h
  simp

theorem State.writePa_vault {s s' : State} {ctx : Nat} {mac : Bool} {pa n v : Nat} (h : s.writePa ctx mac pa n v = .ok s') : s'.vault = s.vault := by
  unfold State.writePa at h
  split at h
  · cases h
  · exact State.putPa_vault h

theorem State.applyPacket_vault {s s' : State} {ctx : Nat} {mac : Bool} {addr op n : Nat} {l : List (Nat × DWord)}
    (h : s.applyPacket ctx mac addr op n l = .ok s') : s'.vault = s.vault := by
  induction l generalizing s with
  | nil => cases h; rfl
  | cons e l ih =>
    unfold State.applyPacket at h
    dsimp only at h
    split at h
    · cases h
    · split at h
      · exact ih h
      · split at h
        · cases h
        · next hw => rw [ih h, State.writePa_vault hw]

@[simp] theorem State.count_vault (s : State) (i : LifeItem) : (s.count i).vault = s.vault := by
  unfold State.count
  simp

@[simp] theorem State.correct_vault (s : State) (found : List Nat) : (s.correct found).vault = s.vault := by
  unfold State.correct
  simp

@[simp] theorem State.l2Touch_vault (s : State) (slice addr : Nat) (sectors dirty : BitVec 4) (mark : Bool) (cls : Nat)
    (stream : Bool) (pin : List LoadRef) :
    (s.l2Touch slice addr sectors dirty mark cls stream pin).vault = s.vault := by
  unfold State.l2Touch
  dsimp only
  split
  · simp
  · split
    · simp
    · split <;> simp

@[simp] theorem State.l2Sectors_vault (s : State) (addr : Nat) (rd wr whole : BitVec 4) (r : L2Req) :
    (s.l2Sectors addr rd wr whole r).vault = s.vault := by
  unfold State.l2Sectors
  split <;> simp

@[simp] theorem State.delay_vault (s : State) (r : LoadRef) (cause : Nat) : (s.delay r cause).vault = s.vault := by
  unfold State.delay
  simp

@[simp] theorem State.delayPins_vault (s : State) (addr cause : Nat) : (s.delayPins addr cause).vault = s.vault := by
  unfold State.delayPins
  simp

@[simp] theorem State.setCw8_vault (s : State) (die off : Nat) (v : DWord) : (s.setCw8 die off v).vault = s.vault := by
  unfold State.setCw8
  simp

@[simp] theorem State.setCw4_vault (s : State) (die off : Nat) (v : Word) : (s.setCw4 die off v).vault = s.vault := by
  unfold State.setCw4
  simp

@[simp] theorem State.countDrop_vault (s : State) (p : Nat) : (s.countDrop p).vault = s.vault := by
  unfold State.countDrop
  simp

@[simp] theorem State.send_vault (s : State) (tag : BitVec 16) (m : Msg) : (s.send tag m).vault = s.vault := by
  unfold State.send
  split
  · rfl
  · split <;> simp

@[simp] theorem State.errorInterrupt_vault (s : State) (what unit : Nat) (tag : BitVec 16) : (s.errorInterrupt what unit tag).vault = s.vault := by
  unfold State.errorInterrupt
  simp

@[simp] theorem State.l2Access_vault (s : State) (pa n : Nat) (write : Bool) (r : L2Req) : (s.l2Access pa n write r).vault = s.vault := by
  unfold State.l2Access
  simp

theorem State.writeWords_vault {s s' : State} {ctx : Nat} {mac : Bool} {pa : Nat} {l : List Nat} (h : s.writeWords ctx mac pa l = some s') :
    s'.vault = s.vault := by
  induction l generalizing s pa with
  | nil => cases h; rfl
  | cons w l ih =>
    unfold State.writeWords at h
    split at h
    · next hw => rw [ih h, State.writePa_vault hw]
    · cases h

@[simp] theorem State.recordAt_vault (s : State) (r : FaultRec) : (s.recordAt r).1.vault = s.vault := by
  unfold State.recordAt
  dsimp only
  split
  · simp
  · split
    · simp
    · split
      · simp
      · next hw => simp [State.writeWords_vault hw]

/-- An update-only line sent as one packet; `aborted` is what an abort does before its record is written. -/
def State.sendWith (s : State) (core : Nat) (l : Line) (aborted : State → State) : State :=
  match l.upd with
  | none => s
  | some (op, n, elems) =>
    match s.applyPacket l.last.2.2.2.2 (leafMac l.leaf) l.addr op n elems with
    | .ok s => (s.l2Sectors l.addr 0 (dirtySectors (elemMask n elems)) (fullSectors (elemMask n elems)) (writeReq l.leaf (leafRet l.leaf))).modCore core
        (·.dropLine l.lid l.addr)
    | .error k => ((aborted (s.modCore core (·.dropLine l.lid l.addr))).recordAt (l.abortRec core k)).1

theorem State.sendFrom_zero (core : Nat) (l : Line) (s : State) : State.sendFrom core l 0 s = s.sendWith core l id := by
  delta State.sendFrom
  rfl

theorem State.sendFrom_succ (core : Nat) (l : Line) (fuel : Nat) (s : State) : State.sendFrom core l (fuel + 1) s = s.sendWith core l fun s =>
    let slot := s.recordSlot l.last.2.2.2.2 / 128
    let held := s.updates (fun x => x.addr == slot)
    if held.isEmpty then s else held.foldl (fun s (e : Nat × Line) => State.sendFrom e.1 e.2 fuel s) (s.delayPins slot 1) := by
  delta State.sendFrom
  rfl

theorem State.sendWith_vault {aborted : State → State} (h : ∀ s, (aborted s).vault = s.vault) (s : State) (core : Nat) (l : Line) :
    (s.sendWith core l aborted).vault = s.vault := by
  unfold State.sendWith
  split
  · rfl
  · split
    · next hp => simp [State.applyPacket_vault hp]
    · simp [h]

@[simp] theorem State.sendFrom_vault (core : Nat) (l : Line) (fuel : Nat) (s : State) : (State.sendFrom core l fuel s).vault = s.vault := by
  induction fuel generalizing core l s with
  | zero =>
    rw [State.sendFrom_zero]
    exact State.sendWith_vault (fun _ => rfl) s core l
  | succ f ih =>
    rw [State.sendFrom_succ]
    refine State.sendWith_vault (fun s => ?_) s core l
    dsimp only
    split
    · rfl
    · rw [foldl_vault fun s (e : Nat × Line) => ih e.1 e.2 s, State.delayPins_vault]

@[simp] theorem State.sendLine_vault (s : State) (core : Nat) (l : Line) : (s.sendLine core l).vault = s.vault := by
  unfold State.sendLine
  simp

@[simp] theorem State.pull_vault (s : State) (addr : Nat) : (s.pull addr).vault = s.vault := by
  unfold State.pull
  simp

@[simp] theorem State.settleRevoked_vault (s : State) : (s.settleRevoked).vault = s.vault := by
  unfold State.settleRevoked
  simp

@[simp] theorem State.modLaunch_vault (s : State) (lid : Nat) (f : Launch → Launch) : (s.modLaunch lid f).vault = s.vault := by
  unfold State.modLaunch
  simp

@[simp] theorem State.passFrom_vault (s : State) (lid n : Nat) : (s.passFrom lid n).vault = s.vault := by
  induction n generalizing s with
  | zero => rfl
  | succ n ih =>
    unfold State.passFrom
    dsimp only
    (repeat' split) <;> simp [ih]

@[simp] theorem State.passMarble_vault (s : State) (lid : Nat) : (s.passMarble lid).vault = s.vault := by
  unfold State.passMarble
  simp

@[simp] theorem State.leaveBsync_vault (s : State) (core lid block : Nat) : (s.leaveBsync core lid block).vault = s.vault := by
  unfold State.leaveBsync
  simp

@[simp] theorem State.modThread_vault (s : State) (core slot : Nat) (f : Thread → Thread) : (s.modThread core slot f).vault = s.vault := by
  unfold State.modThread
  simp

@[simp] theorem State.failLaunch_vault (s : State) (lid code block : Nat) : (s.failLaunch lid code block).vault = s.vault := by
  unfold State.failLaunch
  simp

@[simp] theorem State.takeTrap_vault (s : State) (core slot cause : Nat) (epc : DWord) : (s.takeTrap core slot cause epc).vault = s.vault := by
  unfold State.takeTrap
  split <;> simp

@[simp] theorem State.takeFault_vault (s : State) (core slot cause : Nat) (epc : DWord) (f : Option FaultInfo) :
    (s.takeFault core slot cause epc f).vault = s.vault := by
  unfold State.takeFault
  split <;> simp

@[simp] theorem State.sawWalk_vault (s : State) (ctx : Nat) (ptr : DWord) : (s.sawWalk ctx ptr).vault = s.vault := by
  unfold State.sawWalk
  simp

@[simp] theorem State.fillTlb_vault (s : State) (core : Nat) (e : Option Tlb) : (s.fillTlb core e).vault = s.vault := by
  unfold State.fillTlb
  split <;> simp

@[simp] theorem State.sendFabric_vault (s : State) (ctx : Nat) (for_ : FabFor) (ptr : DWord) (win : DWord × DWord) (off n : Nat) (ask : Ask) :
    (s.sendFabric ctx for_ ptr win off n ask).vault = s.vault := by
  unfold State.sendFabric
  simp

theorem State.writeBytes_vault {s s' : State} {ctx : Nat} {mac : Bool} {addr : Nat} {d : BitVec 1024} {l : List Nat}
    (h : s.writeBytes ctx mac addr d l = .ok s') : s'.vault = s.vault := by
  induction l generalizing s with
  | nil => cases h; rfl
  | cons o l ih =>
    unfold State.writeBytes at h
    split at h
    · cases h
    · next hw => rw [ih h, State.putPa_vault hw]

theorem State.writeLine_vault {s s' : State} {ctx : Nat} {leaf : BitVec 64} {addr : Nat} {d : BitVec 1024} {m : BitVec 128}
    (h : s.writeLine ctx leaf addr d m = .ok s') : s'.vault = s.vault := by
  unfold State.writeLine at h
  dsimp only at h
  split at h
  · cases h
  · split at h
    · cases h
    · next hw =>
      cases h
      simp [State.writeBytes_vault hw]

@[simp] theorem State.recordPulled_vault (s : State) (r : FaultRec) : (s.recordPulled r).1.vault = s.vault := by
  simp [State.recordPulled]

@[simp] theorem State.writeBack_vault (s : State) (core : Nat) (l : Line) : (s.writeBack core l).vault = s.vault := by
  unfold State.writeBack
  split
  · rfl
  · split
    · next hw => simp [State.writeLine_vault hw]
    · simp

@[simp] theorem State.flushLine_vault (s : State) (core lid addr : Nat) (drop : Bool) : (s.flushLine core lid addr drop).vault = s.vault := by
  unfold State.flushLine
  split <;> simp

@[simp] theorem State.flushCtx_vault (s : State) (core ctx : Nat) (pas : List Nat) : (s.flushCtx core ctx pas).vault = s.vault := by
  unfold State.flushCtx
  simp

theorem State.writePlanes_vault {s s' : State} {ctx : Nat} {mac : Bool} {frame fmt blen e v q k : Nat}
    (h : s.writePlanes ctx mac frame fmt blen e v q k = .ok s') : s'.vault = s.vault := by
  induction q generalizing s k with
  | zero => cases h; rfl
  | succ q ih =>
    unfold State.writePlanes at h
    dsimp only at h
    split at h
    · cases h
    · split at h
      · cases h
      · next hw => rw [ih h, State.writePa_vault hw]

theorem State.writeElem_vault {s s' : State} {ctx : Nat} {leaf : DWord} {frame e : Nat} {v : Int} (h : s.writeElem ctx leaf frame e v = .ok s') :
    s'.vault = s.vault := State.writePlanes_vault h

theorem State.writeElems_vault {s s' : State} {ctx : Nat} {leaf : DWord} {frame e v n c : Nat}
    (h : s.writeElems ctx leaf frame e v n = .ok (s', c)) : s'.vault = s.vault := by
  induction n generalizing s e v c with
  | zero => cases h; rfl
  | succ n ih =>
    unfold State.writeElems at h
    dsimp only at h
    split at h
    · cases h
    · next hw =>
      split at h
      · cases h
      · next hr =>
        cases h
        rw [ih hr, State.writeElem_vault hw]

theorem State.slotWrite_vault {s s' : State} {ctx : Nat} {t : Target} {i n v c : Nat} {mark : Bool}
    (h : s.slotWrite ctx t i n v mark = .ok (s', c)) : s'.vault = s.vault := by
  unfold State.slotWrite at h
  split at h
  · split at h
    · cases h
    · next hw =>
      cases h
      simp [State.writePa_vault hw]
  · split at h
    · cases h
    · next hw =>
      cases h
      simp [State.writeElems_vault hw]
  · cases h

@[simp] theorem State.writeReport_vault (s : State) (core slot lid block load ctx : Nat) (words : List Nat) :
    (s.writeReport core slot lid block load ctx words).vault = s.vault := by
  unfold State.writeReport
  dsimp only
  split
  · simp
  · split
    · simp
    · split
      · simp
      · split
        · simp
        · split
          · simp
          · next hw => simp [State.slotWrite_vault hw]

@[simp] theorem State.report_vault (s : State) (core : Nat) (l : Load) (actual : BitVec 29) (cause final : Nat) :
    (s.report core l actual cause final).vault = s.vault := by
  unfold State.report
  split <;> simp

@[simp] theorem State.unpin_vault (s : State) (core id : Nat) : (s.unpin core id).vault = s.vault := by
  unfold State.unpin
  simp

@[simp] theorem State.dropLoad_vault (s : State) (core id : Nat) : (s.dropLoad core id).vault = s.vault := by
  unfold State.dropLoad
  simp

@[simp] theorem State.abandon_vault (s : State) (core slot : Nat) (save : Bool) : (s.abandon core slot save).vault = s.vault := by
  unfold State.abandon
  refine foldl_vault (fun s l => ?_) _ _
  dsimp only
  (repeat' split) <;> simp

@[simp] theorem State.placeBlock_vault (core : Nat) (acc : State × List (Nat × Nat)) (p : Nat) :
    (State.placeBlock core acc p).1.vault = acc.1.vault := by
  unfold State.placeBlock
  dsimp only
  (repeat' split) <;> simp

@[simp] theorem State.placeCrew_vault (core : Nat) (map : List (Nat × Nat)) (lanes : Nat → DWord) (acc : State × List (Nat × Nat))
    (e : Nat × Crew) :
    (State.placeCrew core map lanes acc e).1.vault = acc.1.vault := by
  unfold State.placeCrew
  dsimp only
  (repeat' split) <;> simp

/-- The same for a fold that carries something else besides the state. -/
theorem foldl_fst_vault {α β : Type} {f : State × β → α → State × β} (h : ∀ acc a, (f acc a).1.vault = acc.1.vault) (l : List α)
    (acc : State × β) : (l.foldl f acc).1.vault = acc.1.vault := by
  induction l generalizing acc with
  | nil => rfl
  | cons a l ih => rw [List.foldl_cons, ih, h]

@[simp] theorem State.install_vault (s : State) (core : Nat) (bases : List Nat) (sv : Saved) : (s.install core bases sv).vault = s.vault := by
  unfold State.install
  dsimp only
  rw [State.setCore_vault, foldl_fst_vault (State.placeCrew_vault core _ _), foldl_fst_vault (State.placeBlock_vault core), State.setCore_vault]

@[simp] theorem State.rollback_vault (s : State) (core lid index : Nat) : (s.rollback core lid index).vault = s.vault := by
  unfold State.rollback
  simp

@[simp] theorem State.settleRoll_vault (s : State) (core lid index : Nat) : (s.settleRoll core lid index).vault = s.vault := by
  unfold State.settleRoll
  simp

@[simp] theorem State.endTask_vault (s : State) (core : Nat) (t : Task) (err : Bool) : (s.endTask core t err).vault = s.vault := by
  unfold State.endTask
  simp

@[simp] theorem State.sawFault_vault (s : State) (ctx : Nat) (f : FaultInfo) : (s.sawFault ctx f).vault = s.vault := by
  unfold State.sawFault
  simp

@[simp] theorem State.fillKr_vault (s : State) (core ctx : Nat) (leaf : DWord) (hint : Nat) (l : List Nat) :
    (s.fillKr core ctx leaf hint l).1.vault = s.vault := by
  induction l generalizing s with
  | nil => rfl
  | cons pa l ih =>
    unfold State.fillKr
    dsimp only
    split
    · exact ih s
    · split
      · simp
      · simp [ih]

@[simp] theorem State.readKr_vault (s : State) (core ctx : Nat) (leaf : DWord) (pa n hint : Nat) (cover : Cover) :
    (s.readKr core ctx leaf pa n hint cover).1.vault = s.vault := by
  unfold State.readKr
  dsimp only
  split
  all_goals
    next h =>
      have k := congrArg (fun x : State × Option FaultKind => x.1.vault) h
      simpa using k.symm

@[simp] theorem State.recordPage_vault (s : State) (r : FaultRec) : (s.recordPage r).vault = s.vault := by
  unfold State.recordPage
  simp

@[simp] theorem State.record_vault (s : State) (r : FaultRec) : (s.record r).vault = s.vault := by
  unfold State.record
  simp

@[simp] theorem State.paramFault_vault (s : State) (core lid index : Nat) (f : FaultInfo) : (s.paramFault core lid index f).vault = s.vault := by
  unfold State.paramFault
  simp

/-- The state in which a read of the parameters leaves the package. -/
def ParamRead.after : ParamRead → State
  | .ok s _ => s
  | .wait s _ => s
  | .fault s _ => s

@[simp] theorem State.readParams_vault (s : State) (core ctx : Nat) (pc : DWord) (va n : Nat) :
    (s.readParams core ctx pc va n).after.vault = s.vault := by
  induction n generalizing s va with
  | zero => rfl
  | succ n ih =>
    have goesOn (u : State) (v : Nat) : (match u.readParams core ctx pc (va + 8) n with
        | .ok s r => ParamRead.ok s (v + 2 ^ 64 * r)
        | x => x).after.vault = u.vault := by
      have k := ih u (va + 8)
      revert k
      cases u.readParams core ctx pc (va + 8) n <;> exact id
    unfold State.readParams
    dsimp only
    split
    · simp [ParamRead.after]
    · next pa leaf e _ =>
      have k := State.readKr_vault (s.fillTlb core e) core ctx leaf pa 8 0 []
      rw [State.fillTlb_vault] at k
      split
      · next hr =>
        rw [hr] at k
        exact k
      · next hr =>
        rw [hr] at k
        exact (goesOn _ _).trans k
    · split
      · exact (goesOn _ _).trans (State.fillTlb_vault s core _)
      · simp [ParamRead.after]
    · simp [ParamRead.after]

@[simp] theorem State.startBlock_vault (s : State) (core lid index : Nat) : (s.startBlock core lid index).vault = s.vault := by
  have k := State.readParams_vault s core (s.rcd lid).ctx (s.rcd lid).entry ((s.rcd lid).param.extractLsb' 0 56).toNat 8
  unfold State.startBlock
  dsimp only
  split
  all_goals
    next hr =>
      rw [hr] at k
      simpa [ParamRead.after] using k

@[simp] theorem State.resolveOn_vault (s : State) (core ctx page : Nat) (fail : Bool) : (s.resolveOn core ctx page fail).vault = s.vault := by
  unfold State.resolveOn
  dsimp only
  rw [foldl_vault, foldl_vault, foldl_vault]
  · intro s e
    (repeat' split) <;> simp
  · intro s t
    split <;> simp
  · intro s b
    split <;> simp

@[simp] theorem State.fures_vault (s : State) (die ctx page : Nat) (fail : Bool) : (s.fures die ctx page fail).vault = s.vault := by
  unfold State.fures
  simp

@[simp] theorem State.reclaim_vault (s : State) (die cls quota : Nat) : (s.reclaim die cls quota).vault = s.vault := by
  unfold State.reclaim
  refine foldl_vault (fun s v => ?_) _ _
  dsimp only
  split <;> simp

@[simp] theorem State.writeQuota_vault (s : State) (die : Nat) (v : Word) : (s.writeQuota die v).vault = s.vault := by
  unfold State.writeQuota
  simp

@[simp] theorem State.setAmStatus_vault (s : State) (r st : Nat) : (s.setAmStatus r st).vault = s.vault := by
  unfold State.setAmStatus
  simp

@[simp] theorem State.writeAmctl_vault (s : State) (r : Nat) (v : Word) : (s.writeAmctl r v).vault = s.vault := by
  unfold State.writeAmctl
  simp

@[simp] theorem State.applySlots_vault (s : State) (die : Nat) : (s.applySlots die).vault = s.vault := by
  unfold State.applySlots
  simp

@[simp] theorem State.setCtxctl_vault (s : State) (ctx : Nat) (v : Word) : (s.setCtxctl ctx v).vault = s.vault := by
  unfold State.setCtxctl
  simp

@[simp] theorem State.setLoadTreg_vault (s : State) (core : Nat) (l : Load) (w : Word) : (s.setLoadTreg core l w).vault = s.vault := by
  unfold State.setLoadTreg
  split <;> simp

@[simp] theorem State.closeLoad_vault (s : State) (core : Nat) (l : Load) (now : BitVec 29) (late : Bool) (e : Ending) :
    (s.closeLoad core l now late e).vault = s.vault := by
  unfold State.closeLoad
  split <;> simp

@[simp] theorem State.endLoad_vault (s : State) (core : Nat) (l : Load) (e : Ending) : (s.endLoad core l e).vault = s.vault := by
  unfold State.endLoad
  simp

@[simp] theorem State.faultLoad_vault (s : State) (core : Nat) (l : Load) (k : FaultKind) (level : Nat) :
    (s.faultLoad core l k level).vault = s.vault := by
  unfold State.faultLoad
  split <;> simp

@[simp] theorem State.breakPromise_vault (s : State) (core id : Nat) (e : Option (BitVec 29)) : (s.breakPromise core id e).vault = s.vault := by
  unfold State.breakPromise
  split <;> simp

@[simp] theorem State.land_vault (s : State) (core : Nat) (l : Load) (d : BitVec 128) : (s.land core l d).vault = s.vault := by
  unfold State.land
  simp

@[simp] theorem State.arrive_vault (s : State) (core id : Nat) : (s.arrive core id).vault = s.vault := by
  unfold State.arrive
  split
  · rfl
  · dsimp only
    split
    · split <;> simp
    · rfl
    · split
      · rfl
      · split
        · split <;> simp
        · simp

@[simp] theorem State.settleLoads_vault (s : State) (core : Nat) (slots : List Nat) : (s.settleLoads core slots).vault = s.vault := by
  unfold State.settleLoads
  refine foldl_vault (fun s slot => ?_) _ _
  split
  · rfl
  · split <;> simp

@[simp] theorem State.boundary_vault (s : State) (core slot : Nat) : (s.boundary core slot).vault = s.vault := by
  unfold State.boundary
  split <;> simp

@[simp] theorem State.publishShare_vault (s : State) (core lid : Nat) : (s.publishShare core lid).vault = s.vault := by
  unfold State.publishShare
  simp

@[simp] theorem State.leavePage_vault (s : State) (ctx page die : Nat) : (s.leavePage ctx page die).vault = s.vault := by
  unfold State.leavePage
  simp

@[simp] theorem State.evict_vault (s : State) (core lid block : Nat) : (s.evict core lid block).vault = s.vault := by
  unfold State.evict
  simp

@[simp] theorem State.saveCohort_vault (s : State) (core : Nat) (bs : List Block) : (s.saveCohort core bs).vault = s.vault := by
  unfold State.saveCohort
  dsimp only
  split <;> simp

@[simp] theorem State.preempt_vault (s : State) (lid block : Nat) : (s.preempt lid block).vault = s.vault := by
  unfold State.preempt
  split <;> simp

@[simp] theorem State.suspend_vault (s : State) (ctx : Nat) : (s.suspend ctx).vault = s.vault := by
  unfold State.suspend
  simp

@[simp] theorem State.writeCtxctl_vault (s : State) (ctx : Nat) (v : Word) : (s.writeCtxctl ctx v).vault = s.vault := by
  unfold State.writeCtxctl
  simp

@[simp] theorem State.clearDrops_vault (s : State) (port : Nat) : (s.clearDrops port).vault = s.vault := by
  unfold State.clearDrops
  simp

@[simp] theorem State.answer_vault (s : State) (to_ : Sender) (m : Msg) : (s.answer to_ m).vault = s.vault := by
  unfold State.answer
  simp

@[simp] theorem State.abortRelay_vault (s : State) (f : FabReq) : (s.abortRelay f).vault = s.vault := by
  unfold State.abortRelay
  split <;> simp

@[simp] theorem State.revoke_vault (s : State) (ctx idx : Nat) : (s.revoke ctx idx).vault = s.vault := by
  unfold State.revoke
  simp

@[simp] theorem State.dropRequests_vault (s : State) (ctx : Nat) : (s.dropRequests ctx).vault = s.vault := by
  unfold State.dropRequests
  simp

@[simp] theorem State.killLaunches_vault (s : State) (ctx : Nat) : (s.killLaunches ctx).vault = s.vault := by
  unfold State.killLaunches
  simp

@[simp] theorem State.killCtx_vault (s : State) (ctx : Nat) : (s.killCtx ctx).vault = s.vault := by
  unfold State.killCtx
  simp

@[simp] theorem State.killTag_vault (s : State) (owner : BitVec 16) : (s.killTag owner).vault = s.vault := by
  unfold State.killTag
  simp

@[simp] theorem State.writeKill_vault (s : State) (v : Word) : (s.writeKill v).vault = s.vault := by
  unfold State.writeKill
  split <;> simp

@[simp] theorem State.cwWrite4_vault (s : State) (die off : Nat) (v : Word) : (s.cwWrite4 die off v).vault = s.vault := by
  unfold State.cwWrite4
  simp

@[simp] theorem State.cwWrite_vault (s : State) (die off n : Nat) (v : Nat) : (s.cwWrite die off n v).vault = s.vault := by
  unfold State.cwWrite
  simp

@[simp] theorem State.openView_vault (s : State) (core lid : Nat) (pas : List Nat) (write : Bool) :
    (s.openView core lid pas write).vault = s.vault := by
  unfold State.openView
  simp

@[simp] theorem State.l2Write_vault (s : State) (pa n : Nat) (leaf : DWord) (cls : Nat) : (s.l2Write pa n leaf cls).vault = s.vault := by
  unfold State.l2Write
  simp

@[simp] theorem State.writeView_vault (s : State) (core lid ctx : Nat) (leaf : DWord) (frame e n v : Nat) :
    (s.writeView core lid ctx leaf frame e n v).1.vault = s.vault := by
  unfold State.writeView
  dsimp only
  split
  · simp
  · next hw => simp [State.writeElems_vault hw]

@[simp] theorem State.recordStore_vault (s : State) (core : Nat) (b : Buffered) (k : FaultKind) (pa : Nat) :
    (s.recordStore core b k pa).vault = s.vault := by
  unfold State.recordStore
  simp

@[simp] theorem State.writePoc_vault (s : State) (core lid ctx : Nat) (leaf : DWord) (pa n v : Nat) (cover : Cover) :
    (s.writePoc core lid ctx leaf pa n v cover).1.vault = s.vault := by
  unfold State.writePoc
  dsimp only
  split
  · simp
  · next hw =>
    split at hw
    · simp [State.putPa_vault hw]
    · simp [State.writePa_vault hw]

@[simp] theorem State.makeWay_vault (s : State) (core lid addr : Nat) : (s.makeWay core lid addr).vault = s.vault := by
  unfold State.makeWay
  split <;> simp

@[simp] theorem State.writeL1_vault (s : State) (core lid ctx : Nat) (leaf ptr pc : DWord) (tid block pa n hint v : Nat) :
    (s.writeL1 core lid ctx leaf ptr pc tid block pa n hint v).vault = s.vault := by
  unfold State.writeL1
  dsimp only
  rw [State.modCore_vault, State.makeWay_vault]
  (repeat' split) <;> simp

@[simp] theorem State.performStore_vault (s : State) (core : Nat) (b : Buffered) (cover : Cover) : (s.performStore core b cover).vault = s.vault := by
  unfold State.performStore
  dsimp only
  split
  · simp
  · simp
  · simp
  · next frame e leaf _ =>
    have k := State.writeView_vault s core b.lid (s.rcd b.lid).ctx leaf frame e b.size b.data.toNat
    split
    · next hv =>
      rw [hv] at k
      simpa using k
    · next hv =>
      rw [hv] at k
      split
      · exact k
      · simpa using k
  · next pa leaf _ =>
    split
    · have k := State.writePoc_vault s core b.lid (s.rcd b.lid).ctx leaf pa b.size b.data.toNat cover
      split
      all_goals
        next hv =>
          rw [hv] at k
          simpa using k
    · simp

@[simp] theorem State.releaseDeferred_vault (s : State) (core lid block : Nat) : (s.releaseDeferred core lid block).vault = s.vault := by
  unfold State.releaseDeferred
  simp

@[simp] theorem State.phaseEnd_vault (s : State) (core slot : Nat) (t : Thread) (scope : Nat) (refresh : Bool) (len : Nat) :
    (s.phaseEnd core slot t scope refresh len).vault = s.vault := by
  unfold State.phaseEnd
  simp

@[simp] theorem State.publish_vault (s : State) (core : Nat) (t : Thread) (scope : Nat) (publish : Bool) :
    (s.publish core t scope publish).vault = s.vault := by
  unfold State.publish
  simp

@[simp] theorem State.phaseSteps_vault (s : State) (core slot : Nat) (t : Thread) (scope : Nat) (publish refresh : Bool) (len : Nat) :
    (s.phaseSteps core slot t scope publish refresh len).vault = s.vault := by
  unfold State.phaseSteps
  dsimp only
  split
  · simp
  · split <;> simp

@[simp] theorem State.settleCheckpoint_vault (s : State) (core lid block : Nat) : (s.settleCheckpoint core lid block).vault = s.vault := by
  unfold State.settleCheckpoint
  dsimp only
  split
  · rfl
  · split
    · rfl
    · rw [foldl_vault]
      · simp
      · intro s e
        split <;> simp

@[simp] theorem State.settleBarrier_vault (s : State) (core lid block : Nat) : (s.settleBarrier core lid block).vault = s.vault := by
  unfold State.settleBarrier
  dsimp only
  split
  · rfl
  · split <;> simp

@[simp] theorem State.settleMarble_vault (s : State) (lid : Nat) : (s.settleMarble lid).vault = s.vault := by
  unfold State.settleMarble
  split
  · rfl
  · split
    · split
      · simp
      · split
        · rfl
        · simp
    · rfl

@[simp] theorem State.settleMarbles_vault (s : State) : (s.settleMarbles).vault = s.vault := by
  unfold State.settleMarbles
  simp

@[simp] theorem State.crossFinish_vault (s : State) (core len : Nat) (ms : List Member) (f : Member → List Write) :
    (s.crossFinish core len ms f).vault = s.vault := by
  unfold State.crossFinish
  simp

theorem State.crossStop_vault {f : State → Member → State} (h : ∀ s m, (f s m).vault = s.vault) (s : State) (core len : Nat) (ms : List Member) :
    (s.crossStop core len ms f).vault = s.vault := by
  unfold State.crossStop
  dsimp only
  rw [foldl_vault fun s m => by rw [State.modCore_vault, h], State.modCore_vault]

@[simp] theorem State.recordPrecise_vault (s : State) (core : Nat) (t : Thread) (f : Option FaultInfo) :
    (s.recordPrecise core t f).vault = s.vault := by
  unfold State.recordPrecise
  split <;> simp

@[simp] theorem State.abortRegion_vault (s : State) (core slot : Nat) (f : FaultInfo) : (s.abortRegion core slot f).vault = s.vault := by
  unfold State.abortRegion
  dsimp only
  split
  · simp
  · split <;> simp

@[simp] theorem State.startRollback_vault (s : State) (core lid : Nat) (blocks : List Nat) : (s.startRollback core lid blocks).vault = s.vault := by
  unfold State.startRollback
  simp

@[simp] theorem State.consume_vault (s : State) (core slot : Nat) (k : FaultKind) : (s.consume core slot k).vault = s.vault := by
  unfold State.consume
  split <;> simp

@[simp] theorem State.meetLost_vault (s : State) (core slot : Nat) (t : Thread) (va : DWord) (write : Bool) (k : FaultKind) :
    (s.meetLost core slot t va write k).vault = s.vault := by
  unfold State.meetLost
  simp

@[simp] theorem State.stop_vault (s : State) (core slot : Nat) (st : Stop) : (s.stop core slot st).vault = s.vault := by
  unfold State.stop
  split
  · rfl
  · cases st with
    | trap cause f => cases f <;> simp
    | taint x =>
      dsimp only
      split
      · split <;> simp
      · simp
    | _ => simp

@[simp] theorem State.commitStore_vault (s : State) (core : Nat) (b : Buffered) (cover : Cover) : (s.commitStore core b cover).vault = s.vault := by
  unfold State.commitStore
  simp

@[simp] theorem State.passRegion_vault (s : State) (core slot : Nat) (t : Target) (n : Nat) : (s.passRegion core slot t n).vault = s.vault := by
  unfold State.passRegion
  split <;> simp

theorem State.storeBy_vault {s : State} {core slot : Nat} {t : Thread} {ptr : DWord} {n hint : Nat} {v : BitVec 128} {who : Who} {cover : Cover}
    {k : State → State} (h : s.storeBy core slot t ptr n hint v who cover = .ok k) (u : State) : (k u).vault = u.vault := by
  unfold State.storeBy at h
  split at h
  · split at h <;> cases h
    simp
  · dsimp only at h
    split at h
    · cases h
    · split at h
      · cases h
        simp
      · split at h <;> cases h
        simp

@[simp] theorem State.stcpStores_vault (s : State) (core : Nat) (base : DWord) (n hint j : Nat) (ms : List Member) :
    (s.stcpStores core base n hint j ms).1.vault = s.vault := by
  induction ms generalizing s j with
  | nil => rfl
  | cons m ms ih =>
    unfold State.stcpStores
    split
    · exact ih s _
    · split
      · rfl
      · next hs => rw [ih, State.storeBy_vault hs]

@[simp] theorem State.stcpFinish_vault (s : State) (core len : Nat) (x : XOps) (ms : List Member) : (s.stcpFinish core len x ms).vault = s.vault := by
  have stops (s : State) (st : Stop) : (s.crossStop core len ms fun s m => s.stop core m.slot st).vault = s.vault :=
    State.crossStop_vault (fun s m => State.stop_vault s core m.slot st) s core len ms
  unfold State.stcpFinish
  dsimp only
  split
  · simp
  · split
    · exact stops s _
    · split
      · exact stops s _
      · split
        · rfl
        · split
          · simp
          · rfl
          · exact stops s _
          · split
            · exact stops s _
            · split
              · split
                · rw [stops]
                  split <;> simp
                · rw [State.crossStop_vault]
                  intro s m
                  split <;> simp
              · rw [State.crossStop_vault]
                · split <;> simp
                · intro s m
                  split <;> simp

@[simp] theorem State.crossDone_vault (s : State) (core len : Nat) (i : Instr) (ms : List Member) : (s.crossDone core len i ms).vault = s.vault := by
  unfold State.crossDone
  split <;> simp

@[simp] theorem State.crossOf_vault (s : State) (core slot : Nat) : (s.crossOf core slot).vault = s.vault := by
  unfold State.crossOf
  split <;> simp

@[simp] theorem State.settleCross_vault (s : State) (core crew : Nat) : (s.settleCross core crew).vault = s.vault := by
  unfold State.settleCross
  simp

@[simp] theorem State.trapSlots_vault (s : State) (core cause : Nat) (slots : List Nat) : (s.trapSlots core cause slots).vault = s.vault := by
  unfold State.trapSlots
  simp

@[simp] theorem State.regroupMarble_vault (s : State) (lid : Nat) (orders : List (Nat × Nat)) : (s.regroupMarble lid orders).1.vault = s.vault := by
  unfold State.regroupMarble
  (repeat' split) <;> simp

@[simp] theorem State.settleRgrpScope_vault (s : State) (core lid block : Nat) (coreScope : Bool) :
    (s.settleRgrpScope core lid block coreScope).vault = s.vault := by
  unfold State.settleRgrpScope
  dsimp only
  split
  · rfl
  · split
    · split <;> simp
    · split <;> simp

@[simp] theorem State.settleRgrp_vault (s : State) (core lid block : Nat) : (s.settleRgrp core lid block).vault = s.vault := by
  unfold State.settleRgrp
  simp

@[simp] theorem State.settleYield_vault (s : State) (core : Nat) : (s.settleYield core).vault = s.vault := by
  unfold State.settleYield
  simp

@[simp] theorem State.takeBound_vault (s : State) (core : Nat) (e : Nat × Thread) : (s.takeBound core e).vault = s.vault := by
  unfold State.takeBound
  split <;> simp

@[simp] theorem State.settleCore_vault (s : State) (core : Nat) : (s.settleCore core).vault = s.vault := by
  unfold State.settleCore
  simp

@[simp] theorem State.settleRolls_vault (s : State) (core : Nat) : (s.settleRolls core).vault = s.vault := by
  unfold State.settleRolls
  simp

@[simp] theorem State.settleRollbacks_vault (s : State) : (s.settleRollbacks).vault = s.vault := by
  unfold State.settleRollbacks
  simp

@[simp] theorem State.serveWaits_vault (s : State) : (s.serveWaits).vault = s.vault := by
  unfold State.serveWaits
  simp

@[simp] theorem State.settle_vault (s : State) : (s.settle).vault = s.vault := by
  unfold State.settle
  simp

@[simp] theorem State.tick_vault (s : State) : (s.tick).vault = s.vault := by
  unfold State.tick
  simp


end Sys2Proof.Machine
end

section
namespace Sys2Proof.Machine
open Sys2Proof Sys2Proof.Claims

/-! ## A trap taken in user mode with a handler (10 R244) -/

/-- Entering the handler changes the thread and nothing else. -/
theorem Trapped.enter {s : State} {core slot : Nat} {t : Thread} (ht : s.thread? core slot = some t) (cause : Nat) (epc : DWord) :
    Trapped s (s.modThread core slot (·.enter cause epc (s.rcd t.lid).traph)) core slot t cause epc where
  device := OnlyCore.modCore core s _
  frame := by
    rw [State.modThread, State.core_modCore_self]
    exact RegFrame.modThread _ slot _
  threads := by
    rw [State.modThread, State.core_modCore_self]
    exact OnlyThread.modThread _ slot _
  regs := by
    rw [State.modThread, State.core_modCore_self]
    exact Wrote.nothing slot (Core.modThread_store _ slot _) (Core.modThread_crews _ slot _)
  thread := ⟨t.enter cause epc (s.rcd t.lid).traph, by rw [State.thread?_modThread_self, ht]; rfl, rfl⟩

/-- A stop by a trap without a fault, in a thread that has a handler, enters the handler. -/
theorem State.stop_trap_of_handled {s : State} {core slot : Nat} {t : Thread} (ht : s.thread? core slot = some t) (h : Handled s t) (cause : Nat) :
    s.stop core slot (.trap cause none) = s.modThread core slot (·.enter cause t.pc (s.rcd t.lid).traph) := by
  obtain ⟨user, handler⟩ := h
  have enters : ¬(t.mode = .handler ∨ (s.rcd t.lid).traph = 0) := by
    rw [user]
    exact fun z => z.elim nofun handler
  simp only [State.stop, State.recordPrecise, State.takeFault, State.takeTrap, ht]
  exact if_neg enters

/-! ## What a step runs (DESIGN CHOICE, log 1) -/

/-- A package that is not frozen runs what its turn chooses. -/
theorem step_eq_run {s : State} (hf : s.frozen = false) : step s = run s.turn := by
  rw [step, hf]
  rfl

theorem turn_of_due {s : State} {i : Instr} (hd : s.due = some i) : s.turn = s.happen i := by
  rw [State.turn, hd]

section
variable {s : State} (hd : s.due = none)
include hd

theorem turn_issue {core : Nat} {arith : Bool} {rest : List Turn} {g : Group} (ha : (settled s).agenda = .issue core arith :: rest)
    (hg : ({ settled s with agenda := rest }).select core arith = some g) : s.turn = ({ settled s with agenda := rest }).prepare g := by
  unfold settled at ha hg ⊢
  simp only [State.turn, hd, ha, hg]

theorem turn_happen {i : Instr} {rest : List Turn} (ha : (settled s).agenda = .happen i :: rest) :
    s.turn = ({ settled s with agenda := rest, cur := none }, if (settled s).takesTurn i then some i else none) := by
  unfold settled at ha ⊢
  simp only [State.turn, hd, ha, State.happen]
  split <;> rfl

theorem turn_upset {pa : Nat} {rest : List Turn} (ha : (settled s).agenda = .upset pa :: rest) :
    s.turn = ({ settled s with agenda := rest }).upset pa := by
  unfold settled at ha ⊢
  simp only [State.turn, hd, ha]

theorem turn_default (ha : (settled s).agenda = []) : s.turn = (settled s).default := by
  unfold settled at ha ⊢
  simp only [State.turn, hd, ha]

end

/-- The boot stage of a package does not change as a step settles. -/
theorem settled_boot (s : State) : (settled s).boot = s.boot :=
  congrArg Vault.boot (State.settle_vault s.tick)

/-- A step that prepares a group runs the instruction at its PC, or traps where the encoding there is reserved. -/
theorem runsDecoded_of_prepare {s u : State} {g : Group} (h : step s = run (u.prepare g)) : RunsDecoded s u g := by
  intro v l hfetch
  rw [h]
  refine ⟨fun i n hdec => ⟨decode_wf hdec, ?_⟩, fun r slot t hdec hslot ht _ hh => ?_⟩
  · simp only [State.prepare, hfetch, hdec, run]
  · refine ⟨_, ?_, Trapped.enter ht causeIllegalInstruction t.pc⟩
    simp only [State.prepare, hfetch, hdec, run, hslot, List.foldl_cons, List.foldl_nil, State.stop_trap_of_handled ht hh]

/-- A happening of the outside world's agenda is taken, except by a package whose firmware was refused (19 R354). -/
theorem takesTurn_iff {s : State} {i : Instr} :
    s.takesTurn i = true ↔ s.boot ≠ .refused ∨ i = .reset ∨ ∃ image, i = .firmwareImageLoad image := by
  unfold State.takesTurn
  rw [Bool.or_eq_true, bne_iff_ne]
  refine or_congr_right ⟨fun h => ?_, ?_⟩
  · split at h
    · exact .inl rfl
    · exact .inr ⟨_, rfl⟩
    · cases h
  · rintro (rfl | ⟨image, rfl⟩) <;> rfl

section
variable {s : State} {pa : Nat} {l : Loc} (hl : s.locate pa = .ok l) (hb : ∀ b ∈ s.bad, b.1 ≠ l.key) (hs : l.key ∉ s.soft)
include hl hb hs

/-- A byte that is neither erroneous nor upset yet becomes upset, or is the second one of its granule (10 R248). -/
theorem upset_eq : s.upset pa = if s.soft.any (fun b => b / 64 == l.key / 64) then s.happen (.uncorrectableError (.memory pa))
    else ({ s with soft := s.soft ++ [l.key], cur := none }, none) := by
  have fresh : ¬(s.bad.any (·.1 == l.key) = true ∨ s.soft.contains l.key = true) := by
    rintro (h | h)
    · obtain ⟨b, hm, he⟩ := List.any_eq_true.1 h
      exact hb b hm (beq_iff_eq.1 he)
    · exact hs (List.contains_iff_mem.1 h)
  simp only [State.upset, hl]
  exact if_neg fresh

theorem upset_first (h : ∀ b ∈ s.soft, b / 64 ≠ l.key / 64) : s.upset pa = ({ s with soft := s.soft ++ [l.key], cur := none }, none) := by
  rw [upset_eq hl hb hs, if_neg (by simpa using h)]

theorem upset_second (h : ∃ b ∈ s.soft, b / 64 = l.key / 64) : s.upset pa = s.happen (.uncorrectableError (.memory pa)) := by
  rw [upset_eq hl hb hs, if_pos (by simpa using h)]

end

section
variable {s : State}

theorem default_happen_of_flip {i : Instr} (hf : s.flip = true) (hi : s.internal = some i) :
    s.default = ({ s with flip := false }).happen i := by
  simp only [State.default, hf, hi, if_true, Bool.not_true]

theorem default_issue {g : Group} (h : s.flip = false ∨ s.internal = none) (hg : ({ s with flip := !s.flip }).nextGroup = some g) :
    s.default = ({ s with flip := !s.flip }).prepare g := by
  cases hf : s.flip with
  | false =>
    rw [hf] at hg
    simp only [State.default, State.issueNext, hf, hg, Option.map_some, Bool.false_eq_true, if_false]
  | true =>
    have hi := h.resolve_left (by simp [hf])
    rw [hf] at hg
    simp only [State.default, State.issueNext, hf, hi, hg, Option.map_some, Option.getD_some, if_true]

theorem default_happen {i : Instr} (hf : s.flip = false) (hg : ({ s with flip := true }).nextGroup = none) (hi : s.internal = some i) :
    s.default = ({ s with flip := true }).happen i := by
  simp only [State.default, State.issueNext, hf, hi, Bool.not_false, hg, Option.map_none, Bool.false_eq_true, if_false]

theorem default_none (hg : ({ s with flip := !s.flip }).nextGroup = none) (hi : s.internal = none) :
    s.default = ({ s with flip := !s.flip, cur := none }, none) := by
  simp only [State.default, State.issueNext, hi, hg, Option.map_none, Option.getD_none, ite_self]

end

end Sys2Proof.Machine

open Sys2Proof.Machine Sys2Proof.Claims

/-- Settles O55: a step runs what its turn chooses, and each clause names one branch of that choice. -/
theorem stepRunsDecoded : Obligations.StepRunsDecoded := by
  unfold Obligations.StepRunsDecoded
  intro s hf
  have hrun := step_eq_run hf
  refine ⟨fun i hd => hrun.trans (congrArg run (turn_of_due hd)), fun hd => ⟨fun core arith rest g ha hg => ?issue, fun i rest ha => ?happen,
    fun pa rest l ha hl hb hs => ?upset, fun ha => ?default⟩⟩
  case issue => exact runsDecoded_of_prepare (hrun.trans (congrArg run (turn_issue hd ha hg)))
  case happen =>
    rw [hrun, turn_happen hd ha]
    refine ⟨fun h => ?_, fun hb hr hi => ?_⟩
    · rw [if_pos (takesTurn_iff.2 (by rwa [settled_boot]))]
      rfl
    · rw [if_neg]
      · rfl
      · rw [takesTurn_iff, settled_boot]
        rintro (h | h | ⟨image, h⟩)
        exacts [h hb, hr h, hi image h]
  case upset =>
    rw [hrun, turn_upset hd ha]
    exact ⟨fun h => congrArg run (upset_first (s := { settled s with agenda := rest }) hl hb hs h),
      fun h => congrArg run (upset_second (s := { settled s with agenda := rest }) hl hb hs h)⟩
  case default =>
    rw [turn_default hd ha] at hrun
    exact ⟨fun i h hi => hrun.trans (congrArg run (default_happen_of_flip h hi)),
      fun g h hg => runsDecoded_of_prepare (hrun.trans (congrArg run (default_issue h hg))),
      fun i h hg hi => hrun.trans (congrArg run (default_happen h hg hi)),
      fun hg hi => hrun.trans (congrArg run (default_none hg hi))⟩

end

section
namespace Sys2Proof.Machine
open Sys2Proof Sys2Proof.Claims

/-! ## Changes of a core -/

/-- A table in which a key takes the value that it has. -/
theorem tset_of_tget {α : Type} {l : List (Nat × α)} {k : Nat} {v : α} (h : tget l k = some v) : tset l k v = l := by
  induction l with
  | nil => cases h
  | cons e r ih =>
    obtain ⟨j, w⟩ := e
    simp only [tget] at h
    simp only [tset]
    split at h <;> rename_i hj
    · cases h; rw [if_pos hj, hj]
    · rw [if_neg hj, ih h]

/-- A core that holds a thread is listed, so that putting it back as it is changes nothing. -/
theorem State.modCore_id {s : State} {core slot : Nat} {t : Thread} (ht : s.thread? core slot = some t) : s.modCore core (fun c => c) = s := by
  unfold State.modCore State.setCore State.core
  cases h : tget s.cores core with
  | none =>
    rw [State.thread?, State.core, h] at ht
    cases ht
  | some c => rw [Option.getD_some, tset_of_tget h]

theorem tset_tset {α : Type} (l : List (Nat × α)) (k : Nat) (v w : α) : tset (tset l k v) k w = tset l k w := by
  induction l with
  | nil => simp only [tset, ↓reduceIte]
  | cons e r ih =>
    obtain ⟨j, u⟩ := e
    by_cases h : j = k
    · simp only [tset, h, ↓reduceIte]
    · simp only [tset, h, ↓reduceIte, ih]

/-- Two changes of a core in a row are one. -/
theorem State.modCore_modCore (s : State) (n : Nat) (f g : Core → Core) : (s.modCore n f).modCore n g = s.modCore n (fun c => g (f c)) := by
  unfold State.modCore
  rw [State.core_setCore_self]
  exact congrArg (fun cores => { s with cores := cores }) (tset_tset s.cores n _ _)

theorem State.core_modCore (s : State) (n m : Nat) (f : Core → Core) : (s.modCore n f).core m = if m = n then f (s.core m) else s.core m := by
  split <;> rename_i h
  · rw [h, State.core_modCore_self]
  · exact State.core_modCore_ne s f h

/-- A change of one core that every core's relation to what it was includes, as it includes no change. -/
theorem core_rel_modCore {R : Core → Core → Prop} (refl : ∀ k, R k k) {f : Core → Core} (hf : ∀ k, R k (f k)) (s : State) (n m : Nat) :
    R (s.core m) ((s.modCore n f).core m) := by
  rw [State.core_modCore]
  split
  · exact hf _
  · exact refl _

/-! ## Instructions with the hint HOLD (03 R72) -/

/-- The state with other contents of a core's operand latches. -/
def State.relatch (s : State) (core : Nat) (l : List (Nat × BitVec 8 × Nat)) : State := s.modCore core (fun c => { c with latch := l })

section
variable (s : State) (core : Nat) (l : List (Nat × BitVec 8 × Nat))

@[simp] theorem State.core_relatch_self : (s.relatch core l).core core = { s.core core with latch := l } := State.core_modCore_self s core _

theorem State.core_relatch (n : Nat) : (s.relatch core l).core n = { s.core n with latch := ((s.relatch core l).core n).latch } := by
  by_cases h : n = core
  · rw [h, State.core_relatch_self]
  · rw [State.relatch, State.core_modCore_ne s _ h]

@[simp] theorem State.thread?_relatch (n slot : Nat) : (s.relatch core l).thread? n slot = s.thread? n slot := by
  unfold State.thread?
  rw [State.core_relatch]
  rfl

@[simp] theorem State.src32_relatch (slot : Nat) (t : Thread) (lit : Option DWord) (code : BitVec 8) :
    (s.relatch core l).src32 core slot t lit code = s.src32 core slot t lit code := by
  unfold State.src32
  rw [State.core_relatch_self]
  rfl

@[simp] theorem State.src64_relatch (slot : Nat) (t : Thread) (lit : Option DWord) (code : BitVec 8) :
    (s.relatch core l).src64 core slot t lit code = s.src64 core slot t lit code := by
  unfold State.src64
  rw [State.core_relatch_self, State.src32_relatch]
  rfl

@[simp] theorem State.srcN_relatch (slot : Nat) (t : Thread) (lit : Option DWord) (code : BitVec 8) (n : Nat) :
    (s.relatch core l).srcN core slot t lit code n = s.srcN core slot t lit code n := by
  simp only [State.srcN, State.src32_relatch, State.src64_relatch]

@[simp] theorem State.address_relatch (slot : Nat) (t : Thread) (x : XOps) (off : Int) :
    (s.relatch core l).address core slot t x off = s.address core slot t x off := by
  simp only [State.address, State.src64_relatch]

end

theorem Solo.relatch {s : State} {core slot : Nat} {t : Thread} (h : Solo s core slot t) (l : List (Nat × BitVec 8 × Nat)) :
    Solo (s.relatch core l) core slot t where
  cur := h.cur
  thread := by rw [State.thread?_relatch]; exact h.thread
  crew := by rw [State.core_relatch_self]; exact h.crew

theorem MappedAll.relatch {s : State} {core slot : Nat} {codes : List (BitVec 8)} (h : MappedAll (s.core core) slot codes)
    (l : List (Nat × BitVec 8 × Nat)) : MappedAll ((s.relatch core l).core core) slot codes := by
  rw [State.core_relatch_self]
  exact h

theorem Handled.relatch {s : State} {t : Thread} (h : Handled s t) (core : Nat) (l : List (Nat × BitVec 8 × Nat)) :
    Handled (s.relatch core l) t := h

/-- A core with a thread has the operand latches that it has. -/
theorem State.relatch_self {s : State} {core slot : Nat} {t : Thread} (ht : s.thread? core slot = some t) :
    s.relatch core (s.core core).latch = s := State.modCore_id ht

/-- A relation of a state and a later one that does not see a core's operand latches, but that it may ask for no new entry of a thread other than the
one in a slot. -/
def LatchBlind (core slot : Nat) (P : State → State → Prop) : Prop :=
  ∀ s s' a b, (∀ e ∈ a, e.1 ≠ slot → e ∈ (s.core core).latch) → (∀ e ∈ b, e.1 ≠ slot → e ∈ (s'.core core).latch) →
    P (s.relatch core a) s' → P s (s'.relatch core b)

section
variable {core slot : Nat}

theorem LatchBlind.and {P Q : State → State → Prop} (p : LatchBlind core slot P) (q : LatchBlind core slot Q) :
    LatchBlind core slot (fun s s' => P s s' ∧ Q s s') :=
  fun s s' a b ha hb h => ⟨p s s' a b ha hb h.1, q s s' a b ha hb h.2⟩

/-- What is said of the core and is no matter of its latches. -/
theorem LatchBlind.of_core {R : Core → Core → Prop} (h : ∀ c c' a b, R { c with latch := a } c' → R c { c' with latch := b }) :
    LatchBlind core slot (fun s s' => R (s.core core) (s'.core core)) := by
  intro s s' a b _ _ r
  rw [State.core_relatch_self] at r ⊢
  exact h _ _ _ _ r

theorem LatchBlind.onlyCore : LatchBlind core slot (OnlyCore core) :=
  fun s s' _ _ _ _ h => ((OnlyCore.modCore core s _).trans h).trans (OnlyCore.modCore core s' _)

theorem LatchBlind.onlyThread : LatchBlind core slot (fun s s' => OnlyThread slot (s.core core) (s'.core core)) := by
  intro s s' a b ha hb h
  rw [State.core_relatch_self] at h ⊢
  exact ((OnlyThread.latched slot _ a ha).trans h).trans (OnlyThread.latched slot _ b hb)

theorem LatchBlind.othersThinned : LatchBlind core slot (fun s s' => OthersThinned slot (s.core core) (s'.core core)) := by
  intro s s' a b ha hb h
  rw [State.core_relatch_self] at h ⊢
  exact ((OthersThinned.of_only (OnlyThread.latched slot _ a ha)).trans h).trans (OthersThinned.of_only (OnlyThread.latched slot _ b hb))

theorem LatchBlind.storesSame : LatchBlind core slot StoresSame := by
  intro s s' a b _ _ h m
  have k := h m
  rw [State.core_relatch] at k ⊢
  exact k

theorem LatchBlind.thread (p : Thread → Prop) : LatchBlind core slot (fun _ s' => ∃ t', s'.thread? core slot = some t' ∧ p t') := by
  intro s s' a b _ _ h
  rw [State.thread?_relatch]
  exact h

theorem LatchBlind.went (t : Thread) (len : Nat) : LatchBlind core slot (fun s s' => Went s s' core slot t len) :=
  LatchBlind.and (LatchBlind.thread _) LatchBlind.onlyThread

theorem LatchBlind.wentBy (t : Thread) (len : Nat) : LatchBlind core slot (fun s s' => WentBy s s' core slot t len) :=
  LatchBlind.and (LatchBlind.thread _) LatchBlind.othersThinned

theorem LatchBlind.regFrame : LatchBlind core slot (fun s s' => RegFrame (s.core core) (s'.core core)) :=
  LatchBlind.of_core (fun c c' a b h => ((RegFrame.latch c a).trans h).trans (RegFrame.latch c' b))

theorem LatchBlind.wrote (ws : List (BitVec 8 × Word)) : LatchBlind core slot (fun s s' => Wrote (s.core core) (s'.core core) slot ws) :=
  LatchBlind.of_core (R := fun c c' => Wrote c c' slot ws) (fun c c' a b h =>
    Wrote.before (c'' := { c' with latch := b }) (Wrote.after (c := c) (c' := { c with latch := a }) rfl rfl h) rfl rfl)

theorem LatchBlind.result (u : Thread) (ws : List (BitVec 8 × Word)) : LatchBlind core slot (fun s s' => Result s s' core slot u ws) :=
  fun _ _ a b ha hb r => Result.between (fun _ => a) (fun _ => b) ha hb r

theorem LatchBlind.trapped (u : Thread) (cause : Nat) (epc : DWord) :
    LatchBlind core slot (fun s s' => Trapped s s' core slot u cause epc) :=
  fun s s' a b ha hb r =>
    { device := LatchBlind.onlyCore s s' a b ha hb r.device
      frame := LatchBlind.regFrame s s' a b ha hb r.frame
      threads := LatchBlind.onlyThread s s' a b ha hb r.threads
      regs := LatchBlind.wrote [] s s' a b ha hb r.regs
      thread := LatchBlind.thread _ s s' a b ha hb r.thread }

theorem Core.latched_eq (c : Core) (slot : Nat) : c.latched slot = { c with latch := (c.latched slot).latch } := by
  unfold Core.latched
  split <;> rfl

theorem Core.mem_latched {c : Core} {e : Nat × BitVec 8 × Nat} (he : e ∈ (c.latched slot).latch) : e ∈ c.latch := by
  unfold Core.latched at he
  split at he
  · exact he
  · exact (List.mem_filter.1 he).1

theorem Core.mem_latching {c : Core} {code : BitVec 8} {e : Nat × BitVec 8 × Nat} (he : e ∈ (c.latching slot code).latch) (n : e.1 ≠ slot) :
    e ∈ c.latch := by
  unfold Core.latching at he
  rcases List.mem_cons.1 he with rfl | he
  · exact absurd rfl n
  · exact (List.mem_filter.1 (List.mem_filter.1 he).1).1

/-- The hint HOLD changes the operand latches alone: what an instruction does whatever they hold, it does with the hint too. -/
theorem State.holding_of_blind {P : State → State → Prop} (blind : LatchBlind core slot P) {s : State} {t : Thread} (h : Solo s core slot t)
    {x : XOps} (on : t.guard x.g = true) {f : State → State} (acts : ∀ l, P (s.relatch core l) (f (s.relatch core l))) :
    P s (s.holding x f) := by
  obtain ⟨lid, pc, hc⟩ := h.cur
  have plain : P s (f s) := by
    have k := acts (s.core core).latch
    rwa [State.relatch_self h.thread] at k
  unfold State.holding
  split
  · exact plain
  · simp only [hc, List.filter_cons, h.thread, Option.map_some, Option.getD_some, on, ↓reduceIte, List.filter_nil, List.foldl_cons,
      List.foldl_nil]
    have into : s.modCore core (·.latching slot (heldCode x)) = s.relatch core ((s.core core).latching slot (heldCode x)).latch := rfl
    have out (z : State) : z.modCore core (·.latched slot) = z.relatch core ((z.core core).latched slot).latch :=
      congrArg (z.setCore core ·) (Core.latched_eq _ slot)
    rw [into, out]
    exact blind _ _ _ _ (fun e => Core.mem_latching) (fun e he _ => Core.mem_latched he) (acts _)

/-! ## Completion of an instruction of one thread -/

variable {s : State} {t : Thread} {i : Instr} {x : XOps} {P : State → State → Prop} {len : Nat}

/-- An instruction whose threads act in sequence. -/
theorem completes_of_seq {g : Guard} {f : State → Nat → Nat → Thread → State} {P : State → Prop} (h : Solo s core slot t)
    (on : t.guard g = true) (e : exec i s = done (s.runSeq len g f)) (acts : P (f s core slot t)) : Completes i s P := by
  refine ⟨_, e, ?_⟩
  rw [State.runSeq_solo h, if_pos on]
  exact acts

/-- The same with the hint HOLD. -/
theorem completes_of_heldSeq {f : State → State → Nat → Nat → Thread → State} (blind : LatchBlind core slot P) (h : Solo s core slot t)
    (on : t.guard x.g = true) (e : exec i s = done (s.holding x (fun s => s.runSeq len x.g (f s))))
    (acts : ∀ l, P (s.relatch core l) (f (s.relatch core l) (s.relatch core l) core slot t)) : Completes i s (P s) := by
  refine ⟨_, e, State.holding_of_blind blind h on (fun l => ?_)⟩
  rw [State.runSeq_solo (h.relatch l), if_pos on]
  exact acts l

/-- An instruction whose threads act at once, with the hint HOLD. -/
theorem completes_of_heldGroup {f : State → Nat → Nat → Thread → Except Stop (List Write)} (blind : LatchBlind core slot P)
    (h : Solo s core slot t) (on : t.guard x.g = true) (e : exec i s = done (s.holding x (·.runGroup len x.g f)))
    (acts : ∀ l, P (s.relatch core l) ((s.relatch core l).commit core len slot (f (s.relatch core l) core slot t))) :
    Completes i s (P s) := by
  refine ⟨_, e, State.holding_of_blind blind h on (fun l => ?_)⟩
  rw [State.runGroup_solo (h.relatch l), if_pos on]
  exact acts l

end

/-! ## What a thread's instruction does to its own thread -/

/-- A change of the thread behind a Result. -/
theorem Result.thenThread {s s' : State} {core slot : Nat} {u : Thread} {ws : List (BitVec 8 × Word)} (r : Result s s' core slot u ws)
    (f : Thread → Thread) (hf : ∀ t', Near u t' → Near (f u) (f t')) : Result s (s'.modThread core slot f) core slot (f u) ws where
  device := r.device.trans (OnlyCore.modCore core s' _)
  frame := by
    rw [State.core_modThread_self]
    exact r.frame.trans (RegFrame.modThread _ slot f)
  threads := by
    rw [State.core_modThread_self]
    exact r.threads.trans (OthersThinned.of_only (OnlyThread.modThread _ slot f))
  own := fun o => by
    rw [State.core_modThread_self]
    exact (r.own o).trans (OnlyThread.modThread _ slot f)
  regs := by
    rw [State.core_modThread_self]
    exact r.regs.before (Core.modThread_store _ slot f) (Core.modThread_crews _ slot f)
  thread := by
    obtain ⟨t', ht, n⟩ := r.thread
    exact ⟨f t', by rw [State.thread?_modThread_self, ht]; rfl, hf t' n⟩

/-- Parking changes the thread alone. -/
theorem State.stop_park {s : State} {core slot : Nat} {t : Thread} (ht : s.thread? core slot = some t) (p : Park) :
    s.stop core slot (.park p) = s.modThread core slot (fun t => { t with park := some p }) := by
  simp only [State.stop, ht]

/-- A trap without a fault, taken by a thread that has a handler. -/
theorem Trapped.of_stop {s : State} {core slot : Nat} {t : Thread} (ht : s.thread? core slot = some t) (h : Handled s t) (cause : Nat) :
    Trapped s (s.stop core slot (.trap cause none)) core slot t cause t.pc := by
  rw [State.stop_trap_of_handled ht h]
  exact Trapped.enter ht cause t.pc

end Sys2Proof.Machine
end

section
namespace Sys2Proof.Machine
open Sys2Proof Sys2Proof.Claims

/-! ## PLOP (22 R437) -/

theorem predFn_eq_logic : ∀ (f : BitVec 3) (a b : Bool), predFn f a b = logic f a b := by decide

/-- A predicate write, as the statements say it (04 R99). -/
theorem predIs_setPred (t : Thread) (n : BitVec 3) (b : Bool) : PredIs t (t.setPred n b) n b := by
  refine ⟨t.setPred_eq n b, fun m => ?_⟩
  by_cases h : n = 7
  · rw [h, Thread.setPred_seven, if_neg (fun z => z.2 rfl)]
  · rw [Thread.pred_setPred t n m b h]
    simp only [h, not_false_eq_true, and_true, ne_eq]

/-- PLOP of a thread writes its predicate. -/
theorem plop_writes {s : State} {core slot : Nat} {t : Thread} (h : Solo s core slot t) (x : XOps) (len : Nat) :
    Result s (s.commit core len slot (plopOf x s core slot t)) core slot ((t.past len).setPred (x.d.extractLsb' 0 3)
      (logic (x.a.extractLsb' 3 3) (t.pred (x.a.extractLsb' 0 3)) (t.pred (x.b.extractLsb' 0 3)))) [] := by
  rw [← predFn_eq_logic]
  exact Result.one h.thread len (.pred _ _) nofun h.crew

end Sys2Proof.Machine

open Sys2Proof.Machine Sys2Proof.Claims

/-- Settles O7: a PLOP makes one predicate write, and a predicate write is what 04 R99 says. -/
theorem predicateLogicResult : Obligations.PredicateLogicResult := by
  unfold Obligations.PredicateLogicResult
  refine ⟨Thread.pred_seven, fun i x len hi s core slot t h on => ?_⟩
  have acts (l) := plop_writes (h.relatch l) x len
  have writes : Completes i s (fun s' => Result s s' core slot ((t.past len).setPred (x.d.extractLsb' 0 3)
      (logic (x.a.extractLsb' 3 3) (t.pred (x.a.extractLsb' 0 3)) (t.pred (x.b.extractLsb' 0 3)))) []) := by
    cases i with
    | plop o | plopX o => cases hi; exact completes_of_heldGroup (LatchBlind.result _ _) h on rfl acts
    | _ => cases hi
  obtain ⟨s', e, r⟩ := writes
  exact ⟨s', e, _, predIs_setPred _ _ _, r⟩

end

section
namespace Sys2Proof.Machine
open Sys2Proof Sys2Proof.Claims

/-! ## Calls and returns (04 R110, R111, 06 R148) -/

section
variable {s : State} {core slot : Nat} {t : Thread} {p ra : DWord} {len : Nat} {target : State → Nat → Nat → Thread → Except Stop DWord}

/-- A call that the stack limit leaves room for, with room in the stack cache. -/
theorem callOne_pushes (h : Solo s core slot t) (ht : target s core slot t = .ok p) (limit : 8 * (t.depth + 1) ≤ t.stacklim.toNat)
    (room : t.cache.length < 8) : Result s (callOne len target s core slot t) core slot
      { t with pc := p, depth := t.depth + 1, cache := (t.pc + BitVec.ofNat 64 len) :: t.cache } [] := by
  have push : s.push core slot t (t.pc + BitVec.ofNat 64 len) = .ok (fun s => s.modThread core slot (fun u =>
      { u with depth := u.depth + 1, cache := ((t.pc + BitVec.ofNat 64 len) :: u.cache).take 8 })) := by
    rw [State.push, if_neg (Nat.not_lt.2 limit), if_pos room]
  have whole : ((t.pc + BitVec.ofNat 64 len) :: t.cache).take 8 = (t.pc + BitVec.ofNat 64 len) :: t.cache :=
    List.take_of_length_le room
  have r := ((Result.none h.thread len).thenThread (fun u =>
    { u with depth := u.depth + 1, cache := ((t.pc + BitVec.ofNat 64 len) :: u.cache).take 8 }) (fun _ n => by rw [n]; rfl)).thenThread
    (fun u => { u with pc := p }) (fun _ n => by rw [n]; rfl)
  simp only [Thread.past, whole] at r
  unfold callOne
  rw [ht]
  simp only [bind, Except.bind, push, State.finish]
  exact r

/-- A call that would push beyond the stack limit. -/
theorem callOne_over (h : Solo s core slot t) (hd : Handled s t) (ht : target s core slot t = .ok p)
    (limit : t.stacklim.toNat < 8 * (t.depth + 1)) : Trapped s (callOne len target s core slot t) core slot t 0x0A t.pc := by
  have push : s.push core slot t (t.pc + BitVec.ofNat 64 len) = .error (.trap causeStackLimit none) := by
    rw [State.push, if_pos limit]
    rfl
  unfold callOne
  rw [ht]
  simp only [bind, Except.bind, push, State.finish]
  exact Trapped.of_stop h.thread hd _

/-- A return whose address the stack cache holds. -/
theorem retOne_pops (h : Solo s core slot t) {rest : List DWord} (deep : 0 < t.depth) (hc : t.cache = ra :: rest) :
    Result s (retOne len s core slot t) core slot { t with pc := ra, depth := t.depth - 1, cache := rest } [] := by
  have pop : s.pop core t = .ok s ra := by rw [State.pop, if_neg (Nat.ne_of_gt deep), hc]
  have below : t.cache.drop 1 = rest := by rw [hc, List.drop_one, List.tail_cons]
  have r := (Result.none h.thread len).thenThread (fun u => { u with pc := ra, depth := u.depth - 1, cache := u.cache.drop 1 })
    (fun _ n => by rw [n]; rfl)
  simp only [Thread.past, below] at r
  rw [retOne, pop]
  exact r

/-- A return with an empty call stack. -/
theorem retOne_empty (h : Solo s core slot t) (hd : Handled s t) (empty : t.depth = 0) :
    Trapped s (retOne len s core slot t) core slot t 0x0A t.pc := by
  have pop : s.pop core t = .stop s (.trap causeStackLimit none) := by rw [State.pop, if_pos empty]
  rw [retOne, pop]
  exact Trapped.of_stop h.thread hd _

/-- The target of a CALLX whose pair can be read and is aligned (06 R149). -/
theorem pairTarget_ok {x : XOps} (m : MappedAll (s.core core) slot [x.a, x.a + 1]) (hp : s.src64 core slot t none x.a = .ok p)
    (aligned : p.extractLsb' 0 2 = 0) : pairTarget x s core slot t = .ok p := by
  have pair : MappedAll (s.core core) slot (pairOf x.a) := by
    intro d hd
    unfold pairOf at hd
    split at hd
    · exact m d hd
    · exact m d (by rw [List.mem_singleton.1 hd]; exact List.mem_cons_self)
  simp only [pairTarget, Core.checkMapped_ok pair, hp, aligned, bind, Except.bind, need, beq_self_eq_true, ↓reduceIte]

/-- What a call does to a state where its target can be read, whatever the operand latches hold, the instruction completes with. -/
theorem calls_act {i : Instr} {g : Guard} (hi : calls s core slot t i = some (g, len, p)) (h : Solo s core slot t) (on : t.guard g = true)
    (m : MappedAll (s.core core) slot (callCodes i)) {P : State → State → Prop} (blind : LatchBlind core slot P)
    (acts : ∀ l target, target (s.relatch core l) core slot t = .ok p →
      P (s.relatch core l) (callOne len target (s.relatch core l) core slot t)) :
    Completes i s (P s) := by
  have rel (off : Int) (ht : t.pc + BitVec.ofInt 64 off = p) : P s (callOne len (relTarget off) s core slot t) := by
    have k := acts (s.core core).latch (relTarget off) (congrArg Except.ok ht)
    rwa [State.relatch_self h.thread] at k
  have pair (x : XOps) (mx : MappedAll (s.core core) slot [x.a, x.a + 1]) (hx : s.src64 core slot t none x.a = .ok p)
      (aligned : p.extractLsb' 0 2 = 0) (l : List (Nat × BitVec 8 × Nat)) :
      P (s.relatch core l) (callOne len (pairTarget x) (s.relatch core l) core slot t) :=
    acts l _ (pairTarget_ok (mx.relatch l) (by rw [State.src64_relatch]; exact hx) aligned)
  cases i with
  | call o => cases hi; exact completes_of_seq h on rfl (rel _ rfl)
  | callX x => cases hi; exact completes_of_seq h on rfl (rel _ rfl)
  | callx o =>
    simp only [calls] at hi
    split at hi <;> rename_i hp
    · split at hi <;> rename_i aligned
      · cases hi
        exact completes_of_heldSeq (x := o.toX) blind h on rfl (pair o.toX m hp aligned)
      · cases hi
    · cases hi
  | callxX x =>
    simp only [calls] at hi
    split at hi <;> rename_i hp
    · split at hi <;> rename_i aligned
      · cases hi
        exact completes_of_heldSeq blind h on rfl (pair x m hp aligned)
      · cases hi
    · cases hi
  | _ => cases hi

/-- RET runs its threads in sequence. -/
theorem returns_act {i : Instr} {g : Guard} (hi : returns i = some (g, len)) (h : Solo s core slot t) (on : t.guard g = true)
    {P : State → Prop} (acts : P (retOne len s core slot t)) : Completes i s P := by
  cases i with
  | ret o | retX o => cases hi; exact completes_of_seq h on rfl acts
  | _ => cases hi

end

end Sys2Proof.Machine

open Sys2Proof.Machine Sys2Proof.Claims

/-- Settles O14: calls and returns by whether the stack limit and the stack cache leave room, and what the cache holds. -/
theorem callReturnResult : Obligations.CallReturnResult := by
  unfold Obligations.CallReturnResult
  refine ⟨fun i s core slot t g len p hi h on m => ⟨fun limit room => ?push, fun limit hd => ?limit⟩,
    fun i g len hi s core slot t h on => ⟨fun ra rest deep hc => ?pop, fun empty hd => ?empty⟩⟩
  case push => exact calls_act hi h on m (LatchBlind.result _ _) (fun l _ ht => callOne_pushes (h.relatch l) ht limit room)
  case limit => exact calls_act hi h on m (LatchBlind.trapped _ _ _) (fun l _ ht => callOne_over (h.relatch l) (hd.relatch core l) ht limit)
  case pop => exact returns_act hi h on (retOne_pops h deep hc)
  case empty => exact returns_act hi h on (retOne_empty h hd empty)

end

section
namespace Sys2Proof.Machine
open Sys2Proof Sys2Proof.Claims

/-! ## System registers (04 R113 to R115), BOUND (14 R294) and MCLS (15 R313) -/

/-- The two ways of counting a block's index down to the levels above 2 agree (02 R34). -/
theorem lvid_eq_unitIndex (t : Thread) (r : LaunchRec) (i : Nat) : t.lvid r i = unitIndex r t i := by
  have levels : i + 1 - 3 = i - 2 := by omega
  simp only [Thread.lvid, unitIndex, List.drop_take, levels]

/-- A choice that came to a value, by which of its two sides it took. -/
theorem of_ite_eq_some {α : Type} {c p : Prop} [Decidable c] {a b : Option α} {w : α} (h : (if c then a else b) = some w)
    (yes : c → a = some w → p) (no : b = some w → p) : p := by
  split at h
  · exact yes ‹c› h
  · exact no h

/-- What GETS reads is what the table of 04 R113 says. -/
theorem sysReg_of_sysValue {s : State} {core slot : Nat} {t : Thread} {n : Nat} {w : Word} (h : sysValue s core slot t n = some w) :
    s.sysReg core slot t n = w := by
  -- The table is walked entry by entry; between its single registers lie the ranges of the levels and, at its end, of the map.
  have entry {v : Word} {k : Nat} (e : n = k) (hv : s.sysReg core slot t k = v) (h : some v = some w) : s.sysReg core slot t n = w :=
    e ▸ hv.trans (Option.some.inj h)
  unfold sysValue at h
  dsimp only at h
  iterate 9 refine of_ite_eq_some h (fun e => entry e rfl) (fun h' => ?_); clear h; rename' h' => h
  refine of_ite_eq_some h (fun ⟨lo, hi⟩ h => ?_) (fun h => of_ite_eq_some h (fun ⟨lo, hi⟩ h => ?_) (fun h => ?_))
  · unfold State.sysReg
    rw [if_pos ⟨lo, Nat.lt_succ_of_le hi⟩, lvid_eq_unitIndex]
    exact Option.some.inj h
  · unfold State.sysReg
    rw [if_neg (by omega), if_pos ⟨lo, Nat.lt_succ_of_le hi⟩]
    exact Option.some.inj h
  iterate 18 refine of_ite_eq_some h (fun e => entry e rfl) (fun h' => ?_); clear h; rename' h' => h
  refine of_ite_eq_some h (fun ⟨lo, hi⟩ h => ?_) nofun
  unfold State.sysReg
  rw [if_neg (by omega), if_neg (by omega), if_pos lo]
  show (match mapEntry s core slot (n - 0x80) with
    | some p => BitVec.ofNat 32 p
    | none => 0xFFFFFFFF) = w
  revert h
  cases mapEntry s core slot (n - 0x80) <;> exact Option.some.inj

section
variable {s : State} {core slot : Nat} {t : Thread} {x : XOps}

theorem sysHandler_iff (n : Nat) : sysHandler n = true ↔ handlerOnly n := by
  simp only [sysHandler, handlerOnly, Bool.or_eq_true, Bool.and_eq_true, decide_eq_true_eq, beq_iff_eq]

/-- SETS of a thread that may write the register it names. -/
theorem setsOne_writes {w : Word} (hw : s.src32 core slot t x.lit x.a = .ok w) (may : handlerOnly (sysNum x) → t.mode = .handler) :
    setsOne x s core slot t = (if 0x30 ≤ sysNum x ∧ sysNum x ≤ 0x33 then
      (s.modCore core (·.advance slot x.len)).modCore core
        (fun c => c.setBp (s.ctxOf t) ((c.bpRegs (s.ctxOf t)).set (sysNum x) w))
      else (s.modCore core (·.advance slot x.len)).modThread core slot (·.setSys (sysNum x) w)) := by
  have ok : (!(sysHandler (sysNum x) && t.mode == .user)) = true := by
    cases hs : sysHandler (sysNum x) with
    | false => rfl
    | true => rw [may ((sysHandler_iff _).1 hs)]; rfl
  simp only [setsOne, ok, hw, need, ↓reduceIte, bind, Except.bind, State.finish]
  rfl

/-- SETS of a register of handler mode by a thread in user mode. -/
theorem setsOne_denied (h : Solo s core slot t) (only : handlerOnly (sysNum x)) (hd : Handled s t) :
    Trapped s (setsOne x s core slot t) core slot t 0x13 t.pc := by
  have denied : (!(sysHandler (sysNum x) && t.mode == .user)) = false := by
    rw [(sysHandler_iff _).2 only, hd.1]
    rfl
  simp only [setsOne, denied, need, Bool.false_eq_true, ↓reduceIte, bind, Except.bind, trap, State.finish]
  exact Trapped.of_stop h.thread hd _

/-- The registers that SETS writes in the thread are none of its context's, and the model writes them as the table says. -/
theorem setSys_of_sysWritten {n : Nat} {w : Word} {u : Thread} (h : sysWritten t n w = some u) :
    ¬(0x30 ≤ n ∧ n ≤ 0x33) ∧ t.setSys n w = u := by
  have entry {v : Thread} {k : Nat} (e : n = k) (out : ¬(0x30 ≤ k ∧ k ≤ 0x33)) (hv : t.setSys k w = v) (h : some v = some u) :
      ¬(0x30 ≤ n ∧ n ≤ 0x33) ∧ t.setSys n w = u := e ▸ ⟨out, hv.trans (Option.some.inj h)⟩
  unfold sysWritten at h
  iterate 10 refine of_ite_eq_some h (fun e => entry e (by decide) rfl) (fun h' => ?_); clear h; rename' h' => h
  cases h

/-- A write of a register of the thread's own leaves its wait and its marks of aborted loads. -/
theorem Near.setSys {u t' : Thread} (h : Near u t') (n : Nat) (w : Word) : Near (u.setSys n w) (t'.setSys n w) := by
  unfold Near at h ⊢
  rw [h]
  unfold Thread.setSys
  split <;> rfl

theorem Core.bpRegs_setBp (c : Core) (ctx : Nat) (r : BpRegs) : (c.setBp ctx r).bpRegs ctx = r := by
  simp only [Core.bpRegs, Core.setBp, tget_tset_self, Option.getD_some]

/-- Which register of a context a SETS writes (04 R115). -/
theorem BpRegs.set_eq (r : BpRegs) {n : Nat} (w : Word) (lo : 0x30 ≤ n) (hi : n ≤ 0x33) : r.set n w =
    { count := if n = 0x30 then w else r.count, head := if n = 0x31 then w &&& 0x7FF else r.head
      base := if n = 0x32 then w else r.base, lost := if n = 0x33 then w else r.lost } := by
  interval_cases n <;> rfl

/-- GETS of a register, with the latch of `s.cyclehi` (04 R113). -/
theorem gets_reads (h : Solo s core slot t) {w : Word} (m : MappedAll (s.core core) slot [x.d]) (hw : sysValue s core slot t (sysNum x) = some w) :
    Result s (s.commit core x.len slot (getsOf x s core slot t)) core slot
      (if sysNum x = 8 then { t.past x.len with cyclehi := (s.cycle core).extractLsb' 32 32 } else t.past x.len) [(x.d, w)] := by
  have mapped : ∀ d v, Write.reg x.d w = .reg d v → d.toNat < 0xE0 → ((s.core core).vOff slot d.toNat).isSome := by
    intro d v e
    cases e
    exact m x.d List.mem_cons_self
  have one := Result.one h.thread x.len (.reg x.d w) mapped h.crew
  simp only [getsOf, Core.checkMapped_ok m, sysReg_of_sysValue hw, bind, Except.bind, State.commit]
  by_cases cycle : sysNum x = 8
  · rw [if_pos cycle, if_pos cycle]
    have two := one.thenThread (fun u => { u with cyclehi := (s.cycle core).extractLsb' 32 32 }) (fun _ n => by rw [n]; rfl)
    rw [State.modThread, State.modCore_modCore] at two
    exact two
  · rw [if_neg cycle, if_neg cycle]
    exact one

/-- A thread that goes past its instruction, in which its core changes besides, but for its store and its threads, and takes nothing into its
latches. -/
theorem went_and (h : Solo s core slot t) (len : Nat) (g : Core → Core) (store : ∀ c, (g c).store = c.store)
    (threads : ∀ c, (g c).threads = c.threads) (latch : ∀ c, ∀ e ∈ (g c).latch, e ∈ c.latch) :
    OnlyCore core s ((s.modCore core (·.advance slot len)).modCore core g) ∧
      StoresSame s ((s.modCore core (·.advance slot len)).modCore core g) ∧
      Went s ((s.modCore core (·.advance slot len)).modCore core g) core slot t len := by
  rw [State.modCore_modCore]
  refine ⟨OnlyCore.modCore core s _, fun m => ?_, ⟨{ t.past len with park := none }, ?_, rfl⟩, ?_⟩
  · by_cases hm : m = core
    · rw [hm, State.core_modCore_self, store, Core.advance_store]
    · rw [State.core_modCore_ne s _ hm]
  · have ht : (s.core core).thread? slot = some t := h.thread
    rw [State.thread?, State.core_modCore_self, Core.thread?_congr (threads _), Core.thread?_advance, if_pos rfl, ht]
    rfl
  · rw [State.core_modCore_self]
    exact (OnlyThread.advance _ slot len).trans
      ⟨fun o _ => Core.thread?_congr (threads _) o, fun e he _ => latch _ e he⟩

/-- A resident block found after one is changed in what it is not found by. -/
theorem Core.block?_modBlock (c : Core) (lid index l i : Nat) {f : Block → Block} (hf : ∀ b, (f b).lid = b.lid ∧ (f b).index = b.index) :
    (c.modBlock lid index f).block? l i = (c.block? l i).map (fun b => if b.lid = lid ∧ b.index = index then f b else b) := by
  unfold Core.block? Core.modBlock
  rw [List.find?_map]
  congr 2
  funext b
  simp only [Function.comp_apply]
  split
  · rw [(hf b).1, (hf b).2]
  · rfl

/-- What a core says of one of its blocks, of the others and of its crews, after that one has changed. -/
theorem blockIs_modBlock {c c' : Core} {lid index : Nat} {b : Block} {f : Block → Block} (hb : c.block? lid index = some b)
    (hf : ∀ b, (f b).lid = b.lid ∧ (f b).index = b.index) (blocks : c'.blocks = c.blocks) (crews : c'.crews = c.crews) :
    BlockIs c (c'.modBlock lid index f) lid index (f b) := by
  have found (l i : Nat) : c'.block? l i = c.block? l i := by simp only [Core.block?, blocks]
  have named {l i : Nat} {k : Block} (hk : c.block? l i = some k) : k.lid = l ∧ k.index = i := by
    simpa only [Bool.and_eq_true, beq_iff_eq] using List.find?_some hk
  refine ⟨?_, fun l i ne => ?_, crews⟩
  · rw [Core.block?_modBlock _ _ _ _ _ hf, found, hb, Option.map_some, if_pos (named hb)]
  · rw [Core.block?_modBlock _ _ _ _ _ hf, found]
    cases hk : c.block? l i with
    | none => rfl
    | some k =>
      obtain ⟨kl, ki⟩ := named hk
      rw [Option.map_some, if_neg (fun z => ne (by rw [← kl, ← ki, z.1, z.2]))]

/-- BOUND of a thread with a bound in order. -/
theorem boundOne_sets {lo hi : Word} (m : MappedAll (s.core core) slot [x.a, x.b]) (hlo : s.src32 core slot t x.lit x.a = .ok lo)
    (hhi : s.src32 core slot t x.lit x.b = .ok hi)
    (ok : (!fp32.isNan lo.toNat && !fp32.isNan hi.toNat && !fp32.lt hi.toNat lo.toNat) = true) :
    boundOne x s core slot t = (s.modCore core (·.advance slot x.len)).modCore core (·.modBlock t.lid t.block (fun b =>
      { b with bounds := tset b.bounds (x.imm.extractLsb' 0 6).toNat { act := x.imm.extractLsb' 8 2, hi := hi, lo := lo } })) := by
  simp only [boundOne, boundOf, Core.checkMapped_ok m, hlo, hhi, ok, need, ↓reduceIte, bind, Except.bind, State.finish]

/-- BOUND of a thread with a NaN or a bound out of order. -/
theorem boundOne_denied (h : Solo s core slot t) (hd : Handled s t) {lo hi : Word} (m : MappedAll (s.core core) slot [x.a, x.b])
    (hlo : s.src32 core slot t x.lit x.a = .ok lo) (hhi : s.src32 core slot t x.lit x.b = .ok hi)
    (bad : (!fp32.isNan lo.toNat && !fp32.isNan hi.toNat && !fp32.lt hi.toNat lo.toNat) = false) :
    Trapped s (boundOne x s core slot t) core slot t 0x02 t.pc := by
  simp only [boundOne, boundOf, Core.checkMapped_ok m, hlo, hhi, bad, need, Bool.false_eq_true, ↓reduceIte, bind, Except.bind, trap, State.finish]
  exact Trapped.of_stop h.thread hd _

theorem LatchBlind.blockIs (lid index : Nat) (b : Block) :
    LatchBlind core slot (fun s s' => BlockIs (s.core core) (s'.core core) lid index b) :=
  LatchBlind.of_core (R := fun c c' => BlockIs c c' lid index b) (fun _ _ _ _ h => h)

end

end Sys2Proof.Machine
open Sys2Proof.Machine Sys2Proof.Claims

/-- Settles O41: each of the four instructions by what it reads, and SETS by whose register it names. -/
theorem systemRegisterResult : Obligations.SystemRegisterResult := by
  unfold Obligations.SystemRegisterResult
  intro x s core slot t h on n
  have num : n = sysNum x := rfl
  clear_value n
  subst num
  refine ⟨fun w m hw => ?gets, fun w u hw may hu => ?own, fun w hw lo hi => ?context, fun only hd => ?denied, fun b hb =>
    ⟨fun lo hi m hlo hhi => ⟨fun ok => ?bound, fun bad hd => ?unordered⟩, ?mcls⟩⟩
  case gets =>
    refine ⟨_, rfl, ?_⟩
    rw [State.runGroup_solo h, if_pos on]
    exact gets_reads h m hw
  case own =>
    refine completes_of_seq h on rfl ?_
    obtain ⟨outside, written⟩ := setSys_of_sysWritten hu
    rw [setsOne_writes hw may, if_neg outside, ← written]
    exact (Result.none h.thread x.len).thenThread _ (fun _ n => n.setSys _ w)
  case context =>
    refine completes_of_seq h on rfl ?_
    rw [setsOne_writes hw (fun only => ?_), if_pos ⟨lo, hi⟩]
    · obtain ⟨device, stores, went⟩ := went_and h x.len (fun c => c.setBp (s.ctxOf t) ((c.bpRegs (s.ctxOf t)).set (sysNum x) w))
        (fun _ => rfl) (fun _ => rfl) (fun _ _ he => he)
      refine ⟨device, stores, went, ?_⟩
      rw [State.core_modCore_self, State.core_modCore_self, Core.bpRegs_setBp, BpRegs.set_eq _ w lo hi]
      simp only [Core.bpRegs, Core.advance_bp]
    · unfold handlerOnly at only
      omega
  case denied => exact completes_of_seq h on rfl (setsOne_denied h only hd)
  case bound =>
    refine completes_of_heldSeq (LatchBlind.onlyCore.and (LatchBlind.storesSame.and ((LatchBlind.went t x.len).and (LatchBlind.blockIs _ _ _))))
      h on rfl (fun l => ?_)
    rw [boundOne_sets (m.relatch l) (by rwa [State.src32_relatch]) (by rwa [State.src32_relatch]) ok]
    obtain ⟨device, stores, went⟩ := went_and (h.relatch l) x.len (·.modBlock t.lid t.block (fun b =>
      { b with bounds := tset b.bounds (x.imm.extractLsb' 0 6).toNat { act := x.imm.extractLsb' 8 2, hi := hi, lo := lo } }))
      (fun _ => rfl) (fun _ => rfl) (fun _ _ he => he)
    refine ⟨device, stores, went, ?_⟩
    rw [State.core_modCore_self, State.core_modCore_self, State.core_relatch_self]
    exact blockIs_modBlock hb (fun _ => ⟨rfl, rfl⟩) (Core.advance_blocks _ _ _) (Core.advance_crews _ _ _)
  case unordered =>
    exact completes_of_heldSeq (LatchBlind.trapped _ _ _) h on rfl (fun l => boundOne_denied (h.relatch l) (hd.relatch core l) (m.relatch l)
      (by rwa [State.src32_relatch]) (by rwa [State.src32_relatch]) bad)
  case mcls =>
    refine completes_of_seq h on rfl ?_
    obtain ⟨device, stores, went⟩ := went_and h x.len (·.modBlock t.lid t.block (fun b => { b with cls := x.imm.extractLsb' 0 2 }))
      (fun _ => rfl) (fun _ => rfl) (fun _ _ he => he)
    refine ⟨device, stores, went, ?_⟩
    simp only [mclsOne, State.finish]
    rw [State.core_modCore_self, State.core_modCore_self]
    exact blockIs_modBlock hb (fun _ => ⟨rfl, rfl⟩) (Core.advance_blocks _ _ _) (Core.advance_crews _ _ _)

end

section
namespace Sys2Proof.Machine
open Sys2Proof Sys2Proof.Claims

/-! ## SHMAP (04 R105, R106, 22 R458) -/

section
variable {s : State} {core slot : Nat} {t : Thread} {x : XOps}

/-- An instruction that acts once per crew, in a group of one thread. -/
theorem State.runCrews_solo (h : Solo s core slot t) {g : Guard} (on : t.guard g = true) (len : Nat)
    (f : State → Nat → Nat → List Nat → Thread → State) : s.runCrews len g f = f s core (slot / 64) [slot] t := by
  obtain ⟨lid, pc, hc⟩ := h.cur
  have crews : s.byCrew g { core := core, lid := lid, pc := pc, slots := [slot] } = [(slot / 64, [slot])] := by
    simp [State.byCrew, Group.crews, sortBy, insertBy, List.eraseDups_cons, h.thread, on]
  have none_off : s.modCore core (·.advanceAll len []) = s := State.modCore_id h.thread
  simp [State.runCrews, hc, h.thread, on, crews, none_off]

end

/-- Where a v register lies, by the map entry of its crew (04 R91). -/
theorem Core.vOff_eq_entry {c : Core} {slot : Nat} {y : Crew} (h : c.crew? (slot / 64) = some y) (j : Nat) :
    c.vOff slot j = (y.entry (j / 8)).map (fun b => b * 2048 + j % 8 * 256 + slot % 64 * 4) := by
  simp only [Core.vOff, Crew.entry, h]
  rcases y.rbm.toList[j / 8]? with _ | _ | b <;> rfl

/-- The entries of a map of which e to e + n - 1 are another's. -/
theorem entry_mapOnto (me other : Crew) (e n i : Nat) :
    Crew.entry { me with rbm := mapOnto me.rbm other.rbm e n } i = if e ≤ i ∧ i < e + n then other.entry i else me.entry i := by
  unfold Crew.entry mapOnto
  by_cases hi : i < 28
  · simp [hi, Vector.get]
  · simp [hi]

/-- The marks of shared blocks and of full slots are all that tidying changes. -/
theorem Core.tidy_eq (c : Core) : c.tidy = { c with shared := c.tidy.shared, full := c.tidy.full } := by
  unfold Core.tidy
  split <;> rfl

/-- A shared block that some crew maps keeps its mark (04 R106). -/
theorem Core.contains_tidy {c : Core} {p : Nat} (shared : p ∈ c.shared) (mapped : p ∈ c.mapped) : c.tidy.shared.contains p = true := by
  have some_shared : c.shared.isEmpty = false := by
    cases h : c.shared with
    | nil => rw [h] at shared; cases shared
    | cons _ _ => rfl
  rw [List.contains_iff_mem, Core.tidy, some_shared]
  exact List.mem_filter.2 ⟨shared, List.contains_iff_mem.2 mapped⟩

/-- A block in a crew's map is mapped. -/
theorem Core.mem_mapped {c : Core} {crew i p : Nat} {y : Crew} (h : c.crew? crew = some y) (hp : y.entry i = some p) : p ∈ c.mapped := by
  have listed : some p ∈ y.rbm.toList := by
    unfold Crew.entry at hp
    cases hm : y.rbm.toList[i]? with
    | none => rw [hm] at hp; cases hp
    | some o =>
      rw [hm, Option.getD_some] at hp
      exact List.mem_of_getElem? (hm.trans (congrArg some hp))
  exact List.mem_flatMap.2 ⟨(crew, y), tget_mem h, List.mem_filterMap.2 ⟨some p, listed, rfl⟩⟩

/-- The blocks that SHMAP brings into a crew's map. -/
def newBlocks (me other : Crew) (e n : Nat) : List Nat :=
  (List.range n).filterMap (fun k => if me.entry (e + k) = other.entry (e + k) then none else other.entry (e + k))

/-- A core in which SHMAP has mapped entries e to e + n - 1 of a crew onto those of another. -/
def Core.remapped (c : Core) (crew e n : Nat) (me other : Crew) : Core :=
  let fresh := (newBlocks me other e n).filter (fun p => !c.shared.contains p)
  let c := (if (newBlocks me other e n).isEmpty then c else c.dropLatches crew e (e + n)).modCrew crew
    (fun y => { y with rbm := mapOnto me.rbm other.rbm e n })
  Core.tidy { c with shared := c.shared ++ fresh }

/-- What becomes of the crews is decided by the crews. -/
theorem Core.modCrew_crews_congr {c c' : Core} (h : c'.crews = c.crews) (i : Nat) (f : Crew → Crew) :
    (c'.modCrew i f).crews = (c.modCrew i f).crews := by
  unfold Core.modCrew Core.crew?
  rw [h]
  split
  · simp only [Core.setCrew, h]
  · exact h

section
variable (c : Core) {crew : Nat} (e n : Nat) (me other : Crew)

@[simp] theorem Core.remapped_store : (c.remapped crew e n me other).store = c.store := by
  unfold Core.remapped
  dsimp only
  rw [Core.tidy_eq]
  dsimp only
  rw [Core.modCrew_store]
  split <;> rfl

@[simp] theorem Core.remapped_threads : (c.remapped crew e n me other).threads = c.threads := by
  unfold Core.remapped
  dsimp only
  rw [Core.tidy_eq]
  dsimp only
  rw [Core.modCrew_threads]
  split <;> rfl

/-- Behind SHMAP the crew has the new map, and the other crews are as before. -/
theorem Core.crew?_remapped (i : Nat) : (c.remapped crew e n me other).crew? i =
    if i = crew then (c.crew? crew).map (fun y => { y with rbm := mapOnto me.rbm other.rbm e n }) else c.crew? i := by
  have crews : (c.remapped crew e n me other).crews = (c.modCrew crew (fun y => { y with rbm := mapOnto me.rbm other.rbm e n })).crews := by
    unfold Core.remapped
    dsimp only
    rw [Core.tidy_eq]
    exact Core.modCrew_crews_congr (by split <;> rfl) crew _
  rw [← Core.crew?_modCrew]
  exact congrArg (tget · i) crews

theorem Core.mem_latch_remapped {y : Nat × BitVec 8 × Nat} (hy : y ∈ (c.remapped crew e n me other).latch) : y ∈ c.latch := by
  unfold Core.remapped at hy
  dsimp only at hy
  rw [Core.tidy_eq] at hy
  dsimp only at hy
  rw [Core.modCrew_latch] at hy
  split at hy
  · exact hy
  · exact (List.mem_filter.1 hy).1

/-- The k registers of crews are as before. -/
theorem Core.readK_remapped (i : Nat) (k : BitVec 4) : (c.remapped crew e n me other).readK i k = c.readK i k := by
  unfold Core.readK
  rw [Core.crew?_remapped]
  by_cases h : i = crew
  · rw [if_pos h, h]
    cases c.crew? crew <;> rfl
  · rw [if_neg h]

variable {c e n me other}

/-- The registers of the crew behind SHMAP: those of the other one in the entries that it names, and its own elsewhere (04 R105). -/
theorem Core.vOff_remapped {slot i : Nat} (hme : c.crew? (slot / 64) = some me) (hother : c.crew? i = some other) (j : Nat) :
    (c.remapped (slot / 64) e n me other).vOff slot j =
      if 8 * e ≤ j ∧ j < 8 * (e + n) then c.vOff (i * 64 + slot % 64) j else c.vOff slot j := by
  have his : (i * 64 + slot % 64) / 64 = i := by omega
  have lane : (i * 64 + slot % 64) % 64 = slot % 64 := by omega
  have mine : (c.remapped (slot / 64) e n me other).crew? (slot / 64) = some { me with rbm := mapOnto me.rbm other.rbm e n } := by
    rw [Core.crew?_remapped, if_pos rfl, hme, Option.map_some]
  have entries : (8 * e ≤ j ∧ j < 8 * (e + n)) ↔ (e ≤ j / 8 ∧ j / 8 < e + n) := by omega
  rw [Core.vOff_eq_entry mine, Core.vOff_eq_entry hme, Core.vOff_eq_entry (his.symm ▸ hother), lane, entry_mapOnto]
  simp only [entries]
  split <;> rfl

/-- The blocks that come into the map thereby are shared (04 R105). -/
theorem Core.shared_remapped {p k : Nat} (hme : c.crew? crew = some me) (hk : k < n) (hp : other.entry (e + k) = some p)
    (new : me.entry (e + k) ≠ some p) : (c.remapped crew e n me other).shared.contains p = true := by
  have brought : p ∈ newBlocks me other e n :=
    List.mem_filterMap.2 ⟨k, List.mem_range.2 hk, by rw [if_neg (fun z => new (z.trans hp)), hp]⟩
  have crews : (if (newBlocks me other e n).isEmpty then c else c.dropLatches crew e (e + n)).crew? crew = some me := by split <;> exact hme
  have marks : (if (newBlocks me other e n).isEmpty then c else c.dropLatches crew e (e + n)).shared = c.shared := by split <;> rfl
  unfold Core.remapped
  dsimp only
  rw [Core.modCrew_shared, marks]
  refine Core.contains_tidy ?_ ?_
  · by_cases h : c.shared.contains p = true
    · exact List.mem_append_left _ (List.contains_iff_mem.1 h)
    · exact List.mem_append_right _ (List.mem_filter.2 ⟨brought, by rw [Bool.not_eq_true] at h; rw [h]; rfl⟩)
  · refine Core.mem_mapped (crew := crew) (i := e + k) (y := { me with rbm := mapOnto me.rbm other.rbm e n }) ?_ ?_
    · refine (Core.crew?_modCrew _ crew crew _).trans ?_
      rw [if_pos rfl, crews, Option.map_some]
    · rw [entry_mapOnto, if_pos ⟨Nat.le_add_right e k, Nat.add_lt_add_left hk e⟩, hp]

end

section
variable {s : State} {core slot i : Nat} {t : Thread} {x : XOps} {v : Word} {me other : Crew}

theorem Core.loadsInto_of_noLoads {c : Core} {crew : Nat} (h : NoLoads c crew) (lo hi : Nat) : c.loadsInto crew lo hi = [] := by
  unfold Core.loadsInto
  rw [List.filter_eq_nil_iff.2 (fun l hl => by simp [h l hl]), List.map_nil]

/-- The crews of a SHMAP of a thread: its own, me, and that of the partner which A names, crew i of the core, other (04 R106). -/
structure Partners (s : State) (core slot : Nat) (t : Thread) (x : XOps) (v : Word) (i : Nat) (me other : Crew) : Prop where
  read : s.src32 core slot t x.lit x.a = .ok v
  size : v.toNat < (s.rcd t.lid).size 1
  partner : (s.core core).partnerCrew t.lid t.block v.toNat = some i
  ne : i ≠ slot / 64
  mine : (s.core core).crew? (slot / 64) = some me
  theirs : (s.core core).crew? i = some other

theorem Partners.relatch (p : Partners s core slot t x v i me other) (l : List (Nat × BitVec 8 × Nat)) :
    Partners (s.relatch core l) core slot t x v i me other := by
  refine ⟨?_, p.size, ?_, p.ne, ?_, ?_⟩
  · rw [State.src32_relatch]; exact p.read
  · rw [State.core_relatch_self]; exact p.partner
  · rw [State.core_relatch_self]; exact p.mine
  · rw [State.core_relatch_self]; exact p.theirs

/-- SHMAP of a crew whose entries and the partner's are mapped (04 R106). -/
theorem shmapCrew_maps (p : Partners s core slot t x v i me other)
    (fits : (x.imm.extractLsb' 0 5).toNat + ((x.imm.extractLsb' 5 5).toNat + 1) ≤ 28)
    (entries : ∀ k, k < (x.imm.extractLsb' 5 5).toNat + 1 →
      (me.entry ((x.imm.extractLsb' 0 5).toNat + k)).isSome ∧ (other.entry ((x.imm.extractLsb' 0 5).toNat + k)).isSome)
    (quiet : NoLoads (s.core core) (slot / 64)) :
    shmapCrew x s core (slot / 64) [slot] t = s.modCore core (fun c => (c.advance slot x.len).remapped (slot / 64)
      (x.imm.extractLsb' 0 5).toNat ((x.imm.extractLsb' 5 5).toNat + 1) me other) := by
  have all : ((List.range ((x.imm.extractLsb' 5 5).toNat + 1)).all (fun k => (me.entry ((x.imm.extractLsb' 0 5).toNat + k)).isSome &&
      (other.entry ((x.imm.extractLsb' 0 5).toNat + k)).isSome)) = true :=
    List.all_eq_true.2 (fun k hk => Bool.and_eq_true_iff.2 (entries k (List.mem_range.1 hk)))
  have check : shmapCheck x s core (slot / 64) slot t = .ok (me, other) := by
    simp only [shmapCheck, p.read, decide_eq_true p.size, p.mine, p.partner, Option.bind_some, p.theirs, Option.map_some,
      bne_iff_ne.2 p.ne, decide_eq_true fits, all, Core.loadsInto_of_noLoads quiet, need, ↓reduceIte, bind, Except.bind]
  unfold shmapCrew
  rw [List.headD_cons, check]
  rfl

/-- SHMAP of entries beyond the map. -/
theorem shmapCrew_beyond (h : Solo s core slot t) (hd : Handled s t) (p : Partners s core slot t x v i me other)
    (beyond : 28 < (x.imm.extractLsb' 0 5).toNat + ((x.imm.extractLsb' 5 5).toNat + 1)) :
    Trapped s (shmapCrew x s core (slot / 64) [slot] t) core slot t 0x02 t.pc := by
  have check : shmapCheck x s core (slot / 64) slot t = .error (.trap causeIllegalOperand none) := by
    simp only [shmapCheck, p.read, decide_eq_true p.size, p.mine, p.partner, Option.bind_some, p.theirs, Option.map_some,
      bne_iff_ne.2 p.ne, decide_eq_false (Nat.not_le.2 beyond), need, trap, ↓reduceIte, Bool.false_eq_true, bind, Except.bind]
  unfold shmapCrew
  rw [List.headD_cons, check]
  exact Trapped.of_stop h.thread hd _

/-- SHMAP runs once per crew, with the hint HOLD. -/
theorem completes_of_shmap {P : State → State → Prop} (blind : LatchBlind core slot P) (h : Solo s core slot t) (on : t.guard x.g = true)
    (acts : ∀ l, P (s.relatch core l) (shmapCrew x (s.relatch core l) core (slot / 64) [slot] t)) : Completes (.shmap x) s (P s) := by
  refine ⟨_, rfl, State.holding_of_blind blind h on (fun l => ?_)⟩
  rw [State.runCrews_solo (h.relatch l) on]
  exact acts l

/-- What SHMAP says of the maps, the marks and the k registers of a core: entries e to e + n - 1 of the thread's crew are those of crew i. -/
structure Mapped (slot i e n : Nat) (me other : Crew) (c c' : Core) : Prop where
  maps : ∀ j, c'.vOff slot j = if 8 * e ≤ j ∧ j < 8 * (e + n) then c.vOff (i * 64 + slot % 64) j else c.vOff slot j
  shared : ∀ k p, k < n → other.entry (e + k) = some p → me.entry (e + k) ≠ some p → c'.shared.contains p = true
  ks : ∀ k crew, c'.readK crew k = c.readK crew k

theorem mapped_remapped {c : Core} (len e n : Nat) (hme : c.crew? (slot / 64) = some me) (hother : c.crew? i = some other) :
    Mapped slot i e n me other c ((c.advance slot len).remapped (slot / 64) e n me other) := by
  have crews : (c.advance slot len).crews = c.crews := Core.advance_crews c slot len
  have found (j : Nat) : (c.advance slot len).crew? j = c.crew? j := congrArg (tget · j) crews
  refine ⟨fun j => ?_, fun k p hk hp new => Core.shared_remapped ((found _).trans hme) hk hp new, fun k crew => ?_⟩
  · rw [Core.vOff_remapped ((found _).trans hme) ((found _).trans hother), Core.vOff_congr crews, Core.vOff_congr crews]
  · rw [Core.readK_remapped, Core.readK_congr crews]

end
end Sys2Proof.Machine

open Sys2Proof.Machine Sys2Proof.Claims

/-- Settles O39: SHMAP passes its checks, or the entries it names lie beyond the map. -/
theorem sharedMapResult : Obligations.SharedMapResult := by
  unfold Obligations.SharedMapResult
  intro x s core slot t v i me other h on hv size partner ne hme hother e n
  have p : Partners s core slot t x v i me other := ⟨hv, size, partner, ne, hme, hother⟩
  refine ⟨fun fits entries quiet => ?maps, fun beyond hd => ?beyond⟩
  case beyond =>
    exact completes_of_shmap (LatchBlind.trapped _ _ _) h on
      (fun l => shmapCrew_beyond (h.relatch l) (hd.relatch core l) (p.relatch l) beyond)
  case maps =>
    have maps : Completes (.shmap x) s (fun s' => (OnlyCore core s s' ∧ StoresSame s s' ∧ Went s s' core slot t x.len) ∧
        Mapped slot i e n me other (s.core core) (s'.core core)) := by
      refine completes_of_shmap ((LatchBlind.onlyCore.and (LatchBlind.storesSame.and (LatchBlind.went _ _))).and
        (LatchBlind.of_core (R := Mapped slot i e n me other) (fun _ _ _ _ r => ⟨r.maps, r.shared, r.ks⟩))) h on (fun l => ?_)
      rw [shmapCrew_maps (p.relatch l) fits entries (by rwa [State.core_relatch_self]),
        ← State.modCore_modCore _ core (·.advance slot x.len) (·.remapped (slot / 64) e n me other)]
      refine ⟨went_and (h.relatch l) x.len _ (fun _ => Core.remapped_store _ _ _ _ _) (fun _ => Core.remapped_threads _ _ _ _ _)
        (fun _ _ => Core.mem_latch_remapped _ _ _ _ _), ?_⟩
      rw [State.core_modCore_self, State.core_modCore_self]
      exact mapped_remapped x.len e n (p.relatch l).mine (p.relatch l).theirs
    obtain ⟨s', ran, ⟨device, stores, went, -⟩, maps, shared, ks⟩ := maps
    exact ⟨s', ran, device, stores, maps, shared, ks, went⟩

end

section
namespace Sys2Proof.Machine
open Sys2Proof Sys2Proof.Claims

/-! ## FEGET and FEPUT (04 R107, R108) -/

section
variable {s : State} {core slot : Nat} {t : Thread} {x : XOps} {o : Nat} {w : Word}

/-- An instruction that commits the open region, of a thread that has none and no fault of a load to be recorded: it goes on at once (08 R186). -/
theorem State.committing_plain (ht : s.thread? core slot = some t) (shut : t.openRegion = none) (clean : NoFaults s core slot) (len : Nat)
    (body : State → Except Stop (State → State)) : s.committing core len slot (.ok ()) body = s.finish core len slot (body s) := by
  have recorded : s.recordFaults core slot = s := by
    have nothing : (s.core core).loads.filter (fun l => l.slot == slot && l.fault.isSome && l.ending.isNone) = [] := by
      refine List.filter_eq_nil_iff.2 (fun l hl => ?_)
      by_cases own : l.slot = slot
      · simp [clean l hl own]
      · simp [own]
    rw [State.recordFaults, nothing, List.foldl_nil]
  have committed : s.commitTo core slot none = s := by simp only [State.commitTo, ht, shut]
  simp only [State.committing, State.commitThen, recorded, ht, State.commitCheck, shut, committed, Option.isSome_none]
  cases body s with
  | ok k => rfl
  | error st => cases st <;> rfl

/-- Being first in a line, as the model computes it (04 R108). -/
theorem Core.firstAt_iff (c : Core) (o : Nat) (full : Bool) (since : Nat) : c.firstAt o full since = true ↔ FirstAt c o full since := by
  unfold Core.firstAt FirstAt
  rw [Bool.not_eq_true', List.any_eq_false]
  refine forall₂_congr (fun e _ => ?_)
  cases e.2.park with
  | none => simp
  | some p => cases p <;> simp

/-- The wait of FEGET and FEPUT counts from the thread's arrival (04 R108). -/
theorem Core.feWait_eq (c : Core) (slot : Nat) (t : Thread) (o : Nat) (full : Bool) (now : Nat) : c.feWait slot t o full now =
    if c.full.contains o = full ∧ c.firstAt o full (slotOrder t o now) then .ok ()
    else if c.hasPartner slot o then .error (.park (.slot o full (slotOrder t o now))) else trap causeIllegalOperand := rfl

section
variable {c : Core} {full : Bool} {now : Nat}

theorem Core.feWait_ready (is : c.full.contains o = full) (first : FirstAt c o full (slotOrder t o now)) :
    c.feWait slot t o full now = .ok () := by
  rw [Core.feWait_eq, if_pos ⟨is, (c.firstAt_iff o full _).2 first⟩]

theorem Core.feWait_waits (un : c.full.contains o = !full ∨ ¬FirstAt c o full (slotOrder t o now)) (lives : c.hasPartner slot o = true) :
    c.feWait slot t o full now = .error (.park (.slot o full (slotOrder t o now))) := by
  rw [Core.feWait_eq, if_neg, if_pos lives]
  rintro ⟨is, first⟩
  rcases un with un | un
  · rw [is] at un; cases full <;> cases un
  · exact un ((c.firstAt_iff o full _).1 first)

theorem Core.feWait_alone (un : c.full.contains o = !full ∨ ¬FirstAt c o full (slotOrder t o now)) (gone : c.hasPartner slot o = false) :
    c.feWait slot t o full now = .error (.trap causeIllegalOperand none) := by
  rw [Core.feWait_eq, if_neg, gone]
  · rfl
  rintro ⟨is, first⟩
  rcases un with un | un
  · rw [is] at un; cases full <;> cases un
  · exact un ((c.firstAt_iff o full _).1 first)

/-! ### Nobody comes to wait -/

/-- Every thread that waits in a core waited so before. -/
def NoNewWaits (c c' : Core) : Prop := ∀ e ∈ c'.threads, e.2.park = none ∨ ∃ e' ∈ c.threads, e'.2.park = e.2.park

theorem NoNewWaits.trans {c c' c'' : Core} (h : NoNewWaits c c') (k : NoNewWaits c' c'') : NoNewWaits c c'' := by
  intro e he
  rcases k e he with none | ⟨e', he', eq⟩
  · exact .inl none
  · rw [← eq]
    exact h e' he'

theorem NoNewWaits.of_threads {c c' : Core} (h : c'.threads = c.threads) : NoNewWaits c c' := fun e he => .inr ⟨e, h ▸ he, rfl⟩

theorem mem_tset {α : Type} {l : List (Nat × α)} {k : Nat} {v : α} {e : Nat × α} (he : e ∈ tset l k v) : e = (k, v) ∨ e ∈ l := by
  induction l with
  | nil => exact .inl (List.mem_singleton.1 he)
  | cons a r ih =>
    obtain ⟨j, w⟩ := a
    unfold tset at he
    split at he
    · exact (List.mem_cons.1 he).imp_right (List.mem_cons_of_mem _)
    · rcases List.mem_cons.1 he with rfl | he
      · exact .inr List.mem_cons_self
      · exact (ih he).imp_right (List.mem_cons_of_mem _)

theorem NoNewWaits.modThread (c : Core) (slot : Nat) {f : Thread → Thread} (hf : ∀ t, (f t).park = none ∨ (f t).park = t.park) :
    NoNewWaits c (c.modThread slot f) := by
  intro e he
  unfold Core.modThread at he
  split at he <;> rename_i ht
  · rcases mem_tset he with rfl | he
    · exact (hf _).imp_right (fun k => ⟨_, tget_mem ht, k.symm⟩)
    · exact .inr ⟨e, he, rfl⟩
  · exact .inr ⟨e, he, rfl⟩

theorem NoNewWaits.advance (c : Core) (slot len : Nat) : NoNewWaits c (c.advance slot len) := by
  refine (NoNewWaits.modThread c slot (fun _ => .inl rfl)).trans (NoNewWaits.of_threads ?_)
    (c' := c.modThread slot (fun t => { t with pc := t.pc + BitVec.ofNat 64 len, park := none }))
  unfold Core.advance
  dsimp only
  split
  · exact Core.ageLatch_threads _ slot
  · exact Core.ageLatch_threads _ slot

theorem NoNewWaits.modSeeing (c : Core) (slot : Nat) (d : BitVec 8) {f : Thread → Thread} (hf : ∀ t, (f t).park = t.park) :
    NoNewWaits c (c.modSeeing slot d f) := by
  unfold Core.modSeeing
  split
  · exact NoNewWaits.modThread c slot (fun t => .inr (hf t))
  · intro e he
    obtain ⟨e', he', rfl⟩ := List.mem_map.1 he
    refine .inr ⟨e', he', ?_⟩
    split
    · exact (hf e'.2).symm
    · rfl

theorem NoNewWaits.supersede (c : Core) (slot : Nat) (d : BitVec 8) : NoNewWaits c (c.supersede slot d) := by
  unfold Core.supersede
  dsimp only
  refine (NoNewWaits.of_threads ?_).trans
    ((NoNewWaits.modSeeing _ slot d (f := (·.superseded d)) (fun _ => rfl)).trans (NoNewWaits.of_threads (Core.dropHeld_threads _ slot d)))
  split <;> rfl

theorem NoNewWaits.writeReg (c : Core) (slot : Nat) (d : BitVec 8) (w : Word) : NoNewWaits c (c.writeReg slot d w) := by
  unfold Core.writeReg
  split
  · exact (NoNewWaits.supersede c slot d).trans (NoNewWaits.of_threads (Core.putV_threads _ slot _ w))
  · split
    · exact (NoNewWaits.supersede c slot d).trans (NoNewWaits.of_threads (Core.writeK_threads _ _ _ w))
    · exact NoNewWaits.of_threads rfl

/-- Who is first in a line stays first while nobody comes. -/
theorem firstAt_keep {c c' : Core} {since : Nat} (h : FirstAt c o full since) (k : NoNewWaits c c') : FirstAt c' o full since := by
  intro e he n hp
  rcases k e he with none | ⟨e', he', eq⟩
  · rw [none] at hp; cases hp
  · exact h e' he' n (eq.trans hp)

/-- The wait for a slot to be full or empty is over for the first that waits so, once the slot is, and nobody has come (04 R108). -/
theorem handedOver_of_full {s s' : State} (is : (s'.core core).full.contains o = full) (k : NoNewWaits (s.core core) (s'.core core)) :
    HandedOver s s' core slot o full := by
  intro z u n _ _ _ first
  have led : (s'.core core).firstAt o full n = true := ((s'.core core).firstAt_iff o full n).2 (firstAt_keep first k)
  simp only [State.parkOver, is, led, beq_self_eq_true, Bool.and_self, Bool.true_or]

theorem LatchBlind.handedOver (o : Nat) (full : Bool) : LatchBlind core slot (fun s s' => HandedOver s s' core slot o full) := by
  intro s s' a b _ _ h z u k hz hu hp first
  have ended := h z u k hz (by rwa [State.thread?_relatch]) hp (by rw [State.core_relatch_self]; exact first)
  simp only [State.parkOver] at ended ⊢
  rw [State.core_relatch_self]
  exact ended

end

/-! ### What each does to the slot -/

/-- What FEGET and FEPUT do where they act: the full/empty bits become F of what they were, register d takes w, and the wait of the first that waits
for the act is over. -/
def Acted (core slot o : Nat) (t : Thread) (len : Nat) (d : BitVec 8) (w : Word) (full : Bool) (F : List Nat → List Nat) (s s' : State) : Prop :=
  OnlyCore core s s' ∧ (s'.core core).full = F (s.core core).full ∧ Wrote (s.core core) (s'.core core) slot [(d, w)] ∧
    OthersThinned slot (s.core core) (s'.core core) ∧ HandedOver s s' core slot o full ∧
    ∃ t', s'.thread? core slot = some t' ∧ t' = { t.past len with park := none, taints := t'.taints }

theorem LatchBlind.acted (o : Nat) (t : Thread) (len : Nat) (d : BitVec 8) (w : Word) (full : Bool) (F : List Nat → List Nat) :
    LatchBlind core slot (Acted core slot o t len d w full F) :=
  LatchBlind.onlyCore.and ((LatchBlind.of_core (R := fun c c' => c'.full = F c.full) (fun _ _ _ _ h => h)).and
    ((LatchBlind.wrote _).and (LatchBlind.othersThinned.and ((LatchBlind.handedOver o full).and (LatchBlind.thread _)))))

/-- An advance, a register write and a change of the full/empty bits. -/
theorem acted_of_write (h : Solo s core slot t) (len : Nat) {d : BitVec 8} (m : MappedAll (s.core core) slot [d]) (w : Word) {full : Bool}
    {F : List Nat → List Nat} (is : ∀ l, (F l).contains o = full) :
    Acted core slot o t len d w full F s ((s.modCore core (·.advance slot len)).modCore core
      (fun c => { (c.writeReg slot d w) with full := F c.full })) := by
  have mapped : ∀ e v, Write.reg d w = .reg e v → e.toNat < 0xE0 → ((s.core core).vOff slot e.toNat).isSome := by
    intro e v eq
    cases eq
    exact m d List.mem_cons_self
  have r := Result.one h.thread len (.reg d w) mapped h.crew
  have thread := r.thread
  have regs := r.regs
  have threads := r.threads
  rw [State.thread?, State.core_modCore_self] at thread
  rw [State.core_modCore_self] at regs threads
  rw [State.modCore_modCore]
  refine ⟨OnlyCore.modCore core s _, ?_, ?_, ?_, handedOver_of_full ?_ ?_, ?_⟩
  · rw [State.core_modCore_self, Core.advance_full]
  · rw [State.core_modCore_self]
    exact regs.before (c'' := { (((s.core core).advance slot len).writeReg slot d w) with
      full := F ((s.core core).advance slot len).full }) rfl rfl
  · rw [State.core_modCore_self]
    exact ⟨threads.thinned, threads.latch⟩
  · rw [State.core_modCore_self]
    exact is _
  · rw [State.core_modCore_self]
    exact ((NoNewWaits.advance _ slot len).trans (NoNewWaits.writeReg _ slot d w)).trans (NoNewWaits.of_threads rfl)
  · rw [State.thread?, State.core_modCore_self]
    exact thread

/-- A thread at FEGET or FEPUT, with both registers mapped, no region open and no fault of a load to be recorded. -/
structure AtSlot (s : State) (core slot : Nat) (t : Thread) (x : XOps) : Prop where
  solo : Solo s core slot t
  shut : t.openRegion = none
  clean : NoFaults s core slot
  a : x.a.toNat < 0xE0
  d : x.d.toNat < 0xE0
  mapped : MappedAll (s.core core) slot [x.a, x.d]

theorem AtSlot.relatch (h : AtSlot s core slot t x) (l : List (Nat × BitVec 8 × Nat)) : AtSlot (s.relatch core l) core slot t x where
  solo := h.solo.relatch l
  shut := h.shut
  clean := by
    unfold NoFaults
    rw [State.core_relatch_self]
    exact h.clean
  a := h.a
  d := h.d
  mapped := h.mapped.relatch l

section
variable {bit other : BitVec 8} {put : Bool} (hb : bit.toNat < 0xE0) (ho : other.toNat < 0xE0)
  (m : MappedAll (s.core core) slot [bit, other]) (at_ : (s.core core).vOff slot bit.toNat = some o)
include hb ho m at_

/-- The operand of FEGET where the slot is shared (04 R107). -/
theorem State.feArgs_get (sh : (s.core core).shared.contains (o / 2048) = true) : s.feArgs core slot t bit other false = .ok (o, 0) := by
  simp only [State.feArgs, decide_eq_true hb, decide_eq_true ho, Bool.and_self, need, ↓reduceIte, Core.checkMapped_ok m, Core.sharedSlot, at_,
    sh, Bool.false_eq_true, bind, Except.bind]

/-- The operands of FEPUT where the slot is shared (04 R107). -/
theorem State.feArgs_put (sh : (s.core core).shared.contains (o / 2048) = true) (hw : (s.core core).readVK slot t other = .ok w) :
    s.feArgs core slot t bit other true = .ok (o, w) := by
  simp only [State.feArgs, decide_eq_true hb, decide_eq_true ho, Bool.and_self, need, ↓reduceIte, Core.checkMapped_ok m, Core.sharedSlot, at_,
    sh, hw, bind, Except.bind]

/-- A register that is not shared has no full/empty bit (04 R107). -/
theorem State.feArgs_unshared (un : (s.core core).shared.contains (o / 2048) = false) :
    s.feArgs core slot t bit other put = .error (.trap causeIllegalOperand none) := by
  simp only [State.feArgs, decide_eq_true hb, decide_eq_true ho, Bool.and_self, need, ↓reduceIte, Core.checkMapped_ok m, Core.sharedSlot, at_,
    un, trap, Bool.false_eq_true, bind, Except.bind]

end

/-- A thread waits, and nothing else has happened. -/
def Waits (core slot : Nat) (t : Thread) (p : Park) (s s' : State) : Prop :=
  OnlyCore core s s' ∧ OnlyThread slot (s.core core) (s'.core core) ∧ s'.thread? core slot = some { t with park := some p }

theorem LatchBlind.waits (t : Thread) (p : Park) : LatchBlind core slot (Waits core slot t p) := by
  refine LatchBlind.onlyCore.and (LatchBlind.onlyThread.and (fun s s' a b _ _ h => ?_))
  rw [State.thread?_relatch]
  exact h

theorem waits_of_stop (ht : s.thread? core slot = some t) (p : Park) : Waits core slot t p s (s.stop core slot (.park p)) := by
  rw [State.stop_park ht]
  refine ⟨OnlyCore.modCore core s _, ?_, ?_⟩
  · rw [State.core_modThread_self]
    exact OnlyThread.modThread _ slot _
  · rw [State.thread?_modThread_self, ht]
    rfl

section
variable (h : AtSlot s core slot t x)
include h

theorem AtSlot.swapped : MappedAll (s.core core) slot [x.d, x.a] := fun e he => h.mapped e (List.mem_pair.2 (List.mem_pair.1 he).symm)

section
variable {P : State → State → Prop} (blind : LatchBlind core slot P) (on : t.guard x.g = true) {r : Except Stop (State → State)}
include blind on

/-- FEGET does what its body says of the state at issue. -/
theorem completes_of_fegetBody (body : fegetBody x core slot t s = r)
    (acts : ∀ l, P (s.relatch core l) ((s.relatch core l).finish core x.len slot r)) : Completes (.feget x) s (P s) := by
  refine completes_of_heldSeq (f := fun _ => fegetOne x) blind h.solo on rfl (fun l => ?_)
  have body' : fegetBody x core slot t (s.relatch core l) = r := by
    unfold fegetBody State.feArgs at body ⊢
    rw [State.core_relatch_self]
    exact body
  rw [fegetOne, State.committing_plain (h.relatch l).solo.thread h.shut (h.relatch l).clean, body']
  exact acts l

/-- FEPUT does what its body says of the state at issue. -/
theorem completes_of_feputBody (body : feputBody x core slot t s = r)
    (acts : ∀ l, P (s.relatch core l) ((s.relatch core l).finish core x.len slot r)) : Completes (.feput x) s (P s) := by
  refine completes_of_heldSeq (f := fun _ => feputOne x) blind h.solo on rfl (fun l => ?_)
  have body' : feputBody x core slot t (s.relatch core l) = r := by
    unfold feputBody State.feArgs at body ⊢
    rw [State.core_relatch_self]
    exact body
  rw [feputOne, State.committing_plain (h.relatch l).solo.thread h.shut (h.relatch l).clean, body']
  exact acts l

end

theorem readVK_of_src32 (hw : s.src32 core slot t none x.a = .ok w) : (s.core core).readVK slot t x.a = .ok w := by
  have reg : x.a.toNat < 0xF0 := Nat.lt_trans h.a (by decide)
  rwa [State.src32, if_pos reg] at hw

section
variable (at_ : (s.core core).vOff slot x.a.toNat = some o)
include at_

/-- FEGET of a full slot by the first that waits for it (04 R107). -/
theorem fegetBody_takes (sh : (s.core core).shared.contains (o / 2048) = true) (hw : s.src32 core slot t none x.a = .ok w)
    (is : (s.core core).full.contains o = true) (first : FirstAt (s.core core) o true (slotOrder t o s.time)) :
    fegetBody x core slot t s =
      .ok (fun s => s.modCore core (fun c => { (c.writeReg slot x.d w) with full := c.full.filter (· != o) })) := by
  rw [fegetBody, State.feArgs_get h.a h.d h.mapped at_ sh]
  simp only [bind, Except.bind, Core.feWait_ready is first, readVK_of_src32 h hw]

/-- FEGET whose wait is not over. -/
theorem fegetBody_stops (sh : (s.core core).shared.contains (o / 2048) = true) {st : Stop}
    (wait : (s.core core).feWait slot t o true s.time = .error st) : fegetBody x core slot t s = .error st := by
  rw [fegetBody, State.feArgs_get h.a h.d h.mapped at_ sh]
  simp only [bind, Except.bind, wait]

/-- FEGET of a register that is not shared. -/
theorem fegetBody_unshared (un : (s.core core).shared.contains (o / 2048) = false) :
    fegetBody x core slot t s = .error (.trap causeIllegalOperand none) := by
  rw [fegetBody, State.feArgs_unshared h.a h.d h.mapped at_ un]
  rfl

end

section
variable (at_ : (s.core core).vOff slot x.d.toNat = some o)
include at_

/-- FEPUT into an empty slot by the first that waits for it (04 R107). -/
theorem feputBody_puts (sh : (s.core core).shared.contains (o / 2048) = true) (hw : s.src32 core slot t none x.a = .ok w)
    (is : (s.core core).full.contains o = false) (first : FirstAt (s.core core) o false (slotOrder t o s.time)) :
    feputBody x core slot t s = .ok (fun s => s.modCore core (fun c => { (c.writeReg slot x.d w) with full := c.full ++ [o] })) := by
  rw [feputBody, State.feArgs_put h.d h.a h.swapped at_ sh (readVK_of_src32 h hw)]
  simp only [bind, Except.bind, Core.feWait_ready is first]

/-- FEPUT whose wait is not over. -/
theorem feputBody_stops (sh : (s.core core).shared.contains (o / 2048) = true) (hw : s.src32 core slot t none x.a = .ok w) {st : Stop}
    (wait : (s.core core).feWait slot t o false s.time = .error st) : feputBody x core slot t s = .error st := by
  rw [feputBody, State.feArgs_put h.d h.a h.swapped at_ sh (readVK_of_src32 h hw)]
  simp only [bind, Except.bind, wait]

/-- FEPUT of a register that is not shared. -/
theorem feputBody_unshared (un : (s.core core).shared.contains (o / 2048) = false) :
    feputBody x core slot t s = .error (.trap causeIllegalOperand none) := by
  rw [feputBody, State.feArgs_unshared h.d h.a h.swapped at_ un]
  rfl

end

end

end
end Sys2Proof.Machine

open Sys2Proof.Machine Sys2Proof.Claims

/-- Settles O37: each of the two by whether its slot is shared, whether its wait is over, and whether a partner lives. -/
theorem fullEmptyResult : Obligations.FullEmptyResult := by
  unfold Obligations.FullEmptyResult
  intro x s core slot t o h on shut clean ha hd m
  have here : AtSlot s core slot t x := ⟨h, shut, clean, ha, hd, m⟩
  have dst : MappedAll (s.core core) slot [x.d] := fun e he => m e (List.mem_cons_of_mem _ he)
  have parks (l) (p : Park) := waits_of_stop (h.relatch l).thread p
  have traps (handled : Handled s t) (l) := Trapped.of_stop (h.relatch l).thread (handled.relatch core l) causeIllegalOperand
  refine ⟨fun at_ sh => ⟨fun w hw is first => ?take, fun un => ⟨fun lives => ?getWaits, fun gone handled => ?getAlone⟩⟩,
    fun w at_ sh hw => ⟨fun is first => ?put, fun un => ⟨fun lives => ?putWaits, fun gone handled => ?putAlone⟩⟩,
    fun at_ un handled => ?getUnshared, fun at_ un handled => ?putUnshared⟩
  case take =>
    exact completes_of_fegetBody here (LatchBlind.acted o t x.len x.d w false _) on (fegetBody_takes here at_ sh hw is first)
      (fun l => acted_of_write (h.relatch l) x.len (dst.relatch l) w (F := (List.filter (· != o))) (by simp))
  case getWaits =>
    exact completes_of_fegetBody here (LatchBlind.waits t _) on (fegetBody_stops here at_ sh (Core.feWait_waits un lives)) (parks · _)
  case getAlone =>
    exact completes_of_fegetBody here (LatchBlind.trapped _ _ _) on (fegetBody_stops here at_ sh (Core.feWait_alone un gone)) (traps handled)
  case put =>
    exact completes_of_feputBody here (LatchBlind.acted o t x.len x.d w true _) on (feputBody_puts here at_ sh hw is first)
      (fun l => acted_of_write (h.relatch l) x.len (dst.relatch l) w (F := (· ++ [o])) (by simp))
  case putWaits =>
    exact completes_of_feputBody here (LatchBlind.waits t _) on (feputBody_stops here at_ sh hw (Core.feWait_waits un lives)) (parks · _)
  case putAlone =>
    exact completes_of_feputBody here (LatchBlind.trapped _ _ _) on (feputBody_stops here at_ sh hw (Core.feWait_alone un gone))
      (traps handled)
  case getUnshared => exact completes_of_fegetBody here (LatchBlind.trapped _ _ _) on (fegetBody_unshared here at_ un) (traps handled)
  case putUnshared => exact completes_of_feputBody here (LatchBlind.trapped _ _ _) on (feputBody_unshared here at_ un) (traps handled)

end

section
namespace Sys2Proof.Machine
open Sys2Proof Sys2Proof.Claims

/-! ## ST to a core store (04 R91 to R93, 22 R461) -/

section
variable {s : State} {core slot : Nat} {t : Thread} {x : XOps} {ptr : DWord} {n c off : Nat} {v : BitVec 128} {e : Option Tlb}

/-- A translation names no core store. -/
theorem Tlb.target_ne_store (e : Tlb) (va c off : Nat) : e.target va ≠ .store c off := by
  unfold Tlb.target
  split
  · nofun
  · split <;> nofun

/-- A pointer that resolves to a core store lies in a window of one that the thread may access (04 R91, R93). -/
structure InWindow (s : State) (core : Nat) (t : Thread) (ptr : DWord) (n c off : Nat) : Prop where
  above : 0x00FE000000000000 ≤ (ptr.extractLsb' 0 56).toNat
  place : windowAt core (ptr.extractLsb' 0 56).toNat = (c, off)
  lies : c < 256 ∧ off < 0x200000 ∧ (s.core c).allowed t.lid (s.rcd t.lid).spad off n = true

theorem InWindow.of_resolve {tlb : List Tlb} {ctx : Nat} {priv : Bool}
    (h : s.resolve core t.lid ctx tlb priv .ldst ptr n .write .ls = .ok (.store c off, e)) : InWindow s core t ptr n c off ∧ e = none := by
  unfold State.resolve at h
  dsimp only at h
  split at h <;> rename_i above
  · rw [if_neg nofun] at h
    split at h <;> rename_i lies
    · cases h
      exact ⟨⟨above, rfl, lies⟩, rfl⟩
    · cases h
  · split at h
    · split at h <;> cases h
    · split at h
      · cases h
      · exact absurd (congrArg Prod.fst (Except.ok.inj h)) (Tlb.target_ne_store _ _ _ _)

theorem InWindow.resolve (h : InWindow s core t ptr n c off) (ctx : Nat) (tlb : List Tlb) (priv : Bool) :
    s.resolve core t.lid ctx tlb priv .ldst ptr n .write .ls = .ok (.store c off, none) := by
  unfold State.resolve
  dsimp only
  rw [if_pos h.above, if_neg nofun, h.place]
  exact if_pos h.lies

theorem InWindow.relatch (h : InWindow s core t ptr n c off) (l : List (Nat × BitVec 8 × Nat)) :
    InWindow (s.relatch core l) core t ptr n c off := by
  refine ⟨h.above, h.place, ?_⟩
  rw [State.core_relatch]
  exact h.lies

theorem plain_relatch (h : Plain s core slot t) (l : List (Nat × BitVec 8 × Nat)) : Plain (s.relatch core l) core slot t := by
  obtain ⟨shut, empty, clean, rbk, det, held⟩ := h
  refine ⟨shut, empty, ?_, rbk, det, ?_⟩
  · unfold NoFaults
    rw [State.core_relatch_self]
    exact clean
  · unfold State.heldStores at held ⊢
    rw [State.core_relatch_self]
    exact held

theorem ready_relatch {codes : List (BitVec 8)} (r : Ready s core slot t x n x.imm.toInt ptr codes) (l : List (Nat × BitVec 8 × Nat)) :
    Ready (s.relatch core l) core slot t x n x.imm.toInt ptr codes where
  guard := r.guard
  mapped := r.mapped.relatch l
  free := r.free
  address := by rw [State.address_relatch]; exact r.address
  aligned := r.aligned

/-- The address and the value of an ST that is ready (22 R461). -/
theorem State.stArgs_ok (r : Ready s core slot t x (bytesOfAccess x) x.imm.toInt ptr (codesOf x.b (bytesOfAccess x)))
    (hv : s.srcN core slot t x.lit x.b (bytesOfAccess x) = .ok v) : s.stArgs core slot t x = .ok (ptr, v) := by
  unfold State.stArgs
  have size : sizeOf_ x = bytesOfAccess x := rfl
  simp only [size, Core.checkMapped_ok r.mapped, r.address, needAligned, r.aligned, hv, ↓reduceIte, bind, Except.bind]

/-- An ST into a window of a core store, with no region open, in a launch without checkpoints and ordered stores. -/
theorem State.storeBy_window (w : InWindow s core t ptr n c off) (p : Plain s core slot t) (hint : Nat) (cover : Cover) :
    s.storeBy core slot t ptr n hint v .ldst cover =
      .ok (fun z => ((z.fillTlb core none).passRegion core slot (.store c off) n).commitStore core (buffered t slot ptr n hint v none) cover) := by
  obtain ⟨shut, -, -, rbk, det, -⟩ := p
  have free : s.granuleFree core t (buffered t slot ptr n hint v none) = true := by
    simp [State.granuleFree, shut, rbk]
  simp [State.storeBy, w.resolve, free, shut, det]

/-- A store into a window of a core store is performed there, and no suspended region of its thread holds an older one. -/
theorem stOne_lands (h : Solo s core slot t) (r : Ready s core slot t x (bytesOfAccess x) x.imm.toInt ptr (codesOf x.b (bytesOfAccess x)))
    (p : Plain s core slot t) (hv : s.srcN core slot t x.lit x.b (bytesOfAccess x) = .ok v)
    (w : InWindow s core t ptr (bytesOfAccess x) c off) (cover : Cover) : stOne x s cover s core slot t =
      (s.modCore core (·.advance slot x.len)).modCore c (·.writeStore off (bytesOfAccess x) v.toNat) := by
  have size : sizeOf_ x = bytesOfAccess x := rfl
  have target : (buffered t slot ptr (bytesOfAccess x) (hintOf x) v none).target core = .store c off := by
    unfold Buffered.target
    dsimp only [buffered]
    rw [if_pos w.above, w.place]
  have passes : (s.modCore core (·.advance slot x.len)).passRegion core slot (.store c off) (bytesOfAccess x) =
      s.modCore core (·.advance slot x.len) := by
    have ht : (s.core core).thread? slot = some t := h.thread
    obtain ⟨-, empty, -⟩ := p
    unfold State.passRegion State.thread?
    rw [State.core_modCore_self, Core.thread?_advance, if_pos rfl, ht]
    cases hr : t.region with
    | none => simp only [Option.map_some, Option.bind_some, hr]
    | some g => simp only [Option.map_some, Option.bind_some, hr, empty g hr, List.any_nil, Bool.false_eq_true, ↓reduceIte]
  have performed (z : State) (rbk : (z.rcd t.lid).rbk = false) :
      z.commitStore core (buffered t slot ptr (bytesOfAccess x) (hintOf x) v none) cover =
        z.modCore c (·.writeStore off (bytesOfAccess x) v.toNat) := by
    unfold State.commitStore
    rw [if_neg (fun both => Bool.false_ne_true (rbk.symm.trans both.1))]
    unfold State.performStore
    rw [target]
    rfl
  simp only [stOne, State.stArgs_ok r hv, size, State.storeBy_window w p, bind, Except.bind, State.finish, State.fillTlb, passes]
  exact performed _ p.2.2.2.1

/-! ### What it leaves unchanged -/

theorem RegFrame.writeStore (k : Core) (off n v : Nat) : RegFrame k (k.writeStore off n v) := by
  refine RegFrame.of_rest rfl (fun i => crew_same _) (loads_same rfl) ?_
  unfold Core.writeStore
  dsimp only
  split
  · exact ⟨fun _ => false, by simp⟩
  · exact ⟨fun i => !(decide (off ≤ i * 4) && decide (i * 4 + 4 ≤ off + n)), rfl⟩

theorem OnlyThread.writeStore (slot : Nat) (k : Core) (off n v : Nat) : OnlyThread slot k (k.writeStore off n v) :=
  ⟨fun _ _ => rfl, fun _ he _ => (List.mem_filter.1 he).1⟩

/-- The bytes of a core store after a wide write. -/
theorem Core.get_writeStore (k : Core) (off n v b : Nat) :
    (k.writeStore off n v).store.get b = if off ≤ b ∧ b < off + n then byteOf v (b - off) else k.store.get b := by
  show (k.store.putN off n v).get b = _
  split <;> rename_i h
  · have place := Memory.get_putN_in n k.store off v (b - off) (by omega)
    rwa [Nat.add_sub_cancel' h.1] at place
  · exact Memory.get_putN_out n k.store off v b (by omega)

theorem thinned_same (t : Option Thread) : Option.Rel Thinned t t := by
  cases t with
  | none => exact .none
  | some t => exact .some (Thinned.refl t)

/-- What an ST to a core store does and leaves unchanged: its bytes stand there, its thread has gone on, and of every core nothing else
changed. -/
def Landed (core slot : Nat) (t : Thread) (len c off n v : Nat) (s s' : State) : Prop :=
  s' = { s with cores := s'.cores } ∧ StoreIs s s' c off n v ∧ WentBy s s' core slot t len ∧
    ∀ m, RegFrame (s.core m) (s'.core m) ∧ (s'.core m).crews = (s.core m).crews ∧
      (m ≠ core → ∀ o, Option.Rel Thinned ((s.core m).thread? o) ((s'.core m).thread? o))

theorem LatchBlind.landed (t : Thread) (len c off n v : Nat) : LatchBlind core slot (Landed core slot t len c off n v) := by
  rintro s s' a b ha hb ⟨cores, stores, went, frame⟩
  have states (m : Nat) := State.core_relatch s core a m
  have states' (m : Nat) := State.core_relatch s' core b m
  refine ⟨congrArg (fun z : State => { z with cores := (s'.relatch core b).cores }) cores, fun m b => ?_,
    LatchBlind.wentBy t len s s' a b ha hb went, fun m => ?_⟩
  · have k := stores m b
    rw [states] at k
    rw [states']
    exact k
  · obtain ⟨regs, crews, threads⟩ := frame m
    rw [states] at regs crews threads
    rw [states']
    exact ⟨((RegFrame.latch _ _).trans regs).trans (RegFrame.latch _ _), crews, threads⟩

theorem landed_of_writeStore (h : Solo s core slot t) (len c off n v : Nat) :
    Landed core slot t len c off n v s ((s.modCore core (·.advance slot len)).modCore c (·.writeStore off n v)) := by
  have stores (m : Nat) : ((s.modCore core (·.advance slot len)).core m).store = (s.core m).store :=
    core_rel_modCore (R := fun k k' => k'.store = k.store) (fun _ => rfl) (fun k => k.advance_store slot len) s core m
  have threads (z : State) (m o : Nat) : ((z.modCore c (·.writeStore off n v)).core m).thread? o = (z.core m).thread? o :=
    core_rel_modCore (R := fun k k' => k'.thread? o = k.thread? o) (fun _ => rfl) (f := (·.writeStore off n v)) (fun _ => rfl) z c m
  refine ⟨rfl, fun m b => ?bytes, ⟨⟨{ t.past len with park := none }, ?thread, rfl⟩, ?others⟩,
    fun m => ⟨?frame, ?crews, fun hm o => ?elsewhere⟩⟩
  case bytes =>
    rw [State.core_modCore, ← stores m]
    by_cases hm : m = c
    · rw [if_pos hm, Core.get_writeStore]
      simp only [hm, true_and]
    · rw [if_neg hm, if_neg (fun z => hm z.1)]
  case thread =>
    have ht : (s.core core).thread? slot = some t := h.thread
    rw [State.thread?, threads, State.core_modCore_self, Core.thread?_advance, if_pos rfl, ht]
    rfl
  case others =>
    have first : OnlyThread slot (s.core core) ((s.modCore core (·.advance slot len)).core core) := by
      rw [State.core_modCore_self]
      exact OnlyThread.advance _ slot len
    exact OthersThinned.of_only (first.trans
      (core_rel_modCore (R := OnlyThread slot) (OnlyThread.refl slot) (OnlyThread.writeStore slot · off n v) _ c core))
  case frame =>
    exact (core_rel_modCore RegFrame.refl (RegFrame.advance · slot len) s core m).trans
      (core_rel_modCore RegFrame.refl (RegFrame.writeStore · off n v) _ c m)
  case crews =>
    exact (core_rel_modCore (R := fun k k' => k'.crews = k.crews) (fun _ => rfl) (f := (·.writeStore off n v)) (fun _ => rfl) _ c m).trans
      (core_rel_modCore (R := fun k k' => k'.crews = k.crews) (fun _ => rfl) (fun k => k.advance_crews slot len) s core m)
  case elsewhere =>
    rw [threads, State.core_modCore_ne s _ hm]
    exact thinned_same _

end
end Sys2Proof.Machine

open Sys2Proof.Machine Sys2Proof.Claims

/-- Settles O25: the store resolves into a window, and is performed there behind the thread's advance. -/
theorem storeToCoreStore : Obligations.StoreToCoreStore := by
  unfold Obligations.StoreToCoreStore
  intro x s core slot t ptr v c off e h r p hv hr
  obtain ⟨w, -⟩ := InWindow.of_resolve hr
  refine completes_of_heldSeq (f := fun s => stOne x s (s.storeCover x)) (LatchBlind.landed t x.len c off _ _) h r.guard rfl (fun l => ?_)
  rw [stOne_lands (h.relatch l) (ready_relatch r l) (plain_relatch p l) (by rwa [State.srcN_relatch]) (w.relatch l)]
  exact landed_of_writeStore (h.relatch l) _ _ _ _ _

end

section
namespace Sys2Proof.Machine
open Sys2Proof Sys2Proof.Claims

/-! ## Branches (06 R148, R149) -/

section
variable {s : State} {core slot len : Nat} {t : Thread} {p : DWord} {x : XOps}

/-- An instruction whose threads act at once. -/
theorem completes_of_group {i : Instr} {g : Guard} {f : State → Nat → Nat → Thread → Except Stop (List Write)} {P : State → Prop}
    (h : Solo s core slot t) (on : t.guard g = true) (e : exec i s = done (s.runGroup len g f))
    (acts : P (s.commit core len slot (f s core slot t))) : Completes i s P := by
  refine ⟨_, e, ?_⟩
  rw [State.runGroup_solo h, if_pos on]
  exact acts

theorem commit_jumps (h : Solo s core slot t) (len : Nat) (p : DWord) :
    Result s (s.commit core len slot (.ok [.jump p])) core slot { t with pc := p } [] :=
  Result.one h.thread len (.jump p) nofun h.crew

/-- The registers of a pair are those that BRX and CALLX check (02 R56). -/
theorem MappedAll.pairOf {c : Core} {d : BitVec 8} (m : MappedAll c slot [d, d + 1]) : MappedAll c slot (pairOf d) := by
  intro e he
  unfold Machine.pairOf at he
  split at he
  · exact m e he
  · exact m e (by rw [List.mem_singleton.1 he]; exact List.mem_cons_self)

/-- The target of a BRX whose pair can be read and is misaligned (06 R149). -/
theorem pairTarget_misaligned (m : MappedAll (s.core core) slot [x.a, x.a + 1]) (hp : s.src64 core slot t none x.a = .ok p)
    (off : p.extractLsb' 0 2 ≠ 0) : pairTarget x s core slot t = .error (.trap causeMisaligned none) := by
  simp only [pairTarget, Core.checkMapped_ok m.pairOf, hp, need, beq_eq_false_iff_ne.2 off, trap, bind, Except.bind, Bool.false_eq_true,
    ↓reduceIte]

variable (m : MappedAll (s.core core) slot [x.a, x.a + 1]) (hp : s.src64 core slot t none x.a = .ok p)
include m hp

/-- A BRX to an aligned target. -/
theorem brx_jumps (h : Solo s core slot t) (aligned : p.extractLsb' 0 2 = 0) (len : Nat) :
    Result s (s.commit core len slot (brxOf x s core slot t)) core slot { t with pc := p } [] := by
  rw [brxOf, pairTarget_ok m hp aligned]
  exact commit_jumps h len p

/-- A BRX to a misaligned target. -/
theorem brx_traps (h : Solo s core slot t) (hd : Handled s t) (off : p.extractLsb' 0 2 ≠ 0) (len : Nat) :
    Trapped s (s.commit core len slot (brxOf x s core slot t)) core slot t causeMisaligned t.pc := by
  rw [brxOf, pairTarget_misaligned m hp off]
  exact Trapped.of_stop h.thread hd _

end

/-- BRX runs its threads at once, with the hint HOLD. -/
theorem completes_of_pairBranch {i : Instr} {x : XOps} {len : Nat} (hi : pairBranch i = some (x, len)) {s : State} {core slot : Nat} {t : Thread}
    {P : State → State → Prop} (blind : LatchBlind core slot P) (h : Solo s core slot t) (on : t.guard x.g = true)
    (acts : ∀ l, P (s.relatch core l) ((s.relatch core l).commit core len slot (brxOf x (s.relatch core l) core slot t))) :
    Completes i s (P s) := by
  cases i with
  | brx o | brxX o => cases hi; exact completes_of_heldGroup blind h on rfl acts
  | _ => cases hi

end Sys2Proof.Machine

open Sys2Proof.Machine Sys2Proof.Claims

/-- Settles O13: a relative branch jumps, and BRX jumps or traps by the alignment of the pair it reads. -/
theorem branchResult : Obligations.BranchResult := by
  unfold Obligations.BranchResult
  refine ⟨fun i g len off hi s core slot t h on => ?relative,
    fun i x len hi s core slot t p h on m hp => ⟨fun aligned => ?jump, fun off hd => ?trap⟩⟩
  case relative =>
    cases i with
    | bra o | braX o => cases hi; exact completes_of_group h on rfl (commit_jumps h _ _)
    | _ => cases hi
  case jump =>
    exact completes_of_pairBranch hi (LatchBlind.result _ _) h on
      (fun l => brx_jumps (m.relatch l) (by rwa [State.src64_relatch]) (h.relatch l) aligned len)
  case trap =>
    exact completes_of_pairBranch hi (LatchBlind.trapped _ _ _) h on
      (fun l => brx_traps (m.relatch l) (by rwa [State.src64_relatch]) (h.relatch l) (hd.relatch core l) off len)

end

section
namespace Sys2Proof.Machine
open Sys2Proof Sys2Proof.Claims

/-! ## Join masks (06 R151 to R155) -/

/-- A join mask read after one is written, in a crew that exists. -/
theorem Core.readJ_writeJ {c : Core} {crew : Nat} (hc : (c.crew? crew).isSome) (n : BitVec 3) (m : DWord × DWord) (k : Nat) (j : BitVec 3) :
    (c.writeJ crew n m).readJ k j = if k = crew ∧ j = n then m else c.readJ k j := by
  obtain ⟨y, hy⟩ := Option.isSome_iff_exists.1 hc
  simp only [Core.readJ, Core.writeJ, Core.crew?_modCrew]
  by_cases hk : k = crew
  · have same : n.toNat = j.toNat ↔ j = n := ⟨fun z => BitVec.eq_of_toNat_eq z.symm, fun z => by rw [z]⟩
    simp only [hk, ↓reduceIte, hy, Option.map_some, true_and]
    show (y.j.set n.toNat m n.isLt)[j.toNat] = if j = n then m else y.j[j.toNat]
    rw [Vector.getElem_set]
    simp only [same]
  · simp only [hk, ↓reduceIte, false_and]

/-- A write of a join mask changes nothing else of the crews. -/
theorem joinIs_writeJ {c : Core} {crew : Nat} (hc : (c.crew? crew).isSome) (n : BitVec 3) (m : DWord × DWord) :
    JoinIs c (c.writeJ crew n m) crew n m := by
  refine ⟨Core.readJ_writeJ hc n m, fun k j => ?_, fun o j => ?_, Core.writeJ_store c crew n m⟩
  · simp only [Core.readK, Core.writeJ, Core.crew?_modCrew]
    by_cases hk : k = crew
    · rw [if_pos hk, hk]
      cases c.crew? crew <;> rfl
    · rw [if_neg hk]
  · refine Core.vOff_crews (fun k => ?_) rfl o j
    show ((c.writeJ crew n m).crew? k).map (·.rbm) = _
    rw [Core.writeJ, Core.crew?_modCrew]
    by_cases hk : k = crew
    · rw [if_pos hk, hk]
      cases c.crew? crew <;> rfl
    · rw [if_neg hk]

theorem joinIs_trans {c c' c'' : Core} {crew : Nat} {n : BitVec 3} {m m' : DWord × DWord} (h : JoinIs c c' crew n m)
    (k : JoinIs c' c'' crew n m') : JoinIs c c'' crew n m' := by
  obtain ⟨masks, ks, maps, store⟩ := h
  obtain ⟨masks', ks', maps', store'⟩ := k
  refine ⟨fun i j => ?_, fun i j => (ks' i j).trans (ks i j), fun o j => (maps' o j).trans (maps o j), store'.trans store⟩
  rw [masks', masks]
  split
  · rfl
  · rfl

/-- A change before or behind it that leaves crews and store alone. -/
theorem joinIs_congr {c c₁ c₂ c' : Core} {crew : Nat} {n : BitVec 3} {m : DWord × DWord} (h : JoinIs c₁ c₂ crew n m)
    (crews : c₁.crews = c.crews) (store : c₁.store = c.store) (crews' : c'.crews = c₂.crews) (store' : c'.store = c₂.store) :
    JoinIs c c' crew n m := by
  obtain ⟨masks, ks, maps, same⟩ := h
  refine ⟨fun k j => ?_, fun k j => ?_, fun o j => ?_, store'.trans (same.trans store)⟩
  · rw [Core.readJ_congr crews', masks, Core.readJ_congr crews]
  · rw [Core.readK_congr crews', ks, Core.readK_congr crews]
  · rw [Core.vOff_congr crews', maps, Core.vOff_congr crews]

@[simp] theorem Core.thread?_writeJ (c : Core) (crew : Nat) (n : BitVec 3) (m : DWord × DWord) (o : Nat) :
    (c.writeJ crew n m).thread? o = c.thread? o := Core.thread?_congr (Core.writeJ_threads c crew n m) o

theorem tget_isSome_iff {α : Type} (l : List (Nat × α)) (k : Nat) : (tget l k).isSome ↔ k ∈ l.map (·.1) := by
  induction l with
  | nil => simp
  | cons e r ih =>
    rw [List.map_cons, List.mem_cons, tget]
    split <;> rename_i h
    · simp [h]
    · rw [ih]
      exact ⟨.inr, fun z => z.resolve_left (fun q => h q.symm)⟩

/-- The slots of a crew are those of its numbers that hold a thread. -/
theorem Core.mem_slotsIn {c : Core} {crew o : Nat} : o ∈ c.slotsIn crew ↔ o / 64 = crew ∧ (c.thread? o).isSome := by
  rw [Core.thread?, tget_isSome_iff, Core.slotsIn]
  simp only [List.mem_map, List.mem_filter, beq_iff_eq]
  exact ⟨fun ⟨e, ⟨he, hc⟩, eq⟩ => ⟨eq ▸ hc, e, he, eq⟩, fun ⟨hc, e, he, eq⟩ => ⟨e, ⟨he, eq ▸ hc⟩, eq⟩⟩

/-- A thread that waits at JOIN on mask n goes past it; another one stays as it is (06 R153). -/
def Thread.freed (n : BitVec 3) (t : Thread) : Thread :=
  match t.park with
  | some (.join k len) => if k = n then { t.past len with park := none } else t
  | _ => t

theorem Thread.freed_of_park {t : Thread} {n : BitVec 3} {len : Nat} (h : t.park = some (.join n len)) :
    t.freed n = { t.past len with park := none } := by
  rw [Thread.freed, h]
  exact if_pos rfl

theorem Thread.freed_of_ne {t : Thread} {n : BitVec 3} (h : ∀ len, t.park ≠ some (.join n len)) : t.freed n = t := by
  unfold Thread.freed
  split
  · rename_i k len hp
    exact if_neg (fun z => h len (by rw [hp, z]))
  · rfl

@[simp] theorem Thread.freed_freed (n : BitVec 3) (t : Thread) : (t.freed n).freed n = t.freed n := by
  by_cases h : ∃ len, t.park = some (.join n len)
  · obtain ⟨len, h⟩ := h
    rw [Thread.freed_of_park h]
    exact Thread.freed_of_ne nofun
  · rw [Thread.freed_of_ne (fun len z => h ⟨len, z⟩), Thread.freed_of_ne (fun len z => h ⟨len, z⟩)]

/-- One step of a release: the thread in a slot, if it waits on the mask, goes past its JOIN. -/
def Core.freeOne (n : BitVec 3) (c : Core) (slot : Nat) : Core :=
  match (c.thread? slot).bind (·.park) with
  | some (.join k len) => if k = n then c.advance slot len else c
  | _ => c

section
variable (n : BitVec 3) (c : Core)

/-- It frees the thread or changes nothing. -/
theorem Core.freeOne_cases (slot : Nat) : (∃ t len, c.thread? slot = some t ∧ t.park = some (.join n len) ∧ c.freeOne n slot = c.advance slot len) ∨
    ((∀ t len, c.thread? slot = some t → t.park ≠ some (.join n len)) ∧ c.freeOne n slot = c) := by
  unfold Core.freeOne
  cases ht : c.thread? slot with
  | none => exact .inr ⟨fun _ _ hu => (by cases hu), rfl⟩
  | some t =>
    rw [Option.bind_some]
    split
    · rename_i k len hp
      by_cases hk : k = n
      · rw [if_pos hk]
        exact .inl ⟨t, len, rfl, hk ▸ hp, rfl⟩
      · rw [if_neg hk]
        refine .inr ⟨fun u l hu z => hk ?_, rfl⟩
        cases hu
        rw [hp] at z
        cases z
        rfl
    · rename_i hp
      exact .inr ⟨fun u l hu z => hp n l (by cases hu; exact z), rfl⟩

theorem Core.thread?_freeOne (slot o : Nat) :
    (c.freeOne n slot).thread? o = if o = slot then (c.thread? slot).map (·.freed n) else c.thread? o := by
  rcases c.freeOne_cases n slot with ⟨t, len, ht, hp, e⟩ | ⟨stays, e⟩
  · rw [e, Core.thread?_advance, ht, Option.map_some, Option.map_some, Thread.freed_of_park hp]
    rfl
  · rw [e]
    split <;> rename_i ho
    · rw [ho]
      cases ht : c.thread? slot with
      | none => rfl
      | some t => rw [Option.map_some, Thread.freed_of_ne (fun len => stays t len ht)]
    · rfl

theorem Core.freeOne_same (slot : Nat) : (c.freeOne n slot).crews = c.crews ∧ (c.freeOne n slot).store = c.store := by
  rcases c.freeOne_cases n slot with ⟨t, len, -, -, e⟩ | ⟨-, e⟩
  · rw [e]
    exact ⟨c.advance_crews slot len, c.advance_store slot len⟩
  · rw [e]
    exact ⟨rfl, rfl⟩

theorem Core.foldl_freeOne_same (l : List Nat) : (l.foldl (Core.freeOne n) c).crews = c.crews ∧ (l.foldl (Core.freeOne n) c).store = c.store := by
  induction l generalizing c with
  | nil => exact ⟨rfl, rfl⟩
  | cons o r ih =>
    obtain ⟨crews, store⟩ := c.freeOne_same n o
    obtain ⟨crews', store'⟩ := ih (c.freeOne n o)
    exact ⟨crews'.trans crews, store'.trans store⟩

theorem Core.thread?_foldl_freeOne (l : List Nat) (o : Nat) :
    (l.foldl (Core.freeOne n) c).thread? o = if o ∈ l then (c.thread? o).map (·.freed n) else c.thread? o := by
  induction l generalizing c with
  | nil => rfl
  | cons i r ih =>
    rw [List.foldl_cons, ih, Core.thread?_freeOne]
    by_cases hi : o = i
    · subst hi
      rw [if_pos rfl, if_pos List.mem_cons_self]
      split
      · rw [Option.map_map]
        exact congrArg (Option.map · (c.thread? o)) (funext (Thread.freed_freed n))
      · rfl
    · simp only [hi, ↓reduceIte, List.mem_cons, false_or]

end

section
variable {c : Core} {crew : Nat} {n : BitVec 3} {m a : DWord}

/-- A mask with arrivals missing stays as it is (06 R153). -/
theorem Core.joinDone_of_missing (h : c.readJ crew n = (m, a)) (missing : m = 0 ∨ a ≠ m) : c.joinDone crew n = c := by
  simp only [Core.joinDone, h]
  exact if_neg (fun z => missing.elim z.1 (fun ne => ne z.2))

/-- A mask with no arrivals missing is released and cleared (06 R153). -/
theorem Core.joinDone_of_complete (h : c.readJ crew n = (m, a)) (some_ : m ≠ 0) (all : a = m) :
    c.joinDone crew n = ((c.slotsIn crew).foldl (Core.freeOne n) c).writeJ crew n (0, 0) := by
  simp only [Core.joinDone, h]
  exact if_pos ⟨some_, all⟩

theorem Core.thread?_joinDone (h : c.readJ crew n = (m, a)) (some_ : m ≠ 0) (all : a = m) (o : Nat) :
    (c.joinDone crew n).thread? o = if o / 64 = crew then (c.thread? o).map (·.freed n) else c.thread? o := by
  rw [Core.joinDone_of_complete h some_ all, Core.thread?_writeJ, Core.thread?_foldl_freeOne]
  simp only [Core.mem_slotsIn]
  by_cases hc : o / 64 = crew
  · cases ht : c.thread? o <;> simp [hc]
  · simp [hc]

theorem joinIs_joinDone (hc : (c.crew? crew).isSome) (h : c.readJ crew n = (m, a)) (some_ : m ≠ 0) (all : a = m) :
    JoinIs c (c.joinDone crew n) crew n (0, 0) := by
  obtain ⟨crews, store⟩ := c.foldl_freeOne_same n (c.slotsIn crew)
  rw [Core.joinDone_of_complete h some_ all]
  refine joinIs_congr (joinIs_writeJ (c := (c.slotsIn crew).foldl (Core.freeOne n) c) ?_ n (0, 0)) crews store rfl rfl
  unfold Core.crew? at hc ⊢
  rwa [crews]

end

/-! ### What JINIT, JLEAVE and JOIN do to the mask and the threads -/

section
variable {s : State} {core slot len : Nat} {t : Thread} {n : BitVec 3}

/-- A join mask has been written and the thread has gone on, or waits; nothing else has happened. -/
def MaskSet (core slot : Nat) (n : BitVec 3) (m : DWord × DWord) (u : Thread) (s s' : State) : Prop :=
  OnlyCore core s s' ∧ OnlyThread slot (s.core core) (s'.core core) ∧ JoinIs (s.core core) (s'.core core) (slot / 64) n m ∧
    ∃ t', s'.thread? core slot = some t' ∧ t' = u

theorem LatchBlind.maskSet (m : DWord × DWord) (u : Thread) : LatchBlind core slot (MaskSet core slot n m u) :=
  LatchBlind.onlyCore.and (LatchBlind.onlyThread.and ((LatchBlind.of_core (R := fun c c' => JoinIs c c' (slot / 64) n m)
    (fun _ _ _ _ h => joinIs_congr h rfl rfl rfl rfl)).and (LatchBlind.thread _)))

/-- An advance and a write of a join mask. -/
theorem maskSet_advance (h : Solo s core slot t) (len : Nat) (n : BitVec 3) (m : DWord × DWord) :
    MaskSet core slot n m { t.past len with park := none } s (s.modCore core (fun c => (c.advance slot len).writeJ (slot / 64) n m)) := by
  have ht : (s.core core).thread? slot = some t := h.thread
  have crews := (s.core core).advance_crews slot len
  have crew : (((s.core core).advance slot len).crew? (slot / 64)).isSome := by
    have k := h.crew
    unfold Core.crew? at k ⊢
    rwa [crews]
  refine ⟨OnlyCore.modCore core s _, ?threads, ?mask, _, ?thread, rfl⟩
  case threads =>
    rw [State.core_modCore_self]
    exact (OnlyThread.advance _ slot len).trans
      ⟨fun o _ => Core.thread?_writeJ _ _ n m o, fun e he _ => by rwa [Core.writeJ_latch] at he⟩
  case mask =>
    rw [State.core_modCore_self]
    exact joinIs_congr (joinIs_writeJ crew n m) crews ((s.core core).advance_store slot len) rfl rfl
  case thread =>
    rw [State.thread?, State.core_modCore_self, Core.thread?_writeJ, Core.thread?_advance, if_pos rfl, ht]
    rfl

/-- A write of a join mask with the thread's wait on it. -/
theorem maskSet_parks (h : Solo s core slot t) (len : Nat) (n : BitVec 3) (m : DWord × DWord) :
    MaskSet core slot n m { t with park := some (.join n len) } s
      (s.modCore core (fun c => (c.writeJ (slot / 64) n m).modThread slot (fun t => { t with park := some (.join n len) }))) := by
  have ht : (s.core core).thread? slot = some t := h.thread
  refine ⟨OnlyCore.modCore core s _, ?threads, ?mask, _, ?thread, rfl⟩
  case threads =>
    rw [State.core_modCore_self]
    exact OnlyThread.trans (c' := (s.core core).writeJ (slot / 64) n m)
      ⟨fun o _ => Core.thread?_writeJ _ _ n m o, fun e he _ => by rwa [Core.writeJ_latch] at he⟩ (OnlyThread.modThread _ slot _)
  case mask =>
    rw [State.core_modCore_self]
    exact joinIs_congr (joinIs_writeJ h.crew n m) rfl rfl (Core.modThread_crews _ slot _) (Core.modThread_store _ slot _)
  case thread =>
    rw [State.thread?, State.core_modCore_self, Core.thread?_modThread_self, Core.thread?_writeJ, ht]
    rfl

/-- From a state in which the thread goes on or waits on a mask with no arrivals missing: it goes on, with every thread that waits (06 R153). -/
theorem released_of_joinDone {s₁ : State} {m a : DWord} {u : Thread} (set_ : MaskSet core slot n (m, a) u s s₁) (some_ : m ≠ 0) (all : a = m)
    (goes : u.freed n = { t.past len with park := none }) :
    OnlyCore core s (s₁.modCore core (·.joinDone (slot / 64) n)) ∧
      JoinIs (s.core core) ((s₁.modCore core (·.joinDone (slot / 64) n)).core core) (slot / 64) n (0, 0) ∧
      Released s (s₁.modCore core (·.joinDone (slot / 64) n)) core slot n ∧
      ∃ t', (s₁.modCore core (·.joinDone (slot / 64) n)).thread? core slot = some t' ∧ t' = { t.past len with park := none } := by
  obtain ⟨device, others, mask, t', ht', rfl⟩ := set_
  have now : (s₁.core core).readJ (slot / 64) n = (m, a) := by
    obtain ⟨masks, -⟩ := mask
    rw [masks, if_pos ⟨rfl, rfl⟩]
  have crew : ((s₁.core core).crew? (slot / 64)).isSome := by
    cases hs : (s₁.core core).crew? (slot / 64) with
    | some y => rfl
    | none =>
      rw [Core.readJ, hs] at now
      exact absurd (congrArg Prod.fst now).symm some_
  have threads (o : Nat) := Core.thread?_joinDone now some_ all o
  rw [State.core_modCore_self]
  refine ⟨device.trans (OnlyCore.modCore core s₁ _), joinIs_trans mask (joinIs_joinDone crew now some_ all),
    ⟨fun o u k ho hcrew hu hp => ?free, fun o ho stays => ?stay⟩, ?own⟩
  case free =>
    refine ⟨_, ?_, rfl⟩
    rw [State.thread?, State.core_modCore_self, threads, if_pos hcrew, others.same o ho]
    exact (congrArg (Option.map _) hu).trans (congrArg some (Thread.freed_of_park hp))
  case stay =>
    rw [State.thread?, State.core_modCore_self, threads, others.same o ho]
    show _ = (s.core core).thread? o
    split <;> rename_i hcrew
    · cases hu : (s.core core).thread? o with
      | none => rfl
      | some u => exact congrArg some (Thread.freed_of_ne (fun k => stays u k hcrew hu))
    · rfl
  case own =>
    refine ⟨_, ?_, rfl⟩
    rw [State.thread?, State.core_modCore_self, threads, if_pos rfl]
    exact (congrArg (Option.map _) ht').trans (congrArg some goes)

end

/-! ### The instructions -/

section
variable {s : State} {core slot len : Nat} {t : Thread} {n : BitVec 3} {x : XOps} {i : Instr} {g : Guard}

/-- JINIT of a group of one thread, with the hint HOLD. -/
theorem completes_of_jinit {P : State → State → Prop} (blind : LatchBlind core slot P) (h : Solo s core slot t) (on : t.guard x.g = true)
    (acts : ∀ l, P (s.relatch core l) ((s.relatch core l).jinitOne core x slot (s.relatch core l))) : Completes (.jinit x) s (P s) := by
  obtain ⟨lid, pc, hc⟩ := h.cur
  refine ⟨s.holding x (fun s => State.jinitOne s core x slot s), ?_, State.holding_of_blind blind h on acts⟩
  show execJinit x s = _
  rw [execJinit, hc]
  rfl

theorem jinitOne_sets (h : Solo s core slot t) (on : t.guard x.g = true) {v : DWord} (hv : s.src64 core slot t x.lit x.a = .ok v)
    (none_ : ((s.core core).readJ (slot / 64) (x.d.setWidth 3)).2 = 0) :
    s.jinitOne core x slot s = s.modCore core (fun c =>
      (c.advance slot x.len).writeJ (slot / 64) (x.d.setWidth 3) (v &&& (s.core core).live (slot / 64), 0)) := by
  have loads : jinitOf x s core slot t = .ok (v &&& (s.core core).live (slot / 64)) := by
    simp only [jinitOf, hv, none_, need, beq_self_eq_true, ↓reduceIte, bind, Except.bind]
  simp only [State.jinitOne, h.thread, if_pos on, loads]

theorem jinitOne_traps (h : Solo s core slot t) (on : t.guard x.g = true) {v : DWord} (hv : s.src64 core slot t x.lit x.a = .ok v)
    (some_ : ((s.core core).readJ (slot / 64) (x.d.setWidth 3)).2 ≠ 0) :
    s.jinitOne core x slot s = s.stop core slot (.trap causeJoin none) := by
  have stops : jinitOf x s core slot t = .error (.trap causeJoin none) := by
    simp only [jinitOf, hv, beq_eq_false_iff_ne.2 some_, need, trap, Bool.false_eq_true, ↓reduceIte, bind, Except.bind]
  simp only [State.jinitOne, h.thread, if_pos on, stops]

/-- JLEAVE is an advance, a write of the mask, and the release where it is due (06 R154). -/
theorem jleaveOne_eq (n : BitVec 3) (len : Nat) (s : State) (core slot : Nat) (t : Thread) : jleaveOne n len s core slot t =
    (s.modCore core (fun c => (c.advance slot len).writeJ (slot / 64) n
      (((s.core core).readJ (slot / 64) n).1 &&& ~~~laneBit slot, ((s.core core).readJ (slot / 64) n).2 &&& ~~~laneBit slot))).modCore core
        (·.joinDone (slot / 64) n) := by
  rw [State.modCore_modCore, jleaveOne, State.modCore, State.modCore, Core.leaveJoin,
    Core.readJ_congr ((s.core core).advance_crews slot len)]

/-- JOIN of a thread in the mask is a write of the mask with its wait, and the release where it is due (06 R153). -/
theorem joinOne_eq (inside : ((s.core core).readJ (slot / 64) n).1 &&& laneBit slot ≠ 0) : joinOne n len s core slot t =
    (s.modCore core (fun c => (c.writeJ (slot / 64) n
      (((s.core core).readJ (slot / 64) n).1, ((s.core core).readJ (slot / 64) n).2 ||| laneBit slot)).modThread slot
        (fun t => { t with park := some (.join n len) }))).modCore core (·.joinDone (slot / 64) n) := by
  rw [State.modCore_modCore]
  exact if_neg inside

theorem joinOne_outside (outside : ((s.core core).readJ (slot / 64) n).1 &&& laneBit slot = 0) :
    joinOne n len s core slot t = s.stop core slot (.trap causeJoin none) := if_pos outside

/-- A mask that has been set with arrivals missing: nobody is released. -/
theorem maskSet_of_missing {s₁ : State} {m a : DWord} {u : Thread} (set_ : MaskSet core slot n (m, a) u s s₁) (missing : m = 0 ∨ a ≠ m) :
    MaskSet core slot n (m, a) u s (s₁.modCore core (·.joinDone (slot / 64) n)) := by
  obtain ⟨device, others, mask, t', ht', rfl⟩ := set_
  have now : (s₁.core core).readJ (slot / 64) n = (m, a) := by
    obtain ⟨masks, -⟩ := mask
    rw [masks, if_pos ⟨rfl, rfl⟩]
  have stays : s₁.modCore core (·.joinDone (slot / 64) n) = s₁ := by
    refine Eq.trans ?_ (State.modCore_id ht')
    exact congrArg (s₁.setCore core) (Core.joinDone_of_missing now missing)
  rw [stays]
  exact ⟨device, others, mask, t', ht', rfl⟩

/-- JLEAVE runs its threads in sequence. -/
theorem completes_of_leaves (hi : leaves i = some (g, n, len)) (h : Solo s core slot t) (on : t.guard g = true) {P : State → Prop}
    (acts : P (jleaveOne n len s core slot t)) : Completes i s P := by
  cases i with
  | jleave o | jleaveX o => cases hi; exact completes_of_seq h on rfl acts
  | _ => cases hi

/-- JOIN runs its threads in sequence. -/
theorem completes_of_joins (hi : joins i = some (g, n, len)) (h : Solo s core slot t) (on : t.guard g = true) {P : State → Prop}
    (acts : P (joinOne n len s core slot t)) : Completes i s P := by
  cases i with
  | joinS o | joinX o => cases hi; exact completes_of_seq h on rfl acts
  | _ => cases hi

end

end Sys2Proof.Machine

open Sys2Proof.Machine Sys2Proof.Claims

/-- Settles O17: JINIT by whether the mask has arrivals, and JLEAVE by whether arrivals are missing behind it. -/
theorem joinMaskResult : Obligations.JoinMaskResult := by
  unfold Obligations.JoinMaskResult
  refine ⟨fun x s core slot t v h on hv => ⟨fun none_ => ?init, fun some_ hd => ?trap⟩,
    fun i g n len hi s core slot t h on => ⟨fun missing => ?leave, fun some_ all => ?release⟩⟩
  case init =>
    refine completes_of_jinit (LatchBlind.maskSet _ _) h on (fun l => ?_)
    rw [jinitOne_sets (h.relatch l) on (by rwa [State.src64_relatch]) (by rwa [State.core_relatch_self]), State.core_relatch_self]
    exact maskSet_advance (h.relatch l) _ _ _
  case trap =>
    refine completes_of_jinit (LatchBlind.trapped _ _ _) h on (fun l => ?_)
    rw [jinitOne_traps (h.relatch l) on (by rwa [State.src64_relatch]) (by rwa [State.core_relatch_self])]
    exact Trapped.of_stop (h.relatch l).thread (hd.relatch core l) _
  case leave =>
    refine completes_of_leaves hi h on ?_
    rw [jleaveOne_eq]
    exact maskSet_of_missing (maskSet_advance h len n _) missing
  case release =>
    refine completes_of_leaves hi h on ?_
    rw [jleaveOne_eq]
    exact released_of_joinDone (maskSet_advance h len n _) some_ all (Thread.freed_of_ne nofun)

/-- Settles O18: a JOIN by whether the thread is in the mask, and whether it is the last of the mask to arrive. -/
theorem joinResult : Obligations.JoinResult := by
  unfold Obligations.JoinResult
  intro i g n len hi s core slot t h on
  refine ⟨fun inside missing => completes_of_joins hi h on ?wait, fun inside all => completes_of_joins hi h on ?release,
    fun outside hd => completes_of_joins hi h on ?trap⟩
  case wait =>
    rw [joinOne_eq inside]
    obtain ⟨device, others, mask, t', ht', eq⟩ := maskSet_of_missing (maskSet_parks h len n _) (.inr missing)
    exact ⟨device, others, mask, eq ▸ ht'⟩
  case release =>
    rw [joinOne_eq inside]
    refine released_of_joinDone (maskSet_parks h len n _) (fun zero => inside ?_) all (Thread.freed_of_park rfl)
    rw [zero]
    exact BitVec.zero_and
  case trap =>
    rw [joinOne_outside outside]
    exact Trapped.of_stop h.thread hd _

end

section
namespace Sys2Proof.Machine
open Sys2Proof Sys2Proof.Claims

/-! ## Arriving at a cross-lane instruction (06 R159, R160) -/

/-- A thread that stands at a cross-lane instruction with what a member brought. -/
def Thread.standing (i : Instr) (mask : DWord) (len : Nat) (m : Member) (t : Thread) : Thread :=
  { t with park := some (.cross i mask m.active m.a m.b m.q len) }

theorem subMode_toNat (sub : BitVec 6) : (sub.extractLsb' 0 2).toNat = sub.toNat % 4 := BitVec.extractLsb'_toNat 0 2 sub

theorem extractLsb'_three (d : BitVec 8) : d.extractLsb' 0 3 = d.setWidth 3 := (BitVec.setWidth_eq_extractLsb' (by decide)).symm

section
variable {s : State} {core slot : Nat} {t : Thread} {x : XOps} {i : Instr}

theorem Thread.qOf_eq (t : Thread) (c : BitVec 8) : t.qOf c = xor (t.pred (c.extractLsb' 0 3)) (c.getLsbD 3) := by
  rw [extractLsb'_three]
  rfl

theorem crossMask_eq (s : State) (core slot : Nat) (x : XOps) : (s.core core).maskOf (slot / 64) x = crossMask s core slot x := rfl

/-- A thread whose registers are mapped reads what the statements say that it brings (06 R160, R161, R165). -/
theorem crossReads_of_brings {m : Member} (hi : crossOps i = some x) (mapped : MappedAll (s.core core) slot (crossCodes i))
    (b : Brings s core slot t i m) : crossReads i s core slot t = .ok (m.a, m.b, m.q) := by
  cases i with
  | vote y =>
    obtain ⟨ha, hb, hq⟩ := b
    have codes : MappedAll (s.core core) slot (if y.sub.toNat % 4 = 2 then pairOf y.d else []) := by
      split <;> rename_i ballot
      · have two : y.sub.extractLsb' 0 2 = 2 := BitVec.eq_of_toNat_eq ((subMode_toNat _).trans ballot)
        simp only [crossCodes, aloneCodes, two, ↓reduceIte] at mapped
        exact mapped.pairOf
      · exact fun d hd => nomatch hd
    simp only [crossReads, Core.checkMapped_ok codes, Thread.qOf_eq, ha, hb, hq, bind, Except.bind]
  | prfx y =>
    obtain ⟨ha, hb, hq⟩ := b
    have codes : MappedAll (s.core core) slot [y.d] := mapped
    simp only [crossReads, Core.checkMapped_ok codes, Thread.qOf_eq, ha, hb, hq, bind, Except.bind]
  | shfl y =>
    cases hi
    obtain ⟨a, b, hsa, hsb, ha, hb, hq⟩ := b
    have codes : MappedAll (s.core core) slot [x.d] := mapped
    simp only [crossReads, Core.checkMapped_ok codes, hsa, hsb, ha, hb, hq, bind, Except.bind]
  | cred y =>
    cases hi
    obtain ⟨a, hsa, ha, hb, hq⟩ := b
    have codes : MappedAll (s.core core) slot [x.d] := mapped
    simp only [crossReads, Core.checkMapped_ok codes, hsa, ha, hb, hq, bind, Except.bind]
  | stcp y =>
    cases hi
    obtain ⟨hp, ⟨v, hv, hb⟩, hq⟩ := b
    have size : sizeOf_ x = 2 ^ (x.sub.extractLsb' 0 3).toNat := rfl
    have codes : MappedAll (s.core core) slot ([x.d] ++ baseCodes x ++ codesOf x.b (2 ^ (x.sub.extractLsb' 0 3).toNat)) := mapped
    simp only [crossReads, size, Core.checkMapped_ok codes, hp, hv, Thread.qOf_eq, hb, hq, bind, Except.bind]
  | _ => cases hi

/-- A thread outside the mask, active or not (06 R159, log 41). -/
theorem crossArrive_outside (ht : s.thread? core slot = some t) (i : Instr) (out : (crossMask s core slot x).getLsbD (slot % 64) = false) :
    State.crossArrive i x core s slot = s.stop core slot (.trap causeJoin none) := by
  simp only [State.crossArrive, ht, crossMask_eq, out, Bool.not_false, ↓reduceIte]

/-- A thread in the mask stands at the instruction with what it has read, or with nothing (06 R160, 03 R70). -/
theorem crossArrive_stands {m : Member} (ht : s.thread? core slot = some t) (named : (crossMask s core slot x).getLsbD (slot % 64) = true)
    (active : m.active = t.guard x.g) (reads : t.guard x.g = true → crossReads i s core slot t = .ok (m.a, m.b, m.q))
    (nothing : t.guard x.g = false → m.a = 0 ∧ m.b = 0 ∧ m.q = false) :
    State.crossArrive i x core s slot = s.modThread core slot (·.standing i (crossMask s core slot x) x.len m) := by
  simp only [State.crossArrive, ht, crossMask_eq, named, Bool.not_true, Bool.false_eq_true, ↓reduceIte]
  cases on : t.guard x.g with
  | true => simp only [reads on, Thread.standing, active, on, ↓reduceIte]
  | false =>
    obtain ⟨ha, hb, hq⟩ := nothing on
    simp only [Thread.standing, active, on, ha, hb, hq, Bool.false_eq_true, ↓reduceIte]

/-- A cross-lane instruction of a group of one thread. -/
theorem State.runCross_solo (h : Solo s core slot t) (i : Instr) (x : XOps) :
    s.runCross i x = (State.crossArrive i x core s slot).settleCross core (slot / 64) := by
  obtain ⟨lid, pc, hc⟩ := h.cur
  simp [State.runCross, hc, Group.crews, List.eraseDups_cons]

/-- The cross-lane instructions run with the hint HOLD, also for a thread whose guard is false. -/
theorem completes_of_cross {P : State → State → Prop} (hi : crossOps i = some x) (blind : LatchBlind core slot P) (h : Solo s core slot t)
    (acts : ∀ l, P (s.relatch core l) ((s.relatch core l).runCross i x)) : Completes i s (P s) := by
  have held : P s (s.holding x (·.runCross i x)) := by
    cases on : t.guard x.g with
    | true => exact State.holding_of_blind blind h on acts
    | false =>
      rw [State.holding_off h on]
      have k := acts (s.core core).latch
      rwa [State.relatch_self h.thread] at k
  cases i with
  | vote y | shfl y | prfx y | cred y | stcp y => cases hi; exact ⟨_, rfl, held⟩
  | _ => cases hi

end

/-! ## Settling a crew's rendezvous (06 R160) -/

/-- No thread of a crew stands at a cross-lane instruction. -/
def Quiet (c : Core) (crew : Nat) : Prop := ∀ o u, o / 64 = crew → c.thread? o = some u → u.atCross = false

theorem mem_lanes {crew o : Nat} : o ∈ (List.range 64).map (crew * 64 + ·) ↔ o / 64 = crew := by
  rw [List.mem_map]
  constructor
  · rintro ⟨l, hl, rfl⟩
    have := List.mem_range.1 hl
    omega
  · intro h
    exact ⟨o % 64, List.mem_range.2 (by omega), by omega⟩

/-- A fold whose steps do nothing until one makes b of a, and nothing from then on. -/
theorem foldl_reaches {α β : Type} {f : α → β → α} {a b : α} {l : List β} (step : ∀ o ∈ l, f a o = a ∨ f a o = b)
    (stays : ∀ o ∈ l, f b o = b) (reaches : ∃ o ∈ l, f a o = b) : l.foldl f a = b := by
  have fixed {z : α} {r : List β} (h : ∀ o ∈ r, f z o = z) : r.foldl f z = z := by
    induction r with
    | nil => rfl
    | cons o r ih => rw [List.foldl_cons, h o List.mem_cons_self, ih (fun o ho => h o (List.mem_cons_of_mem _ ho))]
  induction l with
  | nil =>
    obtain ⟨o, ho, -⟩ := reaches
    cases ho
  | cons o r ih =>
    rw [List.foldl_cons]
    have rest := fixed (fun o ho => stays o (List.mem_cons_of_mem _ ho))
    rcases step o List.mem_cons_self with e | e
    · obtain ⟨w, hw, ew⟩ := reaches
      rcases List.mem_cons.1 hw with rfl | hw
      · rw [ew, rest]
      · rw [e]
        exact ih (fun o ho => step o (List.mem_cons_of_mem _ ho)) (fun o ho => stays o (List.mem_cons_of_mem _ ho)) ⟨w, hw, ew⟩
    · rw [e, rest]

/-- Settling does what completing does, where no rendezvous is lost behind it. -/
theorem State.settleCross_eq {s s₁ : State} {core crew : Nat}
    (completed : ((List.range 64).map (crew * 64 + ·)).foldl (fun s o => s.crossOf core o) s = s₁)
    (held : ∀ o, o / 64 = crew → (s₁.core core).crossLost o = false) : s.settleCross core crew = s₁ := by
  have lost : ((List.range 64).map (crew * 64 + ·)).filter (s₁.core core).crossLost = [] :=
    List.filter_eq_nil_iff.2 (fun o ho => Bool.eq_false_iff.1 (held o (mem_lanes.1 ho)))
  unfold State.settleCross
  dsimp only
  rw [completed, lost]
  rfl

/-- A thread that stands at no cross-lane instruction waits at no rendezvous. -/
theorem Core.crossing_of_not {c : Core} {o : Nat} (h : ∀ u, c.thread? o = some u → u.atCross = false) : c.crossing o = none := by
  unfold Core.crossing
  cases ht : c.thread? o with
  | none => rfl
  | some u =>
    have away := h u ht
    unfold Thread.atCross at away
    dsimp only
    cases hp : u.park with
    | none => rfl
    | some p =>
      rw [hp] at away
      cases p with
      | cross => cases away
      | _ => rfl

section
variable {s : State} {core crew : Nat}

theorem State.crossOf_of_not {o : Nat} (h : ∀ u, (s.core core).thread? o = some u → u.atCross = false) : s.crossOf core o = s := by
  simp only [State.crossOf, Core.crossing_of_not h]

theorem Core.crossLost_of_not {c : Core} {o : Nat} (h : ∀ u, c.thread? o = some u → u.atCross = false) : c.crossLost o = false := by
  simp only [Core.crossLost, Core.crossing_of_not h]

/-- Where one rendezvous of the crew completes and nobody stands at another behind it. -/
theorem State.settleCross_of_complete {s₁ : State} (step : ∀ o, o / 64 = crew → s.crossOf core o = s ∨ s.crossOf core o = s₁)
    (reaches : ∃ o, o / 64 = crew ∧ s.crossOf core o = s₁) (quiet : Quiet (s₁.core core) crew) : s.settleCross core crew = s₁ := by
  have away (o : Nat) (ho : o / 64 = crew) : ∀ u, (s₁.core core).thread? o = some u → u.atCross = false := fun u => quiet o u ho
  obtain ⟨o, ho, e⟩ := reaches
  exact State.settleCross_eq (foldl_reaches (fun o ho => step o (mem_lanes.1 ho)) (fun o ho => State.crossOf_of_not (away o (mem_lanes.1 ho)))
    ⟨o, mem_lanes.2 ho, e⟩) (fun o ho => Core.crossLost_of_not (away o ho))

/-- Where none completes and none is lost. -/
theorem State.settleCross_of_waiting (waits : ∀ o, o / 64 = crew → s.crossOf core o = s)
    (held : ∀ o, o / 64 = crew → (s.core core).crossLost o = false) : s.settleCross core crew = s := by
  have first : crew * 64 / 64 = crew := Nat.mul_div_cancel crew (by decide)
  exact State.settleCross_eq (foldl_reaches (fun o ho => .inl (waits o (mem_lanes.1 ho))) (fun o ho => waits o (mem_lanes.1 ho))
    ⟨crew * 64, mem_lanes.2 first, waits _ first⟩) held

end

/-! ## Participants (06 R159) -/

section
variable {c : Core} {crew : Nat} {mask : DWord}

theorem Core.mem_participants {p : Nat} :
    p ∈ c.participants crew mask ↔ p / 64 = crew ∧ mask.getLsbD (p % 64) = true ∧ (c.thread? p).isSome := by
  unfold Core.participants
  rw [List.mem_filterMap]
  constructor
  · rintro ⟨l, hl, e⟩
    have := List.mem_range.1 hl
    split at e <;> rename_i h
    · cases e
      have lane : (crew * 64 + l) % 64 = l := by omega
      exact ⟨by omega, by rw [lane]; exact h.1, h.2⟩
    · cases e
  · rintro ⟨hc, hm, ht⟩
    have place : crew * 64 + p % 64 = p := by omega
    exact ⟨p % 64, List.mem_range.2 (by omega), by rw [place, if_pos ⟨hm, ht⟩]⟩

/-- They are listed in lane order. -/
theorem Core.participants_pairwise : (c.participants crew mask).Pairwise (· < ·) := by
  unfold Core.participants
  refine List.Pairwise.filterMap _ (R := (· < ·)) (fun a a' lt b hb b' hb' => ?_) List.pairwise_lt_range
  split at hb
  · split at hb'
    · cases hb; cases hb'; omega
    · cases hb'
  · cases hb

theorem Core.participants_nodup : (c.participants crew mask).Nodup := Core.participants_pairwise.imp (fun h => Nat.ne_of_lt h)

/-- Which threads are live decides who takes part. -/
theorem Core.participants_congr {c' : Core} (h : ∀ o, (c'.thread? o).isSome = (c.thread? o).isSome) :
    c'.participants crew mask = c.participants crew mask := by
  simp only [Core.participants, h]

/-- A thread alone in its crew is the only participant. -/
theorem Core.participants_alone {slot : Nat} (live : (c.thread? slot).isSome) (named : mask.getLsbD (slot % 64) = true)
    (alone : ∀ o ∈ c.slotsIn (slot / 64), o = slot) : c.participants (slot / 64) mask = [slot] := by
  have me : slot ∈ c.participants (slot / 64) mask := Core.mem_participants.2 ⟨rfl, named, live⟩
  have only : ∀ p ∈ c.participants (slot / 64) mask, p = slot := fun p hp => by
    obtain ⟨hc, -, ht⟩ := Core.mem_participants.1 hp
    exact alone p (Core.mem_slotsIn.2 ⟨hc, ht⟩)
  have distinct := Core.participants_nodup (c := c) (crew := slot / 64) (mask := mask)
  revert me only distinct
  generalize c.participants (slot / 64) mask = l
  intro me only distinct
  cases l with
  | nil => cases me
  | cons a r =>
    cases r with
    | nil => rw [only a List.mem_cons_self]
    | cons b r =>
      have same : a = b := (only a List.mem_cons_self).trans (only b (List.mem_cons_of_mem _ List.mem_cons_self)).symm
      exact absurd same ((List.nodup_cons.1 distinct).1 |> fun n z => n (z ▸ List.mem_cons_self))

end

/-! ## A rendezvous that is complete, and one that is not (06 R160) -/

/-- The participants ms of a rendezvous stand at it, with what they brought, and nobody else of the crew stands at a cross-lane instruction. -/
structure Met (c : Core) (crew : Nat) (i : Instr) (mask : DWord) (len : Nat) (pc : DWord) (ms : List Member) : Prop where
  slots : ms.map (·.slot) = c.participants crew mask
  stand : ∀ m ∈ ms, ∃ u, c.thread? m.slot = some u ∧ u.pc = pc ∧ u.park = some (.cross i mask m.active m.a m.b m.q len)
  only : ∀ o u, o / 64 = crew → c.thread? o = some u → u.atCross = true → o ∈ ms.map (·.slot)

section
variable {c : Core} {crew : Nat} {i : Instr} {mask pc : DWord} {len : Nat} {ms : List Member}

theorem Met.inCrew (h : Met c crew i mask len pc ms) {m : Member} (hm : m ∈ ms) : m.slot / 64 = crew := by
  have k : m.slot ∈ ms.map (·.slot) := List.mem_map.2 ⟨m, hm, rfl⟩
  rw [h.slots] at k
  exact (Core.mem_participants.1 k).1

theorem Met.sorted (h : Met c crew i mask len pc ms) : (ms.map (·.slot)).Pairwise (· < ·) := by
  rw [h.slots]
  exact Core.participants_pairwise

theorem Met.nodup (h : Met c crew i mask len pc ms) : (ms.map (·.slot)).Nodup := h.sorted.imp (fun k => Nat.ne_of_lt k)

/-- Who stands where is decided by the threads. -/
theorem Met.congr {c' : Core} (h : Met c crew i mask len pc ms) (same : ∀ o, c'.thread? o = c.thread? o) : Met c' crew i mask len pc ms where
  slots := h.slots.trans (Core.participants_congr (fun o => by rw [same])).symm
  stand := fun m hm => by rw [same]; exact h.stand m hm
  only := fun o u ho hu => h.only o u ho (by rw [← same]; exact hu)

/-- The rendezvous of each participant is that of all. -/
theorem Met.crossing (h : Met c crew i mask len pc ms) {m : Member} (hm : m ∈ ms) :
    ∃ ths, c.crossing m.slot = some (i, len, ths, true) ∧ ths.filterMap (fun e => memberOf e.1 e.2) = ms := by
  obtain ⟨u, hu, hpc, hp⟩ := h.stand m hm
  refine ⟨(ms.map (·.slot)).filterMap (fun p => (c.thread? p).map (fun u => (p, u))), ?_, ?_⟩
  · unfold Core.crossing
    rw [hu]
    dsimp only
    rw [hp]
    dsimp only
    rw [h.inCrew hm, ← h.slots, List.all_eq_true.2]
    intro e he
    obtain ⟨p, hp', he⟩ := List.mem_filterMap.1 he
    obtain ⟨m', hm', rfl⟩ := List.mem_map.1 hp'
    obtain ⟨w, hw, hwpc, hwp⟩ := h.stand m' hm'
    rw [hw] at he
    cases he
    rw [hwp, hwpc, hpc]
    simp
  · rw [List.filterMap_filterMap, List.filterMap_map]
    refine Eq.trans (List.filterMap_congr (g := some) (fun m' hm' => ?_)) List.filterMap_some
    obtain ⟨w, hw, -, hwp⟩ := h.stand m' hm'
    simp only [Function.comp_apply, hw, Option.map_some, Option.bind_some, memberOf, hwp]

/-- A rendezvous whose participants all stand at it completes, where nobody stands at another behind it. -/
theorem Met.settles {s : State} {core : Nat} (h : Met (s.core core) crew i mask len pc ms) (some_ : ms ≠ [])
    (quiet : Quiet ((s.crossDone core len i ms).core core) crew) : s.settleCross core crew = s.crossDone core len i ms := by
  have completes {m : Member} (hm : m ∈ ms) : s.crossOf core m.slot = s.crossDone core len i ms := by
    obtain ⟨ths, e, members⟩ := h.crossing hm
    simp only [State.crossOf, e, members]
  obtain ⟨m, hm⟩ := List.exists_mem_of_ne_nil ms some_
  refine State.settleCross_of_complete (fun o ho => ?_) ⟨m.slot, h.inCrew hm, completes hm⟩ quiet
  by_cases stands : o ∈ ms.map (·.slot)
  · obtain ⟨m', hm', rfl⟩ := List.mem_map.1 stands
    exact .inr (completes hm')
  · refine .inl (State.crossOf_of_not (fun u hu => ?_))
    rw [← Bool.not_eq_true]
    exact fun at_ => stands (h.only o u ho hu at_)

/-- A rendezvous that a participant has not joined is neither complete nor lost, if that participant stands at none. -/
theorem Core.crossing_of_missing {slot p : Nat} {u w : Thread} {m : Member} (hu : c.thread? slot = some u)
    (hp : u.park = some (.cross i mask m.active m.a m.b m.q len)) (named : p ∈ c.participants (slot / 64) mask) (hw : c.thread? p = some w)
    (away : w.atCross = false) : ∃ ths, c.crossing slot = some (i, len, ths, false) ∧ (p, w) ∈ ths := by
  have listed : (p, w) ∈ (c.participants (slot / 64) mask).filterMap (fun p => (c.thread? p).map (fun u => (p, u))) :=
    List.mem_filterMap.2 ⟨p, named, by rw [hw]; rfl⟩
  refine ⟨_, ?_, listed⟩
  unfold Core.crossing
  rw [hu]
  dsimp only
  rw [hp]
  dsimp only
  rw [List.all_eq_false.2]
  refine ⟨(p, w), listed, ?_⟩
  have no := away
  unfold Thread.atCross at no
  cases hq : w.park with
  | none => simp
  | some q =>
    rw [hq] at no
    cases q with
    | cross => cases no
    | _ => simp

end

end Sys2Proof.Machine
end

section
namespace Sys2Proof.Machine
open Sys2Proof Sys2Proof.Claims

/-! ## The end of a rendezvous: its participants advance, and the active ones write (06 R160, 04 R100) -/

/-- The writes of one thread's instruction. -/
def Core.applyAll (c : Core) (slot : Nat) (ws : List Write) : Core := ws.foldl (fun c w => c.apply slot w) c

/-- The writes of participants, those of the first one last (04 R100). -/
def Core.applyEach (c : Core) (f : Member → List Write) (l : List Member) : Core := l.foldr (fun m c => c.applyAll m.slot (f m)) c

/-- Participants advance. -/
def Core.passAll (c : Core) (len : Nat) (ms : List Member) : Core := ms.foldl (fun c m => c.advance m.slot len) c

/-- What the end of a rendezvous makes of its core. -/
def Core.crossed (c : Core) (len : Nat) (ms : List Member) (f : Member → List Write) : Core :=
  (c.passAll len ms).applyEach f (ms.filter (·.active))

theorem State.crossFinish_eq (s : State) (core len : Nat) (ms : List Member) (f : Member → List Write) :
    s.crossFinish core len ms f = s.modCore core (·.crossed len ms f) := rfl

/-- The rendezvous of one participant ends as an instruction of its thread does. -/
theorem State.crossFinish_one (s : State) (core len : Nat) (m : Member) (f : Member → List Write) :
    s.crossFinish core len [m] f = s.commit core len m.slot (.ok (if m.active then f m else [])) := by
  cases h : m.active <;> simp [State.crossFinish, State.commit, h]

/-! ### Threads -/

theorem thinned_trans {x y z : Option Thread} (h : Option.Rel Thinned x y) (k : Option.Rel Thinned y z) : Option.Rel Thinned x z := by
  cases h with
  | none => exact k
  | some h =>
    cases k with
    | some k => exact .some (Thinned.trans h k)

theorem eq_some_of_thinned {t : Thread} {y : Option Thread} (h : Option.Rel Thinned (some t) y) : ∃ t', y = some t' ∧ Thinned t t' := by
  cases h with
  | some h => exact ⟨_, rfl, h⟩

/-- Losing marks of registers ends no wait. -/
theorem Thinned.park {t t' : Thread} (h : Thinned t t') : t'.park = t.park := by
  obtain ⟨b, rfl⟩ := h
  rfl

theorem Near.park {u t' : Thread} (h : Near u t') : t'.park = none := by
  rw [h]

theorem Thread.atCross_of_park {t t' : Thread} (h : t'.park = t.park) : t'.atCross = t.atCross := by
  unfold Thread.atCross
  rw [h]

theorem Thread.not_atCross {t : Thread} (h : t.park = none) : t.atCross = false := by
  unfold Thread.atCross
  rw [h]

section
variable (c : Core) (slot : Nat)

theorem thinned_applyAll (ws : List Write) {o : Nat} (ho : o ≠ slot) :
    Option.Rel Thinned (c.thread? o) ((c.applyAll slot ws).thread? o) := by
  induction ws generalizing c with
  | nil => exact thinned_same _
  | cons w r ih => exact thinned_trans ((OthersThinned.apply c slot w).thinned o ho) (ih (c.apply slot w))

variable {c slot}

theorem Near.applyAll {u t : Thread} (ws : List Write) (h : c.thread? slot = some t) (n : Near u t) :
    ∃ t', (c.applyAll slot ws).thread? slot = some t' ∧ Near (ws.foldl Thread.wrote u) t' := by
  induction ws generalizing c u t with
  | nil => exact ⟨t, h, n⟩
  | cons w r ih =>
    obtain ⟨t', h', n'⟩ := Near.apply w h n
    exact ih h' n'

end

section
variable {c : Core} {f : Member → List Write} {len : Nat}

theorem Core.applyEach_cons (c : Core) (f : Member → List Write) (m : Member) (r : List Member) :
    c.applyEach f (m :: r) = (c.applyEach f r).applyAll m.slot (f m) := rfl

/-- A thread that is none of those that write only loses marks. -/
theorem thinned_applyEach {l : List Member} {o : Nat} (ho : o ∉ l.map (·.slot)) :
    Option.Rel Thinned (c.thread? o) ((c.applyEach f l).thread? o) := by
  induction l with
  | nil => exact thinned_same _
  | cons m r ih =>
    rw [List.map_cons, List.mem_cons, not_or] at ho
    exact thinned_trans (ih ho.2) (thinned_applyAll _ _ _ ho.1)

/-- A thread that writes takes its own writes, and loses marks besides. -/
theorem near_applyEach {l : List Member} (distinct : (l.map (·.slot)).Nodup) {m : Member} (hm : m ∈ l) {u t : Thread}
    (ht : c.thread? m.slot = some t) (n : Near u t) :
    ∃ t', (c.applyEach f l).thread? m.slot = some t' ∧ Near ((f m).foldl Thread.wrote u) t' := by
  induction l with
  | nil => cases hm
  | cons a r ih =>
    rw [List.map_cons, List.nodup_cons] at distinct
    obtain ⟨fresh, distinct⟩ := distinct
    rw [Core.applyEach_cons]
    rcases List.mem_cons.1 hm with rfl | hm
    · have before := thinned_applyEach (c := c) (f := f) fresh
      rw [ht] at before
      obtain ⟨t₁, h₁, thin⟩ := eq_some_of_thinned before
      exact Near.applyAll (f m) h₁ (n.thin thin)
    · obtain ⟨t₁, h₁, n₁⟩ := ih distinct hm
      have ne : m.slot ≠ a.slot := fun z => fresh (z ▸ List.mem_map.2 ⟨m, hm, rfl⟩)
      have behind := thinned_applyAll (c.applyEach f r) a.slot (f a) ne
      rw [h₁] at behind
      obtain ⟨t₂, h₂, thin⟩ := eq_some_of_thinned behind
      exact ⟨t₂, h₂, n₁.thin thin⟩

theorem Core.thread?_passAll {ms : List Member} (distinct : (ms.map (·.slot)).Nodup) (o : Nat) : (c.passAll len ms).thread? o =
    if o ∈ ms.map (·.slot) then (c.thread? o).map (fun u => { u.past len with park := none }) else c.thread? o := by
  unfold Core.passAll
  induction ms generalizing c with
  | nil => rfl
  | cons m r ih =>
    rw [List.map_cons, List.nodup_cons] at distinct
    rw [List.foldl_cons, ih distinct.2, Core.thread?_advance, List.map_cons]
    by_cases ho : o = m.slot
    · subst ho
      rw [if_neg distinct.1, if_pos rfl, if_pos List.mem_cons_self]
      rfl
    · simp only [ho, ↓reduceIte, List.mem_cons, false_or]

theorem Core.passAll_same (c : Core) (len : Nat) (ms : List Member) :
    (c.passAll len ms).crews = c.crews ∧ (c.passAll len ms).store = c.store := by
  unfold Core.passAll
  induction ms generalizing c with
  | nil => exact ⟨rfl, rfl⟩
  | cons m r ih =>
    obtain ⟨crews, store⟩ := ih (c.advance m.slot len)
    exact ⟨crews.trans (c.advance_crews m.slot len), store.trans (c.advance_store m.slot len)⟩

section
variable {ms : List Member} (distinct : (ms.map (·.slot)).Nodup)
include distinct

theorem nodup_active : ((ms.filter (·.active)).map (·.slot)).Nodup := distinct.sublist (List.filter_sublist.map _)

/-- Members of a rendezvous are told apart by their slots. -/
theorem member_eq {m m' : Member} (hm : m ∈ ms) (hm' : m' ∈ ms) (e : m.slot = m'.slot) : m = m' :=
  List.inj_on_of_nodup_map distinct hm hm' e

theorem crossed_active {m : Member} (hm : m ∈ ms) (on : m.active = true) {u : Thread} (hu : c.thread? m.slot = some u) :
    ∃ u', (c.crossed len ms f).thread? m.slot = some u' ∧ Near ((f m).foldl Thread.wrote (u.past len)) u' := by
  refine near_applyEach (nodup_active distinct) (List.mem_filter.2 ⟨hm, on⟩) (t := { u.past len with park := none }) ?_ rfl
  rw [Core.thread?_passAll distinct, if_pos (List.mem_map.2 ⟨m, hm, rfl⟩), hu]
  rfl

theorem crossed_inactive {m : Member} (hm : m ∈ ms) (off : m.active = false) {u : Thread} (hu : c.thread? m.slot = some u) :
    ∃ u', (c.crossed len ms f).thread? m.slot = some u' ∧ Thinned { u.past len with park := none } u' := by
  have writes_not : m.slot ∉ (ms.filter (·.active)).map (·.slot) := by
    intro z
    obtain ⟨m', hm', e⟩ := List.mem_map.1 z
    obtain ⟨hm', on⟩ := List.mem_filter.1 hm'
    rw [member_eq distinct hm' hm e, off] at on
    cases on
  have behind := thinned_applyEach (c := c.passAll len ms) (f := f) writes_not
  rw [Core.thread?_passAll distinct, if_pos (List.mem_map.2 ⟨m, hm, rfl⟩), hu] at behind
  exact eq_some_of_thinned behind

theorem crossed_other {o : Nat} (ho : o ∉ ms.map (·.slot)) : Option.Rel Thinned (c.thread? o) ((c.crossed len ms f).thread? o) := by
  have behind := thinned_applyEach (c := c.passAll len ms) (f := f) (l := ms.filter (·.active)) (o := o)
    (fun z => ho ((List.filter_sublist.map _).subset z))
  rwa [Core.thread?_passAll distinct, if_neg ho] at behind

end

/-- Behind a rendezvous nobody of the crew stands at a cross-lane instruction, if nobody else did. -/
theorem Met.quiet_crossed {crew : Nat} {i : Instr} {mask pc : DWord} {len' : Nat} {ms : List Member} (h : Met c crew i mask len' pc ms) :
    Quiet (c.crossed len ms f) crew := by
  intro o u ho hu
  by_cases stands : o ∈ ms.map (·.slot)
  · obtain ⟨m, hm, rfl⟩ := List.mem_map.1 stands
    obtain ⟨w, hw, -⟩ := h.stand m hm
    cases on : m.active with
    | true =>
      obtain ⟨u', hu', near⟩ := crossed_active (f := f) (len := len) h.nodup hm on hw
      rw [hu] at hu'
      cases hu'
      exact Thread.not_atCross near.park
    | false =>
      obtain ⟨u', hu', thin⟩ := crossed_inactive (f := f) (len := len) h.nodup hm on hw
      rw [hu] at hu'
      cases hu'
      exact Thread.not_atCross thin.park
  · have other := crossed_other (c := c) (f := f) (len := len) h.nodup stands
    rw [hu] at other
    cases hw : c.thread? o with
    | none => rw [hw] at other; cases other
    | some w =>
      rw [hw] at other
      obtain ⟨u', hu', thin⟩ := eq_some_of_thinned other
      cases hu'
      rw [Thread.atCross_of_park thin.park, ← Bool.not_eq_true]
      exact fun at_ => stands (h.only o w ho hw at_)

end

/-! ### Registers -/

section
variable {c : Core} {slot o : Nat}

/-- Register writes leave the maps alone. -/
theorem Core.vOff_apply (c : Core) (o : Nat) (w : Write) (slot n : Nat) : (c.apply o w).vOff slot n = c.vOff slot n := by
  cases w with
  | reg d v =>
    show (c.writeReg o d v).vOff slot n = _
    unfold Core.writeReg
    split
    · exact Core.vOff_congr ((Core.putV_crews _ o _ v).trans (c.supersede_crews o d)) slot n
    · split
      · rw [Core.vOff_writeK, Core.vOff_congr (c.supersede_crews o d)]
      · rfl
  | _ => exact Core.vOff_congr (Core.apply_quiet c o rfl).2 slot n

theorem Core.vOff_applyAll (c : Core) (o : Nat) (ws : List Write) (slot n : Nat) : (c.applyAll o ws).vOff slot n = c.vOff slot n := by
  induction ws generalizing c with
  | nil => rfl
  | cons w r ih => exact (ih (c.apply o w)).trans (Core.vOff_apply c o w slot n)

/-- A byte of the core store outside the register that is written (04 R91). -/
theorem Core.get_apply {w : Write} {b : Nat}
    (out : ∀ d v, w = .reg d v → d.toNat < 0xE0 → ∀ a, c.vOff o d.toNat = some a → b < a ∨ a + 4 ≤ b) :
    (c.apply o w).store.get b = c.store.get b := by
  cases w with
  | reg d v =>
    show (c.writeReg o d v).store.get b = _
    unfold Core.writeReg
    split <;> rename_i hd
    · rw [Core.putV_store, ← c.supersede_store o d]
      cases ha : c.vOff o d.toNat with
      | none =>
        have unmapped : (c.supersede o d).vOff o d.toNat = none := (Core.vOff_congr (c.supersede_crews o d) o d.toNat).trans ha
        rw [Core.writeV, unmapped]
      | some a =>
        rw [Core.store_writeV _ v ((Core.vOff_congr (c.supersede_crews o d) o d.toNat).trans ha),
          Memory.get_put32_out _ v (out d v rfl hd a ha)]
    · split
      · rw [Core.writeK_store, c.supersede_store o d]
      · rfl
  | _ => rw [(Core.apply_quiet c o rfl).1]

/-- The registers of different lanes lie apart, 4 bytes in every 256 (04 R91). -/
theorem Core.vOff_lane {n a : Nat} (h : c.vOff slot n = some a) : a % 256 = slot % 64 * 4 := by
  unfold Core.vOff at h
  split at h
  · cases h
  · split at h
    · cases h
      omega
    · cases h

/-- A v register of another lane than the one that writes. -/
theorem Core.readV_apply_ne (lanes : slot % 64 ≠ o % 64) (w : Write) (n : Nat) : (c.apply o w).readV slot n = c.readV slot n := by
  unfold Core.readV
  rw [Core.vOff_apply]
  cases ha : c.vOff slot n with
  | none => rfl
  | some a =>
    refine congrArg some (Memory.get32_congr (fun b lo hi => Core.get_apply (fun d v _ _ a' ha' => ?_)))
    have := Core.vOff_lane ha
    have := Core.vOff_lane ha'
    omega

theorem Core.readV_applyAll_ne (lanes : slot % 64 ≠ o % 64) (ws : List Write) (n : Nat) :
    (c.applyAll o ws).readV slot n = c.readV slot n := by
  induction ws generalizing c with
  | nil => rfl
  | cons w r ih => exact (ih (c := c.apply o w)).trans (Core.readV_apply_ne lanes w n)

theorem crew_of_regFrame {c c' : Core} {crew : Nat} (h : RegFrame c c') (hc : (c.crew? crew).isSome) : (c'.crew? crew).isSome := by
  have k := h.crews crew
  obtain ⟨y, hy⟩ := Option.isSome_iff_exists.1 hc
  rw [hy] at k
  cases hs : c'.crew? crew with
  | none => rw [hs] at k; cases k
  | some z => rfl

theorem RegFrame.applyAll (c : Core) (o : Nat) (ws : List Write) : RegFrame c (c.applyAll o ws) := by
  induction ws generalizing c with
  | nil => exact RegFrame.refl c
  | cons w r ih => exact (RegFrame.apply c o w).trans (ih (c.apply o w))

theorem RegFrame.applyEach (c : Core) (f : Member → List Write) (l : List Member) : RegFrame c (c.applyEach f l) := by
  induction l with
  | nil => exact RegFrame.refl c
  | cons m r ih => exact ih.trans (RegFrame.applyAll _ m.slot (f m))

theorem Core.vOff_applyEach (c : Core) (f : Member → List Write) (l : List Member) (slot n : Nat) :
    (c.applyEach f l).vOff slot n = c.vOff slot n := by
  induction l with
  | nil => rfl
  | cons m r ih => exact (Core.vOff_applyAll _ m.slot (f m) slot n).trans ih

theorem Core.get_applyAll {ws : List Write} {b : Nat}
    (out : ∀ d v, .reg d v ∈ ws → d.toNat < 0xE0 → ∀ a, c.vOff o d.toNat = some a → b < a ∨ a + 4 ≤ b) :
    (c.applyAll o ws).store.get b = c.store.get b := by
  induction ws generalizing c with
  | nil => rfl
  | cons w r ih =>
    refine (ih (c := c.apply o w) (fun d v hw hd a ha => ?_)).trans
      (Core.get_apply (fun d v e hd a ha => out d v (e ▸ List.mem_cons_self) hd a ha))
    exact out d v (List.mem_cons_of_mem _ hw) hd a (by rwa [Core.vOff_apply] at ha)

theorem Core.get_applyEach {f : Member → List Write} {l : List Member} {b : Nat}
    (out : ∀ m ∈ l, ∀ d v, .reg d v ∈ f m → d.toNat < 0xE0 → ∀ a, c.vOff m.slot d.toNat = some a → b < a ∨ a + 4 ≤ b) :
    (c.applyEach f l).store.get b = c.store.get b := by
  induction l with
  | nil => rfl
  | cons m r ih =>
    refine (Core.get_applyAll (c := c.applyEach f r) (fun d v hw hd a ha => ?_)).trans (ih (fun m hm => out m (List.mem_cons_of_mem _ hm)))
    exact out m List.mem_cons_self d v hw hd a (by rwa [Core.vOff_applyEach] at ha)

/-- A v register of a thread that writes holds what its own writes left in it: the other threads are in other lanes. -/
theorem Core.readV_applyEach {f : Member → List Write} {l : List Member} (lanes : l.Pairwise (fun o o' => o.slot % 64 ≠ o'.slot % 64))
    {m : Member} (hm : m ∈ l) {n : Nat} {w : Word}
    (own : ∀ r, ((c.applyEach f r).applyAll m.slot (f m)).readV m.slot n = some w) : (c.applyEach f l).readV m.slot n = some w := by
  induction l with
  | nil => cases hm
  | cons a r ih =>
    rw [List.pairwise_cons] at lanes
    rw [Core.applyEach_cons]
    rcases List.mem_cons.1 hm with rfl | hm
    · exact own r
    · rw [Core.readV_applyAll_ne (lanes.1 m hm).symm]
      exact ih lanes.2 hm

end

end Sys2Proof.Machine
end

section
namespace Sys2Proof.Machine
open Sys2Proof Sys2Proof.Claims

/-! ## FP32 results are patterns of 32 bits (14 R278) -/

theorem lt_two_pow_bitLen (m : Nat) : m < 2 ^ bitLen m := by
  unfold bitLen
  split <;> rename_i h
  · rw [h]
    exact Nat.one_pos
  · exact Nat.lt_log2_self

/-- Of the exact value a rounding keeps at most f + 1 bits. -/
theorem roundedPart_lt (f m : Nat) (e qmin : Int) :
    m * 2 ^ (e - max (e + bitLen m - 1 - f) qmin).toNat / 2 ^ (max (e + bitLen m - 1 - f) qmin - e).toNat < 2 ^ (f + 1) := by
  have bits := lt_two_pow_bitLen m
  have lower := le_max_left (e + bitLen m - 1 - f) qmin
  generalize max (e + bitLen m - 1 - f) qmin = q at lower
  rcases le_total q e with le | le
  · rw [Int.toNat_of_nonpos (Int.sub_nonpos_of_le le), pow_zero, Nat.div_one]
    calc m * 2 ^ (e - q).toNat < 2 ^ bitLen m * 2 ^ (e - q).toNat := Nat.mul_lt_mul_of_pos_right bits (by positivity)
      _ = 2 ^ (bitLen m + (e - q).toNat) := (pow_add ..).symm
      _ ≤ 2 ^ (f + 1) := Nat.pow_le_pow_right (by decide) (by omega)
  · rw [Int.toNat_of_nonpos (Int.sub_nonpos_of_le le), pow_zero, Nat.mul_one, Nat.div_lt_iff_lt_mul (by positivity), ← pow_add]
    exact bits.trans_le (Nat.pow_le_pow_right (by decide) (by omega))

theorem fp32_zero_lt (neg : Bool) : fp32.zero neg < 2 ^ 32 := by cases neg <;> decide

theorem fp32_inf_lt (neg : Bool) : fp32.inf neg < 2 ^ 32 := by cases neg <;> decide

theorem fp32_nan_lt : fp32.nan < 2 ^ 32 := by decide

theorem fp32_overflow_lt (mode : Rnd) (neg : Bool) : fp32.overflow mode neg < 2 ^ 32 := by cases mode <;> cases neg <;> decide

theorem fp32_round_lt (mode : Rnd) (neg : Bool) (m : Nat) (e : Int) : fp32.round mode neg m e < 2 ^ 32 := by
  have part := roundedPart_lt fp32.f m e fp32.qmin
  unfold Fmt.round
  dsimp only
  generalize max (e + bitLen m - 1 - fp32.f) fp32.qmin = q at part ⊢
  generalize m * 2 ^ (e - q).toNat % 2 ^ (q - e).toNat = r
  generalize m * 2 ^ (e - q).toNat / 2 ^ (q - e).toNat = k at part ⊢
  have f : fp32.f = 23 := rfl
  have emax : fp32.emax = 255 := rfl
  have sign : (if neg = true then 2 ^ (fp32.e + fp32.f) else 0) ≤ 2 ^ 31 := by cases neg <;> decide
  generalize (if neg = true then 2 ^ (fp32.e + fp32.f) else 0) = z at sign ⊢
  split
  · exact fp32_zero_lt neg
  · have carried : (if roundsUp mode neg k r (q - e).toNat false then k + 1 else k) ≤ 2 ^ 24 := by
      rw [f] at part
      split <;> omega
    generalize (if roundsUp mode neg k r (q - e).toNat false then k + 1 else k) = k' at carried
    rw [f, emax]
    have fits : (if 2 ^ (23 + 1) ≤ k' then (k' / 2, q + 1) else (k', q)).1 < 2 ^ 24 := by split <;> omega
    generalize (if 2 ^ (23 + 1) ≤ k' then (k' / 2, q + 1) else (k', q)) = p at fits
    split
    · omega
    · split
      · exact fp32_overflow_lt mode neg
      · omega

theorem fp32_add_lt (mode : Rnd) (a b : Nat) : fp32.add mode a b < 2 ^ 32 := by
  unfold Fmt.add
  split
  · exact fp32_nan_lt
  · exact fp32_nan_lt
  · split
    · exact fp32_inf_lt _
    · exact fp32_nan_lt
  · exact fp32_inf_lt _
  · exact fp32_inf_lt _
  · exact fp32_round_lt ..

theorem fp32_min_lt {a b : Nat} (ha : a < 2 ^ 32) (hb : b < 2 ^ 32) : fp32.min a b < 2 ^ 32 := by
  unfold Fmt.min
  split
  · split
    · exact fp32_nan_lt
    · exact hb
  · split
    · exact ha
    · split
      · exact hb
      · exact ha

theorem fp32_max_lt {a b : Nat} (ha : a < 2 ^ 32) (hb : b < 2 ^ 32) : fp32.max a b < 2 ^ 32 := by
  unfold Fmt.max
  split
  · split
    · exact fp32_nan_lt
    · exact hb
  · split
    · exact ha
    · split
      · exact hb
      · exact ha

theorem credNan_lt {v : Nat} (h : v < 2 ^ 32) : credNan v < 2 ^ 32 := by
  unfold credNan
  split
  · decide
  · exact h

theorem toNat_credNan {v : Nat} (h : v < 2 ^ 32) : (BitVec.ofNat 32 (credNan v)).toNat = credNan v := by
  rw [BitVec.toNat_ofNat, Nat.mod_eq_of_lt (credNan_lt h)]

/-! ## The reductions of CRED (06 R162) -/

/-- The sum of a node is that of the levels below it. -/
theorem credTree_eq_addLevel (val : Nat → Option Nat) (h i : Nat) : credTree val h (i * 2 ^ h) = (addLevel^[h] val) i := by
  induction h generalizing i with
  | zero => rw [pow_zero, Nat.mul_one]; rfl
  | succ h ih =>
    have left : i * 2 ^ (h + 1) = 2 * i * 2 ^ h := by ring
    have right : 2 * i * 2 ^ h + 2 ^ h = (2 * i + 1) * 2 ^ h := by ring
    rw [Function.iterate_succ_apply', credTree, left, right, ih, ih]
    unfold addLevel
    cases addLevel^[h] val (2 * i) <;> cases addLevel^[h] val (2 * i + 1) <;> rfl

theorem credTree_lt {val : Nat → Option Nat} (leaf : ∀ l v, val l = some v → v < 2 ^ 32) (h lo : Nat) :
    ∀ v, credTree val h lo = some v → v < 2 ^ 32 := by
  induction h generalizing lo with
  | zero => exact leaf lo
  | succ h ih =>
    intro v hv
    rw [credTree] at hv
    split at hv
    · cases hv; exact fp32_add_lt ..
    · rename_i e _; cases hv; exact ih lo v e
    · exact ih _ v hv

/-- A tree of one leaf. -/
theorem credTree_leaf {val : Nat → Option Nat} {lane v : Nat} (only : ∀ l, val l = if l = lane then some v else none) (h lo : Nat) :
    credTree val h lo = if lo ≤ lane ∧ lane < lo + 2 ^ h then some v else none := by
  induction h generalizing lo with
  | zero =>
    rw [credTree, only]
    refine if_congr ?_ rfl rfl
    rw [pow_zero]
    omega
  | succ h ih =>
    have double : 2 ^ (h + 1) = 2 ^ h + 2 ^ h := by ring
    rw [credTree, ih, ih, double]
    by_cases below : lane < lo + 2 ^ h
    · by_cases above : lo ≤ lane
      · rw [if_pos ⟨above, below⟩, if_neg (by omega), if_pos (by omega)]
      · rw [if_neg (by omega), if_neg (by omega), if_neg (by omega)]
    · by_cases above : lane < lo + 2 ^ h + 2 ^ h
      · rw [if_neg (by omega), if_pos (by omega), if_pos (by omega)]
      · rw [if_neg (by omega), if_neg (by omega), if_neg (by omega)]

/-- A fold that takes an element of a smaller key for what it has ends with one of the smallest key. -/
theorem foldl_least (key : Word → Int) {f : Word → Word → Word} (hf : ∀ x y, f x y = if key y < key x then y else x) (v : Word)
    (r : List Word) : r.foldl f v ∈ v :: r ∧ ∀ u ∈ v :: r, key (r.foldl f v) ≤ key u := by
  induction r generalizing v with
  | nil => simp
  | cons a r ih =>
    obtain ⟨mem, least⟩ := ih (f v a)
    rw [List.forall_mem_cons] at least
    obtain ⟨top, least⟩ := least
    rw [List.foldl_cons, List.forall_mem_cons, List.forall_mem_cons]
    rw [List.mem_cons] at mem
    have pick := hf v a
    split at pick <;> rename_i lt
    · rw [pick] at mem top least ⊢
      exact ⟨List.mem_cons_of_mem _ (List.mem_cons.2 mem), top.trans (Int.le_of_lt lt), top, least⟩
    · rw [pick] at mem top least ⊢
      exact ⟨List.mem_cons.2 (mem.imp_right (List.mem_cons_of_mem _)), top,
        top.trans (Int.not_lt.1 lt), least⟩

theorem foldl_lt {f : Nat → Nat → Nat} {b : Nat} (step : ∀ x y, x < b → y < b → f x y < b) (r : List Nat) (v : Nat) (hv : v < b)
    (hr : ∀ u ∈ r, u < b) : r.foldl f v < b := by
  induction r generalizing v with
  | nil => exact hv
  | cons a r ih => exact ih (f v a) (step v a hv (hr a List.mem_cons_self)) (fun u hu => hr u (List.mem_cons_of_mem _ hu))

theorem getLsbD_foldl_and (r : List Word) (v : Word) (k : Nat) :
    (r.foldl (· &&& ·) v).getLsbD k = true ↔ ∀ u ∈ v :: r, u.getLsbD k = true := by
  induction r generalizing v with
  | nil => simp
  | cons a r ih =>
    rw [List.foldl_cons, ih]
    simp only [List.forall_mem_cons, BitVec.getLsbD_and, Bool.and_eq_true, and_assoc]

theorem getLsbD_foldl_or (r : List Word) (v : Word) (k : Nat) :
    (r.foldl (· ||| ·) v).getLsbD k = true ↔ ∃ u ∈ v :: r, u.getLsbD k = true := by
  induction r generalizing v with
  | nil => simp
  | cons a r ih =>
    rw [List.foldl_cons, ih]
    simp only [List.exists_mem_cons_iff, BitVec.getLsbD_or, Bool.or_eq_true, or_assoc]

theorem getLsbD_foldl_xor (r : List Word) (v : Word) (k : Nat) :
    (r.foldl (· ^^^ ·) v).getLsbD k = true ↔ (v :: r).countP (fun u => u.getLsbD k) % 2 = 1 := by
  induction r generalizing v with
  | nil => cases h : v.getLsbD k <;> simp [h]
  | cons a r ih =>
    rw [List.foldl_cons, ih]
    simp only [List.countP_cons, BitVec.getLsbD_xor]
    cases v.getLsbD k <;> cases a.getLsbD k <;> simp
    omega

/-- A fold of words that starts with the first of them. -/
def foldFirst (f : Word → Word → Word) : List Word → Word
  | [] => 0
  | v :: r => r.foldl f v

/-- CRED folds the words of its participants, in their order. -/
theorem cred_fold_eq (f : Word → Word → Word) (ws : List Word) : (match ws.map BitVec.toNat with
    | [] => 0
    | v :: r => r.foldl (fun x y => f x (BitVec.ofNat 32 y)) (BitVec.ofNat 32 v)) = foldFirst f ws := by
  cases ws with
  | nil => rfl
  | cons v r =>
    simp only [List.map_cons, foldFirst, List.foldl_map, BitVec.ofNat_toNat, BitVec.setWidth_eq]

end Sys2Proof.Machine
end

section
namespace Sys2Proof.Machine
open Sys2Proof Sys2Proof.Claims

/-! ## What a cross-lane instruction makes of its participants (06 R161, R162) -/

/-- The register that a participant brought. -/
def Member.word (m : Member) : Word := m.a.extractLsb' 0 32

theorem Member.word_toNat (m : Member) : m.word.toNat = m.a.toNat % 2 ^ 32 := BitVec.extractLsb'_toNat 0 32 m.a

theorem setWidth_a (m : Member) : m.a.setWidth 32 = m.word := BitVec.setWidth_eq_extractLsb' (by decide)

theorem word_of_a {m : Member} {a : Word} (h : m.a = a.setWidth 64) : m.word = a := by
  rw [← setWidth_a, h, BitVec.setWidth_setWidth_of_le _ (by decide), BitVec.setWidth_eq]

theorem members_toNat (l : List Member) : l.map (fun m => m.a.toNat % 2 ^ 32) = (l.map Member.word).map BitVec.toNat := by
  rw [List.map_map]
  exact List.map_congr_left (fun m _ => m.word_toNat.symm)

/-- CRED folds the words of its participants in their order: SUB 0 to 7. -/
theorem credOf_fold (f : Word → Word → Word) (l : List Member) : (match l.map (fun m => m.a.toNat % 2 ^ 32) with
    | [] => 0
    | v :: r => r.foldl (fun x y => f x (BitVec.ofNat 32 y)) (BitVec.ofNat 32 v)) = foldFirst f (l.map Member.word) := by
  rw [members_toNat]
  exact cred_fold_eq f _

/-- A fold of patterns that starts with the first of them. -/
def foldPatterns (f : Nat → Nat → Nat) : List Nat → Nat
  | [] => 0
  | v :: r => r.foldl f v

theorem foldPatterns_lt {f : Nat → Nat → Nat} (step : ∀ x y, x < 2 ^ 32 → y < 2 ^ 32 → f x y < 2 ^ 32) (ws : List Word) :
    foldPatterns f (ws.map BitVec.toNat) < 2 ^ 32 := by
  cases ws with
  | nil => exact Nat.two_pow_pos 32
  | cons v r =>
    refine foldl_lt step _ _ v.isLt (fun u hu => ?_)
    obtain ⟨w, -, rfl⟩ := List.mem_map.1 hu
    exact w.isLt

section
variable (l : List Member)

/-- The sum, minimum or maximum of CRED on FP32 patterns: SUB 8 to 10. -/
theorem credOf_8 : credOf 8 l = BitVec.ofNat 32 (credNan ((credTree (fun n => (l.find? (fun m => m.lane == n)).map
    (fun m => m.a.toNat % 2 ^ 32)) 6 0).getD 0)) := rfl

theorem credOf_9 : credOf 9 l = BitVec.ofNat 32 (credNan (foldPatterns fp32.min ((l.map Member.word).map BitVec.toNat))) := by
  rw [← members_toNat]
  rfl

theorem credOf_10 (k : Nat) : credOf (k + 10) l = BitVec.ofNat 32 (credNan (foldPatterns fp32.max ((l.map Member.word).map BitVec.toNat))) := by
  rw [← members_toNat]
  rfl

/-- The leaves of the tree are the participants' lanes. -/
theorem find_lane (n : Nat) : (l.find? (fun m => m.lane == n)).map (fun m => m.a.toNat % 2 ^ 32) =
    (tget (l.map (fun o => (o.slot % 64, o.word))) n).map BitVec.toNat := by
  induction l with
  | nil => rfl
  | cons m r ih =>
    rw [List.find?_cons, List.map_cons, tget]
    by_cases h : m.slot % 64 = n
    · have lane : (m.lane == n) = true := beq_iff_eq.2 h
      rw [lane, if_pos h, Option.map_some, ← m.word_toNat]
      rfl
    · have lane : (m.lane == n) = false := beq_eq_false_iff_ne.2 h
      rw [lane, if_neg h]
      exact ih

variable {l}

/-- CRED makes of its active participants what 06 R162 says. -/
theorem credIs_credOf (op : Nat) (some_ : l ≠ []) : CredIs op (l.map (fun o => (o.slot % 64, o.word))) (credOf op l) := by
  have words : (l.map (fun o => (o.slot % 64, o.word))).map (·.2) = l.map Member.word := List.map_map
  unfold CredIs
  rw [words]
  obtain ⟨v, r, ws⟩ : ∃ v r, l.map Member.word = v :: r := List.exists_cons_of_ne_nil (fun z => some_ (List.map_eq_nil_iff.1 z))
  have fold (f : Word → Word → Word) : foldFirst f (l.map Member.word) = r.foldl f v := by rw [ws]; rfl
  match op with
  | 0 =>
    have e : credOf 0 l = r.foldl (· + ·) v := (credOf_fold (· + ·) l).trans (fold _)
    have zero : (0 : Word) + v = v := BitVec.zero_add v
    simp only [↓reduceIte, ws, List.foldl_cons, e, zero]
  | 1 =>
    have e : credOf 1 l = r.foldl (fun x y => if y.slt x then y else x) v :=
      (credOf_fold (fun x y => if y.slt x then y else x) l).trans (fold _)
    obtain ⟨mem, least⟩ := foldl_least BitVec.toInt (f := fun x y => if y.slt x then y else x) (fun x y => by simp [BitVec.slt]) v r
    rw [e, ws]
    exact ⟨mem, least⟩
  | 2 =>
    have e : credOf 2 l = r.foldl (fun x y => if x.slt y then y else x) v :=
      (credOf_fold (fun x y => if x.slt y then y else x) l).trans (fold _)
    obtain ⟨mem, least⟩ := foldl_least (fun x => -x.toInt) (f := fun x y => if x.slt y then y else x) (fun x y => by simp [BitVec.slt]) v r
    rw [e, ws]
    exact ⟨mem, fun u hu => Int.neg_le_neg_iff.1 (least u hu)⟩
  | 3 =>
    have e : credOf 3 l = r.foldl (fun x y => if y.ult x then y else x) v :=
      (credOf_fold (fun x y => if y.ult x then y else x) l).trans (fold _)
    obtain ⟨mem, least⟩ := foldl_least (fun x => x.toNat) (f := fun x y => if y.ult x then y else x) (fun x y => by simp [BitVec.ult]) v r
    rw [e, ws]
    exact ⟨mem, fun u hu => Int.ofNat_le.1 (least u hu)⟩
  | 4 =>
    have e : credOf 4 l = r.foldl (fun x y => if x.ult y then y else x) v :=
      (credOf_fold (fun x y => if x.ult y then y else x) l).trans (fold _)
    obtain ⟨mem, least⟩ := foldl_least (fun x => -(x.toNat : Int)) (f := fun x y => if x.ult y then y else x) (fun x y => by simp [BitVec.ult]) v r
    rw [e, ws]
    exact ⟨mem, fun u hu => Int.ofNat_le.1 (Int.neg_le_neg_iff.1 (least u hu))⟩
  | 5 =>
    have e : credOf 5 l = r.foldl (· &&& ·) v := (credOf_fold (· &&& ·) l).trans (fold _)
    rw [e, ws]
    exact fun k _ => getLsbD_foldl_and r v k
  | 6 =>
    have e : credOf 6 l = r.foldl (· ||| ·) v := (credOf_fold (· ||| ·) l).trans (fold _)
    rw [e, ws]
    exact fun k _ => getLsbD_foldl_or r v k
  | 7 =>
    have e : credOf 7 l = r.foldl (· ^^^ ·) v := (credOf_fold (· ^^^ ·) l).trans (fold _)
    rw [e, ws]
    exact fun k _ => getLsbD_foldl_xor r v k
  | 8 =>
    have leaf : ∀ n w, (tget (l.map (fun o => (o.slot % 64, o.word))) n).map BitVec.toNat = some w → w < 2 ^ 32 := by
      intro n w hw
      obtain ⟨u, -, rfl⟩ := Option.map_eq_some_iff.1 hw
      exact u.isLt
    have sum : (credTree (fun n => (tget (l.map (fun o => (o.slot % 64, o.word))) n).map BitVec.toNat) 6 0).getD 0 < 2 ^ 32 := by
      cases h : credTree (fun n => (tget (l.map (fun o => (o.slot % 64, o.word))) n).map BitVec.toNat) 6 0 with
      | none => decide
      | some w => exact credTree_lt leaf 6 0 w h
    have levels := credTree_eq_addLevel (fun n => (tget (l.map (fun o => (o.slot % 64, o.word))) n).map BitVec.toNat) 6 0
    rw [Nat.zero_mul] at levels
    rw [credOf_8]
    simp only [find_lane]
    refine (toNat_credNan sum).trans ?_
    rw [levels]
    rfl
  | 9 =>
    rw [credOf_9]
    exact toNat_credNan (foldPatterns_lt (fun _ _ => fp32_min_lt) _)
  | k + 10 =>
    have ne (n : Nat) (lt : n < 10) : ¬k + 10 = n := by omega
    rw [credOf_10]
    simp only [ne, Nat.reduceLT, ↓reduceIte]
    exact toNat_credNan (foldPatterns_lt (fun _ _ => fp32_max_lt) _)

/-- CRED of one participant is its word, or the NaN that CRED writes. -/
theorem credOf_one {op : Nat} (m : Member) : credOf op [m] = if 8 ≤ op ∧ fp32.isNan m.word.toNat = true then 0x7FC00000 else m.word := by
  have nan : BitVec.ofNat 32 (credNan m.word.toNat) = if fp32.isNan m.word.toNat = true then 0x7FC00000 else m.word := by
    unfold credNan
    split
    · rfl
    · rw [BitVec.ofNat_toNat, BitVec.setWidth_eq]
  have fold (f : Word → Word → Word) : foldFirst f ([m].map Member.word) = m.word := rfl
  have float {op : Nat} (le : 8 ≤ op) (e : credOf op [m] = BitVec.ofNat 32 (credNan m.word.toNat)) :
      credOf op [m] = if 8 ≤ op ∧ fp32.isNan m.word.toNat = true then 0x7FC00000 else m.word := by
    rw [e, nan]
    exact if_congr (by simp only [le, true_and]) rfl rfl
  match op with
  | 0 => exact (credOf_fold (· + ·) [m]).trans (fold _)
  | 1 => exact (credOf_fold (fun x y => if y.slt x then y else x) [m]).trans (fold _)
  | 2 => exact (credOf_fold (fun x y => if x.slt y then y else x) [m]).trans (fold _)
  | 3 => exact (credOf_fold (fun x y => if y.ult x then y else x) [m]).trans (fold _)
  | 4 => exact (credOf_fold (fun x y => if x.ult y then y else x) [m]).trans (fold _)
  | 5 => exact (credOf_fold (· &&& ·) [m]).trans (fold _)
  | 6 => exact (credOf_fold (· ||| ·) [m]).trans (fold _)
  | 7 => exact (credOf_fold (· ^^^ ·) [m]).trans (fold _)
  | 8 =>
    refine float (Nat.le_refl 8) ?_
    have lane : m.slot % 64 < 64 := Nat.mod_lt _ (by decide)
    rw [credOf_8]
    simp only [find_lane]
    rw [credTree_leaf (lane := m.slot % 64) (v := m.word.toNat) (fun n => ?_), if_pos ⟨Nat.zero_le _, by simpa using lane⟩, Option.getD_some]
    simp only [List.map_cons, List.map_nil, tget]
    rw [apply_ite (Option.map BitVec.toNat)]
    exact if_congr eq_comm rfl rfl
  | 9 => exact float (by decide) (credOf_9 [m])
  | k + 10 => exact float (by omega) (credOf_10 [m] k)

end

/-! ### The result of each instruction -/

/-- The result of a cross-lane instruction that is no STCP for an active participant. -/
def crossValue (i : Instr) (ms : List Member) (m : Member) : Alone :=
  match i with
  | .vote x =>
    if x.sub.extractLsb' 0 2 = 2 then .pair ((ms.filter (·.q)).foldl (fun w o => w ||| (1#64 <<< o.lane)) 0)
    else .bit (if x.sub.extractLsb' 0 2 = 0 then ms.all (·.q) else if x.sub.extractLsb' 0 2 = 1 then ms.any (·.q)
      else ms.all (·.q) || !ms.any (·.q))
  | .shfl x => .word ((((shflLane (x.sub.toNat % 4) m.lane (m.b.setWidth 32)).bind
      (fun l => ms.find? (fun o => o.lane == l && o.active))).getD m).word)
  | .prfx x => .word (BitVec.ofNat 32 (ms.countP (fun o => o.q && (x.sub.getLsbD 0 || decide (o.lane < m.lane)))))
  | .cred x => .word (credOf (x.sub.extractLsb' 0 4).toNat (ms.filter (·.active)))
  | _ => .word 0

/-- The writes of a result to D. -/
def resultWrites (d : BitVec 8) : Alone → List Write
  | .word w => wr32 d w
  | .pair w => wr64 d w
  | .bit b => [.pred (d.extractLsb' 0 3) b]

theorem subMode_cases (sub : BitVec 6) :
    sub.extractLsb' 0 2 = 0 ∨ sub.extractLsb' 0 2 = 1 ∨ sub.extractLsb' 0 2 = 2 ∨ sub.extractLsb' 0 2 = 3 := by
  generalize sub.extractLsb' 0 2 = n
  revert n
  decide

section
variable {i : Instr} {x : XOps} {ms : List Member} {m : Member}

theorem crossWrites_eq (hi : crossOps i = some x) (no_stcp : ∀ y, i ≠ .stcp y) : crossWrites i ms m = resultWrites x.d (crossValue i ms m) := by
  cases i with
  | vote y =>
    cases hi
    rcases subMode_cases x.sub with e | e | e | e
    all_goals
      simp only [crossWrites, crossValue, ← subMode_toNat, e, resultWrites, extractLsb'_three]
      rfl
  | shfl y =>
    cases hi
    simp only [crossWrites, crossValue, resultWrites, setWidth_a]
  | prfx y =>
    cases hi
    simp only [crossWrites, crossValue, resultWrites]
    cases x.sub.getLsbD 0 with
    | true => simp [List.countP_eq_length_filter]
    | false => simp [List.countP_eq_length_filter, List.filter_filter, Bool.and_comm]
  | cred y =>
    cases hi
    have op : (x.sub.extractLsb' 0 4).toNat = x.sub.toNat % 16 := BitVec.extractLsb'_toNat 0 4 x.sub
    simp only [crossWrites, crossValue, resultWrites, op]
  | stcp y => exact absurd rfl (no_stcp y)
  | _ => cases hi

theorem getLsbD_ballot (on : List Member) (w : DWord) {l : Nat} (hl : l < 64) :
    (on.foldl (fun w o => w ||| (1#64 <<< o.lane)) w).getLsbD l = true ↔ w.getLsbD l = true ∨ ∃ o ∈ on, o.lane = l := by
  induction on generalizing w with
  | nil => simp
  | cons a r ih =>
    have bit : (1#64 <<< a.lane).getLsbD l = true ↔ a.lane = l := by
      rw [BitVec.getLsbD_shiftLeft, BitVec.getLsbD_one]
      simp only [Bool.and_eq_true, decide_eq_true_eq, Bool.not_eq_true', decide_eq_false_iff_not]
      omega
    rw [List.foldl_cons, ih, BitVec.getLsbD_or, Bool.or_eq_true, bit, or_assoc, List.exists_mem_cons_iff]

/-- The lane that SHFL reads, as the statements say it (06 R161, 22 R457). -/
theorem shflLane_eq_some {sub : BitVec 6} {lane l : Nat} {b : Word} (hl : lane < 64) : shflLane (sub.toNat % 4) lane b = some l ↔
    l < 64 ∧ (l : Int) = if sub.extractLsb' 0 2 = 0 then ((b.toNat % 64 : Nat) : Int)
      else if sub.extractLsb' 0 2 = 1 then (lane : Int) - b.toNat
      else if sub.extractLsb' 0 2 = 2 then (lane : Int) + b.toNat
      else (Nat.xor lane (b.toNat % 64) : Nat) := by
  rcases subMode_cases sub with e | e | e | e
  all_goals simp [shflLane, ← subMode_toNat, e]
  · omega
  · split
    · omega
    · omega
  · omega
  · generalize lane ^^^ b.toNat % 64 = n
    omega

/-- An active participant's result is what 06 R161 says of all of them. -/
theorem together_crossValue (hi : crossOps i = some x) (no_stcp : ∀ y, i ≠ .stcp y)
    (lanes : ∀ o ∈ ms, ∀ o' ∈ ms, o.lane = o'.lane → o = o') (hm : m ∈ ms) (on : m.active = true) :
    Together i ms m (crossValue i ms m) := by
  cases i with
  | vote y =>
    unfold Together crossValue
    dsimp only
    split
    · refine ⟨_, rfl, fun l hl => ?_⟩
      rw [getLsbD_ballot _ _ hl]
      simp [Member.lane, and_comm, and_left_comm, and_assoc]
    · refine ⟨_, rfl, ?_⟩
      split
      · simp
      · split
        · simp
        · simp
  | shfl y =>
    have lane_lt (o : Member) : o.lane < 64 := Nat.mod_lt _ (by decide)
    have low : m.b.setWidth 32 = m.b.extractLsb' 0 32 := BitVec.setWidth_eq_extractLsb' (by decide)
    have reads (l : Nat) := shflLane_eq_some (sub := y.sub) (b := m.b.extractLsb' 0 32) (l := l) (lane_lt m)
    unfold Together crossValue
    rw [low]
    dsimp only
    refine ⟨_, rfl, fun o ho act from_ => ?_, fun none_ => ?_⟩
    · have found : ms.find? (fun o' => o'.lane == o.lane && o'.active) = some o := by
        cases h : ms.find? (fun o' => o'.lane == o.lane && o'.active) with
        | none =>
          have no := List.find?_eq_none.1 h o ho
          simp [act] at no
        | some o' =>
          have is := List.find?_some h
          rw [Bool.and_eq_true, beq_iff_eq] at is
          rw [lanes o' (List.mem_of_find?_eq_some h) o ho is.1]
      rw [(reads o.lane).2 ⟨lane_lt o, from_⟩, Option.bind_some, found]
      rfl
    · have nobody : (shflLane (y.sub.toNat % 4) m.lane (m.b.extractLsb' 0 32)).bind
          (fun l => ms.find? (fun o => o.lane == l && o.active)) = none := by
        rw [Option.bind_eq_none_iff]
        refine fun l hl => List.find?_eq_none.2 (fun o ho is => ?_)
        rw [Bool.and_eq_true, beq_iff_eq] at is
        obtain ⟨-, from_⟩ := (reads l).1 hl
        exact none_ o ho is.2 ((congrArg Nat.cast is.1).trans from_)
      rw [nobody]
      rfl
  | prfx y => rfl
  | cred y => exact ⟨_, rfl, credIs_credOf _ (List.ne_nil_of_mem (List.mem_filter.2 ⟨hm, on⟩))⟩
  | stcp y => exact absurd rfl (no_stcp y)
  | _ => cases hi

/-- The result of a participant that is alone (06 R161, R162). -/
theorem crossValue_alone {q : Bool} {a : Word} {r : Alone} (on : m.active = true) (hr : aloneResult i (m.slot % 64) q a = some r)
    (hq : ∀ y, i = .vote y ∨ i = .prfx y → m.q = q) (ha : ∀ y, i = .shfl y ∨ i = .cred y → m.word = a) : crossValue i [m] m = r := by
  cases i with
  | vote y =>
    have q' := hq y (.inl rfl)
    simp only [aloneResult] at hr
    rcases subMode_cases y.sub with e | e | e | e
    all_goals
      rw [e] at hr
      cases hr
      simp only [crossValue, e]
      cases q <;> simp [q', Member.lane]
  | shfl y =>
    cases hr
    have self : ((shflLane (y.sub.toNat % 4) m.lane (m.b.setWidth 32)).bind
        (fun l => [m].find? (fun o => o.lane == l && o.active))).getD m = m := by
      cases shflLane (y.sub.toNat % 4) m.lane (m.b.setWidth 32) with
      | none => rfl
      | some l =>
        rw [Option.bind_some, List.find?_singleton]
        split <;> rfl
    rw [crossValue, self, ha y (.inl rfl)]
  | prfx y =>
    have q' := hq y (.inr rfl)
    cases hr
    simp only [crossValue, List.countP_singleton, q']
    cases q <;> cases y.sub.getLsbD 0 <;> simp
  | cred y =>
    cases hr
    have op : 8 ≤ (y.sub.extractLsb' 0 4).toNat ↔ y.sub.extractLsb' 3 1 = 1 := by
      generalize y.sub = sub
      revert sub
      decide
    simp only [crossValue, List.filter_cons, on, ↓reduceIte, List.filter_nil, credOf_one, op, ha y (.inr rfl)]
  | _ => cases hr

end

end Sys2Proof.Machine
end

section
namespace Sys2Proof.Machine
open Sys2Proof Sys2Proof.Claims

/-! ## The last of the participants arrives (06 R160) -/

section
variable {s : State} {core slot : Nat} {t : Thread} {x : XOps} {i : Instr}

/-- The state in which a thread stands at a cross-lane instruction. -/
def State.arrived (s : State) (core slot : Nat) (i : Instr) (x : XOps) (m : Member) : State :=
  s.modThread core slot (·.standing i (crossMask s core slot x) x.len m)

theorem State.thread?_arrived_self (ht : s.thread? core slot = some t) (i : Instr) (x : XOps) (m : Member) :
    (s.arrived core slot i x m).thread? core slot = some (t.standing i (crossMask s core slot x) x.len m) := by
  rw [State.arrived, State.thread?_modThread_self, ht]
  rfl

theorem State.thread?_arrived_ne {o : Nat} (h : o ≠ slot) (i : Instr) (x : XOps) (m : Member) :
    (s.arrived core slot i x m).thread? core o = s.thread? core o := State.thread?_modThread_ne s core _ h

/-- Nobody has changed but in what it waits for. -/
theorem State.thread?_arrived {o : Nat} {u : Thread} (hu : s.thread? core o = some u) (i : Instr) (x : XOps) (m : Member) :
    ∃ p, (s.arrived core slot i x m).thread? core o = some { u with park := p } := by
  by_cases ho : o = slot
  · subst ho
    exact ⟨_, State.thread?_arrived_self hu i x m⟩
  · exact ⟨u.park, by rw [State.thread?_arrived_ne ho, hu]⟩

theorem Solo.arrived (h : Solo s core slot t) (i : Instr) (x : XOps) (m : Member) :
    Solo (s.arrived core slot i x m) core slot (t.standing i (crossMask s core slot x) x.len m) where
  cur := h.cur
  thread := State.thread?_arrived_self h.thread i x m
  crew := by
    rw [State.arrived, State.core_modThread_self]
    unfold Core.crew?
    rw [Core.modThread_crews]
    exact h.crew

theorem MappedAll.arrived {codes : List (BitVec 8)} {o : Nat} (h : MappedAll (s.core core) o codes) (i : Instr) (x : XOps) (m : Member) :
    MappedAll ((s.arrived core slot i x m).core core) o codes := by
  intro d hd lt
  rw [State.arrived, State.core_modThread_self, Core.vOff_congr (Core.modThread_crews _ slot _)]
  exact h d hd lt

/-- What a thread waits for is no matter of what comes near it. -/
theorem near_of_unparked {u₁ u t' : Thread} (h : Near u₁ t') (e : { u₁ with park := none } = { u with park := none }) : Near u t' :=
  h.trans (congrArg (fun z : Thread => { z with taints := t'.taints }) e)

/-- What an instruction does from there on, it does from the thread's issue on: only the thread's wait differs. -/
theorem result_of_arrived {s' : State} {u₁ u : Thread} {ws : List (BitVec 8 × Word)} {m : Member}
    (r : Result (s.arrived core slot i x m) s' core slot u₁ ws) (e : { u₁ with park := none } = { u with park := none }) :
    Result s s' core slot u ws := by
  have here : (s.arrived core slot i x m).core core = (s.core core).modThread slot (·.standing i (crossMask s core slot x) x.len m) :=
    State.core_modThread_self s core slot _
  obtain ⟨device, frame, threads, own, regs, t', ht', near⟩ := r
  rw [here] at frame threads own regs
  refine ⟨(OnlyCore.modCore core s _).trans device, (RegFrame.modThread _ slot _).trans frame,
    (OthersThinned.of_only (OnlyThread.modThread _ slot _)).trans threads, fun o => (OnlyThread.modThread _ slot _).trans (own ?_),
    Wrote.after (Core.modThread_store _ slot _) (Core.modThread_crews _ slot _) regs, t', ht', near_of_unparked near e⟩
  unfold Own at o ⊢
  rwa [Core.modThread_shared]

section
variable {me : Member} {ms : List Member} (g : Gathered s core slot t i x me ms) (ht : s.thread? core slot = some t)
include g

theorem gathered_nodup : (ms.map (·.slot)).Nodup := by
  rw [g.slots]
  exact Core.participants_nodup

theorem gathered_named : (crossMask s core slot x).getLsbD (slot % 64) = true := by
  obtain ⟨hm, hs, -⟩ := g.mine
  have listed : slot ∈ ms.map (·.slot) := List.mem_map.2 ⟨me, hm, hs⟩
  rw [g.slots] at listed
  exact (Core.mem_participants.1 listed).2.1

theorem gathered_inCrew {m : Member} (hm : m ∈ ms) : m.slot / 64 = slot / 64 := by
  have listed : m.slot ∈ ms.map (·.slot) := List.mem_map.2 ⟨m, hm, rfl⟩
  rw [g.slots] at listed
  exact (Core.mem_participants.1 listed).1

/-- Members of one crew are told apart by their lanes. -/
theorem gathered_lanes {o o' : Member} (ho : o ∈ ms) (ho' : o' ∈ ms) (e : o.lane = o'.lane) : o = o' := by
  have h := gathered_inCrew g ho
  have h' := gathered_inCrew g ho'
  unfold Member.lane at e
  exact member_eq (gathered_nodup g) ho ho' (by omega)

include ht

/-- It stands at the instruction with what it brings. -/
theorem gathered_arrives (hi : crossOps i = some x) : State.crossArrive i x core s slot = s.arrived core slot i x me := by
  obtain ⟨hm, -, act⟩ := g.mine
  exact crossArrive_stands ht (gathered_named g) act (fun on => crossReads_of_brings hi (g.brings on).1 (g.brings on).2)
    (fun off => g.inactive me hm (act.trans off))

/-- Then all stand there. -/
theorem gathered_met : Met ((s.arrived core slot i x me).core core) (slot / 64) i (crossMask s core slot x) x.len t.pc ms where
  slots := by
    refine g.slots.trans (Core.participants_congr (fun o => ?_)).symm
    rw [State.arrived, State.core_modThread_self, Core.thread?_modThread]
    split <;> rename_i h
    · rw [h, Option.isSome_map]
    · rfl
  stand := fun m hm => by
    obtain ⟨hme, hs, -⟩ := g.mine
    by_cases mine : m.slot = slot
    · obtain rfl := member_eq (gathered_nodup g) hm hme (mine.trans hs.symm)
      exact ⟨t.standing i (crossMask s core slot x) x.len m, mine ▸ State.thread?_arrived_self ht i x m, rfl, rfl⟩
    · obtain ⟨u, hu, pc, park⟩ := g.others m hm mine
      exact ⟨u, (State.thread?_arrived_ne mine i x me).trans hu, pc, park⟩
  only := fun o u ho hu at_ => by
    by_cases mine : o = slot
    · obtain ⟨hme, hs, -⟩ := g.mine
      exact List.mem_map.2 ⟨me, hme, hs.trans mine.symm⟩
    · exact g.none_ o u ho ((State.thread?_arrived_ne mine i x me).symm.trans hu) at_

end

/-- Then the rendezvous completes, and its participants advance and write. -/
theorem gathered_runs {me : Member} {ms : List Member} (g : Gathered s core slot t i x me ms) (h : Solo s core slot t)
    (hi : crossOps i = some x) {s₂ : State} {f : Member → List Write}
    (same : ∀ o, s₂.thread? core o = (s.arrived core slot i x me).thread? core o)
    (ends : (s.arrived core slot i x me).crossDone core x.len i ms = s₂.crossFinish core x.len ms f) :
    s.runCross i x = s₂.crossFinish core x.len ms f := by
  have met := gathered_met g h.thread
  obtain ⟨hm, -⟩ := g.mine
  rw [State.runCross_solo h, gathered_arrives g h.thread hi, ← ends]
  refine met.settles (List.ne_nil_of_mem hm) ?_
  rw [ends, State.crossFinish_eq, State.core_modCore_self]
  exact (met.congr same).quiet_crossed

/-- The instructions that are no STCP end with the writes of their results. -/
theorem State.crossDone_eq (no_stcp : ∀ y, i ≠ .stcp y) (s : State) (core len : Nat) (ms : List Member) :
    s.crossDone core len i ms = s.crossFinish core len ms (crossWrites i ms) := by
  cases i with
  | stcp y => exact absurd rfl (no_stcp y)
  | _ => rfl

/-- Where nobody is active, all only advance. -/
theorem State.crossDone_off {ms : List Member} (off : ms.filter (·.active) = []) (i : Instr) (s : State) (core len : Nat) :
    s.crossDone core len i ms = s.crossFinish core len ms (crossWrites i ms) := by
  cases i with
  | stcp y =>
    simp only [State.crossDone, State.stcpFinish, off]
    simp only [State.crossFinish, off, List.foldr_nil]
  | _ => rfl

theorem gathered_relatch {me : Member} {ms : List Member} (g : Gathered s core slot t i x me ms) (l : List (Nat × BitVec 8 × Nat)) :
    Gathered (s.relatch core l) core slot t i x me ms := by
  have mask : crossMask (s.relatch core l) core slot x = crossMask s core slot x := by
    unfold crossMask
    rw [State.core_relatch_self]
    rfl
  refine ⟨?_, g.mine, fun on => ⟨(g.brings on).1.relatch l, ?_⟩, g.inactive, fun m hm ho => ?_, fun o u ho hu => ?_⟩
  · rw [mask, State.core_relatch_self]
    exact g.slots
  · have b := (g.brings on).2
    cases i with
    | _ =>
      unfold Brings at b ⊢
      simp only [State.src32_relatch, State.srcN_relatch, State.address_relatch]
      exact b
  · rw [mask, State.thread?_relatch]
    exact g.others m hm ho
  · rw [State.thread?_relatch] at hu
    exact g.none_ o u ho hu

/-- A thread alone in its crew is the last of the participants, which it is alone. -/
theorem gathered_alone {m : Member} (ht : s.thread? core slot = some t) (named : (crossMask s core slot x).getLsbD (slot % 64) = true)
    (alone : ∀ o ∈ (s.core core).slotsIn (slot / 64), o = slot) (hs : m.slot = slot) (act : m.active = t.guard x.g)
    (brings : t.guard x.g = true → MappedAll (s.core core) slot (crossCodes i) ∧ Brings s core slot t i m)
    (nothing : m.active = false → m.a = 0 ∧ m.b = 0 ∧ m.q = false) : Gathered s core slot t i x m [m] where
  slots := by
    have live : ((s.core core).thread? slot).isSome := Option.isSome_iff_exists.2 ⟨t, ht⟩
    rw [Core.participants_alone live named alone, ← hs]
    rfl
  mine := ⟨List.mem_singleton.2 rfl, hs, act⟩
  brings := brings
  inactive := fun m' hm' off => by
    cases List.mem_singleton.1 hm'
    exact nothing off
  others := fun m' hm' ne => absurd (List.mem_singleton.1 hm' ▸ hs) ne
  none_ := fun o u ho hu _ => by
    have mine := alone o (Core.mem_slotsIn.2 ⟨ho, Option.isSome_iff_exists.2 ⟨u, hu⟩⟩)
    exact List.mem_map.2 ⟨m, List.mem_singleton.2 rfl, hs.trans mine.symm⟩

end

/-! ### One participant alone -/

section
variable {s : State} {core slot len : Nat} {t : Thread} {x : XOps} {i : Instr}

/-- What the writes of a result to D do, as the statements say it. -/
def ResultIs (core slot : Nat) (d : BitVec 8) (u : Thread) (r : Alone) (s s' : State) : Prop :=
  match r with
  | .word w => Result s s' core slot u [(d, w)]
  | .pair w => PairDst d → Result s s' core slot u (pairWrites d w)
  | .bit b => ∃ v, PredIs u v (d.extractLsb' 0 3) b ∧ Result s s' core slot v []

/-- The registers of a result. -/
def resultCodes (d : BitVec 8) : Alone → List (BitVec 8)
  | .word _ => [d]
  | .pair _ => [d, d + 1]
  | .bit _ => []

theorem crossCodes_eq (hi : crossOps i = some x) (no_stcp : ∀ y, i ≠ .stcp y) (ms : List Member) (m : Member) :
    crossCodes i = resultCodes x.d (crossValue i ms m) := by
  cases i with
  | vote y =>
    cases hi
    unfold crossCodes aloneCodes crossValue
    dsimp only
    split <;> rfl
  | shfl y | prfx y | cred y => cases hi; rfl
  | stcp y => exact absurd rfl (no_stcp y)
  | _ => cases hi

theorem Thread.setPred_unparked (t : Thread) (n : BitVec 3) (b : Bool) :
    { t.setPred n b with park := none } = ({ t with park := none } : Thread).setPred n b := by
  unfold Thread.setPred
  split <;> rfl

/-- The last step of an instruction of one thread that has arrived. -/
theorem resultIs_of_commit {me : Member} (h : Solo s core slot t) (len : Nat) {d : BitVec 8} (r : Alone)
    (m : MappedAll (s.core core) slot (resultCodes d r)) :
    ResultIs core slot d (t.past len) r s ((s.arrived core slot i x me).commit core len slot (.ok (resultWrites d r))) := by
  have h₁ := h.arrived i x me
  have mapped : ∀ e ∈ resultCodes d r, e.toNat < 0xE0 → (((s.arrived core slot i x me).core core).vOff slot e.toNat).isSome :=
    m.arrived i x me
  cases r with
  | word w =>
    refine result_of_arrived (Result.one h₁.thread len (.reg d w) (fun e v eq lt => ?_) h₁.crew) rfl
    cases eq
    exact mapped d List.mem_cons_self lt
  | pair w =>
    intro pair
    rcases pair with ⟨even, lt⟩ | rfl
    · have ne : d ≠ 0xF8 := by rintro rfl; exact absurd lt (by decide)
      rw [resultWrites, wr64, if_neg ne, pairWrites, if_neg ne]
      exact result_of_arrived (Result.pair h₁.thread len d _ _ even lt (mapped d List.mem_cons_self) h₁.crew) rfl
    · exact result_of_arrived (Result.none h₁.thread len) rfl
  | bit b =>
    refine ⟨(t.past len).setPred (d.extractLsb' 0 3) b, predIs_setPred _ _ _, ?_⟩
    refine result_of_arrived (Result.one h₁.thread len (.pred (d.extractLsb' 0 3) b) nofun h₁.crew) ?_
    exact (Thread.setPred_unparked _ _ _).trans (Thread.setPred_unparked (t.past len) _ _).symm

end

end Sys2Proof.Machine
end

section
namespace Sys2Proof.Machine
open Sys2Proof Sys2Proof.Claims

/-! ## A thread outside the mask, alone, and one that waits (06 R159, R160) -/

section
variable {s : State} {core slot : Nat} {t : Thread} {x : XOps} {i : Instr}

theorem State.settleCross_of_quiet {crew : Nat} (h : Quiet (s.core core) crew) : s.settleCross core crew = s :=
  State.settleCross_of_waiting (fun o ho => State.crossOf_of_not (fun u => h o u ho)) (fun o ho => Core.crossLost_of_not (fun u => h o u ho))

theorem noneCrossing_relatch (h : NoneCrossing s core slot) (l : List (Nat × BitVec 8 × Nat)) : NoneCrossing (s.relatch core l) core slot := by
  intro o u ho hc hu
  rw [State.thread?_relatch] at hu
  exact h o u ho hc hu

theorem crossMask_relatch (s : State) (core slot : Nat) (x : XOps) (l : List (Nat × BitVec 8 × Nat)) :
    crossMask (s.relatch core l) core slot x = crossMask s core slot x := by
  unfold crossMask
  rw [State.core_relatch_self]
  rfl

/-- A thread outside the mask traps, and no rendezvous of its crew is there to settle. -/
theorem runCross_outside (h : Solo s core slot t) (hd : Handled s t) (none_ : NoneCrossing s core slot)
    (out : (crossMask s core slot x).getLsbD (slot % 64) = false) (i : Instr) : Trapped s (s.runCross i x) core slot t causeJoin t.pc := by
  have trapped := Trapped.of_stop h.thread hd causeJoin
  rw [State.runCross_solo h, crossArrive_outside h.thread i out, State.settleCross_of_quiet]
  · exact trapped
  · intro o u ho hu
    obtain ⟨-, -, others, -, t', ht', eq⟩ := trapped
    by_cases mine : o = slot
    · rw [mine] at hu
      cases ht'.symm.trans hu
      exact Thread.not_atCross (congrArg Thread.park eq)
    · exact none_ o u mine ho ((others.same o mine).symm.trans hu)

/-- A thread whose guard is false waits for a participant that has not come (06 R159, R160). -/
theorem runCross_waits (h : Solo s core slot t) (none_ : NoneCrossing s core slot) (off : t.guard x.g = false)
    (named : (crossMask s core slot x).getLsbD (slot % 64) = true) {o : Nat} {u : Thread} (hu : s.thread? core o = some u) (ho : o ≠ slot)
    (crew : o / 64 = slot / 64) (named' : (crossMask s core slot x).getLsbD (o % 64) = true) (i : Instr) :
    Waits core slot t (.cross i (crossMask s core slot x) false 0 0 false x.len) s (s.runCross i x) := by
  have me := State.thread?_arrived_self h.thread i x { slot := slot, active := false, a := 0, b := 0, q := false }
  have other {p : Nat} (hp : p ≠ slot) := State.thread?_arrived_ne (s := s) (core := core) hp i x
    { slot := slot, active := false, a := 0, b := 0, q := false }
  have arrives : State.crossArrive i x core s slot = s.arrived core slot i x { slot := slot, active := false, a := 0, b := 0, q := false } :=
    crossArrive_stands h.thread named off.symm (fun on => by rw [off] at on; cases on) (fun _ => ⟨rfl, rfl, rfl⟩)
  have parked := waits_of_stop h.thread (.cross i (crossMask s core slot x) false 0 0 false x.len)
  rw [State.stop_park h.thread] at parked
  have missing : o ∈ ((s.arrived core slot i x { slot := slot, active := false, a := 0, b := 0, q := false }).core core).participants (slot / 64)
      (crossMask s core slot x) := Core.mem_participants.2 ⟨crew, named', Option.isSome_iff_exists.2 ⟨u, (other ho).trans hu⟩⟩
  obtain ⟨ths, crossing, listed⟩ := Core.crossing_of_missing me rfl missing ((other ho).trans hu) (none_ o u ho crew hu)
  have away {p : Nat} (hc : p / 64 = slot / 64) (hp : p ≠ slot) :
      ∀ w, ((s.arrived core slot i x { slot := slot, active := false, a := 0, b := 0, q := false }).core core).thread? p = some w →
        w.atCross = false := fun w hw => none_ p w hp hc ((other hp).symm.trans hw)
  rw [State.runCross_solo h, arrives, State.settleCross_of_waiting (fun p hc => ?_) (fun p hc => ?_)]
  · exact parked
  · by_cases hp : p = slot
    · simp only [State.crossOf, hp, crossing]
    · exact State.crossOf_of_not (away hc hp)
  · by_cases hp : p = slot
    · simp only [Core.crossLost, hp, crossing]
      exact List.all_eq_false.2 ⟨_, listed, by rw [none_ o u ho crew hu]; decide⟩
    · exact Core.crossLost_of_not (away hc hp)

/-- A thread alone in its crew with a false guard goes on. -/
theorem runCross_alone_off (h : Solo s core slot t) (hi : crossOps i = some x) (off : t.guard x.g = false)
    (named : (crossMask s core slot x).getLsbD (slot % 64) = true) (alone : ∀ o ∈ (s.core core).slotsIn (slot / 64), o = slot) :
    Result s (s.runCross i x) core slot (t.past x.len) [] := by
  have g : Gathered s core slot t i x { slot := slot, active := false, a := 0, b := 0, q := false }
      [{ slot := slot, active := false, a := 0, b := 0, q := false }] :=
    gathered_alone h.thread named alone rfl off.symm (fun on => by rw [off] at on; cases on) (fun _ => ⟨rfl, rfl, rfl⟩)
  rw [gathered_runs g h hi (fun _ => rfl) (State.crossDone_off rfl i _ core x.len), State.crossFinish_one]
  exact result_of_arrived (Result.none (h.arrived i x _).thread x.len) rfl

/-- A thread alone in its crew takes its own result (06 R161, R162). -/
theorem runCross_alone (h : Solo s core slot t) (hi : crossOps i = some x) (no_stcp : ∀ y, i ≠ .stcp y) {m : Member}
    (g : Gathered s core slot t i x m [m]) (on : m.active = true) (mapped : MappedAll (s.core core) slot (crossCodes i)) :
    ResultIs core slot x.d (t.past x.len) (crossValue i [m] m) s (s.runCross i x) := by
  rw [crossCodes_eq hi no_stcp [m] m] at mapped
  obtain ⟨-, hs, -⟩ := g.mine
  rw [gathered_runs g h hi (fun _ => rfl) (State.crossDone_eq no_stcp _ _ _ _), State.crossFinish_one, if_pos on, hs,
    crossWrites_eq hi no_stcp]
  exact resultIs_of_commit h x.len _ mapped

/-- What a thread alone in its crew brings to an instruction that is no STCP (06 R160, R161). -/
theorem brings_alone {a b : Word} (ha : ∀ y, i = .shfl y ∨ i = .cred y → s.src32 core slot t x.lit x.a = .ok a)
    (hb : ∀ y, i = .shfl y → s.src32 core slot t x.lit x.b = .ok b) (hi : crossOps i = some x) (no_stcp : ∀ y, i ≠ .stcp y) :
    ∃ m : Member, m.slot = slot ∧ m.active = true ∧ Brings s core slot t i m ∧
      (∀ y, i = .vote y ∨ i = .prfx y → m.q = xor (t.pred (x.a.extractLsb' 0 3)) (x.a.getLsbD 3)) ∧
      (∀ y, i = .shfl y ∨ i = .cred y → m.word = a) := by
  cases i with
  | vote y | prfx y =>
    cases hi
    exact ⟨⟨slot, true, 0, 0, xor (t.pred (x.a.extractLsb' 0 3)) (x.a.getLsbD 3)⟩, rfl, rfl, ⟨rfl, rfl, rfl⟩, fun _ _ => rfl,
      fun z e => by rcases e with e | e <;> cases e⟩
  | shfl y =>
    cases hi
    exact ⟨⟨slot, true, a.setWidth 64, b.setWidth 64, false⟩, rfl, rfl, ⟨a, b, ha x (.inl rfl), hb x rfl, rfl, rfl, rfl⟩,
      fun z e => by (rcases e with e | e <;> cases e), fun _ _ => word_of_a rfl⟩
  | cred y =>
    cases hi
    exact ⟨⟨slot, true, a.setWidth 64, 0, false⟩, rfl, rfl, ⟨a, ha x (.inr rfl), rfl, rfl, rfl⟩,
      fun z e => by (rcases e with e | e <;> cases e), fun _ _ => word_of_a rfl⟩
  | stcp y => exact absurd rfl (no_stcp y)
  | _ => cases hi

theorem LatchBlind.resultIs (d : BitVec 8) (u : Thread) (r : Alone) : LatchBlind core slot (ResultIs core slot d u r) := by
  intro s s' a b ha hb h
  cases r with
  | word w => exact LatchBlind.result _ _ s s' a b ha hb h
  | pair w => exact fun p => LatchBlind.result _ _ s s' a b ha hb (h p)
  | bit v =>
    obtain ⟨u', is, r⟩ := h
    exact ⟨u', is, LatchBlind.result _ _ s s' a b ha hb r⟩

end

/-! ## All of the participants (06 R160, R161) -/

section
variable {s s₁ : State} {core crew : Nat} {x : XOps} {i j : Instr} {mask pc : DWord} {ms : List Member}

/-- The register writes of a result. -/
def resultRegs (d : BitVec 8) : Alone → List (BitVec 8 × Word)
  | .word w => [(d, w)]
  | .pair w => [(d, w.extractLsb' 0 32), (d + 1, w.extractLsb' 32 32)]
  | .bit _ => []

/-- The writes of a result make its register writes, if a pair has an even code (04 R104). -/
theorem wrote_result {c : Core} {slot : Nat} {d : BitVec 8} {r : Alone} (fits : ∀ w, r = .pair w → d.toNat % 2 = 0 ∧ d.toNat < 0xF0)
    (m : MappedAll c slot (resultCodes d r)) (hk : (c.crew? (slot / 64)).isSome) :
    Wrote c (c.applyAll slot (resultWrites d r)) slot (resultRegs d r) := by
  cases r with
  | word w => exact Wrote.one c slot d w (m d List.mem_cons_self) hk
  | pair w =>
    obtain ⟨even, lt⟩ := fits w rfl
    have ne : d ≠ 0xF8 := by rintro rfl; exact absurd lt (by decide)
    rw [resultWrites, wr64, if_neg ne]
    exact Wrote.two c slot d _ _ even lt (m d List.mem_cons_self) hk
  | bit b =>
    obtain ⟨store, crews⟩ := Core.apply_quiet c slot (w := .pred (d.extractLsb' 0 3) b) rfl
    exact Wrote.nothing slot store crews

/-- What a result makes of its thread: a predicate, or nothing. -/
def resultThread (d : BitVec 8) (u : Thread) : Alone → Thread
  | .bit b => u.setPred (d.extractLsb' 0 3) b
  | _ => u

theorem foldl_wrote_result (d : BitVec 8) (u : Thread) (r : Alone) : (resultWrites d r).foldl Thread.wrote u = resultThread d u r := by
  cases r with
  | word w | bit b => rfl
  | pair w =>
    rw [resultWrites, wr64]
    split <;> rfl

theorem resultThread_unparked (d : BitVec 8) {u v : Thread} (r : Alone) (e : { u with park := none } = { v with park := none }) :
    { resultThread d u r with park := none } = { resultThread d v r with park := none } := by
  cases r with
  | word w | pair w => exact e
  | bit b =>
    rw [resultThread, resultThread, Thread.setPred_unparked, e]
    exact (Thread.setPred_unparked v _ b).symm

/-- A participant of the lowest slot is the first. -/
theorem head_of_least {l : List Member} (sorted : (l.map (·.slot)).Pairwise (· < ·)) {m : Member} (hm : m ∈ l)
    (least : ∀ o ∈ l, m.slot ≤ o.slot) : ∃ r, l = m :: r := by
  cases l with
  | nil => cases hm
  | cons a r =>
    rw [List.map_cons, List.pairwise_cons] at sorted
    rcases List.mem_cons.1 hm with rfl | behind
    · exact ⟨r, rfl⟩
    · have below := sorted.1 m.slot (List.mem_map.2 ⟨m, behind, rfl⟩)
      exact absurd (least a List.mem_cons_self) (Nat.not_le.2 below)

/-- A rendezvous is about to end with results R of its active participants, whose registers are mapped, to D. -/
structure CrossEnd (c : Core) (crew : Nat) (i : Instr) (mask : DWord) (len : Nat) (pc : DWord) (d : BitVec 8) (ms : List Member)
    (R : Member → Alone) (f : Member → List Write) : Prop where
  met : Met c crew i mask len pc ms
  live : (c.crew? crew).isSome
  writes : ∀ m ∈ ms, m.active = true → f m = resultWrites d (R m)
  mapped : ∀ m ∈ ms, m.active = true → MappedAll c m.slot (resultCodes d (R m))

section
variable {c c' : Core} {len : Nat} {d : BitVec 8} {R : Member → Alone} {f : Member → List Write} {m : Member}

theorem RegFrame.passAll (c : Core) (len : Nat) (ms : List Member) : RegFrame c (c.passAll len ms) := by
  unfold Core.passAll
  induction ms generalizing c with
  | nil => exact RegFrame.refl c
  | cons m r ih => exact (RegFrame.advance c m.slot len).trans (ih (c.advance m.slot len))

theorem Core.vOff_passAll (c : Core) (len : Nat) (ms : List Member) (slot n : Nat) : (c.passAll len ms).vOff slot n = c.vOff slot n := by
  obtain ⟨crews, -⟩ := c.passAll_same len ms
  exact Core.vOff_congr crews slot n

variable (h : CrossEnd c crew i mask len pc d ms R f) (hm : m ∈ ms) (on : m.active = true)
  (fits : ∀ w, R m = .pair w → d.toNat % 2 = 0 ∧ d.toNat < 0xF0)
include h hm on fits

/-- Its writes make its register writes, whatever the others have written before. -/
theorem CrossEnd.wrote (l : List Member) : Wrote ((c.passAll len ms).applyEach f l)
    (((c.passAll len ms).applyEach f l).applyAll m.slot (f m)) m.slot (resultRegs d (R m)) := by
  rw [h.writes m hm on]
  refine wrote_result fits (fun e he lt => ?_) ?_
  · rw [Core.vOff_applyEach, Core.vOff_passAll]
    exact h.mapped m hm on e he lt
  · rw [h.met.inCrew hm]
    exact crew_of_regFrame ((RegFrame.passAll c len ms).trans (RegFrame.applyEach _ f l)) h.live

/-- Behind the rendezvous its v registers hold what it has written: the others write in other lanes. -/
theorem CrossEnd.readV {e : BitVec 8} {w : Word} (he : (e, w) ∈ resultRegs d (R m)) (lt : e.toNat < 0xE0) :
    (c.crossed len ms f).readV m.slot e.toNat = some w := by
  have sorted : (ms.filter (·.active)).Pairwise (fun o o' => o.slot < o'.slot) :=
    (List.pairwise_map.1 h.met.sorted).sublist List.filter_sublist
  have lanes : (ms.filter (·.active)).Pairwise (fun o o' => o.slot % 64 ≠ o'.slot % 64) := by
    refine sorted.imp_of_mem (fun {a b} ha hb lt => ?_)
    have := h.met.inCrew (List.mem_filter.1 ha).1
    have := h.met.inCrew (List.mem_filter.1 hb).1
    omega
  exact Core.readV_applyEach lanes (List.mem_filter.2 ⟨hm, on⟩) (fun l => (h.wrote hm on fits l).v e w he lt)

/-- Behind the rendezvous a k register holds what the lowest lane has written (04 R100). -/
theorem CrossEnd.readK (lowest : ∀ o ∈ ms, o.active = true → m.slot ≤ o.slot) {e : BitVec 8} {w : Word} (he : (e, w) ∈ resultRegs d (R m))
    (ge : 0xE0 ≤ e.toNat) (lt : e.toNat < 0xF0) : (c.crossed len ms f).readK (m.slot / 64) (e.setWidth 4) = w := by
  obtain ⟨r, first⟩ := head_of_least (h.met.sorted.sublist (List.filter_sublist.map _)) (List.mem_filter.2 ⟨hm, on⟩)
    (fun o ho => lowest o (List.mem_filter.1 ho).1 (List.mem_filter.1 ho).2)
  rw [Core.crossed, first, Core.applyEach_cons]
  exact (h.wrote hm on fits r).k e w he ge lt

end

/-- A rendezvous that ends so has completed, of threads that have changed since in their waits alone. -/
theorem CrossEnd.completed {f : Member → List Write} {R : Member → Alone}
    (h : CrossEnd (s₁.core core) crew i mask x.len pc x.d ms R f)
    (before : ∀ o u, s.thread? core o = some u → ∃ p, s₁.thread? core o = some { u with park := p })
    (together : ∀ m ∈ ms, m.active = true → Together i ms m (R m)) : Completed s (s₁.crossFinish core x.len ms f) core i x ms where
  inactive := fun m hm off u hu => by
    obtain ⟨p, hp⟩ := before m.slot u hu
    obtain ⟨u', hu', thin⟩ := crossed_inactive (f := f) (len := x.len) h.met.nodup hm off hp
    exact ⟨u', by rw [State.crossFinish_eq, State.thread?, State.core_modCore_self]; exact hu', .some thin⟩
  active := fun m hm on u hu => by
    obtain ⟨p, hp⟩ := before m.slot u hu
    obtain ⟨u', hu', near⟩ := crossed_active (f := f) (len := x.len) h.met.nodup hm on hp
    rw [h.writes m hm on, foldl_wrote_result] at near
    have near' : Near (resultThread x.d (u.past x.len) (R m)) u' := near_of_unparked near (resultThread_unparked x.d (R m) rfl)
    refine ⟨u', resultThread x.d (u.past x.len) (R m), ?_, near', R m, together m hm on, ?_⟩
    · rw [State.crossFinish_eq, State.thread?, State.core_modCore_self]
      exact hu'
    · rw [State.crossFinish_eq, State.core_modCore_self]
      cases hr : R m with
      | word w =>
        have fits : ∀ w, R m = .pair w → x.d.toNat % 2 = 0 ∧ x.d.toNat < 0xF0 := fun w' e => by rw [hr] at e; cases e
        have own : (x.d, w) ∈ resultRegs x.d (R m) := by rw [hr]; exact List.mem_cons_self
        exact ⟨rfl, h.readV hm on fits own, fun ge lt lowest => h.readK hm on fits lowest own ge lt⟩
      | pair w =>
        have low : (x.d, w.extractLsb' 0 32) ∈ resultRegs x.d (R m) := by rw [hr]; exact List.mem_cons_self
        have high : (x.d + 1, w.extractLsb' 32 32) ∈ resultRegs x.d (R m) := by
          rw [hr]
          exact List.mem_cons_of_mem _ List.mem_cons_self
        have next (lt : x.d.toNat < 0xF0) : (x.d + 1).toNat = x.d.toNat + 1 := by
          have one : (1 : BitVec 8).toNat = 1 := rfl
          rw [BitVec.toNat_add, one]
          omega
        refine ⟨rfl, fun lt even => ?_, fun ge lt even lowest => ?_⟩
        · have reads {e : BitVec 8} {w : Word} := h.readV (e := e) (w := w) hm on (fun _ _ => ⟨even, by omega⟩)
          have odd := next (by omega)
          exact ⟨reads low lt, by rw [← odd]; exact reads high (by omega)⟩
        · have reads {e : BitVec 8} {w : Word} := h.readK (e := e) (w := w) hm on (fun _ _ => ⟨even, lt⟩) lowest
          have odd := next lt
          exact ⟨reads low ge lt, reads high (by omega) (by omega)⟩
      | bit b => exact predIs_setPred _ _ _

/-- The end of a rendezvous is no matter of the operand latches. -/
theorem LatchBlind.completed (core slot : Nat) (i : Instr) (x : XOps) (ms : List Member) :
    LatchBlind core slot (fun s s' => Completed s s' core i x ms) := by
  intro s s' a b _ _ h
  refine ⟨fun m hm off u hu => ?_, fun m hm on u hu => ?_⟩
  · rw [State.thread?_relatch]
    exact h.inactive m hm off u (by rwa [State.thread?_relatch])
  · obtain ⟨u', v, hu', near, r, together, regs⟩ := h.active m hm on u (by rwa [State.thread?_relatch])
    refine ⟨u', v, by rwa [State.thread?_relatch], near, r, together, ?_⟩
    rw [State.core_relatch_self]
    exact regs

end

end Sys2Proof.Machine
end

section
namespace Sys2Proof.Machine
open Sys2Proof Sys2Proof.Claims

/-! ## The stores of STCP (06 R165, 22 R464) -/

section
variable {s : State} {core o n c off : Nat} {u : Thread} {ptr : DWord} {e : Option Tlb}

/-- An atomic access that resolves to a core store does so as an ordinary one: both may reach the windows (04 R93). -/
theorem State.resolve_atomic_window {lid ctx : Nat} {tlb : List Tlb} {priv : Bool}
    (h : s.resolve core lid ctx tlb priv .atomic ptr n .write .ls = .ok (.store c off, e)) :
    s.resolve core lid ctx tlb priv .ldst ptr n .write .ls = .ok (.store c off, e) := by
  unfold State.resolve at h ⊢
  dsimp only at h ⊢
  split at h <;> rename_i above
  · rw [if_pos above, if_neg nofun]
    rwa [if_neg nofun] at h
  · split at h <;> rename_i beyond
    · split at h <;> cases h
    · rwa [if_neg above, if_neg beyond]

theorem InWindow.resolve_atomic (w : InWindow s core u ptr n c off) (ctx : Nat) (tlb : List Tlb) (priv : Bool) :
    s.resolve core u.lid ctx tlb priv .atomic ptr n .write .ls = .ok (.store c off, none) := by
  unfold State.resolve
  dsimp only
  rw [if_pos w.above, if_neg nofun, w.place]
  exact if_pos w.lies

/-- An element stored into a window of a core store is performed there, with no region open, in a launch without checkpoints and ordered stores. -/
theorem State.storeBy_atomic_window (hu : s.thread? core o = some u) (p : Plain s core o u) (w : InWindow s core u ptr n c off) (hint : Nat)
    (v : BitVec 128) :
    ∃ k, s.storeBy core o u ptr n hint v .atomic = .ok k ∧ k s = s.modCore c (·.writeStore off n v.toNat) := by
  obtain ⟨shut, empty, -, rbk, det, -⟩ := p
  have free : s.granuleFree core u (buffered u o ptr n hint v none) = true := by
    simp [State.granuleFree, shut, rbk]
  have target : (buffered u o ptr n hint v none).target core = .store c off := by
    unfold Buffered.target
    dsimp only [buffered]
    rw [if_pos w.above, w.place]
  have passes : s.passRegion core o (.store c off) n = s := by
    unfold State.passRegion
    rw [hu, Option.bind_some]
    cases hr : u.region with
    | none => rfl
    | some g => simp only [empty g hr, List.any_nil, Bool.false_eq_true, ↓reduceIte]
  have stores : s.storeBy core o u ptr n hint v .atomic =
      .ok (fun z => ((z.fillTlb core none).passRegion core o (.store c off) n).commitStore core (buffered u o ptr n hint v none)) := by
    simp [State.storeBy, w.resolve_atomic, free, shut, det]
  refine ⟨_, stores, ?_⟩
  show (s.passRegion core o (.store c off) n).commitStore core (buffered u o ptr n hint v none) = _
  rw [passes, State.commitStore, if_neg (fun both => Bool.false_ne_true (rbk.symm.trans both.1)), State.performStore, target]
  rfl

end

/-- Element j of an STCP to base, with elements of n bytes, falls on offset off + j × n of the core's own store, and can be stored at once. -/
def Lands (s : State) (core : Nat) (base : DWord) (n off j : Nat) (m : Member) : Prop :=
  ∃ u, s.thread? core m.slot = some u ∧ Plain s core m.slot u ∧ InWindow s core u (addOff base (j * n : Nat)) n core (off + j * n)

/-- A change of a core that leaves maps, blocks, loads and the threads but for their waits alone lets elements fall where they fell. -/
theorem Lands.modCore {s : State} {core n off j : Nat} {base : DWord} {m : Member} (h : Lands s core base n off j m) {f : Core → Core}
    (crews : (f (s.core core)).crews = (s.core core).crews) (blocks : (f (s.core core)).blocks = (s.core core).blocks)
    (loads : (f (s.core core)).loads = (s.core core).loads)
    (threads : ∀ u, s.thread? core m.slot = some u → ∃ p, (f (s.core core)).thread? m.slot = some { u with park := p }) :
    Lands (s.modCore core f) core base n off j m := by
  obtain ⟨u, hu, ⟨shut, empty, clean, rbk, det, held⟩, above, place, c, lt, allowed⟩ := h
  obtain ⟨p, hp⟩ := threads u hu
  refine ⟨{ u with park := p }, by rw [State.thread?, State.core_modCore_self]; exact hp, ⟨shut, empty, ?_, rbk, det, ?_⟩, above, place, c, lt, ?_⟩
  · unfold NoFaults
    rw [State.core_modCore_self, loads]
    exact clean
  · unfold State.heldStores Core.block? at held ⊢
    rw [State.core_modCore_self, blocks]
    exact held
  · unfold Core.allowed at allowed ⊢
    rw [State.core_modCore_self, crews, blocks]
    exact allowed

/-- Elements of n bytes stored one behind another, from element j on. -/
def Core.storeRow (c : Core) (off n : Nat) : Nat → List Member → Core
  | _, [] => c
  | j, m :: r => Core.storeRow (c.writeStore (off + j * n) n m.b.toNat) off n (j + 1) r

section
variable (c : Core) (off n j : Nat) (l : List Member)

/-- They change the store, its marks of lost words and the operand latches alone. -/
theorem Core.storeRow_eq : c.storeRow off n j l =
    { c with store := (c.storeRow off n j l).store, bad := (c.storeRow off n j l).bad, latch := (c.storeRow off n j l).latch } := by
  induction l generalizing c j with
  | nil => rfl
  | cons m r ih => exact ih (c.writeStore (off + j * n) n m.b.toNat) (j + 1)

@[simp] theorem Core.storeRow_threads : (c.storeRow off n j l).threads = c.threads := (congrArg Core.threads (c.storeRow_eq off n j l) :)
@[simp] theorem Core.storeRow_crews : (c.storeRow off n j l).crews = c.crews := (congrArg Core.crews (c.storeRow_eq off n j l) :)

variable {c off n j l}

theorem Core.get_storeRow_out {b : Nat} (out : b < off + j * n ∨ off + (j + l.length) * n ≤ b) :
    (c.storeRow off n j l).store.get b = c.store.get b := by
  induction l generalizing c j with
  | nil => rfl
  | cons m r ih =>
    have step : (j + 1) * n = j * n + n := Nat.succ_mul j n
    have last : (j + 1 + r.length) * n = (j + (r.length + 1)) * n := by rw [Nat.add_right_comm, Nat.add_assoc j]
    have mono : (j + 1) * n ≤ (j + 1 + r.length) * n := Nat.mul_le_mul_right n (Nat.le_add_right _ _)
    rw [List.length_cons, ← last] at out
    rw [Core.storeRow, ih (by omega), Core.get_writeStore, if_neg (by omega)]

/-- Byte i of element j + k is that of the participant which stores it. -/
theorem Core.get_storeRow_in {k i : Nat} {m : Member} (hm : l[k]? = some m) (hi : i < n) :
    (c.storeRow off n j l).store.get (off + (j + k) * n + i) = byteOf m.b.toNat i := by
  induction l generalizing c j k with
  | nil => cases hm
  | cons a r ih =>
    cases k with
    | zero =>
      cases hm
      have step : (j + 1) * n = j * n + n := Nat.succ_mul j n
      rw [Nat.add_zero, Core.storeRow, Core.get_storeRow_out (.inl (by omega)), Core.get_writeStore, if_pos (by omega),
        Nat.add_sub_cancel_left]
    | succ k =>
      have next : j + (k + 1) = j + 1 + k := by omega
      rw [Core.storeRow, next]
      exact ih hm

end

/-- Where every element falls on the core's own store, all are stored. -/
theorem State.stcpStores_land {core n off hint : Nat} {base : DWord} {l : List Member} {s : State} {j : Nat}
    (live : ∃ o u, s.thread? core o = some u) (h : ∀ k m, l[k]? = some m → Lands s core base n off (j + k) m) :
    s.stcpStores core base n hint j l = (s.modCore core (·.storeRow off n j l), none) := by
  induction l generalizing s j with
  | nil =>
    obtain ⟨o, u, hu⟩ := live
    rw [State.stcpStores]
    exact congrArg (·, none) (State.modCore_id hu).symm
  | cons m r ih =>
    obtain ⟨u, hu, p, w⟩ := h 0 m rfl
    obtain ⟨k, stores, does⟩ := State.storeBy_atomic_window hu p w hint (m.b.setWidth 128)
    have value : (m.b.setWidth 128).toNat = m.b.toNat := by
      rw [BitVec.toNat_setWidth, Nat.mod_eq_of_lt (m.b.isLt.trans (by decide))]
    rw [value] at does
    have place : ((j : Int) * (n : Int)) = ((j + 0) * n : Nat) := (Int.natCast_mul j n).symm
    simp only [State.stcpStores, hu, place, stores, does]
    rw [ih ⟨m.slot, u, ?_⟩ (fun k m' hm' => ?_), State.modCore_modCore]
    · rfl
    · rw [State.thread?, State.core_modCore_self]
      exact hu
    · have lands := h (k + 1) m' hm'
      have next : j + (k + 1) = j + 1 + k := by omega
      rw [next] at lands
      exact lands.modCore rfl rfl rfl (fun u hu => ⟨u.park, hu⟩)

end Sys2Proof.Machine
end

section
namespace Sys2Proof.Machine
open Sys2Proof Sys2Proof.Claims

/-! ## STCP completes (06 R165) -/

/-- The participants that store, in their lanes' order. -/
def storers (ms : List Member) : List Member := ms.filter (fun m => m.active && m.q)

section
variable {s : State} {core slot len off : Nat} {t u : Thread} {x : XOps} {me lead : Member} {ms : List Member}

/-- Outside deterministic launches no STCP waits for the marble (22 R464). -/
theorem State.stcpWaits_unordered {o : Nat} (hu : s.thread? core o = some u) (det : (s.rcd u.lid).det = false) (base : DWord) (n : Nat) :
    s.stcpWaits core o base n = false := by
  simp only [State.stcpWaits, hu, det, Bool.false_and]

/-- An STCP whose base is aligned, whose participants are all inside a region or all outside one, and whose elements land stores them and
gives their number. -/
theorem State.stcpFinish_lands (inside : Bool) (first : (ms.filter (·.active)).head? = some lead) (hu : s.thread? core lead.slot = some u)
    (det : (s.rcd u.lid).det = false) (aligned : lead.a.toNat % sizeOf_ x = 0)
    (regions : ∀ m ∈ ms, m.active = true → ((s.thread? core m.slot).bind Thread.openRegion).isSome = inside)
    (lands : ∀ j m, (storers ms)[j]? = some m → Lands s core lead.a (sizeOf_ x) off j m) :
    s.stcpFinish core len x ms = (s.modCore core (·.storeRow off (sizeOf_ x) 0 (storers ms))).crossFinish core len ms
      (fun _ => wr32 x.d (BitVec.ofNat 32 (storers ms).length)) := by
  obtain ⟨r, act⟩ := List.head?_eq_some_iff.1 first
  have storing : (lead :: r).filter (·.q) = storers ms := by
    rw [← act, List.filter_filter, storers]
    exact List.filter_congr (fun m _ => Bool.and_comm _ _)
  have agree (m : Member) (hm : m ∈ lead :: r) : ((s.thread? core m.slot).bind Thread.openRegion).isSome = inside := by
    rw [← act, List.mem_filter] at hm
    exact regions m hm.1 hm.2
  have mixed : ((lead :: r).any (fun m => ((s.thread? core m.slot).bind Thread.openRegion).isSome) &&
      !(lead :: r).all (fun m => ((s.thread? core m.slot).bind Thread.openRegion).isSome)) = false := by
    cases inside with
    | false => rw [List.any_eq_false.2 (fun m hm => by rw [agree m hm]; decide), Bool.false_and]
    | true => rw [List.all_eq_true.2 agree, Bool.not_true, Bool.and_false]
  have stores := State.stcpStores_land (hint := hintOf x) (j := 0) ⟨lead.slot, u, hu⟩
    (fun k m hm => by rw [Nat.zero_add]; exact lands k m hm)
  simp only [State.stcpFinish, act, storing, mixed, aligned, State.stcpWaits_unordered hu det, stores, ne_eq, not_true_eq_false,
    Bool.false_eq_true, ↓reduceIte]

/-- A thread that comes to stand at an instruction stays in its region. -/
theorem openRegion_arrived (ht : s.thread? core slot = some t) (i : Instr) (x : XOps) (m : Member) (o : Nat) :
    ((s.arrived core slot i x m).thread? core o).bind Thread.openRegion = (s.thread? core o).bind Thread.openRegion := by
  by_cases ho : o = slot
  · subst ho
    rw [State.thread?_arrived_self ht, ht]
    rfl
  · rw [State.thread?_arrived_ne ho]

theorem Lands.arrived {base : DWord} {n j : Nat} {m : Member} (h : Lands s core base n off j m) (i : Instr) (x : XOps) (me : Member) :
    Lands (s.arrived core slot i x me) core base n off j m :=
  h.modCore (Core.modThread_crews _ slot _) (Core.modThread_blocks _ slot _) (Core.modThread_loads _ slot _) (fun u hu => by
    obtain ⟨p, hp⟩ := State.thread?_arrived hu i x me
    exact ⟨p, by rwa [State.arrived, State.modThread, State.thread?, State.core_modCore_self] at hp⟩)

theorem Lands.relatch {base : DWord} {n j : Nat} {m : Member} (h : Lands s core base n off j m) (l : List (Nat × BitVec 8 × Nat)) :
    Lands (s.relatch core l) core base n off j m := h.modCore rfl rfl rfl (fun u hu => ⟨u.park, hu⟩)

/-- The state in which the participants of an STCP that has stored its elements advance. -/
def State.compacted (s : State) (core slot off : Nat) (x : XOps) (me : Member) (ms : List Member) : State :=
  (s.arrived core slot (.stcp x) x me).modCore core (·.storeRow off (sizeOf_ x) 0 (storers ms))

theorem State.thread?_compacted (s : State) (core slot off : Nat) (x : XOps) (me : Member) (ms : List Member) (o : Nat) :
    (s.compacted core slot off x me ms).thread? core o = (s.arrived core slot (.stcp x) x me).thread? core o := by
  rw [State.compacted, State.thread?, State.core_modCore_self, Core.thread?, Core.storeRow_threads]
  rfl

/-- The last of its participants lets it complete. -/
theorem stcp_ends (inside : Bool) (h : Solo s core slot t)
    (first : (ms.filter (·.active)).head? = some lead) (hu : s.thread? core lead.slot = some u) (det : (s.rcd u.lid).det = false)
    (aligned : lead.a.toNat % sizeOf_ x = 0)
    (regions : ∀ m ∈ ms, m.active = true → ((s.thread? core m.slot).bind Thread.openRegion).isSome = inside)
    (lands : ∀ j m, (storers ms)[j]? = some m → Lands s core lead.a (sizeOf_ x) off j m) :
    (s.arrived core slot (.stcp x) x me).crossDone core x.len (.stcp x) ms = (s.compacted core slot off x me ms).crossFinish core x.len ms
      (fun _ => wr32 x.d (BitVec.ofNat 32 (storers ms).length)) := by
  obtain ⟨p, hp⟩ := State.thread?_arrived hu (.stcp x) x me
  refine State.stcpFinish_lands inside first hp det aligned (fun m hm on => ?_) (fun j m hm => (lands j m hm).arrived _ x me)
  rw [openRegion_arrived h.thread]
  exact regions m hm on

/-! ### Alone -/

/-- What a thread alone in its crew brings to an STCP. -/
theorem gathered_stcp_alone {p : DWord} {v : BitVec 128} (h : Solo s core slot t)
    (named : (crossMask s core slot x).getLsbD (slot % 64) = true) (on : t.guard x.g = true)
    (alone : ∀ o ∈ (s.core core).slotsIn (slot / 64), o = slot)
    (mapped : MappedAll (s.core core) slot (crossCodes (.stcp x)))
    (address : s.address core slot t x x.imm.toInt = .ok p) (hv : s.srcN core slot t x.lit x.b (2 ^ (x.sub.extractLsb' 0 3).toNat) = .ok v)
    {q : Bool} (hq : q = xor (t.pred (x.c.extractLsb' 0 3)) (x.c.getLsbD 3)) :
    Gathered s core slot t (.stcp x) x ⟨slot, true, p, v.setWidth 64, q⟩ [⟨slot, true, p, v.setWidth 64, q⟩] :=
  gathered_alone h.thread named alone rfl on.symm (fun _ => ⟨mapped, address, ⟨v, hv, rfl⟩, hq⟩) nofun

/-- A thread alone that stores nothing gets the number 0. -/
theorem runCross_stcp_none {m : Member} (h : Solo s core slot t) (g : Gathered s core slot t (.stcp x) x m [m]) (on : m.active = true)
    (off_ : m.q = false) (det : (s.rcd t.lid).det = false) (aligned : m.a.toNat % sizeOf_ x = 0)
    (mapped : MappedAll (s.core core) slot [x.d]) : Result s (s.runCross (.stcp x) x) core slot (t.past x.len) [(x.d, 0)] := by
  obtain ⟨-, hs, -⟩ := g.mine
  have none_ : storers [m] = [] := by simp [storers, off_]
  have same : s.compacted core slot 0 x m [m] = s.arrived core slot (.stcp x) x m := by
    rw [State.compacted, none_]
    exact State.modCore_id (h.arrived _ x m).thread
  rw [gathered_runs g h rfl (fun o => State.thread?_compacted s core slot 0 x m [m] o)
    (stcp_ends t.openRegion.isSome h (by simp [on]) (hs ▸ h.thread) det aligned (fun o ho _ => by rw [List.mem_singleton.1 ho, hs, h.thread]; rfl)
      (fun j o ho => by rw [none_] at ho; cases ho)), same, State.crossFinish_one, if_pos on, hs, none_]
  refine result_of_arrived (Result.one (h.arrived _ x m).thread x.len (.reg x.d 0) (fun d v e lt => ?_) (h.arrived _ x m).crew) rfl
  cases e
  exact mapped.arrived _ x m x.d List.mem_cons_self lt

section
variable {m : Member} (h : Solo s core slot t) (g : Gathered s core slot t (.stcp x) x m [m]) (on : m.active = true) (stores : m.q = true)
  (det : (s.rcd t.lid).det = false) (aligned : m.a.toNat % sizeOf_ x = 0) (discards : x.d = 0xF8) (lands : Lands s core m.a (sizeOf_ x) off 0 m)
include h g on stores det aligned discards lands

/-- A thread alone stores its element and goes on. -/
theorem runCross_stcp_stores : s.runCross (.stcp x) x = s.modCore core (fun c =>
    ((c.modThread slot (·.standing (.stcp x) (crossMask s core slot x) x.len m)).writeStore (off + 0 * sizeOf_ x) (sizeOf_ x) m.b.toNat).advance
      slot x.len) := by
  obtain ⟨-, hs, -⟩ := g.mine
  have one : storers [m] = [m] := by simp [storers, on, stores]
  rw [gathered_runs g h rfl (fun o => State.thread?_compacted s core slot off x m [m] o)
    (stcp_ends t.openRegion.isSome h (by simp [on]) (hs ▸ h.thread) det aligned
      (fun o ho _ => by rw [List.mem_singleton.1 ho, hs, h.thread]; rfl)
      (fun j o ho => by
        rw [one] at ho
        cases j with
        | zero => cases ho; exact lands
        | succ j => cases ho)), State.crossFinish_one, if_pos on, hs, State.compacted, State.arrived, State.modThread, one, discards]
  rw [State.modCore_modCore, State.commit, State.modCore_modCore]
  rfl

/-- Its bytes stand there, and nobody else has changed. -/
theorem runCross_stcp_one :
    StoreIs s (s.runCross (.stcp x) x) core off (sizeOf_ x) m.b.toNat ∧ WentBy s (s.runCross (.stcp x) x) core slot t x.len := by
  rw [runCross_stcp_stores h g on stores det aligned discards lands, Nat.zero_mul, Nat.add_zero]
  refine ⟨fun o b => ?_, ⟨{ t.past x.len with park := none }, ?_, rfl⟩, ?_⟩
  · rw [State.core_modCore]
    split <;> rename_i ho
    · subst ho
      rw [Core.advance_store, Core.get_writeStore, Core.modThread_store]
      simp only [true_and]
    · rw [if_neg (fun k => ho k.1)]
  · have stands := State.thread?_arrived_self h.thread (.stcp x) x m
    rw [State.arrived, State.modThread, State.thread?, State.core_modCore_self] at stands
    rw [State.thread?, State.core_modCore_self, Core.thread?_advance, if_pos rfl]
    exact congrArg (Option.map _) stands
  · rw [State.core_modCore_self]
    exact OthersThinned.of_only (((OnlyThread.modThread _ slot _).trans (OnlyThread.writeStore slot _ off _ _)).trans (OnlyThread.advance _ slot x.len))

end

end

end Sys2Proof.Machine
end

section
namespace Sys2Proof.Machine
open Sys2Proof Sys2Proof.Claims

/-! ## All of the participants: what the rendezvous does and leaves unchanged (06 R160) -/

section
variable {s : State} {core slot off : Nat} {t u : Thread} {i : Instr} {x : XOps} {me lead : Member} {ms : List Member}

/-- A rendezvous completes, and no thread outside it changes but for its marks of aborted loads. -/
def Passes (core : Nat) (i : Instr) (x : XOps) (ms : List Member) (s s' : State) : Prop :=
  OnlyCore core s s' ∧ Completed s s' core i x ms ∧ ∀ o, o ∉ ms.map (·.slot) → Option.Rel Thinned (s.thread? core o) (s'.thread? core o)

theorem LatchBlind.passes (core slot : Nat) (i : Instr) (x : XOps) (ms : List Member) : LatchBlind core slot (Passes core i x ms) := by
  refine LatchBlind.and LatchBlind.onlyCore (LatchBlind.and (LatchBlind.completed core slot i x ms) ?_)
  intro s s' a b _ _ h o ho
  have k := h o ho
  rw [State.thread?_relatch] at k ⊢
  exact k

theorem OnlyCore.arrived (s : State) (i : Instr) (x : XOps) (m : Member) : OnlyCore core s (s.arrived core slot i x m) := by
  unfold State.arrived State.modThread
  exact OnlyCore.modCore core s _

/-- The end of a rendezvous of which the last has come: its results go to D. -/
theorem passes_of_ends {s₁ : State} {f : Member → List Write} {R : Member → Alone} (g : Gathered s core slot t i x me ms) (only : OnlyCore core s s₁)
    (before : ∀ o, s₁.thread? core o = (s.arrived core slot i x me).thread? core o)
    (ends : CrossEnd (s₁.core core) (slot / 64) i (crossMask s core slot x) x.len t.pc x.d ms R f)
    (together : ∀ m ∈ ms, m.active = true → Together i ms m (R m)) : Passes core i x ms s (s₁.crossFinish core x.len ms f) := by
  refine ⟨only.trans (OnlyCore.modCore core s₁ _), ends.completed (fun o u hu => ?_) together, fun o ho => ?_⟩
  · rw [before]
    exact State.thread?_arrived hu i x me
  · obtain ⟨hm, hs, -⟩ := g.mine
    have away : o ≠ slot := fun e => ho (List.mem_map.2 ⟨me, hm, hs.trans e.symm⟩)
    rw [← State.thread?_arrived_ne away i x me, ← before, State.crossFinish_eq]
    show Option.Rel _ ((s₁.core core).thread? o) (((s₁.modCore core _).core core).thread? o)
    rw [State.core_modCore_self]
    exact crossed_other ends.met.nodup ho

/-- VOTE, SHFL, PRFX and CRED complete with the results of 06 R161, R162. -/
theorem runCross_passes (h : Solo s core slot t) (hi : crossOps i = some x) (no_stcp : ∀ y, i ≠ .stcp y) (g : Gathered s core slot t i x me ms)
    (mapped : ∀ m ∈ ms, m.active = true → MappedAll (s.core core) m.slot (crossCodes i)) : Passes core i x ms s (s.runCross i x) := by
  have met := gathered_met g h.thread
  rw [gathered_runs g h hi (fun _ => rfl) (State.crossDone_eq no_stcp _ _ _ _)]
  refine passes_of_ends (R := crossValue i ms) g (OnlyCore.arrived s i x me) (fun _ => rfl) ⟨met, (h.arrived i x me).crew,
    fun m _ _ => crossWrites_eq hi no_stcp, fun m hm on => ?_⟩
    (fun m hm on => together_crossValue hi no_stcp (fun o ho o' ho' e => gathered_lanes g ho ho' e) hm on)
  rw [← crossCodes_eq hi no_stcp ms m]
  exact (mapped m hm on).arrived i x me

/-- The bytes that an STCP has stored, with what it has left where neither they nor its results stand (06 R165). -/
def RowStands (off n : Nat) (d : BitVec 8) (ms : List Member) (c c' : Core) : Prop :=
  (∀ j m k, (storers ms)[j]? = some m → k < n → c'.store.get (off + j * n + k) = byteOf m.b.toNat k) ∧
  ∀ b, (b < off ∨ off + (storers ms).length * n ≤ b) →
    (∀ m ∈ ms, m.active = true → ∀ a, d.toNat < 0xE0 → c.vOff m.slot d.toNat = some a → b < a ∨ a + 4 ≤ b) → c'.store.get b = c.store.get b

/-- The number of those that store. -/
theorem together_stcp (y : XOps) (ms : List Member) (m : Member) :
    Together (.stcp y) ms m (.word (BitVec.ofNat 32 (storers ms).length)) := by
  unfold Together storers
  rw [List.countP_eq_length_filter]

/-- Element j of a row lies in it. -/
theorem row_bound {n j k l : Nat} (hj : j < l) (hk : k < n) : off + j * n + k < off + l * n := by
  have step : (j + 1) * n ≤ l * n := Nat.mul_le_mul_right n hj
  rw [Nat.succ_mul] at step
  omega

/-- A byte outside the registers of the number is no matter of the end of an STCP. -/
theorem Core.get_crossed_out {c : Core} {len b : Nat} {d : BitVec 8} {w : Word}
    (out : ∀ m ∈ ms, m.active = true → ∀ a, d.toNat < 0xE0 → c.vOff m.slot d.toNat = some a → b < a ∨ a + 4 ≤ b) :
    (c.crossed len ms (fun _ => wr32 d w)).store.get b = c.store.get b := by
  obtain ⟨-, stores⟩ := Core.passAll_same c len ms
  rw [Core.crossed, Core.get_applyEach (fun m hm e v hw lt a ha => ?_), stores]
  obtain ⟨rfl, -⟩ : e = d ∧ v = w := by simpa [wr32] using hw
  rw [Core.vOff_passAll] at ha
  exact out m (List.mem_filter.1 hm).1 (List.mem_filter.1 hm).2 a lt ha

/-- The end of an STCP leaves the row in the store, from which its destinations lie apart. -/
theorem rowStands_crossed {c c₀ : Core} {len n : Nat} {d : BitVec 8} {w : Word} (store : c₀.store = c.store) (crews : c₀.crews = c.crews)
    (apart : d = 0xF8 ∨ d.toNat < 0xE0 ∧ ∀ m ∈ ms, m.active = true → Apart c m.slot d off ((storers ms).length * n)) :
    RowStands off n d ms c ((c₀.storeRow off n 0 (storers ms)).crossed len ms (fun _ => wr32 d w)) := by
  have maps (o e : Nat) : (c₀.storeRow off n 0 (storers ms)).vOff o e = c.vOff o e :=
    Core.vOff_congr ((Core.storeRow_crews c₀ off n 0 (storers ms)).trans crews) o e
  refine ⟨fun j m k hj hk => ?_, fun b out regs => ?_⟩
  · have inside := row_bound (off := off) (List.getElem?_eq_some_iff.1 hj).1 hk
    rw [Core.get_crossed_out (fun o ho on a lt ha => ?_)]
    · have stored := Core.get_storeRow_in (c := c₀) (off := off) (j := 0) hj hk
      rwa [Nat.zero_add] at stored
    · rcases apart with rfl | ⟨-, apart⟩
      · exact absurd lt (by decide)
      · rw [maps] at ha
        obtain ⟨a', ha', beside⟩ := apart o ho on lt
        cases ha'.symm.trans ha
        omega
  · rw [Core.get_crossed_out (fun o ho on a lt ha => regs o ho on a lt (by rwa [maps] at ha)),
      Core.get_storeRow_out (by rwa [Nat.zero_mul, Nat.add_zero, Nat.zero_add]), store]

/-- STCP completes with its elements stored and its number in D. -/
theorem runCross_stcp_passes (h : Solo s core slot t) (g : Gathered s core slot t (.stcp x) x me ms)
    (first : (ms.filter (·.active)).head? = some lead) (aligned : lead.a.toNat % sizeOf_ x = 0)
    (plain : ∀ m ∈ ms, m.active = true → ∃ u, s.thread? core m.slot = some u ∧ Plain s core m.slot u ∧ MappedAll (s.core core) m.slot [x.d])
    (lands : ∀ j m, (storers ms)[j]? = some m → Lands s core lead.a (sizeOf_ x) off j m)
    (apart : x.d = 0xF8 ∨ x.d.toNat < 0xE0 ∧ ∀ m ∈ ms, m.active = true →
      Apart (s.core core) m.slot x.d off ((storers ms).length * sizeOf_ x)) :
    Passes core (.stcp x) x ms s (s.runCross (.stcp x) x) ∧
      RowStands off (sizeOf_ x) x.d ms (s.core core) ((s.runCross (.stcp x) x).core core) := by
  have here : (s.compacted core slot off x me ms).core core =
      ((s.core core).modThread slot (·.standing (.stcp x) (crossMask s core slot x) x.len me)).storeRow off (sizeOf_ x) 0 (storers ms) := by
    rw [State.compacted, State.core_modCore_self, State.arrived, State.core_modThread_self]
  have maps (o n : Nat) : ((s.compacted core slot off x me ms).core core).vOff o n = (s.core core).vOff o n := by
    rw [here, Core.vOff_congr (Core.storeRow_crews _ off (sizeOf_ x) 0 (storers ms)), Core.vOff_congr (Core.modThread_crews _ slot _)]
  have ahead : lead ∈ ms.filter (·.active) := List.mem_of_mem_head? first
  rw [List.mem_filter] at ahead
  obtain ⟨u, hu, ⟨-, -, -, -, det, -⟩, -⟩ := plain lead ahead.1 ahead.2
  have runs := gathered_runs g h rfl (fun o => State.thread?_compacted s core slot off x me ms o)
    (stcp_ends false h first hu det aligned (fun m hm on => by
      obtain ⟨v, hv, ⟨shut, -⟩, -⟩ := plain m hm on
      rw [hv, Option.bind_some, shut]
      rfl) lands)
  rw [runs]
  refine ⟨passes_of_ends (R := fun _ => .word (BitVec.ofNat 32 (storers ms).length)) g
    ((OnlyCore.arrived s _ x me).trans (OnlyCore.modCore core _ _)) (fun o => State.thread?_compacted s core slot off x me ms o)
    ⟨(gathered_met g h.thread).congr (fun o => State.thread?_compacted s core slot off x me ms o), ?_, fun _ _ _ => rfl, fun m hm on e he lt => ?_⟩
    (fun m _ _ => together_stcp x ms m), ?_⟩
  · have live := (h.arrived (.stcp x) x me).crew
    rw [State.arrived, State.core_modThread_self] at live
    rw [here, Core.crew?, Core.storeRow_crews]
    exact live
  · obtain ⟨v, -, -, mapped⟩ := plain m hm on
    rw [maps]
    exact mapped e he lt
  · rw [State.crossFinish_eq, State.core_modCore_self, here]
    exact rowStands_crossed (Core.modThread_store _ slot _) (Core.modThread_crews _ slot _) apart

end

end Sys2Proof.Machine
end

section
namespace Sys2Proof.Machine
open Sys2Proof Sys2Proof.Claims

/-! ## What the cross-lane instructions complete with -/

theorem addOff_zero (p : DWord) : addOff p 0 = p := by
  have zero : BitVec.ofInt 56 0 = 0#56 := rfl
  rw [addOff, zero, BitVec.add_zero]
  exact (extract_join p (s := 0) rfl).trans BitVec.extractLsb'_eq_self

section
variable {s : State} {core slot : Nat} {t : Thread} {x : XOps} {i : Instr}

/-- What is written in a store of the core is no matter of the operand latches. -/
theorem LatchBlind.storeIs (c off n v : Nat) : LatchBlind core slot (fun s s' => StoreIs s s' c off n v) := by
  intro s s' a b _ _ h m k
  have here := h m k
  rw [State.core_relatch] at here
  rw [State.core_relatch]
  exact here

/-- A source of at most 8 bytes fits in 8. -/
theorem State.srcN_lt {lit : Option DWord} {code : BitVec 8} {n : Nat} {v : BitVec 128} (hn : n ≤ 8)
    (hv : s.srcN core slot t lit code n = .ok v) : v.toNat < 2 ^ 64 := by
  unfold State.srcN at hv
  split at hv
  · cases hw : s.src32 core slot t lit code with
    | error e => rw [hw] at hv; cases hv
    | ok w =>
      rw [hw] at hv
      cases hv
      rw [BitVec.toNat_and, BitVec.toNat_setWidth]
      exact Nat.lt_of_le_of_lt (Nat.and_le_left.trans (Nat.mod_le _ _)) (w.isLt.trans (by decide))
  · rw [if_pos (.inl hn)] at hv
    cases hw : s.src64 core slot t lit code with
    | error e => rw [hw] at hv; cases hv
    | ok w =>
      rw [hw] at hv
      cases hv
      rw [BitVec.toNat_setWidth]
      exact Nat.lt_of_le_of_lt (Nat.mod_le _ _) w.isLt

variable (hi : crossOps i = some x) (h : Solo s core slot t)
include hi h

theorem cross_traps_outside (none_ : NoneCrossing s core slot) (out : (crossMask s core slot x).getLsbD (slot % 64) = false) (hd : Handled s t) :
    Completes i s (fun s' => Trapped s s' core slot t causeJoin t.pc) :=
  completes_of_cross hi (LatchBlind.trapped t causeJoin t.pc) h (fun l => runCross_outside (h.relatch l) (hd.relatch _ l)
    (noneCrossing_relatch none_ l) (by rw [crossMask_relatch]; exact out) i)

theorem cross_passes_off (named : (crossMask s core slot x).getLsbD (slot % 64) = true) (off : t.guard x.g = false)
    (alone : ∀ o ∈ (s.core core).slotsIn (slot / 64), o = slot) : Completes i s (fun s' => Result s s' core slot (t.past x.len) []) :=
  completes_of_cross hi (LatchBlind.result _ _) h (fun l => runCross_alone_off (h.relatch l) hi off (by rw [crossMask_relatch]; exact named)
    (by rw [State.core_relatch_self]; exact alone))

theorem cross_waits (none_ : NoneCrossing s core slot) (named : (crossMask s core slot x).getLsbD (slot % 64) = true) (off : t.guard x.g = false)
    {o : Nat} {u : Thread} (hu : s.thread? core o = some u) (ho : o ≠ slot) (crew : o / 64 = slot / 64)
    (named' : (crossMask s core slot x).getLsbD (o % 64) = true) :
    Completes i s (Waits core slot t (.cross i (crossMask s core slot x) false 0 0 false x.len) s) :=
  completes_of_cross hi (LatchBlind.waits _ _) h (fun l => by
    have mask := crossMask_relatch s core slot x l
    rw [← mask]
    exact runCross_waits (h.relatch l) (noneCrossing_relatch none_ l) off (by rw [mask]; exact named) (by rw [State.thread?_relatch]; exact hu)
      ho crew (by rw [mask]; exact named') i)

/-- One that is no STCP, of a thread alone (06 R161, R162). -/
theorem cross_alone {a : Word} {r : Alone} (named : (crossMask s core slot x).getLsbD (slot % 64) = true) (on : t.guard x.g = true)
    (alone : ∀ o ∈ (s.core core).slotsIn (slot / 64), o = slot) (mapped : MappedAll (s.core core) slot (aloneCodes i))
    (ha : ∀ y, i = .shfl y ∨ i = .cred y → s.src32 core slot t x.lit x.a = .ok a)
    (hb : ∀ y, i = .shfl y → ∃ b, s.src32 core slot t x.lit x.b = .ok b)
    (hr : aloneResult i (slot % 64) (xor (t.pred (x.a.extractLsb' 0 3)) (x.a.getLsbD 3)) a = some r) :
    Completes i s (ResultIs core slot x.d (t.past x.len) r s) := by
  have no_stcp (y : XOps) : i ≠ .stcp y := by rintro rfl; cases hr
  have codes : crossCodes i = aloneCodes i := by
    cases i with
    | stcp y => exact absurd rfl (no_stcp y)
    | _ => rfl
  rw [← codes] at mapped
  obtain ⟨b, hb⟩ : ∃ b, ∀ y, i = .shfl y → s.src32 core slot t x.lit x.b = .ok b := by
    by_cases shuffles : ∃ y, i = .shfl y
    · obtain ⟨y, e⟩ := shuffles
      obtain ⟨b, hb⟩ := hb y e
      exact ⟨b, fun _ _ => hb⟩
    · exact ⟨0, fun y e => absurd ⟨y, e⟩ shuffles⟩
  obtain ⟨m, hs, act, brings, hq, word⟩ := brings_alone ha hb hi no_stcp
  have g : Gathered s core slot t i x m [m] :=
    gathered_alone h.thread named alone hs (act.trans on.symm) (fun _ => ⟨mapped, brings⟩) (fun off => by rw [act] at off; cases off)
  have value := crossValue_alone act (hs ▸ hr) hq word
  refine completes_of_cross hi (LatchBlind.resultIs _ _ _) h (fun l => ?_)
  rw [← value]
  exact runCross_alone (h.relatch l) hi no_stcp (gathered_relatch g l) act (mapped.relatch l)

/-- One that is no STCP, of the last of its participants. -/
theorem cross_passes {me : Member} {ms : List Member} (g : Gathered s core slot t i x me ms) (no_stcp : ∀ y, i ≠ .stcp y)
    (mapped : ∀ m ∈ ms, m.active = true → MappedAll (s.core core) m.slot (crossCodes i)) : Completes i s (Passes core i x ms s) :=
  completes_of_cross hi (LatchBlind.passes core slot i x ms) h (fun l => runCross_passes (h.relatch l) hi no_stcp (gathered_relatch g l)
    (fun m hm on => (mapped m hm on).relatch l))

end

section
variable {s : State} {core slot : Nat} {t : Thread} {x : XOps} (h : Solo s core slot t)
include h

theorem stcp_alone_none {m : Member} (g : Gathered s core slot t (.stcp x) x m [m]) (on : m.active = true) (off : m.q = false)
    (det : (s.rcd t.lid).det = false) (aligned : m.a.toNat % sizeOf_ x = 0) (mapped : MappedAll (s.core core) slot [x.d]) :
    Completes (.stcp x) s (fun s' => Result s s' core slot (t.past x.len) [(x.d, 0)]) :=
  completes_of_cross rfl (LatchBlind.result _ _) h (fun l => runCross_stcp_none (h.relatch l) (gathered_relatch g l) on off det aligned
    (mapped.relatch l))

theorem stcp_alone_one {m : Member} {off : Nat} (g : Gathered s core slot t (.stcp x) x m [m]) (on : m.active = true) (stores : m.q = true)
    (aligned : m.a.toNat % sizeOf_ x = 0) (discards : x.d = 0xF8) (plain : Plain s core slot t)
    (window : InWindow s core t m.a (sizeOf_ x) core off) :
    Completes (.stcp x) s (fun s' => StoreIs s s' core off (sizeOf_ x) m.b.toNat ∧ WentBy s s' core slot t x.len) := by
  obtain ⟨-, hs, -⟩ := g.mine
  have lands : Lands s core m.a (sizeOf_ x) off 0 m := by
    refine ⟨t, hs ▸ h.thread, hs ▸ plain, ?_⟩
    rw [Nat.zero_mul, Nat.add_zero]
    exact (addOff_zero m.a).symm ▸ window
  obtain ⟨-, -, -, -, det, -⟩ := plain
  exact completes_of_cross rfl (LatchBlind.and (LatchBlind.storeIs _ _ _ _) (LatchBlind.wentBy _ _)) h (fun l =>
    runCross_stcp_one (h.relatch l) (gathered_relatch g l) on stores det aligned discards (lands.relatch l))

theorem stcp_passes {me lead : Member} {ms : List Member} {off : Nat} (g : Gathered s core slot t (.stcp x) x me ms)
    (first : (ms.filter (·.active)).head? = some lead) (aligned : lead.a.toNat % sizeOf_ x = 0)
    (plain : ∀ m ∈ ms, m.active = true → ∃ u, s.thread? core m.slot = some u ∧ Plain s core m.slot u ∧ MappedAll (s.core core) m.slot [x.d])
    (lands : ∀ j m, (storers ms)[j]? = some m → Lands s core lead.a (sizeOf_ x) off j m)
    (apart : x.d = 0xF8 ∨ x.d.toNat < 0xE0 ∧ ∀ m ∈ ms, m.active = true →
      Apart (s.core core) m.slot x.d off ((storers ms).length * sizeOf_ x)) :
    Completes (.stcp x) s (fun s' => Passes core (.stcp x) x ms s s' ∧ RowStands off (sizeOf_ x) x.d ms (s.core core) (s'.core core)) := by
  refine completes_of_cross rfl (LatchBlind.and (LatchBlind.passes core slot _ x ms)
    (LatchBlind.of_core (R := RowStands off (sizeOf_ x) x.d ms) (fun _ _ _ _ row => row))) h (fun l => ?_)
  refine runCross_stcp_passes (h.relatch l) (gathered_relatch g l) first aligned (fun m hm on => ?_) (fun j m hm => (lands j m hm).relatch l) ?_
  · obtain ⟨u, hu, p, mapped⟩ := plain m hm on
    exact ⟨u, by rwa [State.thread?_relatch], plain_relatch p l, mapped.relatch l⟩
  · rw [State.core_relatch_self]
    exact apart

end

end Sys2Proof.Machine

open Sys2Proof.Machine Sys2Proof.Claims

/-- Settles O23: the last arrival settles its crew's rendezvous, whose participants then advance and write one after another, each in its own lane. -/
theorem crossLaneResult : Obligations.CrossLaneResult := by
  unfold Obligations.CrossLaneResult
  intro i x hi s core slot t h
  refine ⟨fun none_ => ⟨fun out hd => cross_traps_outside hi h none_ out hd, fun named off alone => cross_passes_off hi h named off alone,
    fun a r named on alone mapped ha hb hr => ?_, fun o u named off hu ho crew named' => cross_waits hi h none_ named off hu ho crew named',
    ?_⟩, fun me ms g no_stcp mapped _ => cross_passes hi h g no_stcp mapped, ?_⟩
  · have result := cross_alone hi h named on alone mapped ha hb hr
    cases r with
    | _ => exact result
  · intro y p v e named on alone n_le mapped address hv aligned q
    subst e
    cases hi
    have g := gathered_stcp_alone h named on alone mapped address hv (q := q) rfl
    refine ⟨fun off det => stcp_alone_none h g rfl off det aligned (fun d hd => mapped d ?_), fun a e stores discards plain resolves => ?_⟩
    · simp only [List.mem_singleton] at hd
      simp [hd]
    · obtain ⟨window, -⟩ := InWindow.of_resolve (State.resolve_atomic_window resolves)
      have value : (v.setWidth 64).toNat = v.toNat := by
        rw [BitVec.toNat_setWidth, Nat.mod_eq_of_lt (State.srcN_lt n_le hv)]
      have done := stcp_alone_one h g rfl stores aligned discards plain window
      rw [value] at done
      exact done
  · intro y me ms lead off e g _ n storing n_le first aligned plain lands apart
    subst e
    cases hi
    have codes {o : Nat} (mapped : MappedAll (s.core core) o (crossCodes (.stcp x))) : MappedAll (s.core core) o [x.d] := by
      intro d hd
      refine mapped d ?_
      simp only [List.mem_singleton] at hd
      simp [crossCodes, hd]
    have done := stcp_passes h g first aligned (fun m hm on => by
      obtain ⟨u, hu, -, p, mapped⟩ := plain m hm on
      exact ⟨u, hu, p, codes mapped⟩) (fun j m hm => by
        have listed := List.mem_filter.1 (List.mem_of_getElem? hm)
        simp only [Bool.and_eq_true] at listed
        obtain ⟨u, hu, -, p, -⟩ := plain m listed.1 listed.2.1
        exact ⟨u, hu, p, (InWindow.of_resolve (State.resolve_atomic_window (lands j m u hm hu))).1⟩) apart
    obtain ⟨s', run, ⟨only, completed, -⟩, row, rest⟩ := done
    exact ⟨s', run, only, completed, row, rest⟩
end

section
namespace Sys2Proof.Machine
open Sys2Proof Sys2Proof.Claims

/-! ## Commits of an open region (08 R186) -/

section
variable {s : State} {core slot : Nat} {t : Thread} {r : Region}

/-- No fault of a load of the thread is still to be recorded (10 R238). -/
theorem State.recordFaults_clean (clean : NoFaults s core slot) : s.recordFaults core slot = s := by
  have nothing : (s.core core).loads.filter (fun l => l.slot == slot && l.fault.isSome && l.ending.isNone) = [] := by
    refine List.filter_eq_nil_iff.2 (fun l hl => ?_)
    by_cases own : l.slot = slot
    · simp [clean l hl own]
    · simp [own]
  rw [State.recordFaults, nothing, List.foldl_nil]

/-- A region commits whose thread has no repairable fault marked, and whose DS stores find the marble (08 R186, R197, 10 R238). -/
theorem State.commitCheck_ok (opens : t.openRegion = some r) (sound : t.taints.all (fun k => !k.kind.repairable) = true)
    (may : (s.rcd t.lid).det = false ∨ (∀ b ∈ r.stores, leafDs b.leaf = false) ∨ s.hasMarble core slot t = true) :
    s.commitCheck core slot t = .ok () := by
  have unmarked : t.taints.reverse.find? (fun k => k.kind.repairable) = none := by
    rw [List.find?_eq_none]
    intro k hk
    simpa using (List.all_eq_true.1 sound) k (List.mem_reverse.1 hk)
  have passes : ¬((s.rcd t.lid).det ∧ r.stores.any (fun b => leafDs b.leaf) ∧ !s.hasMarble core slot t) := by
    rintro ⟨det, ds, without⟩
    rcases may with may | may | may
    · rw [may] at det; cases det
    · obtain ⟨b, hb, hds⟩ := List.any_eq_true.1 ds
      rw [may b hb] at hds; cases hds
    · rw [may] at without; cases without
  simp only [State.commitCheck, opens, unmarked]
  exact if_neg passes

/-- A thread's open region is its region in user mode (10 R245). -/
theorem Thread.openRegion_of_user (user : t.mode = .user) : t.openRegion = t.region := by
  rw [Thread.openRegion, if_pos user]

/-- An instruction that commits the open region, of a thread that has one which commits: its stores are committed in their order, it acts, and the
region reopens behind it (08 R186). -/
theorem State.committing_open (ht : s.thread? core slot = some t) (opens : t.openRegion = some r) (clean : NoFaults s core slot)
    (passes : s.commitCheck core slot t = .ok ()) (len : Nat) (k : State → State) :
    s.committing core len slot (.ok ()) (fun _ => .ok k) =
      k (((s.modThread core slot (fun u => { u with region := none })).commitStores core r.stores).past core slot len true t) := by
  have committed : s.commitTo core slot none =
      (s.modThread core slot (fun u => { u with region := none })).commitStores core r.stores := by
    simp only [State.commitTo, ht, opens, Option.map_none]
  simp only [State.committing, State.commitThen, State.recordFaults_clean clean, ht, passes, opens, committed, Option.isSome_some]

end

/-! ## REGION and REGION.END (08 R184 to R186) -/

section
variable {s : State} {core slot : Nat} {t : Thread} {x : XOps}

/-- Two changes of a thread in a row are one. -/
theorem Core.modThread_modThread (c : Core) (slot : Nat) (f g : Thread → Thread) :
    (c.modThread slot f).modThread slot g = c.modThread slot (fun t => g (f t)) := by
  cases ht : c.thread? slot with
  | none => simp only [Core.modThread, ht]
  | some t =>
    simp only [Core.modThread, ht, Core.thread?_setThread_self]
    exact congrArg (fun threads => { c with threads }) (tset_tset c.threads slot _ _)

theorem State.modThread_modThread (s : State) (core slot : Nat) (f g : Thread → Thread) :
    (s.modThread core slot f).modThread core slot g = s.modThread core slot (fun t => g (f t)) := by
  simp only [State.modThread, State.modCore_modCore, Core.modThread_modThread]

/-- The region that a thread has behind REGION, at whose next instruction it opens, and behind REGION.END. -/
def regionAt (last : Bool) (pc : DWord) : Option Region := if last then none else some { start := pc, stores := [] }

/-- REGION or REGION.END of a thread in user mode, in a launch with regions (08 R184). -/
theorem regionOne_allowed (last : Bool) (reg : (s.rcd t.lid).reg = true) (user : t.mode = .user) :
    regionOne x last s core slot t =
      s.committing core x.len slot (.ok ()) (fun _ => .ok (fun s => s.modThread core slot (fun u => { u with region := regionAt last u.pc }))) := by
  rw [regionOne, reg, user]
  rfl

/-- The same where a region is open: what REGION.END leaves, or a new region in place of the reopened one. -/
theorem regionOne_commits {r : Region} (ht : s.thread? core slot = some t) (last : Bool) (reg : (s.rcd t.lid).reg = true)
    (user : t.mode = .user) (hr : t.region = some r) (clean : NoFaults s core slot) (passes : s.commitCheck core slot t = .ok ()) :
    regionOne x last s core slot t =
      (((s.modThread core slot (fun u => { u with region := none })).commitStores core r.stores).modCore core
        (·.advance slot x.len)).modThread core slot (fun u => { u with region := regionAt last u.pc }) := by
  rw [regionOne_allowed last reg user,
    State.committing_open ht ((Thread.openRegion_of_user user).trans hr) clean passes, State.past, State.reopen, if_pos rfl,
    State.modThread_modThread]

/-- Outside launches with regions, and in handler mode, REGION and REGION.END trap. -/
theorem regionOne_denied (last : Bool) (no : ((s.rcd t.lid).reg && t.mode == .user) = false) :
    regionOne x last s core slot t = s.stop core slot (.trap causeIllegalOperand none) := by
  rw [regionOne, no]
  rfl

/-- A store to the own core's window of its store, once it is committed (04 R91). -/
theorem State.commitStore_own {b : Buffered} (rbk : (s.rcd b.lid).rbk = false) (own : 0x00FF000000000000 ≤ (b.va.extractLsb' 0 56).toNat) :
    s.commitStore core b =
      s.modCore core (·.writeStore ((b.va.extractLsb' 0 56).toNat - 0x00FF000000000000) b.size b.data.toNat) := by
  have target : b.target core = .store core ((b.va.extractLsb' 0 56).toNat - 0x00FF000000000000) := by
    rw [Buffered.target, if_pos (by omega), windowAt, if_pos own]
  rw [State.commitStore, if_neg (fun both => Bool.false_ne_true (rbk.symm.trans both.1)), State.performStore, target]

/-- A store to the own core's store, between changes of the thread that stores, and behind its advance. -/
theorem stored_between (ht : s.thread? core slot = some t) (off n v len : Nat) (f g : Thread → Thread) :
    let s' := (((s.modThread core slot f).modCore core (·.writeStore off n v)).modCore core (·.advance slot len)).modThread core slot g
    OnlyCore core s s' ∧ OthersThinned slot (s.core core) (s'.core core) ∧ StoreIs s s' core off n v ∧
      s'.thread? core slot = some (g { (f t) with pc := (f t).pc + BitVec.ofNat 64 len, park := none }) := by
  have ht : (s.core core).thread? slot = some t := ht
  dsimp only
  simp only [State.modThread, State.modCore_modCore]
  refine ⟨OnlyCore.modCore core s _, ?others, fun m b => ?bytes, ?thread⟩
  case others =>
    rw [State.core_modCore_self]
    exact OthersThinned.of_only ((((OnlyThread.modThread _ slot f).trans (OnlyThread.writeStore slot _ off n v)).trans
      (OnlyThread.advance _ slot len)).trans (OnlyThread.modThread _ slot g))
  case bytes =>
    by_cases hm : m = core
    · subst hm
      rw [State.core_modCore_self, Core.modThread_store, Core.advance_store, Core.get_writeStore, Core.modThread_store]
      simp only [true_and]
    · rw [State.core_modCore_ne s _ hm, if_neg (fun z => hm z.1)]
  case thread =>
    have written (c : Core) : (c.writeStore off n v).thread? slot = c.thread? slot := rfl
    rw [State.thread?, State.core_modCore_self, Core.thread?_modThread_self, Core.thread?_advance, if_pos rfl, written,
      Core.thread?_modThread_self, ht]
    rfl

/-- A launch after a change of it that keeps its name. -/
theorem State.launch?_modLaunch (s : State) (lid : Nat) {f : Launch → Launch} (hf : ∀ l, (f l).rcd = l.rcd) :
    (s.modLaunch lid f).launch? lid = (s.launch? lid).map f := by
  have still : ((fun k : Launch => k.rcd.lid == lid) ∘ (fun k : Launch => if k.rcd.lid = lid then f k else k)) =
      (fun k : Launch => k.rcd.lid == lid) := by
    funext k
    simp only [Function.comp_apply]
    split
    · rw [hf]
    · rfl
  unfold State.modLaunch State.launch?
  rw [List.find?_map, still]
  cases hl : s.launches.find? (fun k => k.rcd.lid == lid) with
  | none => rfl
  | some l =>
    have named : l.rcd.lid = lid := by simpa only [beq_iff_eq] using List.find?_some hl
    rw [Option.map_some, Option.map_some, if_pos named]

/-- A launch that has not ended, after its failure (02 R46). -/
theorem State.launch?_failLaunch {lid code block : Nat} {l : Launch} (hl : s.launch? lid = some l) (live : l.ended = none) :
    (s.failLaunch lid code block).launch? lid = some { l with ended := some (3, code, block) } := by
  rw [State.failLaunch, State.launch?_modLaunch s lid (fun _ => by split <;> rfl), hl, Option.map_some, if_pos (by rw [live]; rfl)]

/-- A trap in handler mode fails the launch (02 R46). -/
theorem State.stop_trap_of_handler (ht : s.thread? core slot = some t) (handler : t.mode = .handler) (cause : Nat) :
    s.stop core slot (.trap cause none) = s.failLaunch t.lid cause t.block := by
  simp only [State.stop, State.recordPrecise, State.takeFault, State.takeTrap, ht]
  exact if_pos (.inl handler)

/-- REGION and REGION.END run their threads in sequence. -/
theorem completes_of_region {i : Instr} {last : Bool} (hi : regions i = some (x, last)) {P : State → Prop} (h : Solo s core slot t)
    (on : t.guard x.g = true) (acts : P (regionOne x last s core slot t)) : Completes i s P := by
  cases i with
  | regionI o | regionEnd o => cases hi; exact completes_of_seq h on rfl acts
  | _ => cases hi

end
end Sys2Proof.Machine

open Sys2Proof.Machine Sys2Proof.Claims

/-- Settles O34: each case by what the commit does and by what the region becomes behind it. -/
theorem regionResult : Obligations.RegionResult := by
  unfold Obligations.RegionResult
  intro i x last hi s core slot t h on opened next
  refine ⟨fun reg user none clean => ?opens, fun r reg user hr clean sound may => ?commits, fun reg hd => ?denied,
    fun handler l hl live => ?fails⟩
  case opens =>
    refine completes_of_region hi h on ?_
    rw [regionOne_allowed last reg user,
      State.committing_plain h.thread ((Thread.openRegion_of_user user).trans none) clean]
    exact (Result.none h.thread x.len).thenThread _ (fun _ n => by rw [n]; rfl)
  case commits =>
    have passes := State.commitCheck_ok ((Thread.openRegion_of_user user).trans hr) sound may
    have acts := regionOne_commits (x := x) h.thread last reg user hr clean passes
    refine ⟨completes_of_region hi h on acts, fun b hb rbk own => completes_of_region hi h on ?_⟩
    rw [acts, hb, State.commitStores, List.foldl_cons, List.foldl_nil,
      State.commitStore_own (s := s.modThread core slot _) rbk own]
    obtain ⟨device, others, stores, thread⟩ := stored_between h.thread
      ((b.va.extractLsb' 0 56).toNat - 0x00FF000000000000) b.size b.data.toNat x.len
      (fun u => { u with region := none }) (fun u => { u with region := regionAt last u.pc })
    exact ⟨device, others, stores, _, thread, rfl⟩
  case denied =>
    refine completes_of_region hi h on ?_
    rw [regionOne_denied last (by rw [reg]; rfl)]
    exact Trapped.of_stop h.thread hd _
  case fails =>
    refine completes_of_region hi h on ?_
    rw [regionOne_denied last (by rw [handler]; exact Bool.and_false _), State.stop_trap_of_handler h.thread handler]
    exact ⟨_, State.launch?_failLaunch hl live, rfl⟩

end

section
namespace Sys2Proof.Machine
open Sys2Proof Sys2Proof.Claims

/-! ## Instructions at which a thread stays while its region is committed (08 R186) -/

section
variable {s : State} {core slot : Nat} {t : Thread} {x : XOps}

/-- Such an instruction of a thread with no open region and no fault of a load to be recorded acts at once. -/
theorem State.commitStay_plain (ht : s.thread? core slot = some t) (shut : t.openRegion = none) (clean : NoFaults s core slot)
    (k : State → State) : s.commitStay core slot k = k s := by
  have committed : s.commitTo core slot (some t.pc) = s := by simp only [State.commitTo, ht, shut]
  simp only [State.commitStay, State.recordFaults_clean clean, ht, State.commitCheck, shut, committed]

/-- A change of a thread that leaves it as it is. -/
theorem Core.modThread_same {c : Core} {u : Thread} (hu : c.thread? slot = some u) {f : Thread → Thread} (hf : f u = u) :
    c.modThread slot f = c := by
  simp only [Core.modThread, hu, hf, Core.setThread]
  exact congrArg (fun threads => { c with threads }) (tset_of_tget hu)

/-- A thread with no open region goes on behind its instruction as one does that is over. -/
theorem Core.goOn_shut {c : Core} (ht : c.thread? slot = some t) (shut : t.openRegion = none) (len : Nat) : c.goOn slot len = c.advance slot len := by
  have moved : (c.advance slot len).thread? slot = some { t with pc := t.pc + BitVec.ofNat 64 len, park := none } := by
    rw [Core.thread?_advance, if_pos rfl, ht]
    rfl
  simp only [Core.goOn, ht]
  refine Core.modThread_same moved ?_
  split <;> rename_i user
  · have none : t.region = none := (Thread.openRegion_of_user user).symm.trans shut
    rw [none]
    rfl
  · rfl

/-- Writing back the lines of a share that holds no dirty line changes nothing (08 R174, R179). -/
theorem State.writeDirty_clean {lid : Nat} (clean : CleanShare s core lid) : s.writeDirty core lid = s := by
  have still : ∀ ls : List Line, (∀ l ∈ ls, l.dirty = 0) → ls.foldl (fun s l => s.writeBack core l) s = s := by
    intro ls
    induction ls with
    | nil => exact fun _ => rfl
    | cons l r ih =>
      intro h
      rw [List.foldl_cons, State.writeBack, if_pos (h l List.mem_cons_self)]
      exact ih (fun k hk => h k (List.mem_cons_of_mem _ hk))
  refine still _ (fun l hl => ?_)
  obtain ⟨mem, own⟩ := List.mem_filter.1 hl
  rw [Bool.and_eq_true, beq_iff_eq] at own
  exact (clean l mem own.1).1

/-! ## PFENCE (08 R174) -/

/-- What goes with the clean copies of a launch's share. -/
theorem Core.dropClean_lines (c : Core) (lid : Nat) : (c.dropClean lid).lines = cleanGone c.lines lid := by
  unfold Core.dropClean cleanGone
  simp only [Option.isNone_iff_eq_none]

/-- A core with its copies of some paths, once each of them that is named has been dropped. -/
theorem Core.dropPaths_eq (c : Core) (lid : Nat) (dst : BitVec 7) : c.dropPaths lid dst = { c with
    lines := if dst.getLsbD 0 then cleanGone c.lines lid else c.lines
    constant := c.constant.filter (fun e => !(dst.getLsbD 1 && keyPath e.1 == some .kr) && !(dst.getLsbD 5 && keyPath e.1 == some .gb))
    gbuffers := if dst.getLsbD 5 then [] else c.gbuffers
    icache := if dst.getLsbD 6 then [] else c.icache } := by
  have lines : c.dropClean lid = { c with lines := cleanGone c.lines lid } :=
    congrArg (fun lines => { c with lines }) (c.dropClean_lines lid)
  unfold Core.dropPaths
  rw [lines]
  cases dst.getLsbD 0 <;> cases dst.getLsbD 1 <;> cases dst.getLsbD 5 <;> cases dst.getLsbD 6 <;>
    simp [List.filter_filter, Bool.and_comm, bne]

/-- The copies that PFENCE drops. -/
theorem dropIs_dropPaths (c : Core) (lid : Nat) (dst : BitVec 7) : DropIs c (c.dropPaths lid dst) lid dst := by
  rw [Core.dropPaths_eq]
  exact ⟨rfl, rfl, rfl, rfl, rfl, rfl, rfl, rfl, rfl⟩

theorem dropIs_nothing (c : Core) (lid : Nat) : DropIs c c lid 0 := by
  refine ⟨rfl, ?_, rfl, rfl, rfl, rfl, rfl, rfl, rfl⟩
  simp

/-- An advance beside it drops nothing. -/
theorem dropIs_advance {c c' : Core} {lid : Nat} {dst : BitVec 7} (h : DropIs c c' lid dst) (slot len : Nat) :
    DropIs c (c'.advance slot len) lid dst := by
  unfold DropIs at h ⊢
  simpa only [Core.advance_lines, Core.advance_constant, Core.advance_gbuffers, Core.advance_icache, Core.advance_store, Core.advance_crews,
    Core.advance_blocks, Core.advance_tasks, Core.advance_tlb] using h

/-- A core of a domain after a change of every core of it that leaves an unused core as it is. -/
theorem State.core_inDomain (s : State) (scope core y : Nat) {f : Core → Core} (unused : f Core.reset = Core.reset) :
    (s.inDomain scope core f).core y = if sameDomain scope core y then f (s.core y) else s.core y := by
  have keyed : (fun e : Nat × Core => if sameDomain scope core e.1 then (e.1, f e.2) else e) =
      (fun e => (e.1, if sameDomain scope core e.1 then f e.2 else e.2)) := by
    funext e
    split <;> rfl
  unfold State.inDomain State.core
  rw [keyed, tget_map (fun n c => if sameDomain scope core n then f c else c)]
  cases tget s.cores y with
  | none => exact (by rw [Option.map_none, Option.getD_none, unused, ite_self])
  | some c => rfl

/-- A core after the copies of a domain have been dropped (08 R174). -/
theorem State.core_fence (s : State) (scope core lid y : Nat) (dst : BitVec 7) : (s.fence scope core lid dst).core y =
    if sameDomain scope core y then (s.core y).dropPaths lid dst else s.core y := by
  refine State.core_inDomain (s.cancelFills scope core dst) scope core y ?_
  rw [Core.dropPaths_eq]
  unfold Core.reset cleanGone
  simp only [List.filter_nil, List.map_nil, ite_self]

theorem sameDomain_self (scope core : Nat) : sameDomain scope core core = true := by
  unfold sameDomain
  split <;> simp

/-- A fence of a domain, behind which the thread that made it goes on. -/
theorem went_fence (ht : s.thread? core slot = some t) (shut : t.openRegion = none) (scope len : Nat) (dst : BitVec 7) :
    let s' := (s.fence scope core t.lid dst).modCore core (·.goOn slot len)
    MemorySame s s' ∧ Went s s' core slot t len ∧
      ∀ y, DropIs (s.core y) (s'.core y) t.lid (if sameDomain scope core y then dst else 0) := by
  have kept : ((s.core core).dropPaths t.lid dst).thread? slot = some t := by
    rw [Core.dropPaths_eq]
    exact ht
  have own : ((s.fence scope core t.lid dst).modCore core (·.goOn slot len)).core core =
      ((s.core core).dropPaths t.lid dst).advance slot len := by
    rw [State.core_modCore_self, State.core_fence, if_pos (sameDomain_self scope core), Core.goOn_shut kept shut]
  refine ⟨⟨rfl, rfl, rfl⟩, ⟨⟨_, ?thread, rfl⟩, ?others⟩, fun y => ?drops⟩
  case thread =>
    rw [State.thread?, own, Core.thread?_advance, if_pos rfl, kept]
    rfl
  case others =>
    have dropped : OnlyThread slot (s.core core) ((s.core core).dropPaths t.lid dst) := by
      rw [Core.dropPaths_eq]
      exact ⟨fun _ _ => rfl, fun _ he _ => he⟩
    rw [own]
    exact dropped.trans (OnlyThread.advance _ slot len)
  case drops =>
    by_cases hy : y = core
    · rw [hy, own, if_pos (sameDomain_self scope core)]
      exact dropIs_advance (dropIs_dropPaths _ _ _) slot len
    · rw [State.core_modCore_ne _ _ hy, State.core_fence]
      split
      · exact dropIs_dropPaths _ _ _
      · exact dropIs_nothing _ _

/-- Parking changes its thread alone. -/
theorem parked_only (ht : s.thread? core slot = some t) (p : Park) :
    let s' := s.modThread core slot (fun t => { t with park := some p })
    OnlyCore core s s' ∧ OnlyThread slot (s.core core) (s'.core core) ∧ s'.thread? core slot = some { t with park := some p } := by
  rw [← State.stop_park ht]
  exact waits_of_stop ht p

end
end Sys2Proof.Machine

open Sys2Proof.Machine Sys2Proof.Claims

/-- Settles O33: a thread that has not waited yet waits where tasks are on its source paths, and fences where none is. -/
theorem pathFenceResult : Obligations.PathFenceResult := by
  unfold Obligations.PathFenceResult
  intro x s core slot t h on shut clean standing share src
  have fresh : t.fenced = false := by rw [Thread.fenced, standing]
  have written : s.fenceWrites core t x = s := by rw [State.fenceWrites, State.writeDirty_clean share, ite_self]
  have awaits : s.fenceAwaits core t x = s.sourceTasks core t src := by rw [State.fenceAwaits, fresh]; rfl
  have acts : pfenceOne x s core slot t = pfenceBody x t core slot s := State.commitStay_plain h.thread shut clean _
  refine ⟨fun idle => completes_of_seq h on rfl ?_, fun busy => completes_of_seq h on rfl ?_⟩
  · rw [acts]
    simp only [pfenceBody, written, awaits, idle]
    exact went_fence h.thread shut _ _ _
  · have waits : pfenceBody x t core slot s =
        s.modThread core slot (fun u => { u with park := some (.tasks (s.sourceTasks core t src)) }) := by
      simp only [pfenceBody, written, awaits]
    rw [acts, waits]
    exact parked_only h.thread _

end

section
namespace Sys2Proof.Machine
open Sys2Proof Sys2Proof.Claims

/-! ## What reads at the point of coherence depend on (09 R208 to R210, R220 to R222) -/

/-- Two states in which every read and every write at the point of coherence finds the same: memory with the units and MACs of its granules and its
lost bytes, the address map, the control window and the keys. -/
structure SamePoc (s s' : State) : Prop where
  mem : s'.mem = s.mem
  gran : s'.gran = s.gran
  bad : s'.bad = s.bad
  am : s'.am = s.am
  cw : s'.cw = s.cw
  keys : s'.keys = s.keys

section
variable {s s' s'' : State}

theorem SamePoc.refl (s : State) : SamePoc s s := ⟨rfl, rfl, rfl, rfl, rfl, rfl⟩

theorem SamePoc.trans (h : SamePoc s s') (k : SamePoc s' s'') : SamePoc s s'' :=
  ⟨k.mem.trans h.mem, k.gran.trans h.gran, k.bad.trans h.bad, k.am.trans h.am, k.cw.trans h.cw, k.keys.trans h.keys⟩

theorem SamePoc.modCore (s : State) (n : Nat) (f : Core → Core) : SamePoc s (s.modCore n f) := ⟨rfl, rfl, rfl, rfl, rfl, rfl⟩

theorem SamePoc.memory (h : SamePoc s s') : MemorySame s s' := ⟨h.mem, h.gran, h.bad⟩

/-- A state with the memory, the map, the window and the keys of another. -/
def State.pocOf (s' s : State) : State := { s' with mem := s.mem, gran := s.gran, bad := s.bad, am := s.am, cw := s.cw, keys := s.keys }

theorem SamePoc.eq (h : SamePoc s s') : s' = s'.pocOf s := by
  rw [State.pocOf, ← h.mem, ← h.gran, ← h.bad, ← h.am, ← h.cw, ← h.keys]

/-- Where an address lies follows from the address map. -/
theorem State.locate_congr (am : s'.am = s.am) (pa : Nat) : s'.locate pa = s.locate pa := by
  have e : s' = { s' with am := s.am } := by rw [← am]
  rw [e]
  rfl

/-- The unit of a granule for a context follows from the control window and the keys. -/
theorem State.dataUnit_congr (cw : s'.cw = s.cw) (keys : s'.keys = s.keys) (ctx pa : Nat) : s'.dataUnit ctx pa = s.dataUnit ctx pa := by
  have e : s' = { s' with cw := s.cw, keys := s.keys } := by rw [← cw, ← keys]
  rw [e]
  rfl

theorem State.macOf_congr (keys : s'.keys = s.keys) (ctx pa : Nat) : s'.macOf ctx pa = s.macOf ctx pa := by
  simp only [State.macOf, keys]

variable (h : SamePoc s s')
include h

theorem State.readPa_congr (ctx : Nat) (mac : Bool) (pa n : Nat) : s'.readPa ctx mac pa n = s.readPa ctx mac pa n := by
  rw [h.eq]
  rfl

/-- What a write leaves is seen wherever reads find the same. -/
theorem writtenAt_congr {z : State} {ctx pa n v : Nat} {mac : Bool} (w : WrittenAt z s ctx mac pa n v) : WrittenAt z s' ctx mac pa n v := by
  unfold WrittenAt at w ⊢
  simp only [State.readPa_congr h]
  exact w

end

/-! ## A write at the point of coherence -/

/-- A write changes memory, its granules' metadata and the marks of lost bytes, and nothing else. -/
def MemoryOnly (s s' : State) : Prop := s' = { s with mem := s'.mem, gran := s'.gran, bad := s'.bad }

section
variable {s z : State} {ctx pa n v : Nat} {mac : Bool} {l : Loc}

/-- What a write leaves in memory, the metadata of granules and the marks of lost bytes. -/
theorem State.putPa_eq (hl : s.locate pa = .ok l) : s.putPa ctx mac pa n v = .ok { s with
    mem := (if (s.granule (l.key / 64)).unit = s.dataUnit ctx pa then s.mem
      else s.mem.putN (l.key / 64 * 64) 64 (s.granBytes (l.key / 64) (s.dataUnit ctx pa)).toNat).putN l.key n v
    gran := if (s.dataUnit ctx pa).isNone && !mac then tdel s.gran (l.key / 64)
      else tset s.gran (l.key / 64) { unit := s.dataUnit ctx pa, mac := if mac then some (s.macOf ctx pa) else none }
    bad := s.bad.filter (fun b => !(l.key ≤ b.1 && b.1 < l.key + n)) } := by
  simp only [State.putPa, hl]

/-- A granule after a write: the one written has the unit of its context, and its MAC made anew or none. -/
theorem State.granule_put (hz : s.putPa ctx mac pa n v = .ok z) (hl : s.locate pa = .ok l) (g : Nat) : z.granule g =
    if g = l.key / 64 then { unit := s.dataUnit ctx pa, mac := if mac then some (s.macOf ctx pa) else none } else s.granule g := by
  rw [State.putPa_eq hl] at hz
  cases hz
  unfold State.granule
  dsimp only
  by_cases hg : g = l.key / 64
  · rw [hg, if_pos rfl]
    split <;> rename_i plain
    · rw [Bool.and_eq_true, Option.isNone_iff_eq_none, Bool.not_eq_true'] at plain
      rw [tget_tdel_self, plain.1, plain.2]
      rfl
    · rw [tget_tset_self]
      rfl
  · rw [if_neg hg]
    split
    · rw [tget_tdel_ne _ hg]
    · rw [tget_tset_ne _ _ hg]

/-- A byte of a granule after a write that does not cover it: as the unit of its context reads it. -/
theorem State.mem_put (hz : s.putPa ctx mac pa n v = .ok z) (hl : s.locate pa = .ok l) {b : Nat} (apart : b < l.key ∨ l.key + n ≤ b) :
    z.mem.get b = if b / 64 = l.key / 64 ∧ (s.granule (l.key / 64)).unit ≠ s.dataUnit ctx pa
      then byteOf (s.granBytes (l.key / 64) (s.dataUnit ctx pa)).toNat (b % 64) else s.mem.get b := by
  rw [State.putPa_eq hl] at hz
  cases hz
  dsimp only
  rw [Memory.get_putN_out _ _ _ _ _ apart]
  split <;> rename_i unit
  · rw [if_neg (fun both => both.2 unit)]
  · split <;> rename_i inside
    · have place := Memory.get_putN_in 64 s.mem (l.key / 64 * 64) (s.granBytes (l.key / 64) (s.dataUnit ctx pa)).toNat (b % 64)
        (Nat.mod_lt _ (by decide))
      rwa [show l.key / 64 * 64 + b % 64 = b by omega] at place
    · have beside : b / 64 ≠ l.key / 64 := fun here => inside ⟨here, unit⟩
      exact Memory.get_putN_out _ _ _ _ _ (by omega)

/-- What reads find beside memory, its metadata and the marks is as it was. -/
theorem State.put_only (hz : s.putPa ctx mac pa n v = .ok z) (hl : s.locate pa = .ok l) : MemoryOnly s z ∧ z.mem.getN l.key n = v % 256 ^ n ∧
    z.bad = s.bad.filter (fun b => !(l.key ≤ b.1 && b.1 < l.key + n)) := by
  rw [State.putPa_eq hl] at hz
  cases hz
  exact ⟨rfl, Memory.getN_putN _ _ _ _, rfl⟩

theorem MemoryOnly.fields (h : MemoryOnly s z) : z.am = s.am ∧ z.cw = s.cw ∧ z.keys = s.keys := by
  rw [h]
  exact ⟨rfl, rfl, rfl⟩

/-- One byte that a read brings. -/
theorem Memory.getN_one (m : Memory) (a : Nat) : m.getN a 1 = (m.get a).toNat := by
  simp [Memory.getN]

/-- Bytes are found by a read where they stand, and where none of them is lost and the MAC holds. -/
theorem State.readPa_eq_ok (hl : s.locate pa = .ok l) {v : Nat} : s.readPa ctx mac pa n = .ok v ↔
    s.bad.find? (fun b => l.key ≤ b.1 && b.1 < l.key + n) = none ∧
    (mac && (s.granule (l.key / 64)).mac != some (s.macOf ctx pa)) = false ∧
    (if (s.granule (l.key / 64)).unit = s.dataUnit ctx pa then s.mem.getN l.key n
      else (s.granBytes (l.key / 64) (s.dataUnit ctx pa)).toNat / 256 ^ (l.key % 64) % 256 ^ n) = v := by
  simp only [State.readPa, hl]
  cases s.bad.find? (fun b => l.key ≤ b.1 && b.1 < l.key + n) with
  | some b => simp
  | none =>
    dsimp only
    cases mac && (s.granule (l.key / 64)).mac != some (s.macOf ctx pa)
    · rw [if_neg Bool.false_ne_true]
      split <;> simp
    · simp

/-- A write reads back. -/
theorem State.readPa_put (hz : s.putPa ctx mac pa n v = .ok z) (hl : s.locate pa = .ok l) : z.readPa ctx mac pa n = .ok (v % 256 ^ n) := by
  obtain ⟨only, mem, bad⟩ := State.put_only hz hl
  obtain ⟨am, cw, keys⟩ := only.fields
  rw [State.readPa_eq_ok (s := z) (by rw [State.locate_congr am]; exact hl), State.granule_put hz hl, if_pos rfl, State.dataUnit_congr cw keys,
    State.macOf_congr keys, if_pos rfl, bad]
  refine ⟨?_, ?_, mem⟩
  · rw [List.find?_eq_none]
    intro b hb
    have out := (List.mem_filter.1 hb).2
    rw [Bool.not_eq_true'] at out
    exact ne_true_of_eq_false out
  · cases mac <;> simp

/-- A byte that a write within its granule does not cover reads as before. -/
theorem State.readPa_put_apart (hz : s.putPa ctx mac pa n v = .ok z) (hl : s.locate pa = .ok l) (fits : l.key % 64 + n ≤ 64) {a : Nat}
    {l' : Loc} (hl' : s.locate a = .ok l') (apart : l'.key < l.key ∨ l.key + n ≤ l'.key) (same : l'.key / 64 = l.key / 64 → a / 64 = pa / 64)
    {w : Nat} (hw : s.readPa ctx mac a 1 = .ok w) : z.readPa ctx mac a 1 = .ok w := by
  obtain ⟨only, -, bad⟩ := State.put_only hz hl
  obtain ⟨am, cw, keys⟩ := only.fields
  obtain ⟨sound, macs, value⟩ := (State.readPa_eq_ok hl').1 hw
  refine (State.readPa_eq_ok (s := z) (by rw [State.locate_congr am]; exact hl')).2 ⟨?sound, ?macs, ?value⟩
  case sound =>
    rw [bad, List.find?_eq_none]
    rw [List.find?_eq_none] at sound
    exact fun b hb => sound b (List.mem_filter.1 hb).1
  all_goals rw [State.granule_put hz hl]
  case macs =>
    rw [State.macOf_congr keys]
    split <;> rename_i here
    · have mine : s.macOf ctx a = s.macOf ctx pa := congrArg (Prod.mk _) (same here)
      rw [mine]
      cases mac <;> simp
    · exact macs
  case value =>
    rw [State.dataUnit_congr cw keys]
    by_cases here : l'.key / 64 = l.key / 64
    · have mine : s.dataUnit ctx a = s.dataUnit ctx pa := by rw [State.dataUnit, same here, ← State.dataUnit]
      rw [mine, if_pos here, if_pos rfl, Memory.getN_one, State.mem_put hz hl apart]
      rw [mine, here, Memory.getN_one] at value
      split <;> rename_i other
      · rw [if_neg other.2] at value
        rw [← value, byteOf, BitVec.toNat_ofNat]
        rfl
      · rw [if_pos (not_not.1 (fun no => other ⟨here, no⟩))] at value
        exact value
    · have mem (b : Nat) (hb : b / 64 = l'.key / 64) : z.mem.get b = s.mem.get b := by
        rw [State.mem_put hz hl (by omega), if_neg (fun both => here (hb ▸ both.1))]
      have bytes (u : Option (BitVec 512 × Nat)) : z.granBytes (l'.key / 64) u = s.granBytes (l'.key / 64) u := by
        unfold State.granBytes
        rw [State.granule_put hz hl, if_neg here,
          Memory.getN_congr 64 s.mem z.mem _ (fun i hi => mem _ (by omega))]
      rw [if_neg here, bytes, Memory.getN_one, mem _ rfl, ← Memory.getN_one]
      exact value

/-- A write within one granule, as the statements say it. -/
theorem writtenAt_put (hl : s.locate pa = .ok l) (fits : l.key % 64 + n ≤ 64) :
    ∃ z, s.putPa ctx mac pa n v = .ok z ∧ MemoryOnly s z ∧ WrittenAt s z ctx mac pa n v := by
  refine ⟨_, State.putPa_eq hl, (State.put_only (State.putPa_eq hl) hl).1, State.readPa_put (State.putPa_eq hl) hl, ?_⟩
  intro a m m' hm hm' apart same w hw
  cases hl.symm.trans hm
  exact State.readPa_put_apart (State.putPa_eq hl) hl fits hm' apart same hw

end

/-! ## Traffic at the slices (09 R202 to R206, R221) -/

/-- What an access does at its slice besides: the lines that the slice holds, what waits for a way, corrected errors with their tests and counts, and
the writes that CXL devices have not completed (08 R182). -/
def Traffic (s s' : State) : Prop := s' = { s with
  l2 := s'.l2, sliceWait := s'.sliceWait, soft := s'.soft, tests := s'.tests, tally := s'.tally, cxlAwait := s'.cxlAwait, seq := s'.seq }

section
variable {s s' s'' : State}

theorem SlicesOnly.refl (s : State) : SlicesOnly s s := rfl

theorem slicesOnly_trans (h : SlicesOnly s s') (k : SlicesOnly s' s'') : SlicesOnly s s'' :=
  k.trans (congrArg (fun z : State => { z with
    l2 := s''.l2, sliceWait := s''.sliceWait, soft := s''.soft, tests := s''.tests, tally := s''.tally }) h)

theorem Traffic.of_slices (h : SlicesOnly s s') : Traffic s s' := by
  unfold SlicesOnly at h
  unfold Traffic
  rw [h]

theorem Traffic.poc (h : Traffic s s') : SamePoc s s' := by
  rw [h]
  exact ⟨rfl, rfl, rfl, rfl, rfl, rfl⟩

theorem Traffic.cores (h : Traffic s s') : s'.cores = s.cores := by rw [h]

theorem slicesOnly_l2Touch (s : State) (slice addr : Nat) (sectors dirty : BitVec 4) (mark : Bool) (cls : Nat) (stream : Bool) (pin : List LoadRef) :
    SlicesOnly s (s.l2Touch slice addr sectors dirty mark cls stream pin) := by
  unfold State.l2Touch
  dsimp only
  split
  · rfl
  · split
    · rfl
    · split <;> rfl

theorem slicesOnly_correct (s : State) (found : List Nat) : SlicesOnly s (s.correct found) := by
  unfold State.correct
  induction found generalizing s with
  | nil => rfl
  | cons b r ih => exact slicesOnly_trans (s' := { s.count _ with soft := _, tests := _ }) rfl (ih _)

/-- What a write leaves at its slice besides what a read does: a number for what a CXL device has to complete (08 R182). -/
theorem l2Sectors_cases (s : State) (addr : Nat) (rd wr whole : BitVec 4) (r : L2Req) : ∃ z, SlicesOnly s z ∧
    (s.l2Sectors addr rd wr whole r = z ∨
      wr ≠ 0 ∧ ∃ e, s.l2Sectors addr rd wr whole r = { z with cxlAwait := z.cxlAwait ++ [e], seq := z.seq + 1 }) := by
  unfold State.l2Sectors
  cases s.locate (addr * 128) with
  | error e => exact ⟨s, rfl, .inl rfl⟩
  | ok l =>
    dsimp only
    generalize hq : fetched r.mac ((rd ||| (wr &&& ~~~whole)) &&& s.absent l.slice addr) &&& s.absent l.slice addr = got
    have read := slicesOnly_correct s (s.softIn addr got)
    generalize s.correct (s.softIn addr got) = a at read
    have heals : SlicesOnly a (if a.soft.isEmpty then a else { a with soft := a.soft.filter (fun b => !(a.softIn addr (wr &&& whole)).contains b) }) := by
      split <;> rfl
    generalize (if a.soft.isEmpty then a else { a with soft := a.soft.filter (fun b => !(a.softIn addr (wr &&& whole)).contains b) }) = b at heals
    have touches := slicesOnly_l2Touch b l.slice addr (rd ||| wr ||| got) wr r.mark r.cls r.stream []
    refine ⟨_, slicesOnly_trans read (slicesOnly_trans heals touches), ?_⟩
    split <;> rename_i awaits
    · rw [Bool.and_eq_true, decide_eq_true_eq] at awaits
      exact .inr ⟨awaits.1, _, rfl⟩
    · exact .inl rfl

/-- An access that writes nothing changes the slices alone. -/
theorem slicesOnly_l2Sectors (s : State) (addr : Nat) (rd whole : BitVec 4) (r : L2Req) : SlicesOnly s (s.l2Sectors addr rd 0 whole r) := by
  obtain ⟨z, slices, e | ⟨wr, -⟩⟩ := l2Sectors_cases s addr rd 0 whole r
  · rwa [e]
  · exact absurd rfl wr

theorem slicesOnly_l2Read (s : State) (pa n : Nat) (r : L2Req) : SlicesOnly s (s.l2Access pa n false r) :=
  slicesOnly_l2Sectors s _ _ _ r

theorem traffic_l2Sectors (s : State) (addr : Nat) (rd wr whole : BitVec 4) (r : L2Req) : Traffic s (s.l2Sectors addr rd wr whole r) := by
  obtain ⟨z, slices, e | ⟨-, n, e⟩⟩ := l2Sectors_cases s addr rd wr whole r
  · exact e ▸ Traffic.of_slices slices
  · have plain := Traffic.of_slices slices
    unfold Traffic at plain ⊢
    rw [e, plain]

end
end Sys2Proof.Machine
end

section
namespace Sys2Proof.Machine
open Sys2Proof Sys2Proof.Claims

/-! ## A write-back of one dirty byte (08 R179, 09 R202) -/

theorem dirtySectors_bit : ∀ i : Fin 128, dirtySectors (1#128 <<< i.val) = 1#4 <<< (i.val / 32) := by decide

theorem fullSectors_bit : ∀ i : Fin 128, fullSectors (1#128 <<< i.val) = 0 := by decide

theorem sector_bit : ∀ (j k : Fin 4), (1#4 <<< j.val).getLsbD k.val = true → k = j := by decide

/-- The bytes of a mask of one byte. -/
theorem bytes_bit {i : Nat} (hi : i < 128) : (List.range 128).filter (fun o => (1#128 <<< i).getLsbD o) = [i] := by
  have bit : ∀ o ∈ List.range 128, (1#128 <<< i).getLsbD o = (o == i) := by
    intro o ho
    have ho := List.mem_range.1 ho
    by_cases e : o = i
    · subst e
      simp [ho]
    · have off : o < i ∨ o - i ≠ 0 := by omega
      rw [beq_false_of_ne e, BitVec.getLsbD_shiftLeft]
      rcases off with off | off <;> simp [off, ho]
  rw [List.filter_congr bit, List.filter_beq, List.count_eq_one_of_mem List.nodup_range (List.mem_range.2 hi)]
  rfl

/-- A write changes memory, what belongs to it, the slices and what CXL devices have to complete, and nothing else. -/
def PocOnly (s s' : State) : Prop := s' = { s with
  mem := s'.mem, gran := s'.gran, bad := s'.bad, l2 := s'.l2, sliceWait := s'.sliceWait, soft := s'.soft, tests := s'.tests
  tally := s'.tally, cxlAwait := s'.cxlAwait, seq := s'.seq }

theorem PocOnly.of_write {s z w : State} (h : MemoryOnly s z) (k : Traffic z w) : PocOnly s w := by
  unfold PocOnly
  rw [k, h]

section
variable {s : State} {core i : Nat} {y : Line} {l : Loc}

/-- The write of one byte of a line whose granule's MAC holds. -/
theorem State.writeLine_bit {ctx addr : Nat} {leaf : BitVec 64} {d : BitVec 1024} (hi : i < 128) (hl : s.locate (addr * 128 + i) = .ok l)
    (holds : Sealed s ctx leaf (addr * 128 + i / 32 * 32)) : ∃ z, s.writeLine ctx leaf addr d (1#128 <<< i) = .ok z ∧ PocOnly s z ∧
      WrittenAt s z ctx (leafMac leaf) (addr * 128 + i) 1 (lineBytes d i 1) := by
  have whole : fullSectors (1#128 <<< i) = 0 := fullSectors_bit ⟨i, hi⟩
  have written : dirtySectors (1#128 <<< i) &&& ~~~0 = 1#4 <<< (i / 32) := by
    rw [dirtySectors_bit ⟨i, hi⟩]
    exact BitVec.and_allOnes
  have passes : (List.range 4).any (fun k => (dirtySectors (1#128 <<< i) &&& ~~~(fullSectors (1#128 <<< i))).getLsbD k &&
      s.macFails ctx (leafMac leaf) (addr * 128 + 32 * k)) = false := by
    rw [List.any_eq_false, whole, written]
    intro k hk
    rw [Bool.and_eq_true]
    rintro ⟨named, fails⟩
    have same : k = i / 32 := congrArg Fin.val (sector_bit ⟨i / 32, by omega⟩ ⟨k, List.mem_range.1 hk⟩ named)
    rw [same, Nat.mul_comm 32, holds] at fails
    cases fails
  obtain ⟨z, hz, only, after⟩ := writtenAt_put (ctx := ctx) (mac := leafMac leaf) (n := 1) (v := lineBytes d i 1) hl (by omega)
  have traffic := traffic_l2Sectors z addr 0 (dirtySectors (1#128 <<< i)) (fullSectors (1#128 <<< i)) (writeReq leaf (leafRet leaf))
  refine ⟨_, ?_, PocOnly.of_write only traffic, writtenAt_congr traffic.poc after⟩
  simp only [State.writeLine, passes, bytes_bit hi, State.writeBytes, hz, Bool.false_eq_true, ↓reduceIte]

/-- A line after its write-back (08 R179). -/
def Line.cleaned (y : Line) : Line := { y with dirty := 0, valid := y.cleanSectors }

/-- The lines of a core after the write-back of one. -/
def cleanedIn (y : Line) (ls : List Line) : List Line := ls.map (fun x => if x.lid = y.lid ∧ x.addr = y.addr then y.cleaned else x)

/-- A core with its lines changed. -/
def Core.withLines (c : Core) (f : List Line → List Line) : Core := { c with lines := f c.lines }

@[simp] theorem Core.thread?_withLines (c : Core) (f : List Line → List Line) (slot : Nat) : (c.withLines f).thread? slot = c.thread? slot := rfl

@[simp] theorem Core.store_withLines (c : Core) (f : List Line → List Line) : (c.withLines f).store = c.store := rfl

theorem OnlyThread.withLines (slot : Nat) (c : Core) (f : List Line → List Line) : OnlyThread slot c (c.withLines f) :=
  ⟨fun _ _ => rfl, fun _ he _ => he⟩

theorem State.modCore_withLines (s : State) (core : Nat) (f g : List Line → List Line) :
    (s.modCore core (·.withLines f)).modCore core (·.withLines g) = s.modCore core (·.withLines (fun ls => g (f ls))) := State.modCore_modCore s core _ _

/-- Publishing a share whose one line has one dirty byte writes that byte back, and leaves the line clean (08 R179, R181). -/
theorem State.publishShare_bit {lid : Nat} (only : (s.core core).lines.filter (fun l => l.lid == lid) = [y]) (plain : y.upd = none) (hi : i < 128)
    (dirty : y.dirty = 1#128 <<< i) (hl : s.locate (y.addr * 128 + i) = .ok l)
    (holds : Sealed s y.last.2.2.2.2 y.leaf (y.addr * 128 + i / 32 * 32)) : ∃ z,
      s.publishShare core lid = z.modCore core (·.withLines (cleanedIn y)) ∧ PocOnly s z ∧
      WrittenAt s z y.last.2.2.2.2 (leafMac y.leaf) (y.addr * 128 + i) 1 (lineBytes y.data i 1) := by
  obtain ⟨z, hz, rest, after⟩ := State.writeLine_bit (d := y.data) hi hl holds
  have stands : y.dirty ≠ 0 := by
    rw [dirty]
    intro none
    have one : (1#128 <<< i).getLsbD i = (0 : BitVec 128).getLsbD i := by rw [none]
    simp [hi] at one
  refine ⟨z, ?_, rest, after⟩
  rw [State.publishShare, only, List.foldl_cons, List.foldl_nil, plain, if_neg (by simp), State.writeBack, if_neg stands, dirty, hz]
  rfl

end
end Sys2Proof.Machine
end

section
namespace Sys2Proof.Machine
open Sys2Proof Sys2Proof.Claims

/-! ## PHASE (08 R181 to R183) -/

section
variable {s : State} {core slot len : Nat} {t : Thread} {x : XOps}

/-- Publishing a share that holds no dirty and no update-only line changes nothing (08 R181). -/
theorem State.publishShare_clean {lid : Nat} (clean : CleanShare s core lid) : s.publishShare core lid = s := by
  have still : ∀ ls : List Line, (∀ l ∈ ls, l.dirty = 0 ∧ l.upd = none) →
      ls.foldl (fun s l => if l.upd.isSome then s.sendLine core l else s.writeBack core l) s = s := by
    intro ls
    induction ls with
    | nil => exact fun _ => rfl
    | cons l r ih =>
      intro h
      obtain ⟨dirty, upd⟩ := h l List.mem_cons_self
      rw [List.foldl_cons, upd, if_neg (by simp), State.writeBack, if_pos dirty]
      exact ih (fun k hk => h k (List.mem_cons_of_mem _ hk))
  refine still _ (fun l hl => ?_)
  obtain ⟨mem, own⟩ := List.mem_filter.1 hl
  exact clean l mem (by simpa using own)

/-- The lines of a core without those of a launch whose share is clean. -/
theorem cleanGone_clean {ls : List Line} {lid : Nat} (clean : ∀ l ∈ ls, l.lid = lid → l.dirty = 0 ∧ l.upd = none) :
    cleanGone ls lid = ls.filter (fun l => l.lid != lid) := by
  have kept : ls.filter (fun l => l.lid != lid || l.dirty != 0 || l.upd.isSome) = ls.filter (fun l => l.lid != lid) := by
    refine List.filter_congr (fun l hl => ?_)
    by_cases own : l.lid = lid
    · obtain ⟨dirty, upd⟩ := clean l hl own
      simp [own, dirty, upd]
    · rw [bne_iff_ne.2 own]
      rfl
  unfold cleanGone
  rw [kept]
  refine (List.map_congr_left (fun l hl => ?_)).trans (List.map_id _)
  have other := (List.mem_filter.1 hl).2
  rw [if_neg (fun both => by simp [both.1] at other)]
  rfl

/-- The refresh of a PHASE drops the clean copies of its launch, unless SUB[3] leaves it out (08 R181). -/
theorem State.phaseEnd_eq (s : State) (core slot : Nat) (t : Thread) (scope : Nat) (refresh : Bool) (len : Nat) :
    s.phaseEnd core slot t scope refresh len = (s.modCore core (·.withLines (fun ls =>
      if 3 ≤ scope ∧ refresh then cleanGone ls t.lid else ls))).modCore core (·.goOn slot len) := by
  rw [State.phaseEnd, State.modCore_modCore]
  congr 1
  funext c
  unfold Core.withLines
  split
  · exact congrArg (fun lines => Core.goOn { c with lines } slot len) (c.dropClean_lines t.lid)
  · rfl

/-- A thread with no open region goes on behind an instruction that changes the lines of its core besides. -/
theorem went_lines {z : State} (ht : s.thread? core slot = some t) (shut : t.openRegion = none) (same : z.core core = s.core core)
    (len : Nat) (ls : List Line → List Line) :
    let s' := (z.modCore core (·.withLines ls)).modCore core (·.goOn slot len)
    Went s s' core slot t len ∧ (s'.core core).lines = ls (s.core core).lines ∧ (s'.core core).store = (s.core core).store := by
  have ht : ((s.core core).withLines ls).thread? slot = some t := ht
  have now : ((z.modCore core (·.withLines ls)).modCore core (·.goOn slot len)).core core = ((s.core core).withLines ls).advance slot len := by
    rw [State.core_modCore_self, State.core_modCore_self, same, Core.goOn_shut ht shut]
  refine ⟨⟨⟨{ t.past len with park := none }, ?_, rfl⟩, ?_⟩, ?_, ?_⟩
  · rw [State.thread?, now, Core.thread?_advance, if_pos rfl, ht]
    rfl
  · rw [now]
    exact (OnlyThread.withLines slot _ ls).trans (OnlyThread.advance _ slot len)
  · rw [now, Core.advance_lines]
    rfl
  · rw [now, Core.advance_store, Core.store_withLines]

/-- The steps of a PHASE with scope BLOCK: the thread goes on (08 R181). -/
theorem State.phaseSteps_block (ht : s.thread? core slot = some t) (shut : t.openRegion = none) {u : Thread} (fresh : u.awaited = false) {scope : Nat}
    (block : scope ≤ 2) (publish refresh : Bool) (len : Nat) :
    s.phaseSteps core slot u scope publish refresh len = s.modCore core (·.advance slot len) := by
  have ends : s.phaseEnd core slot u scope refresh len = s.modCore core (·.goOn slot len) := by
    unfold State.phaseEnd
    simp only [if_neg (show ¬(3 ≤ scope ∧ refresh = true) by omega)]
  have published : s.publish core u scope publish = s := if_neg (by omega)
  have awaits : s.phaseAwaits core slot u scope publish = [] := if_neg (by omega)
  simp only [State.phaseSteps, fresh, published, awaits, ends, Bool.false_eq_true, ↓reduceIte]
  exact congrArg (s.setCore core) (Core.goOn_shut ht shut len)

/-- The steps of a wider PHASE that waits for nothing: it publishes, refreshes, and the thread goes on (08 R181, R182). -/
theorem State.phaseSteps_wide (fresh : t.awaited = false) {scope : Nat} (publish refresh : Bool)
    (ready : (s.publish core t scope publish).phaseAwaits core slot t scope publish = []) :
    s.phaseSteps core slot t scope publish refresh len = (s.publish core t scope publish).phaseEnd core slot t scope refresh len := by
  simp only [State.phaseSteps, fresh, ready, Bool.false_eq_true, ↓reduceIte]

/-- PHASE of a thread that takes no part in a checkpoint. -/
theorem phaseOne_steps (ht : s.thread? core slot = some t) (shut : t.openRegion = none) (clean : NoFaults s core slot)
    (apart : (s.rcd t.lid).rbk = false ∨ t.mode = .handler) : phaseOne x s core slot t =
      s.phaseSteps core slot t (x.sub.extractLsb' 0 3).toNat (!x.sub.getLsbD 4) (!x.sub.getLsbD 3) x.len := by
  rw [phaseOne, State.commitStay_plain ht shut clean]
  refine if_neg ?_
  rintro ⟨rbk, user, -⟩
  rcases apart with no | handler
  · rw [no] at rbk; cases rbk
  · rw [handler] at user; cases user

/-! ### Checkpoints (10 R251) -/

/-- A thread that stands at a PHASE for its block's checkpoint. -/
def Thread.standsAt (t : Thread) (scope : Nat) (publish refresh : Bool) (len : Nat) : Thread :=
  { t with park := some (.checkpoint (some (scope, publish, refresh)) len) }

/-- PHASE of a thread in user mode in a launch with checkpoints: it stands there until its block takes one. -/
theorem phaseOne_checkpoint (ht : s.thread? core slot = some t) (shut : t.openRegion = none) (clean : NoFaults s core slot)
    (rbk : (s.rcd t.lid).rbk = true) (user : t.mode = .user) (fresh : t.awaited = false) : phaseOne x s core slot t =
      (s.modThread core slot (·.standsAt (x.sub.extractLsb' 0 3).toNat (!x.sub.getLsbD 4) (!x.sub.getLsbD 3) x.len)).settleCheckpoint
        core t.lid t.block := by
  rw [phaseOne, State.commitStay_plain ht shut clean]
  exact if_pos ⟨rbk, user, by rw [fresh]; rfl⟩

theorem tset_map_fst {α : Type} {l : List (Nat × α)} {k : Nat} {v w : α} (h : tget l k = some w) (p : α → Bool) (same : p v = p w) :
    ((tset l k v).filter (fun e => p e.2)).map (·.1) = (l.filter (fun e => p e.2)).map (·.1) := by
  induction l with
  | nil => cases h
  | cons e r ih =>
    obtain ⟨j, u⟩ := e
    by_cases here : j = k
    · simp only [tget, here, ↓reduceIte] at h
      cases h
      simp only [tset, here, ↓reduceIte, List.filter_cons, same]
      split <;> rfl
    · simp only [tget, here, ↓reduceIte] at h
      simp only [tset, here, ↓reduceIte, List.filter_cons]
      split
      · rw [List.map_cons, List.map_cons, ih h]
      · exact ih h

/-- A change of a thread that leaves it in its block leaves the slots of every block as they are. -/
theorem Core.slotsOf_modThread (c : Core) (slot lid block : Nat) {f : Thread → Thread} (hf : ∀ t, (f t).lid = t.lid ∧ (f t).block = t.block) :
    (c.modThread slot f).slotsOf lid block = c.slotsOf lid block := by
  unfold Core.modThread
  split <;> rename_i ht
  · exact tset_map_fst ht (fun u => u.lid == lid && u.block == block) (by rw [(hf _).1, (hf _).2])
  · rfl

/-- A slot of a thread of a block is among those of the block. -/
theorem Core.mem_slotsOf {c : Core} {o lid block : Nat} {u : Thread} (hu : c.thread? o = some u) (hl : u.lid = lid) (hb : u.block = block) :
    o ∈ c.slotsOf lid block :=
  List.mem_map.2 ⟨(o, u), List.mem_filter.2 ⟨tget_mem hu, by rw [hl, hb]; simp⟩, rfl⟩

/-- The threads of a block that stand at its checkpoint, each with what it stands at. -/
def Core.standing (c : Core) (lid block : Nat) : List (Nat × Thread × Option (Nat × Bool × Bool) × Nat) :=
  (c.slotsOf lid block).filterMap (fun slot => match (c.thread? slot).bind (fun t => t.park.map (fun p => (t, p))) with
    | some (t, .checkpoint p len) => some (slot, t, p, len)
    | _ => none)

/-- While a thread of the block stands at no barrier, the checkpoint is not taken. -/
theorem State.settleCheckpoint_waits {lid block o : Nat} {u : Thread} (hu : s.thread? core o = some u) (hl : u.lid = lid) (hb : u.block = block)
    (runs : u.park = none) : s.settleCheckpoint core lid block = s := by
  have listed := Core.mem_slotsOf (c := s.core core) hu hl hb
  have fewer : ((s.core core).standing lid block).length ≠ ((s.core core).slotsOf lid block).length := by
    intro all
    have every := List.filterMap_length_eq_length.1 all o listed
    rw [show (s.core core).thread? o = some u from hu, Option.bind_some, runs] at every
    cases every
  exact if_pos (.inr (.inl fewer))

/-- A block whose only thread stands at a PHASE and whose crew thus does not pass the marble (08 R199, R200). -/
theorem State.marblePends_standing {lid block : Nat} {u : Thread} {v : Option (Nat × Bool × Bool)} (hu : s.thread? core slot = some u)
    (alone : (s.core core).slotsOf lid block = [slot]) (stands : u.park = some (.checkpoint v len)) (some_ : v ≠ none) :
    s.marblePends core lid block = false := by
  have off : u.atBsync = false := by
    unfold Thread.atBsync
    rw [stands]
    cases v with
    | none => exact absurd rfl some_
    | some _ => rfl
  unfold State.marblePends
  split
  · rfl
  · rename_i o _
    split
    · rename_i k i hat
      rw [Bool.and_eq_false_iff, Bool.and_eq_false_iff]
      by_cases here : k = core ∧ ((s.core core).crewsOf lid block).contains i = true
      · obtain ⟨rfl, holds⟩ := here
        right
        have crew : slot / 64 = i := by
          have found := (List.mem_filter.1 (List.contains_iff_mem.1 holds)).2
          obtain ⟨e, he, named⟩ := List.any_eq_true.1 found
          simp only [Bool.and_eq_true, beq_iff_eq] at named
          have listed : e.1 ∈ (s.core k).slotsOf lid block :=
            List.mem_map.2 ⟨e, List.mem_filter.2 ⟨he, by rw [named.1.2, named.2]; simp⟩, rfl⟩
          rw [alone, List.mem_singleton] at listed
          rw [← listed, named.1.1]
        have runs : (s.core k).crewAtBsync i = false := by
          rw [Core.crewAtBsync, List.all_eq_false]
          refine ⟨slot, Core.mem_slotsIn.2 ⟨crew, by rw [show (s.core k).thread? slot = some u from hu]; rfl⟩, ?_⟩
          rw [show (s.core k).thread? slot = some u from hu, Option.map_some, Option.getD_some, off]
          exact Bool.false_ne_true
        rw [State.passesOn, State.waitsAtBsync, hat]
        simp only [runs, Bool.and_false, Bool.false_and]
      · left
        rcases not_and_or.1 here with away | out
        · exact .inl (beq_false_of_ne away)
        · exact .inr (by simpa using out)
    · rfl

/-- Going on keeps the blocks and the copies of a core. -/
theorem Core.goOn_blocks (c : Core) (slot len : Nat) : (c.goOn slot len).blocks = c.blocks := by
  unfold Core.goOn
  split
  · rfl
  · rw [Core.modThread_blocks, Core.advance_blocks]

theorem Core.block?_congr {c c' : Core} (h : c'.blocks = c.blocks) (lid index : Nat) : c'.block? lid index = c.block? lid index := by
  rw [Core.block?, h, ← Core.block?]

/-- The threads of a block leave a barrier at which a checkpoint is taken. -/
def State.leavesFor (s : State) (core lid block : Nat) : State :=
  (s.leaveBsync core lid block).modCore core (·.modBlock lid block (fun b => { b with consumed := false }))

/-- A core that keeps a copy of a block in place of the one it had. -/
def Core.keepCopy (c : Core) (lid block : Nat) (v : Saved) : Core :=
  { c with checkpoints := v :: c.checkpoints.filter (fun v => !v.blocks.any (fun x => x.1.lid == lid && x.1.index == block)) }

/-- A block's last copy is v. -/
def State.keepsCopy (s : State) (core lid block : Nat) (v : Saved) : State :=
  (s.modCore core (·.keepCopy lid block v)).modLaunch lid (fun l => { l with lnch := l.lnch.filter (fun e => e.1 != block) })

/-- A block found after it is changed in what it is not found by. -/
theorem Core.block?_modBlock_self {c : Core} {lid index : Nat} {b : Block} (hb : c.block? lid index = some b) {f : Block → Block}
    (hf : ∀ b, (f b).lid = b.lid ∧ (f b).index = b.index) : (c.modBlock lid index f).block? lid index = some (f b) := by
  have named : b.lid = lid ∧ b.index = index := by simpa only [Bool.and_eq_true, beq_iff_eq] using List.find?_some hb
  rw [Core.block?_modBlock _ _ _ _ _ hf, hb, Option.map_some, if_pos named]

/-- A block that holds no stores releases none (10 R251). -/
theorem State.releaseDeferred_empty {lid block : Nat} {b : Block} (hb : (s.core core).block? lid block = some b) (empty : b.deferred = []) :
    s.releaseDeferred core lid block = s.modCore core (·.modBlock lid block (fun b => { b with deferred := [] })) := by
  have held : s.heldStores core lid block = [] := by rw [State.heldStores, hb, Option.map_some, Option.getD_some, empty]
  rw [State.releaseDeferred, held]
  rfl

/-- A block of one thread that stands at a PHASE takes its checkpoint: the copy, then the stores held back, then the thread's own steps (10 R251). -/
theorem State.settleCheckpoint_alone {lid block scope : Nat} {publish refresh : Bool} {u : Thread} {b : Block} (hu : s.thread? core slot = some u)
    (alone : (s.core core).slotsOf lid block = [slot]) (stands : u.park = some (.checkpoint (some (scope, publish, refresh)) len))
    (hb : (s.core core).block? lid block = some b) : s.settleCheckpoint core lid block =
      (((s.leavesFor core lid block).keepsCopy core lid block (((s.leavesFor core lid block).modCore core (·.goOn slot len)).snapshot core
        [{ b with consumed := false }] false)).releaseDeferred core lid block).phaseSteps core slot u scope publish refresh len := by
  have hu : (s.core core).thread? slot = some u := hu
  have left : (s.leavesFor core lid block).core core = (s.core core).modBlock lid block (fun b => { b with consumed := false }) := by
    rw [State.leavesFor, State.core_modCore_self, State.leaveBsync, State.core_modLaunch]
  have found : (((s.leavesFor core lid block).modCore core (·.goOn slot len)).core core).block? lid block = some { b with consumed := false } := by
    rw [State.core_modCore_self, Core.block?_congr (Core.goOn_blocks _ slot len), left]
    exact Core.block?_modBlock_self hb (fun _ => ⟨rfl, rfl⟩)
  unfold State.settleCheckpoint
  simp only [alone, List.filterMap_cons, hu, Option.bind_some, stands, Option.map_some, List.filterMap_nil,
    State.marblePends_standing hu alone stands nofun, List.isEmpty_cons, List.foldl_cons, List.foldl_nil]
  rw [if_neg (by simp), ← State.leavesFor, found]
  rfl

/-- What is left of it where the PHASE has scope BLOCK and the block holds no stores. -/
theorem State.settleCheckpoint_block {lid block scope : Nat} {publish refresh : Bool} {u : Thread} {b : Block} (hu : s.thread? core slot = some u)
    (alone : (s.core core).slotsOf lid block = [slot]) (stands : u.park = some (.checkpoint (some (scope, publish, refresh)) len))
    (shut : u.openRegion = none) (narrow : scope ≤ 2) (hb : (s.core core).block? lid block = some b) (empty : b.deferred = []) :
    ∃ (v : Saved) (c : Core), v.blocks.map (fun e => (e.1.lid, e.1.index)) = [(b.lid, b.index)] ∧
      (s.settleCheckpoint core lid block).core core = c.advance slot len ∧
      c.threads = (s.core core).threads ∧ c.latch = (s.core core).latch ∧ c.checkpoints.head? = some v := by
  have fresh : u.awaited = false := by rw [Thread.awaited, stands]
  rw [State.settleCheckpoint_alone hu alone stands hb]
  generalize hv : ((s.leavesFor core lid block).modCore core (·.goOn slot len)).snapshot core [{ b with consumed := false }] false = v
  have copied : ((s.leavesFor core lid block).keepsCopy core lid block v).core core =
      ((s.core core).modBlock lid block (fun b => { b with consumed := false })).keepCopy lid block v := by
    rw [State.keepsCopy, State.core_modLaunch, State.core_modCore_self, State.leavesFor, State.core_modCore_self, State.leaveBsync,
      State.core_modLaunch]
  have found : (((s.leavesFor core lid block).keepsCopy core lid block v).core core).block? lid block = some { b with consumed := false } := by
    rw [copied]
    exact Core.block?_modBlock_self hb (fun _ => ⟨rfl, rfl⟩)
  rw [State.releaseDeferred_empty found empty, State.phaseSteps_block (t := u) ?_ shut fresh narrow, State.core_modCore_self,
    State.core_modCore_self, copied]
  · exact ⟨v, _, by rw [← hv]; rfl, rfl, rfl, rfl, rfl⟩
  · rw [State.thread?, State.core_modCore_self, copied]
    exact hu

end
end Sys2Proof.Machine

open Sys2Proof.Machine Sys2Proof.Claims

/-- Settles O32: a thread that takes no part in a checkpoint publishes and refreshes; another one stands until its block takes its checkpoint. -/
theorem phaseResult : Obligations.PhaseResult := by
  unfold Obligations.PhaseResult
  intro x s core slot t h on shut clean fresh scope
  refine ⟨fun apart => ?steps, fun rbk user b hb empty => ?checkpoint⟩
  case steps =>
    have acts := phaseOne_steps (x := x) h.thread shut clean apart
    refine ⟨fun block => completes_of_seq h on rfl ?block, fun wide share idle done => completes_of_seq h on rfl ?clean,
      fun y i l wide narrow publishes only plain hi dirty hl holds => completes_of_seq h on rfl ?dirty⟩ <;> rw [acts]
    case block =>
      rw [State.phaseSteps_block h.thread shut fresh block]
      exact Result.none h.thread x.len
    case clean =>
      have published : s.publish core t scope (!x.sub.getLsbD 4) = s := by rw [State.publish, State.publishShare_clean share, ite_self]
      have ready : s.phaseAwaits core slot t scope (!x.sub.getLsbD 4) = [] := by
        rw [State.phaseAwaits, State.sysAwaited, idle, done]
        exact ite_self _
      rw [State.phaseSteps_wide fresh _ _ (by rw [published]; exact ready), published, State.phaseEnd_eq]
      obtain ⟨went, lines, store⟩ := went_lines h.thread shut rfl x.len
        (fun ls => if 3 ≤ scope ∧ (!x.sub.getLsbD 3) = true then cleanGone ls t.lid else ls)
      refine ⟨(OnlyCore.modCore core s _).trans (OnlyCore.modCore core _ _), fun m => ?_, went, ?_⟩
      · by_cases hm : m = core
        · rw [hm]
          exact store
        · rw [State.core_modCore_ne _ _ hm, State.core_modCore_ne _ _ hm]
      · rw [lines, cleanGone_clean share]
        cases x.sub.getLsbD 3 <;> simp [wide]
    case dirty =>
      obtain ⟨z, hz, rest, after⟩ := State.publishShare_bit only plain hi dirty hl holds
      have cores : z.cores = s.cores := by rw [rest]
      have published : s.publish core t scope (!x.sub.getLsbD 4) = z.modCore core (·.withLines (cleanedIn y)) := by
        rw [State.publish, publishes, if_pos ⟨wide, rfl⟩, hz]
      rw [State.phaseSteps_wide fresh _ _ (if_neg (fun both => by omega)), published, State.phaseEnd_eq, State.modCore_withLines]
      obtain ⟨went, -⟩ := went_lines (z := z) h.thread shut (by rw [State.core, cores, ← State.core]) x.len
        (fun ls => if 3 ≤ scope ∧ (!x.sub.getLsbD 3) = true then cleanGone (cleanedIn y ls) t.lid else cleanedIn y ls)
      exact ⟨went, writtenAt_congr ((SamePoc.modCore z core _).trans (SamePoc.modCore _ core _)) after⟩
  case checkpoint =>
    have acts := phaseOne_checkpoint (x := x) h.thread shut clean rbk user fresh
    have stands : (s.modThread core slot (·.standsAt scope (!x.sub.getLsbD 4) (!x.sub.getLsbD 3) x.len)).thread? core slot =
        some (t.standsAt scope (!x.sub.getLsbD 4) (!x.sub.getLsbD 3) x.len) := by
      rw [State.thread?_modThread_self, h.thread]
      rfl
    refine ⟨fun alone block => completes_of_seq h on rfl ?alone, fun o u hu ne hl hb runs => completes_of_seq h on rfl ?waits⟩ <;> rw [acts]
    case alone =>
      have slots : ((s.modThread core slot (·.standsAt scope (!x.sub.getLsbD 4) (!x.sub.getLsbD 3) x.len)).core core).slotsOf t.lid t.block = [slot] := by
        rw [State.core_modThread_self, Core.slotsOf_modThread _ _ _ _ (f := (·.standsAt scope (!x.sub.getLsbD 4) (!x.sub.getLsbD 3) x.len))
          (fun _ => ⟨rfl, rfl⟩), alone]
      obtain ⟨v, c, copy, now, threads, latch, kept⟩ := State.settleCheckpoint_block stands slots rfl shut block
        (b := b) (by rw [State.core_modThread_self, Core.block?_congr (Core.modThread_blocks _ _ _)]; exact hb) empty
      refine ⟨⟨⟨{ t.past x.len with park := none }, ?_, rfl⟩, ?_⟩, v, ?_, copy⟩
      · rw [State.thread?, now, Core.thread?_advance, if_pos rfl, Core.thread?_congr threads]
        exact congrArg (Option.map _) stands
      · rw [State.core_modThread_self] at threads latch
        rw [now]
        refine ((OnlyThread.modThread (s.core core) slot _).trans ⟨fun o _ => Core.thread?_congr threads o, fun e he _ => latch ▸ he⟩).trans
          (OnlyThread.advance c slot x.len)
      · rw [now, Core.advance_checkpoints, kept]
    case waits =>
      rw [State.settleCheckpoint_waits (u := u) (o := o) (by rw [State.thread?_modThread_ne s core _ ne, hu]) hl hb runs]
      obtain ⟨only, others, parked⟩ := parked_only h.thread (.checkpoint (some (scope, !x.sub.getLsbD 4, !x.sub.getLsbD 3)) x.len)
      exact ⟨only, others, _, parked⟩

end

section
namespace Sys2Proof.Machine
open Sys2Proof Sys2Proof.Claims

section
variable {s : State} {core slot : Nat} {t : Thread} {x : XOps}

/-! ## A trap that names an address (10 R235, R244) -/

/-- A trap changes its thread and nothing else. -/
theorem Trapped.of_modThread {u : Thread} {cause : Nat} {epc : DWord} (ht : s.thread? core slot = some t) {f : Thread → Thread}
    (hf : f t = u.enter cause epc (s.rcd u.lid).traph) : Trapped s (s.modThread core slot f) core slot u cause epc where
  device := OnlyCore.modCore core s _
  frame := by
    rw [State.core_modThread_self]
    exact RegFrame.modThread _ slot f
  threads := by
    rw [State.core_modThread_self]
    exact OnlyThread.modThread _ slot f
  regs := by
    rw [State.core_modThread_self]
    exact Wrote.nothing slot (Core.modThread_store _ slot f) (Core.modThread_crews _ slot f)
  thread := ⟨_, by rw [State.thread?_modThread_self, ht, Option.map_some, hf]; rfl, rfl⟩

/-- A trap with its address in `s.faddr`, of a thread that has a handler. -/
theorem Trapped.addressed (ht : s.thread? core slot = some t) (hd : Handled s t) (va : DWord) (cause : Nat) :
    Trapped s ((s.modThread core slot (fun u => { u with faddr := va })).takeTrap core slot cause t.pc) core slot { t with faddr := va } cause t.pc := by
  obtain ⟨user, handler⟩ := hd
  have now : (s.modThread core slot (fun u => { u with faddr := va })).thread? core slot = some { t with faddr := va } := by
    rw [State.thread?_modThread_self, ht]
    rfl
  have enters : ¬(t.mode = .handler ∨ (s.rcd t.lid).traph = 0) := by
    rw [user]
    exact fun z => z.elim nofun handler
  have trap : (s.modThread core slot (fun u => { u with faddr := va })).takeTrap core slot cause t.pc =
      s.modThread core slot (fun u => ({ u with faddr := va } : Thread).enter cause t.pc (s.rcd t.lid).traph) := by
    simp only [State.takeTrap, now]
    exact (if_neg enters).trans (State.modThread_modThread s core slot _ _)
  rw [trap]
  exact Trapped.of_modThread ht rfl

theorem Trapped.of_misaligned (ht : s.thread? core slot = some t) (hd : Handled s t) (va : DWord) :
    Trapped s (s.stop core slot (.misaligned va)) core slot { t with faddr := va } causeMisaligned t.pc := by
  simp only [State.stop, ht]
  exact Trapped.addressed ht hd va _

/-! ## TKPASS (08 R196, R198, R199) -/

/-- A thread with no open region and no fault to be recorded stays as it is in the first half of TKPASS (08 R186). -/
theorem tkpassCommit_plain (ht : s.thread? core slot = some t) (shut : t.openRegion = none) (clean : NoFaults s core slot) :
    tkpassCommit core (s, []) slot = (s, [slot]) := by
  have committed : s.commitTo core slot (some t.pc) = s := by simp only [State.commitTo, ht, shut]
  simp only [tkpassCommit, State.recordFaults_clean clean, ht, State.commitCheck, shut, committed]

/-- TKPASS of a group of one thread. -/
theorem completes_of_tkpass {P : State → Prop} (h : Solo s core slot t) (on : t.guard x.g = true) (shut : t.openRegion = none)
    (clean : NoFaults s core slot) (acts : P (tkpassOne x s [slot] s core slot t)) : Completes (.tkpass x) s P := by
  obtain ⟨lid, pc, hc⟩ := h.cur
  refine completes_of_seq (len := x.len) (f := tkpassOne x s [slot]) h on ?_ acts
  have active : s.active x.g { core := core, lid := lid, pc := pc, slots := [slot] } = [slot] := by
    simp only [State.active, List.filter_cons, h.thread, Option.map_some, Option.getD_some, on, ↓reduceIte, List.filter_nil]
  have run : execTkpass x s = done (s.runSeq x.len x.g (tkpassOne x s [slot])) := by
    simp only [execTkpass, hc, active, List.foldl_cons, List.foldl_nil, tkpassCommit_plain h.thread shut clean]
  exact run

/-- Outside deterministic launches TKPASS does nothing (08 R199). -/
theorem tkpassOne_plain (ht : s.thread? core slot = some t) (shut : t.openRegion = none) (det : (s.rcd t.lid).det = false) :
    tkpassOne x s [slot] s core slot t = s.modCore core (·.advance slot x.len) := by
  simp only [tkpassOne, List.contains_cons, BEq.rfl, Bool.true_or, Bool.not_true, Bool.false_eq_true, ↓reduceIte, det, Bool.false_and]
  exact congrArg (s.setCore core) (Core.goOn_shut ht shut x.len)

/-- The marble waits for nothing of the threads in some slots (08 R198). -/
theorem State.marbleWait_none {lid : Nat} {p : Nat → Bool} (atoms : ∀ k ∈ (s.core core).loads, k.kind = .atom → p k.slot = false) (idle : s.fabric = [])
    (stores : ∀ e ∈ (s.core core).threads, p e.1 = true → e.2.lid = lid → ∀ r, e.2.openRegion = some r → ∀ b ∈ r.stores, leafDs b.leaf = false) :
    s.marbleWait core lid p false = none := by
  have loads : (s.core core).loads.filter (fun l => l.kind == .atom && p l.slot && (!false || l.data.isNone)) = [] := by
    refine List.filter_eq_nil_iff.2 (fun k hk both => ?_)
    simp only [Bool.and_eq_true, beq_iff_eq] at both
    rw [atoms k hk both.1.1] at both
    exact Bool.false_ne_true both.1.2
  have held : (s.core core).threads.any (fun e => p e.1 && e.2.lid == lid && ((e.2.openRegion.map (·.stores)).getD []).any (fun b => leafDs b.leaf)) =
      false := by
    rw [List.any_eq_false]
    intro e he both
    simp only [Bool.and_eq_true, beq_iff_eq] at both
    obtain ⟨⟨named, own⟩, some_⟩ := both
    obtain ⟨b, hb, ds⟩ := List.any_eq_true.1 some_
    cases hr : e.2.openRegion with
    | none => rw [hr] at hb; cases hb
    | some r =>
      rw [hr] at hb
      rw [stores e he named own r hr b hb] at ds
      cases ds
  simp only [State.marbleWait, loads, idle, held, List.map_nil, List.filter_nil, Bool.false_eq_true, ↓reduceIte]

/-- The marble comes to the next crew order, and stays there where that crew does not stand at BSYNC (08 R196, R199). -/
theorem State.passMarble_next {lid : Nat} {l : Launch} {o : Nat × Nat} (hl : s.launch? lid = some l) (ho : l.marble = some o)
    (runs : ∀ n, s.nextOrder lid o [] = some n → s.waitsAtBsync lid n = false) :
    (s.passMarble lid).cores = s.cores ∧ ∃ l', (s.passMarble lid).launch? lid = some l' ∧ l'.marble = some ((s.nextOrder lid o []).getD o) := by
  have held : (s.launch? lid).bind (·.marble) = some o := by rw [hl]; exact ho
  unfold State.passMarble State.passFrom
  simp only [held]
  cases hn : s.nextOrder lid o [] with
  | none => exact ⟨rfl, l, hl, ho⟩
  | some n =>
    dsimp only
    generalize hf : (fun l : Launch => { l with
      marble := some n, passed := if s.waitsAtBsync lid o && !l.passed.contains o then o :: l.passed else l.passed }) = f
    have keeps (k : Launch) : (f k).rcd = k.rcd := by rw [← hf]
    have found : (s.modLaunch lid f).launch? lid = some (f l) := by rw [State.launch?_modLaunch s lid keeps, hl, Option.map_some]
    have rests : (s.modLaunch lid f).waitsAtBsync lid n = false := by
      have before := runs n hn
      unfold State.waitsAtBsync at before ⊢
      rw [found]
      rw [hl] at before
      rw [← hf]
      exact before
    have stays : (s.modLaunch lid f).passesOn lid n = false := by rw [State.passesOn, rests, Bool.false_and]
    rw [stays, if_neg Bool.false_ne_true]
    exact ⟨rfl, f l, found, by rw [← hf]; rfl⟩

/-- TKPASS of a crew that holds the marble, once its wait is over (08 R198). -/
theorem tkpassOne_passes (det : (s.rcd t.lid).det = true) (holds : s.hasMarble core slot t = true)
    (ready : s.marbleWait core t.lid (fun o => o / 64 == slot / 64) false = none) :
    tkpassOne x s [slot] s core slot t = (s.passMarble t.lid).modCore core (·.goOn slot x.len) := by
  simp only [tkpassOne, List.contains_cons, BEq.rfl, Bool.true_or, Bool.not_true, Bool.false_eq_true, ↓reduceIte, det, holds, Bool.and_self, ready]

/-! ## LNCH (21 R424) -/

/-- A launch request of a thread, which waits for the answer (21 R424). -/
def State.requests (s : State) (core slot : Nat) (t : Thread) (p : DWord) (x : XOps) : State :=
  ({ s with
    seq := s.seq + 1
    waiting := s.waiting ++ [{ id := s.seq, die := core / 64, va := p, ctx := s.ctxOf t, from_ := .thread core slot }] } : State).modThread core slot
      (fun u => { u with park := some (.lnch s.seq (x.d.extractLsb' 0 3) x.len) })

theorem setWidth_low (d : BitVec 8) : d.setWidth 3 = d.extractLsb' 0 3 := by
  apply BitVec.eq_of_toNat_eq
  simp only [BitVec.toNat_setWidth, BitVec.extractLsb'_toNat, Nat.shiftRight_zero]

/-- LNCH of a thread with an aligned record: its core's stores are published, and the request goes out. -/
theorem lnchOne_requests (ht : s.thread? core slot = some t) (shut : t.openRegion = none) (clean : NoFaults s core slot)
    (det : (s.rcd t.lid).det = false) (mapped : MappedAll (s.core core) slot (baseCodes x)) {p : DWord}
    (hp : s.address core slot t x x.imm.toInt = .ok p) (aligned : p.toNat % 256 = 0) :
    lnchOne x s core slot t = (s.publishShare core t.lid).requests core slot t p x := by
  have marble : s.needMarble core slot t = .ok () := if_neg (fun both => Bool.false_ne_true (det.symm.trans both.1))
  simp only [lnchOne, Core.checkMapped_ok mapped, hp, needAligned, aligned, ↓reduceIte, bind, Except.bind, State.commitStay_plain ht shut clean, marble,
    State.fresh, setWidth_low]
  rfl

/-- LNCH of a misaligned record (21 R424; DEDUCED, log 22). -/
theorem lnchOne_misaligned (mapped : MappedAll (s.core core) slot (baseCodes x)) {p : DWord} (hp : s.address core slot t x x.imm.toInt = .ok p)
    (off : p.toNat % 256 ≠ 0) : lnchOne x s core slot t = s.stop core slot (.misaligned p) := by
  simp only [lnchOne, Core.checkMapped_ok mapped, hp, needAligned, off, ↓reduceIte, bind, Except.bind]

/-- What a request changes besides: its thread waits. -/
theorem State.core_requests (s : State) (core slot : Nat) (t : Thread) (p : DWord) (x : XOps) (m : Nat) : (s.requests core slot t p x).core m =
    if m = core then (s.core core).modThread slot (fun u => { u with park := some (.lnch s.seq (x.d.extractLsb' 0 3) x.len) }) else s.core m := by
  unfold State.requests
  split <;> rename_i hm
  · rw [hm, State.core_modThread_self]
    rfl
  · rw [State.core_modThread_ne _ _ _ hm]
    rfl

theorem storesSame_requests {z : State} (h : StoresSame s z) (core slot : Nat) (t : Thread) (p : DWord) (x : XOps) :
    StoresSame s (z.requests core slot t p x) := by
  intro m
  rw [State.core_requests]
  split <;> rename_i hm
  · rw [Core.modThread_store, hm, h core]
  · exact h m

theorem SamePoc.requests (s : State) (core slot : Nat) (t : Thread) (p : DWord) (x : XOps) : SamePoc s (s.requests core slot t p x) :=
  ⟨rfl, rfl, rfl, rfl, rfl, rfl⟩

theorem State.thread?_requests (ht : s.thread? core slot = some t) (u : Thread) (p : DWord) (x : XOps) :
    (s.requests core slot u p x).thread? core slot = some { t with park := some (.lnch s.seq (x.d.extractLsb' 0 3) x.len) } := by
  rw [State.thread?, State.core_requests, if_pos rfl, Core.thread?_modThread_self]
  exact congrArg (Option.map _) ht

end
end Sys2Proof.Machine

open Sys2Proof.Machine Sys2Proof.Claims

/-- Settles O35: TKPASS by whether its crew passes the marble, LNCH by what its core's share holds and by the alignment of the record. -/
theorem marbleAndLaunchRequest : Obligations.MarbleAndLaunchRequest := by
  unfold Obligations.MarbleAndLaunchRequest
  intro x s core slot t h on shut clean
  refine ⟨fun det => ?plain, fun l o det holds hl ho atoms idle stores runs => ?passes, fun p det share mapped hp aligned => ?clean,
    fun p y i l det only plain hi dirty hl holds mapped hp aligned => ?dirty, fun p mapped hp off hd => ?misaligned⟩
  case plain =>
    refine completes_of_tkpass h on shut clean ?_
    rw [tkpassOne_plain h.thread shut det]
    exact Result.none h.thread x.len
  case passes =>
    refine completes_of_tkpass h on shut clean ?_
    have ready : s.marbleWait core t.lid (fun o => o / 64 == slot / 64) false = none :=
      State.marbleWait_none (fun k hk atom => beq_false_of_ne (atoms k hk atom)) idle
        (fun e he crew own r hr b hb => stores e he (by simpa using crew) own r hr b hb)
    obtain ⟨cores, passed⟩ := State.passMarble_next hl ho runs
    rw [tkpassOne_passes det holds ready]
    obtain ⟨went, -⟩ := went_lines (z := s.passMarble t.lid) h.thread shut (by rw [State.core, cores, ← State.core]) x.len (fun ls => ls)
    have same : (s.passMarble t.lid).modCore core (·.goOn slot x.len) =
        ((s.passMarble t.lid).modCore core (·.withLines (fun ls => ls))).modCore core (·.goOn slot x.len) := by
      rw [State.modCore_modCore]
      rfl
    rw [same]
    exact ⟨went, passed⟩
  case clean =>
    refine completes_of_seq h on rfl ?_
    rw [lnchOne_requests h.thread shut clean det mapped hp aligned, State.publishShare_clean share]
    refine ⟨rfl, (SamePoc.requests s core slot t p x).memory, storesSame_requests (fun _ => rfl) core slot t p x, ?_, State.thread?_requests h.thread t p x⟩
    rw [State.core_requests, if_pos rfl]
    exact OnlyThread.modThread _ slot _
  case dirty =>
    refine completes_of_seq h on rfl ?_
    obtain ⟨z, hz, rest, after⟩ := State.publishShare_bit only plain hi dirty hl holds
    have cores : z.cores = s.cores := by rw [rest]
    have own (m : Nat) : z.core m = s.core m := by rw [State.core, cores, ← State.core]
    rw [lnchOne_requests h.thread shut clean det mapped hp aligned, hz]
    refine ⟨storesSame_requests (fun m => ?_) core slot t p x,
      writtenAt_congr ((SamePoc.modCore z core _).trans (SamePoc.requests _ core slot t p x)) after, z.seq, ?_, ?_⟩
    · rw [State.core_modCore]
      split
      · rw [Core.store_withLines, own]
      · rw [own]
    · rw [rest]
      rfl
    · exact State.thread?_requests (s := z.modCore core (·.withLines (cleanedIn y)))
        (by rw [State.thread?, State.core_modCore_self, Core.thread?_withLines, own]; exact h.thread) t p x
  case misaligned =>
    refine completes_of_seq h on rfl ?_
    rw [lnchOne_misaligned mapped hp off]
    exact Trapped.of_misaligned h.thread hd p

end

section
namespace Sys2Proof.Machine
open Sys2Proof Sys2Proof.Claims

/-! ## Barrier objects in a core store (08 R192, R193) -/

/-- The words 0 and 1 of an object at p are w, and nothing else of the core changed. -/
structure ObjectPut (c c' : Core) (p : Nat) (w : Word × Word) : Prop where
  rest : c' = { c with store := c'.store }
  words : c'.store.get32 p = w.1 ∧ c'.store.get32 (p + 4) = w.2
  bytes : ∀ b, (b < p ∨ p + 8 ≤ b) → c'.store.get b = c.store.get b

section
variable {c c' c'' : Core} {p n : Nat} {w w' : Word × Word}

theorem ObjectPut.refl (c : Core) (p : Nat) : ObjectPut c c p (c.store.get32 p, c.store.get32 (p + 4)) := ⟨rfl, ⟨rfl, rfl⟩, fun _ _ => rfl⟩

theorem ObjectPut.trans (h : ObjectPut c c' p w) (k : ObjectPut c' c'' p w') : ObjectPut c c'' p w' where
  rest := k.rest.trans (congrArg (fun z : Core => { z with store := c''.store }) h.rest)
  words := k.words
  bytes := fun b hb => (k.bytes b hb).trans (h.bytes b hb)

/-- A word apart from the two of the object. -/
theorem ObjectPut.get32 (h : ObjectPut c c' p w) {a : Nat} (apart : a + 4 ≤ p ∨ p + 8 ≤ a) : c'.store.get32 a = c.store.get32 a :=
  Memory.get32_congr (fun b lo hi => h.bytes b (by omega))

/-- Word 0 is written (08 R192). -/
theorem objectPut_word0 (c : Core) (p : Nat) (v : Word) : ObjectPut c { c with store := c.store.put32 p v } p (v, c.store.get32 (p + 4)) where
  rest := rfl
  words := ⟨Memory.get32_put32 _ _ _, Memory.get32_put32_ne _ _ (.inr (Nat.le_refl _))⟩
  bytes := fun _ hb => Memory.get_put32_out _ _ (by omega)

/-- Word 1 is written (08 R192). -/
theorem objectPut_word1 (c : Core) (p : Nat) (v : Word) : ObjectPut c { c with store := c.store.put32 (p + 4) v } p (c.store.get32 p, v) where
  rest := rfl
  words := ⟨Memory.get32_put32_ne _ _ (.inl (Nat.le_refl _)), Memory.get32_put32 _ _ _⟩
  bytes := fun _ hb => Memory.get_put32_out _ _ (by omega)

theorem objectPut_setPend (c : Core) (p : Nat) (v : Int) : ObjectPut c (c.setPend p v) p (c.store.get32 p, withPend (c.store.get32 (p + 4)) v) :=
  objectPut_word1 c p _

/-- Where nobody waits on an object, its phase's end releases nobody (08 R192). -/
theorem Core.releaseBowait_none (nobody : NoWaiter c p) (parity : Bool) : c.releaseBowait p parity = c := by
  have still : ∀ l : List (Nat × Thread), (∀ e ∈ l, ∀ q len, e.2.park ≠ some (.bowait p q len)) → l.foldl (fun c e =>
      match e.2.park with
      | some (.bowait o q len) => if o = p ∧ q = parity then c.advance e.1 len else c
      | _ => c) c = c := by
    intro l
    induction l with
    | nil => exact fun _ => rfl
    | cons e r ih =>
      intro free
      rw [List.foldl_cons]
      split
      · rename_i o q len waits
        have other : o ≠ p := fun same => free e List.mem_cons_self q len (same ▸ waits)
        rw [if_neg (fun both => other both.1)]
        exact ih (fun k hk => free k (List.mem_cons_of_mem _ hk))
      · exact ih (fun k hk => free k (List.mem_cons_of_mem _ hk))
  exact still c.threads nobody

/-- An object whose arrivals are all there and of which nothing is pending (08 R192). -/
theorem complete_iff (w0 w1 : Word) : (w0.extractLsb' 16 16 = w0.extractLsb' 0 16 ∧ w1.extractLsb' 0 28 = 0) ↔ arr w0 = due w0 ∧ pend w1 = 0 := by
  refine and_congr BitVec.toNat_inj.symm ?_
  rw [pend, ← BitVec.toInt_inj]
  rfl

/-- An object at which a phase may complete, before the release of those that wait (08 R192). -/
def Core.turned (c : Core) (p : Nat) : Core := { c with
  store := (c.store.put32 p (0#16 ++ (c.store.get32 p).extractLsb' 0 16)).put32 (p + 4) (c.store.get32 (p + 4) ^^^ 0x80000000) }

theorem Core.checkComplete_eq (c : Core) (p : Nat) : c.checkComplete p =
    if arr (c.store.get32 p) = due (c.store.get32 p) ∧ pend (c.store.get32 (p + 4)) = 0
      then (c.turned p).releaseBowait p (objPh (c.store.get32 (p + 4))) else c := by
  unfold Core.checkComplete
  dsimp only
  split <;> rename_i complete
  · rw [if_pos ((complete_iff _ _).1 complete)]
    rfl
  · rw [if_neg (fun both => complete ((complete_iff _ _).2 both))]

theorem objectPut_turned (c : Core) (p : Nat) : ObjectPut c (c.turned p) p (withArr (c.store.get32 p) 0, c.store.get32 (p + 4) ^^^ 0x80000000) := by
  have first := objectPut_word0 c p (0#16 ++ (c.store.get32 p).extractLsb' 0 16)
  have second := objectPut_word1 { c with store := c.store.put32 p (0#16 ++ (c.store.get32 p).extractLsb' 0 16) } p (c.store.get32 (p + 4) ^^^ 0x80000000)
  dsimp only at second
  rw [Memory.get32_put32] at second
  exact first.trans second

/-- An object after the check of its phase, where nobody waits on it (08 R192). -/
theorem objectPut_checkComplete (nobody : NoWaiter c p) :
    ObjectPut c (c.checkComplete p) p (objectAfter (c.store.get32 p) (c.store.get32 (p + 4))) := by
  rw [Core.checkComplete_eq, objectAfter]
  split
  · rw [Core.releaseBowait_none (c := c.turned p) nobody]
    exact objectPut_turned c p
  · exact ObjectPut.refl c p

/-- An object after its pending count is set and its phase checked. -/
theorem objectPut_pend (nobody : NoWaiter c p) (v : Int) :
    ObjectPut c ((c.setPend p v).checkComplete p) p (objectAfter (c.store.get32 p) (withPend (c.store.get32 (p + 4)) v)) := by
  have set := objectPut_setPend c p v
  have check := objectPut_checkComplete (c := c.setPend p v) (p := p) nobody
  rw [set.words.1, set.words.2] at check
  exact set.trans check

theorem withArr_succ (w : Word) : (w.extractLsb' 16 16 + 1) ++ w.extractLsb' 0 16 = withArr w (arr w + 1) := by
  have low : w.extractLsb' 16 16 + 1 = BitVec.ofNat 16 (arr w + 1) := by
    rw [arr, BitVec.ofNat_add, BitVec.ofNat_toNat, BitVec.setWidth_eq]
    rfl
  rw [withArr, low]

/-- The object after an arrival, with what is pending set (08 R193). -/
theorem objectPut_arrive (nobody : NoWaiter c p) (v : Int) :
    ObjectPut c ((({ c with store := c.store.put32 p (((c.store.get32 p).extractLsb' 16 16 + 1) ++ (c.store.get32 p).extractLsb' 0 16) } : Core).setPend
      p v).checkComplete p) p
      (objectAfter (withArr (c.store.get32 p) (arr (c.store.get32 p) + 1)) (withPend (c.store.get32 (p + 4)) v)) := by
  have arrived := objectPut_word0 c p (((c.store.get32 p).extractLsb' 16 16 + 1) ++ (c.store.get32 p).extractLsb' 0 16)
  have set := objectPut_pend (c := { c with store := c.store.put32 p (((c.store.get32 p).extractLsb' 16 16 + 1) ++ (c.store.get32 p).extractLsb' 0 16) })
    (p := p) nobody v
  rw [arrived.words.1, arrived.words.2, withArr_succ] at set
  exact arrived.trans set

end

theorem NoNewWaits.noWaiter {c c' : Core} {p : Nat} (h : NoNewWaits c c') (nobody : NoWaiter c p) : NoWaiter c' p := by
  intro e he q len waits
  rcases h e he with none | ⟨e', he', same⟩
  · rw [none] at waits; cases waits
  · exact nobody e' he' q len (same.trans waits)

section
variable {s : State} {core slot p : Nat} {t : Thread} {x : XOps}

/-- Word 1 of an object without ERR and with its reserved bits 0. -/
theorem clear_low {w : Word} (clear : w.extractLsb' 28 3 = 0) : w.getLsbD 30 = false ∧ w.extractLsb' 28 2 = 0 := by
  have bit (i : Nat) (hi : i < 3) : w.getLsbD (28 + i) = false := by
    have same := congrArg (fun v : BitVec 3 => v.getLsbD i) clear
    simpa [hi] using same
  refine ⟨bit 2 (by decide), ?_⟩
  ext i hi
  rw [BitVec.getElem_extractLsb', bit i (by omega)]
  simp

/-- What an object's instruction reads of it: its place, and that it is whole and in order (08 R193). -/
theorem objectAt_place (h : ObjectAt s core slot t x p) :
    s.objectAt core slot t x = .ok p ∧ (s.core core).objectWhole p = .ok () ∧ (s.core core).objOk p = true := by
  obtain ⟨⟨a, ha, aligned, inside, rfl⟩, whole, clear, reserved⟩ := h
  refine ⟨?_, ?_, ?_⟩
  · simp only [State.objectAt, ha, aligned, inside, need, BEq.rfl, decide_true, ↓reduceIte, bind, Except.bind]
  · simp only [Core.objectWhole, whole]
  · obtain ⟨err, low⟩ := clear_low clear
    simp only [Core.objOk, err, low, reserved, Bool.not_false, Bool.and_self, BEq.rfl]

theorem objectAt_relatch (h : ObjectAt s core slot t x p) (l : List (Nat × BitVec 8 × Nat)) : ObjectAt (s.relatch core l) core slot t x p := by
  have same : (s.relatch core l).spbase core t = s.spbase core t := by
    unfold State.spbase
    rw [State.core_relatch_self]
    rfl
  constructor
  · rw [State.src32_relatch, same]
    exact h.read
  all_goals rw [State.core_relatch_self]
  · exact h.whole
  · exact h.clear
  · exact h.reserved

theorem noFaults_relatch (h : NoFaults s core slot) (l : List (Nat × BitVec 8 × Nat)) : NoFaults (s.relatch core l) core slot := by
  unfold NoFaults
  rw [State.core_relatch_self]
  exact h

/-- What holds of one core and does not see the latches. -/
theorem objectIs_of_core {s' : State} {w : Word × Word} {d : BitVec 8} {r : Word} {c c' : Core} (hc : s.core core = c) (hc' : s'.core core = c')
    (words : c'.store.get32 p = w.1 ∧ c'.store.get32 (p + 4) = w.2)
    (v : d.toNat < 0xE0 → c'.readV slot d.toNat = some r)
    (k : 0xE0 ≤ d.toNat → d.toNat < 0xF0 → c'.readK (slot / 64) (d.setWidth 4) = r)
    (store : ∀ b, (b < p ∨ p + 8 ≤ b) → (∀ o, d.toNat < 0xE0 → c.vOff slot d.toNat = some o → b < o ∨ o + 4 ≤ b) → c'.store.get b = c.store.get b)
    (others : ∀ n, (0xE0 ≤ d.toNat → d.toNat < 0xF0 → d.setWidth 4 ≠ n) → c'.readK (slot / 64) n = c.readK (slot / 64) n) :
    ObjectIs s s' core slot p w d r := by
  subst hc hc'
  exact ⟨words, v, k, store, others⟩

theorem LatchBlind.objectIs (p : Nat) (w : Word × Word) (d : BitVec 8) (r : Word) : LatchBlind core slot (fun s s' => ObjectIs s s' core slot p w d r) := by
  intro s s' a b _ _ h
  have before := State.core_relatch_self s core a
  have after := State.core_relatch_self s' core b
  obtain ⟨words, v, k, store, others⟩ := h
  rw [before] at store others
  exact objectIs_of_core rfl after words v k store others

theorem LatchBlind.threadAt (o : Nat) (q : Thread → Prop) : LatchBlind core slot (fun _ s' => ∃ t', s'.thread? core o = some t' ∧ q t') := by
  intro s s' a b _ _ h
  rw [State.thread?_relatch]
  exact h

/-! ## BOINIT, BOARV, BOTX and BOWAIT (08 R193) -/

/-- One that has committed its region acts on the object. -/
theorem acts_committing (h : Solo s core slot t) (shut : t.openRegion = none) (clean : NoFaults s core slot) (len : Nat)
    {body : State → Except Stop (State → State)} {f : State → State} (hb : body s = .ok f) :
    s.committing core len slot (.ok ()) body = f (s.modCore core (·.advance slot len)) := by
  rw [State.committing_plain h.thread shut clean, hb]
  rfl

/-- BOINIT of a thread (08 R193). -/
theorem boinitOne_acts (h : Solo s core slot t) (shut : t.openRegion = none) (clean : NoFaults s core slot) {a b : Word}
    (ha : s.src32 core slot t x.lit x.a = .ok a) (aligned : (a + x.imm).toNat % 16 = 0) (inside : (a + x.imm).toNat < (s.rcd t.lid).spad)
    (hp : p = s.spbase core t + (a + x.imm).toNat) (hb : s.src32 core slot t x.lit x.b = .ok b) (lo : 1 ≤ b.toNat) (hi : b.toNat ≤ 65535)
    (free : (s.core core).awaited t.lid t.block (s.spbase core t) p = false) :
    boinitOne x s core slot t = (s.modCore core (·.advance slot x.len)).modCore core (·.writeStore p 16 b.toNat) := by
  have place : s.objectAt core slot t x = .ok p := by
    simp only [State.objectAt, ha, aligned, inside, need, BEq.rfl, decide_true, ↓reduceIte, bind, Except.bind, hp]
  have body : boinitBody x core slot t s = .ok (fun s => s.modCore core (·.writeStore p 16 b.toNat)) := by
    simp only [boinitBody, place, hb, lo, hi, free, need, decide_true, Bool.and_self, Bool.not_false, ↓reduceIte, bind, Except.bind,
      Nat.mod_eq_of_lt (show b.toNat < 65536 by omega)]
  exact acts_committing h shut clean x.len body

/-- A thread alone in its group supplies the value of a k register (04 R100). -/
theorem State.leads_solo (h : Solo s core slot t) (g : Guard) : s.leads g core slot = true := by
  obtain ⟨lid, pc, hc⟩ := h.cur
  simp [State.leads, hc]

/-- A core after the arrival of BOARV: its register takes the phase bit that it found, the object counts the arrival and the bytes (08 R193). -/
def Core.arrives (c : Core) (slot : Nat) (d : BitVec 8) (p : Nat) (w0 : Word) (n : Int) (ph : Word) : Core :=
  ((({ c.writeReg slot d ph with
    store := (c.writeReg slot d ph).store.put32 p ((w0.extractLsb' 16 16 + 1) ++ w0.extractLsb' 0 16) } : Core).setPend p n).checkComplete p)

/-- BOARV of a thread (08 R193). -/
theorem boarvOne_acts (h : Solo s core slot t) (shut : t.openRegion = none) (clean : NoFaults s core slot) (obj : ObjectAt s core slot t x p) {b : Word}
    (hb : x.sub.getLsbD 0 = true → s.src32 core slot t x.lit x.b = .ok b) (mapped : MappedAll (s.core core) slot [x.d])
    {n : Int} (hn : n = pend ((s.core core).store.get32 (p + 4)) + (if x.sub.getLsbD 0 then b.toInt else 0)) (hi : n < 2 ^ 27) (lo : -(2 ^ 27 : Int) ≤ n)
    (room : arr ((s.core core).store.get32 p) + 1 ≤ Claims.due ((s.core core).store.get32 p)) :
    boarvOne x s s core slot t = (s.modCore core (·.advance slot x.len)).modCore core (fun c =>
      c.arrives slot x.d p ((s.core core).store.get32 p) n (if ((s.core core).store.get32 (p + 4)).getLsbD 31 then 1 else 0)) := by
  obtain ⟨place, whole, ok⟩ := objectAt_place obj
  have body : boarvBody x core slot t (s.leads x.g core slot) s s = .ok (fun z => z.modCore core (fun c =>
      c.arrives slot x.d p ((s.core core).store.get32 p) n (if ((s.core core).store.get32 (p + 4)).getLsbD 31 then 1 else 0))) := by
    have low : -(2 ^ 27 : Nat) ≤ n := by exact_mod_cast lo
    have high : n < (2 ^ 27 : Nat) := by exact_mod_cast hi
    have counted : ((s.core core).store.get32 p |>.extractLsb' 16 16).toNat + 1 ≤ ((s.core core).store.get32 p |>.extractLsb' 0 16).toNat := room
    cases takes : x.sub.getLsbD 0 with
    | true =>
      rw [takes, if_pos rfl] at hn
      have total : objPend ((s.core core).store.get32 (p + 4)) + b.toInt = n := hn.symm
      simp only [boarvBody, Core.checkMapped_ok mapped, place, takes, hb takes, whole, ok, total, low, high, counted, need, decide_true, Bool.and_self,
        ↓reduceIte, bind, Except.bind, State.leads_solo h, or_true]
      rfl
    | false =>
      rw [takes, if_neg Bool.false_ne_true] at hn
      have total : objPend ((s.core core).store.get32 (p + 4)) + 0 = n := hn.symm
      simp only [boarvBody, Core.checkMapped_ok mapped, place, takes, whole, ok, total, low, high, counted, need, decide_true, Bool.and_self,
        Bool.false_eq_true, ↓reduceIte, bind, Except.bind, State.leads_solo h, or_true]
      rfl
  exact acts_committing h shut clean x.len body

/-- A core after BOARV of one of its threads (08 R193). -/
theorem objectIs_arrives (h : Solo s core slot t) (mapped : MappedAll (s.core core) slot [x.d]) (apart : Apart (s.core core) slot x.d p 8)
    (nobody : NoWaiter (s.core core) p) (n : Int) (ph : Word) :
    let w0 := (s.core core).store.get32 p
    let w1 := (s.core core).store.get32 (p + 4)
    let s' := (s.modCore core (·.advance slot x.len)).modCore core (fun c => c.arrives slot x.d p w0 n ph)
    OnlyCore core s s' ∧ OthersThinned slot (s.core core) (s'.core core) ∧
      (Own (s.core core) [(x.d, ph)] → OnlyThread slot (s.core core) (s'.core core)) ∧
      ObjectIs s s' core slot p (objectAfter (withArr w0 (arr w0 + 1)) (withPend w1 n)) x.d ph ∧
      ∃ t', s'.thread? core slot = some t' ∧ t' = { t.past x.len with park := none, taints := t'.taints } := by
  intro w0 w1 s'
  have r := Result.one h.thread x.len (.reg x.d ph) (fun d v e hd => by cases e; exact mapped _ List.mem_cons_self hd) h.crew
  obtain ⟨device, -, others, own, regs, thread⟩ := r
  rw [State.core_modCore_self] at others own regs
  rw [State.thread?, State.core_modCore_self] at thread
  generalize hc : ((s.core core).advance slot x.len).apply slot (.reg x.d ph) = c at others own regs thread
  have hc' : ((s.core core).advance slot x.len).writeReg slot x.d ph = c := hc
  have words (a : Nat) (lo : p ≤ a) (hi : a + 4 ≤ p + 8) : c.store.get32 a = (s.core core).store.get32 a :=
    Memory.get32_congr (fun b hlo hhi => regs.store b (fun d w o hd small ho => by
      cases List.mem_singleton.1 hd
      obtain ⟨o', ho', out⟩ := apart small
      cases ho.symm.trans ho'
      omega))
  have free : NoWaiter c p := by
    rw [← hc']
    exact NoNewWaits.noWaiter ((NoNewWaits.advance _ slot x.len).trans (NoNewWaits.writeReg _ slot x.d ph)) nobody
  have put := objectPut_arrive free n
  rw [words p (Nat.le_refl _) (by omega), words (p + 4) (by omega) (Nat.le_refl _)] at put
  have now : s'.core core = ((({ c with store := c.store.put32 p ((w0.extractLsb' 16 16 + 1) ++ w0.extractLsb' 0 16) } : Core).setPend p n).checkComplete p) := by
    rw [State.core_modCore_self, State.core_modCore_self, Core.arrives, hc']
  have crews : (s'.core core).crews = c.crews := by rw [now, put.rest]
  have threads (o : Nat) : (s'.core core).thread? o = c.thread? o := by rw [now, put.rest]; rfl
  have latch : (s'.core core).latch = c.latch := by rw [now, put.rest]
  have maps (a b : Nat) : c.vOff a b = (s.core core).vOff a b := regs.maps a b
  rw [← now] at put
  refine ⟨(OnlyCore.modCore core s _).trans (OnlyCore.modCore core _ _),
    ⟨fun o ne => (threads o).symm ▸ others.thinned o ne, fun e he => others.latch e (latch ▸ he)⟩,
    fun o => ⟨fun q ne => (threads q).trans ((own o).same q ne), fun e he => (own o).latch e (latch ▸ he)⟩,
    objectIs_of_core rfl rfl put.words (fun small => ?v) (fun lo hi => ?k) (fun b out out' => ?store) (fun n other => ?others), ?thread⟩
  case v =>
    obtain ⟨o, ho, out⟩ := apart small
    have kept := regs.v x.d ph List.mem_cons_self small
    rw [Core.readV, maps, ho] at kept
    rw [Core.readV, Core.vOff_congr crews, maps, ho, Option.map_some, put.get32 out]
    exact kept
  case k => rw [Core.readK_congr crews, regs.k x.d ph List.mem_cons_self lo hi]
  case store =>
    rw [put.bytes b out]
    refine regs.store b (fun d w a hd small ha => ?_)
    cases List.mem_singleton.1 hd
    exact out' a small ha
  case others =>
    rw [Core.readK_congr crews]
    refine regs.others _ n (fun d w hd lo hi _ => ?_)
    cases List.mem_singleton.1 hd
    exact other lo hi
  case thread =>
    obtain ⟨t', ht, same⟩ := thread
    exact ⟨t', (threads slot).trans ht, same⟩

/-- BOTX of a thread (08 R193). -/
theorem botxOne_acts (h : Solo s core slot t) (shut : t.openRegion = none) (clean : NoFaults s core slot) (obj : ObjectAt s core slot t x p) {b : Word}
    (hb : s.src32 core slot t x.lit x.b = .ok b) (lo : -(2 ^ 27 : Int) ≤ pend ((s.core core).store.get32 (p + 4)) + b.toInt)
    (hi : pend ((s.core core).store.get32 (p + 4)) + b.toInt < 2 ^ 27) : botxOne x s core slot t =
      (s.modCore core (·.advance slot x.len)).modCore core (fun c =>
        (c.setPend p (pend ((s.core core).store.get32 (p + 4)) + b.toInt)).checkComplete p) := by
  obtain ⟨place, whole, ok⟩ := objectAt_place obj
  have low : -(2 ^ 27 : Nat) ≤ objPend ((s.core core).store.get32 (p + 4)) + b.toInt := by exact_mod_cast lo
  have high : objPend ((s.core core).store.get32 (p + 4)) + b.toInt < (2 ^ 27 : Nat) := by exact_mod_cast hi
  have body : botxBody x core slot t s = .ok (fun z => z.modCore core (fun c =>
      (c.setPend p (pend ((s.core core).store.get32 (p + 4)) + b.toInt)).checkComplete p)) := by
    simp only [botxBody, place, hb, whole, ok, low, high, need, decide_true, Bool.and_self, ↓reduceIte, bind, Except.bind]
    rfl
  exact acts_committing h shut clean x.len body

/-- A core after BOTX of one of its threads, where nobody waits on the object (08 R193). -/
theorem objectIs_pend (h : Solo s core slot t) (nobody : NoWaiter (s.core core) p) (n : Int) :
    let s' := (s.modCore core (·.advance slot x.len)).modCore core (fun c => (c.setPend p n).checkComplete p)
    OnlyCore core s s' ∧ Went s s' core slot t x.len ∧ ObjectIs s s' core slot p
      (objectAfter ((s.core core).store.get32 p) (withPend ((s.core core).store.get32 (p + 4)) n)) 0xF8 0 := by
  intro s'
  have put := objectPut_pend ((NoNewWaits.advance (s.core core) slot x.len).noWaiter nobody) n
  rw [Core.advance_store] at put
  have now : s'.core core = (((s.core core).advance slot x.len).setPend p n).checkComplete p := by
    rw [State.core_modCore_self, State.core_modCore_self]
  rw [← now] at put
  have threads (o : Nat) : (s'.core core).thread? o = ((s.core core).advance slot x.len).thread? o := by rw [put.rest]; rfl
  have crews : (s'.core core).crews = (s.core core).crews := by rw [put.rest]; exact Core.advance_crews _ slot x.len
  have advanced := OnlyThread.advance (s.core core) slot x.len
  refine ⟨(OnlyCore.modCore core s _).trans (OnlyCore.modCore core _ _), ⟨⟨{ t.past x.len with park := none }, ?_, rfl⟩,
      fun o ne => (threads o).trans (advanced.same o ne), fun e he => advanced.latch e (by rw [put.rest] at he; exact he)⟩,
    objectIs_of_core rfl rfl put.words (fun small => absurd small (by decide)) (fun _ small => absurd small (by decide))
      (fun b out _ => (put.bytes b out).trans (by rw [Core.advance_store])) (fun n _ => Core.readK_congr crews _ n)⟩
  rw [State.thread?, threads, Core.thread?_advance, if_pos rfl, show (s.core core).thread? slot = some t from h.thread]
  rfl

/-- The only other thread of a core, which waits on the object at whose phase's end it is (08 R192). -/
theorem releaseBowait_other {c : Core} {o len : Nat} {u v : Thread} {parity : Bool} (threads : c.threads = [(slot, v), (o, u)]) (runs : v.park = none)
    (ne : o ≠ slot) (waits : u.park = some (.bowait p parity len)) :
    (c.releaseBowait p parity).thread? o = some { u.past len with park := none } := by
  have found : c.thread? o = some u := by
    rw [Core.thread?, threads]
    simp only [tget, if_neg (Ne.symm ne), ↓reduceIte]
  have released : c.releaseBowait p parity = c.advance o len := by
    rw [Core.releaseBowait, threads]
    simp only [List.foldl_cons, List.foldl_nil, runs, waits, and_self, ↓reduceIte]
  rw [released, Core.thread?_advance, if_pos rfl, found]
  rfl

/-- The threads of a core of which one has advanced. -/
theorem Core.advance_threads (c : Core) (slot len : Nat) :
    (c.advance slot len).threads = (c.modThread slot (fun t => { t with pc := t.pc + BitVec.ofNat 64 len, park := none })).threads := by
  unfold Core.advance
  dsimp only
  split <;> exact Core.ageLatch_threads _ slot

theorem Core.modThread_threads {c : Core} {u : Thread} (hu : c.thread? slot = some u) (f : Thread → Thread) :
    (c.modThread slot f).threads = tset c.threads slot (f u) := by
  rw [Core.modThread, hu]
  rfl

theorem Core.turned_threads (c : Core) (p : Nat) : (c.turned p).threads = c.threads := rfl

theorem Core.setPend_threads (c : Core) (p : Nat) (n : Int) : (c.setPend p n).threads = c.threads := rfl

theorem pend_withPend_zero (w : Word) : pend (withPend w 0) = 0 := by
  have low : (withPend w 0).extractLsb' 0 28 = BitVec.ofInt 28 0 := by
    rw [withPend, extract_low _ _ (Nat.le_refl _), extract_all]
  rw [pend, low]
  rfl

theorem objPh_withPend (w : Word) (n : Int) : objPh (withPend w n) = w.getLsbD 31 := by
  rw [objPh, withPend, BitVec.getLsbD_append, if_neg (by decide), BitVec.getLsbD_extractLsb']
  rfl

/-- BOTX at whose end a phase completes on which the only other thread of its core waits: that one goes on (08 R192). -/
theorem released_by_pend {o len : Nat} {u : Thread} (threads : (s.core core).threads = [(slot, t), (o, u)]) (ne : o ≠ slot)
    (waits : u.park = some (.bowait p (((s.core core).store.get32 (p + 4)).getLsbD 31) len))
    (all : arr ((s.core core).store.get32 p) = Claims.due ((s.core core).store.get32 p)) :
    ((s.modCore core (·.advance slot x.len)).modCore core (fun c => (c.setPend p 0).checkComplete p)).thread? core o =
      some { u.past len with park := none } := by
  have set := objectPut_setPend ((s.core core).advance slot x.len) p 0
  rw [Core.advance_store] at set
  have complete : arr ((((s.core core).advance slot x.len).setPend p 0).store.get32 p) =
      Claims.due ((((s.core core).advance slot x.len).setPend p 0).store.get32 p) ∧
      pend ((((s.core core).advance slot x.len).setPend p 0).store.get32 (p + 4)) = 0 := by
    rw [set.words.1, set.words.2]
    exact ⟨all, pend_withPend_zero _⟩
  have found : (s.core core).thread? slot = some t := by
    rw [Core.thread?, threads]
    simp only [tget, ↓reduceIte]
  have listed : ((((s.core core).advance slot x.len).setPend p 0).turned p).threads = [(slot, { t.past x.len with park := none }), (o, u)] := by
    rw [Core.turned_threads, Core.setPend_threads, Core.advance_threads, Core.modThread_threads found, threads]
    simp only [tset, ↓reduceIte]
    rfl
  rw [State.thread?, State.core_modCore_self, State.core_modCore_self, Core.checkComplete_eq, if_pos complete, set.words.2, objPh_withPend]
  exact releaseBowait_other listed rfl ne waits

/-- BOWAIT of a thread (08 R193). -/
theorem bowaitOne_eq (obj : ObjectAt s core slot t x p) {b : Word} (hb : s.src32 core slot t x.lit x.b = .ok b) : bowaitOne x s core slot t =
    if objPh ((s.core core).store.get32 (p + 4)) = b.getLsbD 0 then s.stop core slot (.park (.bowait p (b.getLsbD 0) x.len))
    else s.modCore core (·.advance slot x.len) := by
  obtain ⟨place, whole, ok⟩ := objectAt_place obj
  simp only [bowaitOne, place, hb, whole, ok, need, ↓reduceIte, bind, Except.bind]
  by_cases waits : objPh ((s.core core).store.get32 (p + 4)) = b.getLsbD 0
  · rw [if_pos waits, if_pos waits]
    rfl
  · rw [if_neg waits, if_neg waits]
    rfl

end
end Sys2Proof.Machine
open Sys2Proof.Machine Sys2Proof.Claims

/-- Settles O36: each of the four instructions by what it does to the two words of its object, and by who waits there. -/
theorem barrierObjectResult : Obligations.BarrierObjectResult := by
  unfold Obligations.BarrierObjectResult
  intro x s core slot t p h on shut clean w0 w1
  refine ⟨fun a b ha aligned inside hp hb lo hi free => ?boinit, fun b obj hb mapped apart nobody => ?boarv,
    fun b obj hb nobody lo hi => ?botx, fun b o u len obj hb threads ne waits empty all => ?releases, fun b obj hb => ⟨fun turned => ?passes, fun stands => ?waits⟩⟩
  case boinit =>
    refine completes_of_heldSeq (f := fun _ => boinitOne x) (LatchBlind.onlyCore.and ((LatchBlind.storeIs core p 16 b.toNat).and (LatchBlind.wentBy t x.len)))
      h on rfl (fun l => ?_)
    have base : (s.relatch core l).spbase core t = s.spbase core t := by
      unfold State.spbase
      rw [State.core_relatch_self]
      rfl
    rw [boinitOne_acts (p := p) (h.relatch l) shut (noFaults_relatch clean l) (by rwa [State.src32_relatch]) aligned inside (by rw [base]; exact hp)
      (by rwa [State.src32_relatch]) lo hi (by rw [base, State.core_relatch_self]; exact free)]
    obtain ⟨-, stores, went, -⟩ := landed_of_writeStore (h.relatch l) x.len core p 16 b.toNat
    exact ⟨(OnlyCore.modCore core _ _).trans (OnlyCore.modCore core _ _), stores, went⟩
  case boarv =>
    intro n high low room ph
    refine completes_of_heldSeq (f := fun s₀ => boarvOne x s₀) (P := fun s s' => OnlyCore core s s' ∧ OthersThinned slot (s.core core) (s'.core core) ∧
        (Own (s.core core) [(x.d, ph)] → OnlyThread slot (s.core core) (s'.core core)) ∧
        ObjectIs s s' core slot p (objectAfter (withArr w0 (arr w0 + 1)) (withPend w1 n)) x.d ph ∧
        ∃ t', s'.thread? core slot = some t' ∧ t' = { t.past x.len with park := none, taints := t'.taints })
      (LatchBlind.onlyCore.and (LatchBlind.othersThinned.and (LatchBlind.and ?own ((LatchBlind.objectIs p _ x.d ph).and (LatchBlind.thread _)))))
      h on rfl (fun l => ?acts)
    case own =>
      intro s s' a b ha hb only own
      refine LatchBlind.onlyThread s s' a b ha hb (only ?_)
      rw [State.core_relatch_self]
      exact own
    case acts =>
      have same : ((s.relatch core l).core core).store = (s.core core).store := by rw [State.core_relatch_self]
      rw [boarvOne_acts (h.relatch l) shut (noFaults_relatch clean l) (objectAt_relatch obj l) (b := b) (n := n)
        (fun takes => by rw [State.src32_relatch]; exact hb takes) (mapped.relatch l) (by rw [same]) high low (by rw [same]; exact room), same]
      have done := objectIs_arrives (x := x) (h.relatch l) (mapped.relatch l) (by rw [State.core_relatch_self]; exact apart)
        (by rw [State.core_relatch_self]; exact nobody) n ph
      rw [same] at done
      exact done
  case botx =>
    refine completes_of_heldSeq (f := fun _ => botxOne x) (LatchBlind.onlyCore.and ((LatchBlind.went t x.len).and (LatchBlind.objectIs p
      (objectAfter w0 (withPend w1 (pend w1 + b.toInt))) 0xF8 0))) h on rfl (fun l => ?_)
    have same : ((s.relatch core l).core core).store = (s.core core).store := by rw [State.core_relatch_self]
    rw [botxOne_acts (h.relatch l) shut (noFaults_relatch clean l) (objectAt_relatch obj l) (by rwa [State.src32_relatch]) (by rw [same]; exact lo)
      (by rw [same]; exact hi)]
    have done := objectIs_pend (x := x) (h.relatch l) (by rw [State.core_relatch_self]; exact nobody)
      (pend (((s.relatch core l).core core).store.get32 (p + 4)) + b.toInt)
    rw [same] at done ⊢
    exact done
  case releases =>
    refine completes_of_heldSeq (f := fun _ => botxOne x) (P := fun _ s' => ∃ u', s'.thread? core o = some u' ∧ u' = { u.past len with park := none })
      (LatchBlind.threadAt o _) h on rfl (fun l => ?_)
    have same : ((s.relatch core l).core core).store = (s.core core).store := by rw [State.core_relatch_self]
    rw [botxOne_acts (h.relatch l) shut (noFaults_relatch clean l) (objectAt_relatch obj l) (by rwa [State.src32_relatch]) (by rw [same, empty]; decide)
      (by rw [same, empty]; decide), same, empty]
    exact ⟨_, released_by_pend (s := s.relatch core l) (by rw [State.core_relatch_self]; exact threads) ne (by rw [same]; exact waits)
      (by rw [same]; exact all), rfl⟩
  case passes =>
    refine completes_of_heldSeq (f := fun _ => bowaitOne x) (LatchBlind.result _ _) h on rfl (fun l => ?_)
    have same : ((s.relatch core l).core core).store = (s.core core).store := by rw [State.core_relatch_self]
    have other : ¬objPh w1 = b.getLsbD 0 := turned
    rw [bowaitOne_eq (objectAt_relatch obj l) (by rwa [State.src32_relatch]), same, if_neg other]
    exact Result.none (h.relatch l).thread x.len
  case waits =>
    refine completes_of_heldSeq (f := fun _ => bowaitOne x) (LatchBlind.waits t _) h on rfl (fun l => ?_)
    have same : ((s.relatch core l).core core).store = (s.core core).store := by rw [State.core_relatch_self]
    have equal : objPh w1 = b.getLsbD 0 := stands
    rw [bowaitOne_eq (objectAt_relatch obj l) (by rwa [State.src32_relatch]), same, if_pos equal]
    exact waits_of_stop (h.relatch l).thread _

end

section
namespace Sys2Proof.Machine
open Sys2Proof Sys2Proof.Claims

/-! ## Lines of which no core holds an update-only copy (08 R188, R189) -/

/-- No core holds an update-only copy of a line. -/
def QuietLine (s : State) (line : Nat) : Prop := ∀ c ∈ s.cores, ∀ l ∈ c.2.lines, l.addr = line → l.upd = none

section
variable {s z : State} {line : Nat}

theorem noCopies_quiet (h : NoCopies s line) : QuietLine s line :=
  fun c hc l hl same => absurd same (h c hc l hl)

/-- Nothing is pulled of such a line. -/
theorem State.pull_quiet (h : QuietLine s line) : s.pull line = s := by
  have none : s.updates (fun l => l.addr == line) = [] := by
    refine List.flatMap_eq_nil_iff.2 (fun e he => ?_)
    rw [List.map_eq_nil_iff, List.filter_eq_nil_iff]
    intro l hl both
    rw [Bool.and_eq_true, beq_iff_eq] at both
    rw [h e he l hl both.2] at both
    cases both.1
  rw [State.pull, none]
  rfl

/-- The cores of a state after a change of one: that one as changed, or others as before. -/
theorem State.mem_cores_modCore {n : Nat} {f : Core → Core} {e : Nat × Core} (he : e ∈ (s.modCore n f).cores) : e = (n, f (s.core n)) ∨ e ∈ s.cores :=
  mem_tset he

/-- The lines of a core are those of one that is listed, or none. -/
theorem State.core_mem (s : State) (n : Nat) : (n, s.core n) ∈ s.cores ∨ s.core n = Core.reset := by
  unfold State.core
  cases h : tget s.cores n with
  | none => exact .inr rfl
  | some c => exact .inl (tget_mem h)

/-- States in which walks find the same: memory is the same, and the cores hold no other copies of lines. -/
structure SameWalks (s z : State) : Prop where
  poc : SamePoc s z
  copies : ∀ p : Line → Prop, (∀ c ∈ s.cores, ∀ l ∈ c.2.lines, p l) → ∀ c ∈ z.cores, ∀ l ∈ c.2.lines, p l

theorem SameWalks.quiet (h : SameWalks s z) (line : Nat) (quiet : QuietLine s line) : QuietLine z line := h.copies (fun l => l.addr = line → l.upd = none) quiet

theorem SameWalks.noCopies (h : SameWalks s z) (none : NoCopies s line) : NoCopies z line := h.copies (fun l => l.addr ≠ line) none

/-- A change of a core that leaves its lines as they are. -/
theorem SameWalks.modCore {s : State} {n : Nat} {f : Core → Core} (hf : (f (s.core n)).lines = (s.core n).lines) : SameWalks s (s.modCore n f) := by
  refine ⟨SamePoc.modCore s n f, fun p all e he l hl => ?_⟩
  rcases State.mem_cores_modCore he with rfl | he
  · rw [hf] at hl
    rcases s.core_mem n with listed | unused
    · exact all _ listed l hl
    · rw [unused] at hl
      cases hl
  · exact all e he l hl

theorem SameWalks.of_traffic (h : Traffic s z) : SameWalks s z := by
  refine ⟨h.poc, fun p all => ?_⟩
  rw [h.cores]
  exact all

theorem SameWalks.trans {w : State} (h : SameWalks s z) (k : SameWalks z w) : SameWalks s w :=
  ⟨h.poc.trans k.poc, fun p all => k.copies p (h.copies p all)⟩

/-- A share holds no copy of a line of which no core holds one. -/
theorem noCopies_line? (h : NoCopies s line) (core lid : Nat) : (s.core core).line? lid line = none := by
  refine List.find?_eq_none.2 (fun l hl both => ?_)
  rw [Bool.and_eq_true, beq_iff_eq, beq_iff_eq] at both
  rcases s.core_mem core with listed | unused
  · exact h _ listed l hl both.2
  · rw [unused] at hl
    cases hl

/-! ## Walks (10 R224) -/

section
variable (same : SameWalks s z)
include same

/-- An entry that a walk reads on a quiet line. -/
theorem SameWalks.peek {pa : Nat} (quiet : QuietLine s (pa / 128)) (ctx : Nat) : z.peek ctx pa = s.peek ctx pa := by
  rw [State.peek, State.peek, State.pull_quiet quiet, State.pull_quiet (same.quiet _ quiet)]
  exact State.readPa_congr same.poc ctx false pa 8

/-- A walk over quiet lines. -/
theorem SameWalks.walkFrom {ctx va : Nat} (n t : Nat) (quiet : ∀ pa ∈ s.walkReads ctx va n t, QuietLine s (pa / 128)) :
    z.walkFrom ctx va n t = s.walkFrom ctx va n t ∧ z.walkReads ctx va n t = s.walkReads ctx va n t := by
  induction n generalizing t with
  | zero => exact ⟨rfl, rfl⟩
  | succ l ih =>
    rw [State.walkReads] at quiet
    simp only [State.walkFrom, State.walkReads, same.peek (quiet _ List.mem_cons_self)]
    cases hp : s.peek ctx (t * 8192 + va / 2 ^ (16 + 10 * l) % 1024 * 8) with
    | error k => exact ⟨rfl, rfl⟩
    | ok v =>
      simp only [hp] at quiet
      have table : ((BitVec.ofNat 64 v).extractLsb' 13 35).toNat = v / 2 ^ 13 % 2 ^ 35 := by
        rw [BitVec.extractLsb'_toNat, BitVec.toNat_ofNat, Nat.shiftRight_eq_div_pow]
        omega
      dsimp only
      by_cases descends : v % 2 = 1 ∧ v / 16 % 2 = 0 ∧ l ≠ 0
      · rw [if_pos descends] at quiet ⊢
        rw [if_pos descends]
        obtain ⟨walk, reads⟩ := ih _ (fun pa hpa => quiet pa (List.mem_cons_of_mem _ hpa))
        rw [table, walk, reads]
        exact ⟨rfl, rfl⟩
      · rw [if_neg descends, if_neg descends]
        refine ⟨?_, rfl⟩
        have low : (BitVec.ofNat 64 v).getLsbD 0 = decide (v % 2 = 1) := by
          rw [BitVec.getLsbD_ofNat, Nat.testBit_eq_decide_div_mod_eq]
          simp
        have leaf : (BitVec.ofNat 64 v).getLsbD 4 = decide (v / 16 % 2 = 1) := by
          rw [BitVec.getLsbD_ofNat, Nat.testBit_eq_decide_div_mod_eq]
          simp
        rw [low, leaf]
        by_cases valid : v % 2 = 1
        · by_cases ends : v / 16 % 2 = 1
          · simp only [valid, ends, decide_true, Bool.not_true, Bool.false_eq_true, ↓reduceIte]
          · have last : l = 0 := by
              by_contra more
              exact descends ⟨valid, by omega, more⟩
            simp only [valid, ends, last, decide_true, decide_false, Bool.not_true, Bool.false_eq_true, true_or, ↓reduceIte]
        · simp only [valid, decide_false, Bool.not_false, ↓reduceIte]

end

/-- The page that a walk finds: its size is that of the level at which the walk ends, and every VA of the page has the same walk (10 R224). -/
theorem State.walkFrom_page {ctx va : Nat} {leaf : DWord} {size : Nat} : ∀ n t, s.walkFrom ctx va n t = .ok (leaf, size) →
    ∃ l, l < n ∧ size = 2 ^ (16 + 10 * l) ∧ ∀ va', va' / size = va / size →
      s.walkFrom ctx va' n t = .ok (leaf, size) ∧ s.walkReads ctx va' n t = s.walkReads ctx va n t
  | 0, t, h => by rw [State.walkFrom] at h; cases h
  | k + 1, t, h => by
    have index {l va' : Nat} (hl : l ≤ k) (page : va' / 2 ^ (16 + 10 * l) = va / 2 ^ (16 + 10 * l)) :
        va' / 2 ^ (16 + 10 * k) = va / 2 ^ (16 + 10 * k) := by
      have split : 2 ^ (16 + 10 * k) = 2 ^ (16 + 10 * l) * 2 ^ (10 * k - 10 * l) := by
        rw [← Nat.pow_add]
        congr 1
        omega
      rw [split, ← Nat.div_div_eq_div_mul, ← Nat.div_div_eq_div_mul, page]
    simp only [State.walkFrom] at h
    cases hp : s.peek ctx (t * 8192 + va / 2 ^ (16 + 10 * k) % 1024 * 8) with
    | error e => simp only [hp] at h; cases h
    | ok v =>
      simp only [hp] at h
      split at h
      · cases h
      · rename_i valid
        split at h <;> rename_i kind
        · split at h
          · cases h
          · split at h
            · cases h
            · rename_i sound placed
              cases h
              refine ⟨k, Nat.lt_succ_self k, rfl, fun va' page => ?_⟩
              have ends : ¬ (v % 2 = 1 ∧ v / 16 % 2 = 0 ∧ k ≠ 0) := by
                rintro ⟨-, inner, -⟩
                rw [BitVec.getLsbD_ofNat, Nat.testBit_eq_decide_div_mod_eq] at kind
                simp [inner] at kind
              simp only [State.walkFrom, State.walkReads, page, hp, valid, kind, sound, placed, ends, Bool.false_eq_true, ↓reduceIte, and_self]
        · split at h
          · cases h
          · rename_i sound
            obtain ⟨l, hl, hs, rest⟩ := State.walkFrom_page k _ h
            refine ⟨l, Nat.lt_succ_of_lt hl, hs, fun va' page => ?_⟩
            obtain ⟨walk, reads⟩ := rest va' page
            have here := index (Nat.le_of_lt hl) (hs ▸ page)
            have table : ((BitVec.ofNat 64 v).extractLsb' 13 35).toNat = v / 2 ^ 13 % 2 ^ 35 := by
              rw [BitVec.extractLsb'_toNat, BitVec.toNat_ofNat, Nat.shiftRight_eq_div_pow]
              omega
            rw [table] at reads
            simp only [State.walkFrom, State.walkReads, here, hp, valid, kind, sound, Bool.false_eq_true, ↓reduceIte, walk, reads, and_self]

end
end Sys2Proof.Machine
end

section
namespace Sys2Proof.Machine
open Sys2Proof Sys2Proof.Claims

/-! ## Translations that a change of a core leaves as they are (10 R224, R230, R233) -/

section
variable {s z : State}

/-- The lines of some addresses are quiet. -/
def QuietAt (s : State) (pas : List Nat) : Prop := ∀ pa ∈ pas, QuietLine s (pa / 128)

/-- The page that a walk finds. -/
theorem State.walk_page {ctx va : Nat} {leaf : DWord} {size : Nat} (h : s.walk ctx va = .ok (leaf, size)) : 0 < size ∧ ∀ va', va' / size = va / size →
    s.walk ctx va' = .ok (leaf, size) ∧ ∀ rid, s.lookedAt ctx va' rid = s.lookedAt ctx va rid := by
  have walked := h
  unfold State.walk at h
  dsimp only at h
  split at h <;> rename_i root
  · obtain ⟨l, -, rfl, page⟩ := State.walkFrom_page 4 _ h
    refine ⟨Nat.two_pow_pos _, fun va' same => ?_⟩
    obtain ⟨walk, reads⟩ := page va' same
    have walk' : s.walk ctx va' = .ok (leaf, 2 ^ (16 + 10 * l)) := by
      unfold State.walk
      dsimp only
      rw [if_pos root]
      exact walk
    refine ⟨walk', fun rid => ?_⟩
    unfold State.lookedAt
    dsimp only
    rw [walk', walked, reads]
  · cases h

section
variable (same : SameWalks s z) {ctx va rid : Nat}
include same

theorem SameWalks.cw8 (die off : Nat) : z.cw8 die off = s.cw8 die off := by
  rw [State.cw8, State.cw8, same.poc.cw]

/-- A walk over quiet lines, with the root entry. -/
theorem SameWalks.walk (quiet : QuietAt s (s.lookedAt ctx va rid)) : z.walk ctx va = s.walk ctx va := by
  unfold State.walk
  dsimp only
  rw [same.cw8]
  by_cases root : (s.cw8 0 (0x50000 + ctx * 0x40)).getLsbD 0 = true
  · rw [if_pos root, if_pos root]
    refine (same.walkFrom 4 _ (fun pa hpa => quiet pa ?_)).1
    unfold State.lookedAt
    simp only [root, Bool.not_true, Bool.false_eq_true, ↓reduceIte]
    exact List.mem_append_left _ hpa
  · rw [if_neg root, if_neg root]

/-- The addresses that a walk over quiet lines looks at. -/
theorem SameWalks.lookedAt (quiet : QuietAt s (s.lookedAt ctx va rid)) : z.lookedAt ctx va rid = s.lookedAt ctx va rid := by
  unfold State.lookedAt
  dsimp only
  rw [same.walk quiet, same.cw8, same.cw8, same.cw8]
  by_cases root : (s.cw8 0 (0x50000 + ctx * 0x40)).getLsbD 0 = true
  · simp only [root, Bool.not_true, Bool.false_eq_true, ↓reduceIte]
    rw [(same.walkFrom 4 _ (fun pa hpa => quiet pa ?_)).2]
    unfold State.lookedAt
    simp only [root, Bool.not_true, Bool.false_eq_true, ↓reduceIte]
    exact List.mem_append_left _ hpa
  · simp only [root, Bool.not_false, ↓reduceIte]

theorem SameWalks.walkQuiet {ptr : DWord} (quiet : WalkQuiet s ctx ptr) : WalkQuiet z ctx ptr := by
  intro pa hpa
  rw [same.lookedAt quiet] at hpa
  exact same.quiet _ (quiet pa hpa)

/-- A fresh translation over quiet lines. -/
theorem SameWalks.fresh {e : Tlb} (quiet : QuietAt s (s.lookedAt ctx va rid)) (h : s.fresh? ctx va rid = .ok e) : z.fresh? ctx va rid = .ok e := by
  unfold State.fresh? at h ⊢
  rw [same.walk quiet]
  cases hw : s.walk ctx va with
  | error f => rw [hw] at h; cases h
  | ok p =>
    obtain ⟨leaf, size⟩ := p
    rw [hw] at h
    have root : (s.cw8 0 (0x50000 + ctx * 0x40)).getLsbD 0 = true := by
      by_contra no
      unfold State.walk at hw
      dsimp only at hw
      rw [if_neg no] at hw
      cases hw
    have entries : QuietAt s ((if rid = 0 then [] else let b := (s.cw8 0 (0x50008 + ctx * 0x40)).toNat + rid * 16; [b, b + 8])
      ++ (if leafTier leaf = 2 then let w := (s.cw8 0 (0x51000 + ctx * 8)).toNat + (leaf.extractLsb' 48 8).toNat * 16; [w, w + 8] else [])) := by
      intro pa hpa
      refine quiet pa ?_
      unfold State.lookedAt
      simp only [root, Bool.not_true, Bool.false_eq_true, ↓reduceIte, hw]
      exact List.mem_append_right _ hpa
    have bound : z.boundEntry ctx rid = s.boundEntry ctx rid := by
      unfold State.boundEntry
      dsimp only
      by_cases none : rid = 0
      · rw [if_pos none, if_pos none]
      · rw [if_neg none, if_neg none, same.cw8, same.peek (entries _ (by simp [none])), same.peek (entries _ (by simp [none]))]
    have window (fabric : leafTier leaf = 2) : z.windowEntry ctx (leaf.extractLsb' 48 8).toNat = s.windowEntry ctx (leaf.extractLsb' 48 8).toNat := by
      unfold State.windowEntry
      dsimp only
      rw [same.cw8, same.peek (entries _ (by simp [fabric])), same.peek (entries _ (by simp [fabric]))]
    dsimp only at h ⊢
    rw [bound]
    split at h
    · cases h
    · rw [← h]
      by_cases fabric : leafTier leaf = 2
      · simp only [fabric, ↓reduceIte, window fabric]
      · simp only [fabric, ↓reduceIte]

end

/-- What a fresh translation holds: the page of its walk and the region of the leaf. -/
theorem State.fresh?_ok {ctx va rid : Nat} {e : Tlb} (h : s.fresh? ctx va rid = .ok e) :
    s.walk ctx va = .ok (e.leaf, e.size) ∧ e.ctx = ctx ∧ e.va = va / e.size * e.size := by
  unfold State.fresh? at h
  cases hw : s.walk ctx va with
  | error f => rw [hw] at h; cases h
  | ok p =>
    obtain ⟨leaf, size⟩ := p
    rw [hw] at h
    dsimp only at h
    split at h
    · cases h
    · cases h
      exact ⟨rfl, rfl, rfl⟩

/-- A translation that an access may use is of the pointer's region (10 R233). -/
theorem Tlb.rid_of_verdict {e : Tlb} {ptr : DWord} {n : Nat} {a : Acc} {path : Path} {fits : Tlb → Bool} (h : e.verdict ptr n a path fits = none) :
    leafRid e.leaf = (ptr.extractLsb' 56 8).toNat := by
  unfold Tlb.verdict at h
  dsimp only at h
  cases hc : e.check (ptr.extractLsb' 56 8).toNat (ptr.extractLsb' 0 56).toNat n a fits with
  | some k => rw [hc] at h; cases h
  | none =>
    unfold Tlb.check at hc
    split at hc
    · cases hc
    · split at hc
      · cases hc
      · split at hc <;> rename_i rid
        · split at hc <;> rename_i same
          · rw [same, rid]
          · cases hc
        · dsimp only at hc
          split at hc <;> rename_i bad
          · cases hc
          · by_contra ne
            exact bad (.inr (.inr (.inr (.inr ne))))

/-- The walk of the pointer that a fresh translation names looks where the walk of the access did. -/
theorem State.lookedAt_ptr {ctx : Nat} {ptr : DWord} {e : Tlb} (h : s.fresh? ctx (ptr.extractLsb' 0 56).toNat (ptr.extractLsb' 56 8).toNat = .ok e)
    (region : leafRid e.leaf = (ptr.extractLsb' 56 8).toNat) : s.lookedAt e.ctx (e.ptr.extractLsb' 0 56).toNat (e.ptr.extractLsb' 56 8).toNat =
      s.lookedAt ctx (ptr.extractLsb' 0 56).toNat (ptr.extractLsb' 56 8).toNat := by
  obtain ⟨walk, hctx, hva⟩ := State.fresh?_ok h
  obtain ⟨pos, page⟩ := State.walk_page walk
  have below : e.va < 2 ^ 56 := hva ▸ Nat.lt_of_le_of_lt (Nat.div_mul_le_self _ _) (BitVec.isLt _)
  have va : (e.ptr.extractLsb' 0 56).toNat = e.va := by
    unfold Tlb.ptr
    rw [BitVec.extractLsb'_append_eq_right, BitVec.toNat_ofNat, Nat.mod_eq_of_lt below]
  have rid : (e.ptr.extractLsb' 56 8).toNat = (ptr.extractLsb' 56 8).toNat := by
    unfold Tlb.ptr
    rw [BitVec.extractLsb'_append_eq_left, BitVec.toNat_ofNat, ← region]
    exact Nat.mod_eq_of_lt (BitVec.isLt _)
  rw [va, rid, hctx, hva]
  exact (page _ (Nat.mul_div_cancel _ pos)).2 _

section
variable (same : SameWalks s z)
include same

/-- A translation whose walk is over quiet lines is found again. -/
theorem SameWalks.xlate {tlb : List Tlb} {ctx n : Nat} {ptr : DWord} {a : Acc} {path : Path} {fits : Tlb → Bool} {e : Tlb} (clear : WalkClear s (some e))
    (h : s.xlate tlb ctx ptr n a path fits = .ok e) : z.xlate tlb ctx ptr n a path fits = .ok e := by
  have walked {r : Except FaultInfo Tlb} (hr : r = match s.fresh? ctx (ptr.extractLsb' 0 56).toNat (ptr.extractLsb' 56 8).toNat with
      | .error (k, l, pa) => .error { kind := k, va := ptr, write := a.writes, path := path, level := l, pa := pa }
      | .ok e => match e.verdict ptr n a path fits with
        | none => .ok e
        | some f => .error f) (ok : r = .ok e) : s.fresh? ctx (ptr.extractLsb' 0 56).toNat (ptr.extractLsb' 56 8).toNat = .ok e ∧
          z.fresh? ctx (ptr.extractLsb' 0 56).toNat (ptr.extractLsb' 56 8).toNat = .ok e := by
    rw [ok] at hr
    cases hf : s.fresh? ctx (ptr.extractLsb' 0 56).toNat (ptr.extractLsb' 56 8).toNat with
    | error f => rw [hf] at hr; cases hr
    | ok e' =>
      rw [hf] at hr
      dsimp only at hr
      cases hv : e'.verdict ptr n a path fits with
      | some f => rw [hv] at hr; cases hr
      | none =>
        rw [hv] at hr
        cases hr
        refine ⟨rfl, same.fresh ?_ hf⟩
        rw [← State.lookedAt_ptr hf (Tlb.rid_of_verdict hv)]
        exact clear e rfl
  unfold State.xlate at h ⊢
  dsimp only at h ⊢
  split at h
  · cases h
  · rename_i low
    rw [if_neg low]
    cases hit : tlbFind tlb ctx (ptr.extractLsb' 0 56).toNat (ptr.extractLsb' 56 8).toNat with
    | none =>
      rw [hit] at h
      obtain ⟨hs, hz⟩ := walked rfl h
      rw [hs] at h
      dsimp only
      rw [hz]
      exact h
    | some y =>
      rw [hit] at h
      dsimp only at h ⊢
      cases hv : y.verdict ptr n a path fits with
      | none => rw [hv] at h; exact h
      | some f =>
        rw [hv] at h
        dsimp only at h ⊢
        split at h <;> rename_i revoked
        · cases h
        · rw [if_neg revoked]
          obtain ⟨hs, hz⟩ := walked rfl h
          rw [hs] at h
          rw [hz]
          exact h

/-- A pointer resolves again to what it named, where the launch's rights to the core stores are the same. -/
theorem SameWalks.resolve {core lid ctx n : Nat} {tlb : List Tlb} {priv : Bool} {who : Who} {ptr : DWord} {a : Acc} {path : Path} {target : Target} {e : Option Tlb}
    (record : z.rcd lid = s.rcd lid) (rights : ∀ c off, (z.core c).allowed lid (s.rcd lid).spad off n = (s.core c).allowed lid (s.rcd lid).spad off n)
    (clear : WalkClear s e) (h : s.resolve core lid ctx tlb priv who ptr n a path = .ok (target, e)) :
    z.resolve core lid ctx tlb priv who ptr n a path = .ok (target, e) := by
  unfold State.resolve at h ⊢
  dsimp only at h ⊢
  simp only [record, rights]
  split at h <;> rename_i window
  · rw [if_pos window]
    exact h
  · rw [if_neg window]
    split at h <;> rename_i control
    · rw [if_pos control]
      exact h
    · rw [if_neg control]
      split at h <;> rename_i hx
      · cases h
      · rename_i y
        cases h
        rw [same.xlate clear hx]

end
end
end Sys2Proof.Machine
end

section
namespace Sys2Proof.Machine
open Sys2Proof Sys2Proof.Claims

/-! ## A translation that enters the core TLB (10 R230) -/

/-- Nothing changed but one core, and what reads of page tables do at the slices. -/
def SlicesCore (core : Nat) (s s' : State) : Prop := ∃ w, SlicesOnly s w ∧ OnlyCore core w s'

section
variable {s s' s'' : State} {core slot : Nat}

theorem SlicesCore.of_core (h : OnlyCore core s s') : SlicesCore core s s' := ⟨s, SlicesOnly.refl s, h⟩

theorem SlicesCore.of_slices (h : SlicesOnly s s') : SlicesCore core s s' := ⟨s', h, OnlyCore.refl core s'⟩

/-- The cores of a state follow from its list of them. -/
theorem State.core_congr (h : s'.cores = s.cores) (n : Nat) : s'.core n = s.core n := by rw [State.core, State.core, h]

/-- What reads do at the slices and what changes in a core do not depend on each other. -/
theorem SlicesCore.then_slices (h : OnlyCore core s s') (k : SlicesOnly s' s'') : SlicesCore core s s'' := by
  obtain ⟨rest, others⟩ := h
  refine ⟨{ s with l2 := s''.l2, sliceWait := s''.sliceWait, soft := s''.soft, tests := s''.tests, tally := s''.tally }, rfl, ?_, fun n hn => ?_⟩
  · rw [k, rest]
  · rw [State.core_congr (Traffic.of_slices k).cores n, others n hn]
    rfl

theorem SlicesCore.trans (h : SlicesCore core s s') (k : SlicesCore core s' s'') : SlicesCore core s s'' := by
  obtain ⟨w, slices, cores⟩ := h
  obtain ⟨w', slices', cores'⟩ := k
  obtain ⟨w'', before, after⟩ := SlicesCore.then_slices cores slices'
  exact ⟨w'', slicesOnly_trans slices before, after.trans cores'⟩

theorem LatchBlind.slicesCore : LatchBlind core slot (SlicesCore core) := fun s s' _ _ _ _ h =>
  ((SlicesCore.of_core (OnlyCore.modCore core s _)).trans h).trans (SlicesCore.of_core (OnlyCore.modCore core s' _))

/-- What the reads of a walk over quiet lines do. -/
theorem slicesOnly_walked {z : State} (pas : List Nat) (quiet : QuietAt z pas) :
    SlicesOnly z (pas.foldl (fun s pa => (s.pull (pa / 128)).l2Access pa 8 false recordReq) z) := by
  induction pas generalizing z with
  | nil => exact SlicesOnly.refl z
  | cons pa r ih =>
    rw [List.foldl_cons, State.pull_quiet (quiet pa List.mem_cons_self)]
    have here := slicesOnly_l2Read z pa 8 recordReq
    refine slicesOnly_trans here (ih (fun pa hpa => ?_))
    unfold QuietLine
    rw [(Traffic.of_slices here).cores]
    exact quiet pa (List.mem_cons_of_mem _ hpa)

theorem slicesOnly_sawWalk {ctx : Nat} {ptr : DWord} (quiet : WalkQuiet s ctx ptr) : SlicesOnly s (s.sawWalk ctx ptr) := by
  unfold State.sawWalk
  dsimp only
  split
  · exact SlicesOnly.refl s
  · exact slicesOnly_walked _ quiet

/-- A core with other translations in its TLB. -/
def Core.withTlb (c : Core) (p : List Tlb × Nat) : Core := { c with tlb := p.1, place := p.2 }

/-- A translation whose walk is over quiet lines enters the TLB, or stands there. -/
theorem State.fillTlb_clear {t : Thread} {e : Option Tlb} (ht : s.thread? core slot = some t) (clear : WalkClear s e) :
    ∃ w p, SlicesOnly s w ∧ s.fillTlb core e = w.modCore core (·.withTlb p) := by
  have stays : ∃ w p, SlicesOnly s w ∧ s = w.modCore core (·.withTlb p) :=
    ⟨s, ((s.core core).tlb, (s.core core).place), SlicesOnly.refl s, (State.modCore_id ht).symm⟩
  unfold State.fillTlb
  cases e with
  | none => exact stays
  | some e =>
    dsimp only
    split
    · exact stays
    · exact ⟨s.sawWalk e.ctx e.ptr, tlbFill 128 ((s.sawWalk e.ctx e.ptr).core core).tlb e ((s.sawWalk e.ctx e.ptr).core core).place,
        slicesOnly_sawWalk (clear e rfl), rfl⟩

theorem walkClear_congr (same : SameWalks s s') {e : Option Tlb} (clear : WalkClear s e) : WalkClear s' e :=
  fun x hx => same.walkQuiet (clear x hx)

theorem SameWalks.relatch (s : State) (core : Nat) (l : List (Nat × BitVec 8 × Nat)) : SameWalks s (s.relatch core l) := SameWalks.modCore rfl

theorem SameWalks.advance (s : State) (core slot len : Nat) : SameWalks s (s.modCore core (·.advance slot len)) :=
  SameWalks.modCore (Core.advance_lines _ slot len)

end

/-! ## ST in an open region (08 R184, R185) -/

section
variable {s : State} {core slot : Nat} {t : Thread} {x : XOps} {ptr : DWord} {v : BitVec 128} {target : Target} {e : Option Tlb} {r : Region}

/-- A pointer resolves as it did whatever the operand latches hold. -/
theorem State.resolve_relatch {lid ctx n : Nat} {tlb : List Tlb} {priv : Bool} {who : Who} {a : Acc} {path : Path} (clear : WalkClear s e)
    (h : s.resolve core lid ctx tlb priv who ptr n a path = .ok (target, e)) (l : List (Nat × BitVec 8 × Nat)) :
    (s.relatch core l).resolve core lid ctx tlb priv who ptr n a path = .ok (target, e) :=
  (SameWalks.relatch s core l).resolve rfl (fun c off => by rw [State.core_relatch]; rfl) clear h

/-- A region with one more store. -/
def Region.push (r : Region) (b : Buffered) : Region := { r with stores := r.stores ++ [b] }

/-- A thread whose region takes one more store. -/
def Thread.pushing (b : Buffered) (t : Thread) : Thread := { t with region := t.region.map (·.push b) }

/-- A store of a thread with an open region finds room there, or none (08 R185). -/
theorem State.storeBy_region (opens : t.openRegion = some r) (rbk : (s.rcd t.lid).rbk = false) {n hint : Nat}
    (hr : s.resolve core t.lid (s.ctxOf t) (s.core core).tlb (s.priv t) .ldst ptr n .write .ls = .ok (target, e)) (cover : Cover) :
    s.storeBy core slot t ptr n hint v .ldst cover =
      if (granules core (r.stores ++ [buffered t slot ptr n hint v e])).length ≤ 16 then
        .ok (fun z => (z.fillTlb core e).modThread core slot (Thread.pushing (buffered t slot ptr n hint v e)))
      else .error (.overflow ptr) := by
  have free : s.granuleFree core t (buffered t slot ptr n hint v e) =
      decide ((granules core (r.stores ++ [buffered t slot ptr n hint v e])).length ≤ 16) := by
    simp only [State.granuleFree, opens, rbk, Bool.not_false, Bool.true_or, Bool.and_true]
  simp only [State.storeBy, hr, free, opens]
  by_cases room : (granules core (r.stores ++ [buffered t slot ptr n hint v e])).length ≤ 16
  · simp only [room, decide_true, Bool.not_true, Bool.false_eq_true, ↓reduceIte]
    rfl
  · simp only [room, decide_false, Bool.not_false, ↓reduceIte]

/-- The store has entered its thread's open region, and is performed nowhere. -/
def Buffers (core slot : Nat) (t : Thread) (len : Nat) (g : Region) (s s' : State) : Prop :=
  SlicesCore core s s' ∧ StoresSame s s' ∧ OnlyThread slot (s.core core) (s'.core core) ∧ (s'.core core).lines = (s.core core).lines ∧
    ∃ t', s'.thread? core slot = some t' ∧ t' = { t.past len with park := none, region := some g }

theorem LatchBlind.buffers (t : Thread) (len : Nat) (g : Region) : LatchBlind core slot (Buffers core slot t len g) :=
  LatchBlind.slicesCore.and (LatchBlind.storesSame.and (LatchBlind.onlyThread.and ((LatchBlind.of_core (R := fun c c' => c'.lines = c.lines)
    (fun _ _ _ _ h => h)).and (LatchBlind.thread _))))

theorem Core.store_withTlb (c : Core) (p : List Tlb × Nat) : (c.withTlb p).store = c.store := rfl

theorem OnlyThread.withTlb (slot : Nat) (c : Core) (p : List Tlb × Nat) : OnlyThread slot c (c.withTlb p) := ⟨fun _ _ => rfl, fun _ h _ => h⟩

/-- The translation enters the TLB and the store the region, behind the thread's advance. -/
theorem buffers_pushed (ht : s.thread? core slot = some t) (region : t.region = some r) (clear : WalkClear s e) (len : Nat) (b : Buffered) :
    Buffers core slot t len (r.push b) s (((s.modCore core (·.advance slot len)).fillTlb core e).modThread core slot (Thread.pushing b)) := by
  have now : (s.modCore core (·.advance slot len)).thread? core slot = some { t.past len with park := none } := by
    unfold State.thread? at ht ⊢
    rw [State.core_modCore_self, Core.thread?_advance, if_pos rfl, ht]
    rfl
  obtain ⟨w, p, slices, filled⟩ := State.fillTlb_clear now (walkClear_congr (SameWalks.advance s core slot len) clear)
  rw [filled]
  have cores := State.core_congr (Traffic.of_slices slices).cores
  have here : ((w.modCore core (·.withTlb p)).core core) = ((s.core core).advance slot len).withTlb p := by
    rw [State.core_modCore_self, cores, State.core_modCore_self]
  refine ⟨?_, ?_, ?_, ?_, ?_⟩
  · exact (SlicesCore.then_slices (OnlyCore.modCore core s _) slices).trans
      (SlicesCore.of_core ((OnlyCore.modCore core w _).trans (OnlyCore.modCore core _ _)))
  · intro m
    have advanced : ((s.modCore core (·.advance slot len)).core m).store = (s.core m).store :=
      core_rel_modCore (R := fun k k' => k'.store = k.store) (fun _ => rfl) (fun k => k.advance_store slot len) s core m
    rw [← advanced, ← cores]
    exact (core_rel_modCore (R := fun k k' => k'.store = k.store) (fun _ => rfl) (fun k => Core.modThread_store k slot _) _ core m).trans
      (core_rel_modCore (R := fun k k' => k'.store = k.store) (fun _ => rfl) (fun k => k.store_withTlb p) w core m)
  · rw [State.core_modThread_self, here]
    exact ((OnlyThread.advance _ slot len).trans (OnlyThread.withTlb slot _ p)).trans (OnlyThread.modThread _ slot _)
  · rw [State.core_modThread_self, here, Core.modThread_lines]
    exact Core.advance_lines _ slot len
  · refine ⟨_, ?_, rfl⟩
    have still : (w.modCore core (·.withTlb p)).thread? core slot = some { t.past len with park := none } := by
      rw [State.thread?, here]
      rw [State.thread?, State.core_modCore_self] at now
      exact now
    rw [State.thread?_modThread_self, still, Option.map_some]
    simp only [Thread.pushing, Thread.past, region, Option.map_some]

end

end Sys2Proof.Machine
end

section
open Sys2Proof Sys2Proof.Machine Sys2Proof.Claims

/-- Settles O27: the store finds a granule in its thread's open region and enters it behind the advance, or traps with its address. -/
theorem storeInRegion : Obligations.StoreInRegion := by
  intro x s core slot t ptr v target e r h ready opens rbk clear hv hr b
  have args (l) : (s.relatch core l).stArgs core slot t x = .ok (ptr, v) := State.stArgs_ok (ready_relatch ready l) (by rw [State.srcN_relatch, hv])
  have size : sizeOf_ x = bytesOfAccess x := rfl
  have tlb (l) : ((s.relatch core l).core core).tlb = (s.core core).tlb := by rw [State.core_relatch_self]
  have stores (l) (cover) := State.storeBy_region (slot := slot) (hint := hintOf x) (v := v) (s := s.relatch core l) opens rbk (by
    rw [tlb]
    exact State.resolve_relatch clear hr l) cover
  have one (l) (cover) : stOne x (s.relatch core l) cover (s.relatch core l) core slot t = (s.relatch core l).finish core x.len slot
      (if (granules core (r.stores ++ [b])).length ≤ 16 then .ok (fun z => (z.fillTlb core e).modThread core slot (Thread.pushing b))
        else .error (.overflow ptr)) := by
    simp only [stOne, args, size, stores, bind, Except.bind]
    rfl
  have region : t.region = some r := by
    unfold Thread.openRegion at opens
    split at opens
    · exact opens
    · cases opens
  refine ⟨fun room => ?_, fun full hd => ?_⟩
  · refine completes_of_heldSeq (f := fun s => stOne x s (s.storeCover x)) (LatchBlind.buffers t x.len _) h ready.guard rfl (fun l => ?_)
    have here := buffers_pushed (h.relatch l).thread region (walkClear_congr (SameWalks.relatch s core l) clear) x.len b
    rw [one, if_pos room]
    exact here
  · refine completes_of_heldSeq (f := fun s => stOne x s (s.storeCover x)) (LatchBlind.trapped _ _ _) h ready.guard rfl (fun l => ?_)
    rw [one, if_neg (Nat.not_le.2 full)]
    simp only [State.finish, State.stop, (h.relatch l).thread]
    exact Trapped.addressed (h.relatch l).thread (hd.relatch core l) ptr _

end

section
namespace Sys2Proof.Machine
open Sys2Proof Sys2Proof.Claims

/-! ## A load that enters its core (05 R117) -/

/-- Of a core nothing changed but what its caches and its TLB hold. -/
def Cached (c c' : Core) : Prop := c' = { c with tlb := c'.tlb, place := c'.place, lines := c'.lines, constant := c'.constant }

/-- Nothing changed but what a core's caches and its TLB hold, and what reads do at the slices. -/
def Reads (core : Nat) (s s' : State) : Prop := SlicesCore core s s' ∧ Cached (s.core core) (s'.core core)

section
variable {s s' s'' : State} {core slot : Nat} {c c' c'' : Core}

theorem Cached.refl (c : Core) : Cached c c := rfl

theorem Cached.trans (h : Cached c c') (k : Cached c' c'') : Cached c c'' :=
  Eq.trans k (congrArg (fun z : Core => { z with tlb := c''.tlb, place := c''.place, lines := c''.lines, constant := c''.constant }) h)

theorem Reads.refl (core : Nat) (s : State) : Reads core s s := ⟨SlicesCore.of_slices (SlicesOnly.refl s), Cached.refl _⟩

theorem Reads.trans (h : Reads core s s') (k : Reads core s' s'') : Reads core s s'' := ⟨h.1.trans k.1, h.2.trans k.2⟩

theorem Reads.of_slices (h : SlicesOnly s s') : Reads core s s' := by
  refine ⟨SlicesCore.of_slices h, ?_⟩
  rw [State.core_congr (Traffic.of_slices h).cores]
  exact Cached.refl _

theorem Reads.of_modCore {f : Core → Core} (hf : Cached (s.core core) (f (s.core core))) : Reads core s (s.modCore core f) := by
  refine ⟨SlicesCore.of_core (OnlyCore.modCore core s f), ?_⟩
  rw [State.core_modCore_self]
  exact hf

theorem OnlyThread.of_cached (slot : Nat) (h : Cached c c') : OnlyThread slot c c' := by
  rw [h]
  exact ⟨fun _ _ => rfl, fun _ h _ => h⟩

theorem OnlyThread.withLoads (slot : Nat) (c : Core) (ls : List Load) : OnlyThread slot c { c with loads := ls } := ⟨fun _ _ => rfl, fun _ h _ => h⟩

theorem Reads.storesSame (h : Reads core s s') : StoresSame s s' := by
  obtain ⟨⟨w, slices, others⟩, cached⟩ := h
  intro m
  by_cases hm : m = core
  · rw [hm, cached]
  · rw [others.2 m hm, State.core_congr (Traffic.of_slices slices).cores]

theorem cached_noteRead (c : Core) (ctx pa n v : Nat) : Cached c (c.noteRead ctx pa n v) := by
  unfold Core.noteRead
  dsimp only
  split
  · split
    · split <;> rfl
    · split <;> rfl
  · split <;> rfl

theorem cached_enterLine (c : Core) (l : Line) (hint : Nat) : Cached c (c.enterLine l hint) := by
  unfold Core.enterLine
  split <;> rfl

/-- What such a change leaves of the device. -/
theorem SlicesCore.fields (h : SlicesCore core s s') : MemorySame s s' ∧ s'.islands = s.islands ∧ s'.time = s.time ∧ s'.launches = s.launches := by
  obtain ⟨w, slices, cores, -⟩ := h
  rw [cores, slices]
  exact ⟨⟨rfl, rfl, rfl⟩, rfl, rfl, rfl⟩

/-- A load has entered behind a read, and nothing of memory or of a core store has changed. -/
def Loads (core slot : Nat) (t : Thread) (x : XOps) (kind : LoadKind) (ptr : DWord) (dests : List (BitVec 8 × Nat)) (data : Option (BitVec 128)) (s s' : State) : Prop :=
  MemorySame s s' ∧ StoresSame s s' ∧ Entered s s' core slot t x kind ptr dests data

theorem LatchBlind.loads (t : Thread) (x : XOps) (kind : LoadKind) (ptr : DWord) (dests : List (BitVec 8 × Nat)) (data : Option (BitVec 128)) :
    LatchBlind core slot (Loads core slot t x kind ptr dests data) := by
  rintro s s' a b ha hb ⟨memory, stores, entered⟩
  refine ⟨memory, LatchBlind.storesSame s s' a b ha hb stores, ?_, LatchBlind.thread _ s s' a b ha hb entered.thread,
    LatchBlind.othersThinned s s' a b ha hb entered.threads, fun other => LatchBlind.onlyThread s s' a b ha hb (entered.others other)⟩
  obtain ⟨l, listed, fields⟩ := entered.load
  refine ⟨l, ?_, fields⟩
  rw [Core.loads_advance, State.core_relatch_self] at listed
  rw [Core.loads_advance, State.core_relatch_self]
  exact listed

/-- A thread whose time register takes a load (05 R117). -/
def Thread.probes (t : Thread) (x : XOps) (w : Word) : Thread := if x.te then (t.setTreg x.t w).freeTreg x.t else t

/-- With TE = 0 no time register takes the load. -/
theorem State.modThread_probes {u : Thread} (hu : s.thread? core slot = some u) (x : XOps) (w : Word) :
    s.modThread core slot (·.probes x w) = if x.te then s.modThread core slot (fun t => (t.setTreg x.t w).freeTreg x.t) else s := by
  unfold Thread.probes
  by_cases te : x.te = true
  · simp only [te, ↓reduceIte]
  · simp only [te, Bool.false_eq_true, ↓reduceIte]
    have same : (s.core core).modThread slot (fun t => t) = s.core core := Core.modThread_same hu rfl
    have put : s.modThread core slot (fun t => t) = s.modCore core (fun c => c) := congrArg (s.setCore core) same
    rw [put, State.modCore_id hu]

/-- What a thread of a core and its loads become when a load enters. -/
theorem State.issueLoad_eq {u : Thread} (hu : s.thread? core slot = some u) (t : Thread) (x : XOps) (kind : LoadKind) (ptr : DWord)
    (dests : List (BitVec 8 × Nat)) (data : Option (BitVec 128)) (source : Nat) (req : Option (Nat × Nat × Nat)) (leaf : DWord) (cause : Option Nat)
    (fault : Option (FaultKind × Nat)) (overlaid : List (Nat × BitVec 8)) : ∃ l : Load,
      (s.issueLoad core slot t x kind ptr dests data source req leaf cause fault overlaid).1 =
        ({ s with seq := s.seq + 1 }.modCore core (fun c => { c with loads := c.loads ++ [l] })).modThread core slot
          (·.probes x (mkTreg .probing (s.now29 core))) ∧
      l.slot = slot ∧ l.kind = kind ∧ l.va = ptr ∧ l.pc = t.pc ∧ l.dests = dests ∧ l.data = data ∧ l.la = x.la.toNat ∧
        l.treg = (if x.te then some x.t else none) := by
  have now (l : Load) : ({ s with seq := s.seq + 1 }.modCore core (fun c => { c with loads := c.loads ++ [l] })).thread? core slot = some u := by
    rw [State.thread?, State.core_modCore_self]
    exact hu
  refine ⟨?load, Eq.trans ?enters (State.modThread_probes (now ?load) x _).symm, ?fields⟩
  case enters => rfl
  case fields => exact ⟨rfl, rfl, rfl, rfl, rfl, rfl, rfl, rfl⟩

theorem Thread.treg_probes (t : Thread) (x : XOps) (w : Word) (m : BitVec 3) : (t.probes x w).treg m = if x.te = true ∧ m = x.t then w else t.treg m := by
  have free (u : Thread) : (u.freeTreg x.t).treg m = u.treg m := rfl
  unfold Thread.probes
  by_cases te : x.te = true
  · by_cases named : m = x.t
    · rw [if_pos te, if_pos ⟨te, named⟩, free, named, Thread.treg_setTreg_self]
    · rw [if_pos te, if_neg (fun h => named h.2), free, Thread.treg_setTreg_ne t w named]
  · rw [if_neg te, if_neg (fun h => te h.1)]

theorem Thread.probes_rest (t : Thread) (x : XOps) (w : Word) :
    t.probes x w = { t with tregs := (t.probes x w).tregs, taints := (t.probes x w).taints } := by
  unfold Thread.probes
  split <;> rfl

/-- A load enters behind its thread's advance and what its read has done. -/
theorem loads_issueLoad {z : State} {t : Thread} {x : XOps} (ht : s.thread? core slot = some t)
    (read : Reads core (s.modCore core (·.advance slot x.len)) z) (kind : LoadKind) (ptr : DWord)
    (dests : List (BitVec 8 × Nat)) (data : Option (BitVec 128)) (source : Nat) (req : Option (Nat × Nat × Nat)) (leaf : DWord) (cause : Option Nat)
    (fault : Option (FaultKind × Nat)) (overlaid : List (Nat × BitVec 8)) :
    Loads core slot t x kind ptr dests data s (z.issueLoad core slot t x kind ptr dests data source req leaf cause fault overlaid).1 := by
  have stores := read.storesSame
  obtain ⟨slices, cached⟩ := read
  rw [State.core_modCore_self] at cached
  have hz : z.thread? core slot = some { t.past x.len with park := none } := by
    rw [State.thread?] at ht ⊢
    have k := (s.core core).thread?_advance slot x.len slot
    rw [if_pos rfl, ht] at k
    rw [cached]
    exact k
  obtain ⟨l, issued, fields⟩ := State.issueLoad_eq hz t x kind ptr dests data source req leaf cause fault overlaid
  rw [issued]
  obtain ⟨memory, -, -, -⟩ := slices.fields
  have now : z.now29 core = s.now29 core := by
    unfold State.now29 State.cycle State.island
    obtain ⟨-, islands, time, -⟩ := slices.fields
    rw [islands, time]
    rfl
  have own (f : Core → Core) : ({ z with seq := z.seq + 1 }.modCore core f).core core = f (z.core core) := State.core_modCore_self _ core f
  have advanced (m : Nat) : ((s.modCore core (·.advance slot x.len)).core m).store = (s.core m).store :=
    core_rel_modCore (R := fun k k' => k'.store = k.store) (fun _ => rfl) (fun k => k.advance_store slot x.len) s core m
  have only : OnlyThread slot (s.core core) ((({ z with seq := z.seq + 1 }.modCore core (fun c => { c with loads := c.loads ++ [l] })).modThread core slot
      (·.probes x (mkTreg .probing (z.now29 core)))).core core) := by
    rw [State.core_modThread_self, own]
    exact (((OnlyThread.advance _ slot x.len).trans (OnlyThread.of_cached slot cached)).trans (OnlyThread.withLoads slot _ _)).trans
      (OnlyThread.modThread _ slot _)
  refine ⟨memory, fun m => ?_, ⟨l, ?_, fields⟩, ⟨({ t.past x.len with park := none } : Thread).probes x (mkTreg .probing (z.now29 core)), ?_, ?_, fun m => ?_⟩,
    OthersThinned.of_only only, fun _ => only⟩
  · have issues := (core_rel_modCore (R := fun k k' => k'.store = k.store) (fun _ => rfl)
      (fun k => Core.modThread_store k slot (·.probes x (mkTreg .probing (z.now29 core)))) _ core m).trans
      (core_rel_modCore (R := fun k k' => k'.store = k.store) (f := fun c => { c with loads := c.loads ++ [l] }) (fun _ => rfl) (fun _ => rfl)
        { z with seq := z.seq + 1 } core m)
    exact issues.trans ((stores m).trans (advanced m))
  · rw [State.core_modThread_self, own, Core.modThread_loads, cached]
  · rw [State.thread?_modThread_self, State.thread?, own]
    exact congrArg (Option.map _) hz
  · exact Thread.probes_rest _ x _
  · rw [Thread.treg_probes, now]
    rfl

end
end Sys2Proof.Machine
end
section
namespace Sys2Proof.Machine
open Sys2Proof Sys2Proof.Claims

/-! ## The value of a load (08 R175, 21 R416) -/

/-- A load of n bytes takes the low n bytes. -/
theorem loadValue_mod (n : Nat) (signed : Bool) (v : Nat) : loadValue n signed (v % 256 ^ n) = loadValue n signed v := by
  unfold loadValue
  split <;> rename_i byte
  · rw [byte.2, pow_one]
    congr 3
    exact BitVec.eq_of_toNat_eq (by simp)
  · split <;> rename_i half
    · rw [half.2]
      congr 3
      exact BitVec.eq_of_toNat_eq (by simp)
    · rw [Nat.mod_mod]

/-- The bytes of a number from one on, put together. -/
theorem foldr_bytes (d : Nat) : ∀ m k, (List.range' k m).foldr (fun i acc => d / 256 ^ i % 256 + 256 * acc) 0 = d / 256 ^ k % 256 ^ m
  | 0, k => by rw [List.range'_zero, List.foldr_nil, pow_zero, Nat.mod_one]
  | m + 1, k => by
    rw [List.range'_succ, List.foldr_cons, foldr_bytes d m (k + 1), pow_succ' 256 m, Nat.mod_mul, pow_succ, Nat.div_div_eq_div_mul]

theorem tget_map_self {α : Type} (g : Nat → α) {l : List Nat} {i : Nat} (hi : i ∈ l) : tget (l.map (fun i => (i, g i))) i = some (g i) := by
  induction l with
  | nil => cases hi
  | cons j r ih =>
    rw [List.map_cons, tget]
    split <;> rename_i same
    · rw [same]
    · exact ih ((List.mem_cons.1 hi).resolve_left (fun e => same e.symm))

/-- Bytes laid over the whole of a value. -/
theorem overlay_all {n : Nat} (pos : 0 < n) (d v : Nat) : overlay ((List.range n).map (fun i => (i, BitVec.ofNat 8 (d / 256 ^ i % 256)))) n v = d % 256 ^ n := by
  obtain ⟨m, rfl⟩ := Nat.exists_eq_add_of_lt pos
  have full : ((List.range (0 + m + 1)).map (fun i => (i, BitVec.ofNat 8 (d / 256 ^ i % 256)))).isEmpty = false := by
    rw [List.isEmpty_map, List.range_succ]
    simp
  unfold overlay
  rw [full, if_neg Bool.false_ne_true]
  have whole := foldr_bytes d (0 + m + 1) 0
  rw [← List.range_eq_range', pow_zero, Nat.div_one] at whole
  rw [← whole]
  refine List.foldr_ext _ _ _ (fun i hi acc => ?_)
  rw [tget_map_self (fun i => BitVec.ofNat 8 (d / 256 ^ i % 256)) hi]
  simp

/-- What a store buffered for a place of a core store holds there. -/
theorem Buffered.byteAt_store {core c off i : Nat} {b : Buffered} (target : b.target core = .store c off) (plain : leafNq b.leaf = false) (hi : i < b.size) :
    b.byteAt core ((Target.store c off).place i) = some (b.data.toNat / 256 ^ i % 256) := by
  have found : (List.range b.size).find? (fun j => (Target.store c off).place j == (Target.store c off).place i) = some i := by
    rw [List.find?_range_eq_some]
    refine ⟨by simp, List.mem_range.2 hi, fun j hj => ?_⟩
    simp only [Target.place, Bool.not_eq_true', beq_eq_false_iff_ne, ne_eq]
    omega
  simp only [Buffered.byteAt, target, found, Option.map_some, plain, Bool.false_eq_true, ↓reduceIte]

/-- The latest store of a thread to a place of a core store lies over all of it (08 R175). -/
theorem laidOver_last {core c off n : Nat} {pre : List Buffered} {b : Buffered} (target : b.target core = .store c off) (plain : leafNq b.leaf = false)
    (size : b.size = n) : laidOver core (pre ++ [b]) (.store c off) n = (List.range n).map (fun i => (i, BitVec.ofNat 8 (b.data.toNat / 256 ^ i % 256))) := by
  unfold laidOver
  rw [if_neg (by simp), ← List.filterMap_eq_map']
  refine List.filterMap_congr (fun i hi => ?_)
  rw [List.reverse_append, List.reverse_singleton, List.singleton_append, List.findSome?_cons,
    Buffered.byteAt_store target plain (size ▸ List.mem_range.1 hi)]
  rfl

theorem laidOver_nil (core : Nat) (t : Target) (n : Nat) : laidOver core [] t n = [] := rfl

theorem overlay_nil (n v : Nat) : overlay [] n v = v := rfl

end Sys2Proof.Machine
end
section
namespace Sys2Proof.Machine
open Sys2Proof Sys2Proof.Claims

/-! ## A request within one sector (09 R201, R205) -/

theorem byteMask_bit (off n : Nat) {i : Nat} (hi : i < 128) : (byteMask off n).getLsbD i = decide (off ≤ i ∧ i < off + n) := by
  rw [byteMask, BitVec.getLsbD_ofNat, Nat.testBit_mul_two_pow, Nat.testBit_two_pow_sub_one]
  simp only [hi, decide_true, Bool.true_and]
  by_cases low : off ≤ i
  · by_cases high : i < off + n
    · have : i - off < n := by omega
      simp [low, high, this]
    · have : ¬ i - off < n := by omega
      simp [high, this]
  · simp [low]

/-- The bytes of a line in a cover to which some addresses are added. -/
theorem Cover.add_bit (pas : List Nat) (line : Nat) {i : Nat} (hi : i < 128) : ∀ c : Cover, ((tget (c.add pas) line).getD 0).getLsbD i =
    (((tget c line).getD 0).getLsbD i || pas.any (fun p => p / 128 == line && p % 128 == i)) := by
  induction pas with
  | nil => intro c; rw [List.any_nil, Bool.or_false]; rfl
  | cons p r ih =>
    intro c
    have step : c.add (p :: r) = Cover.add (tset c (p / 128) (((tget c (p / 128)).getD 0) ||| byteMask (p % 128) 1)) r := rfl
    rw [step, ih, List.any_cons, ← Bool.or_assoc]
    congr 1
    rw [tget_tset]
    by_cases there : p / 128 = line
    · subst there
      rw [if_pos rfl, Option.getD_some, BitVec.getLsbD_or, byteMask_bit _ _ hi, beq_self_eq_true, Bool.true_and]
      congr 1
      rw [Bool.eq_iff_iff, decide_eq_true_iff, beq_iff_eq]
      omega
    · rw [if_neg (fun e => there e.symm), beq_false_of_ne there, Bool.false_and, Bool.or_false]

/-- What an access asks for of its line, where it is alone in its group. -/
theorem Cover.mask_alone {pa n i : Nat} (hi : i < 128) :
    (Cover.mask (Cover.add [] ((List.range n).map (pa + ·))) pa n).getLsbD i = decide (pa % 128 ≤ i ∧ i < pa % 128 + n) := by
  rw [Cover.mask, BitVec.getLsbD_or, byteMask_bit _ _ hi, Cover.add_bit _ _ hi]
  by_cases asked : pa % 128 ≤ i ∧ i < pa % 128 + n
  · rw [decide_eq_true asked, Bool.or_true]
  · rw [decide_eq_false asked, Bool.or_false]
    simp only [tget, Option.getD_none, BitVec.ofNat_eq_ofNat, BitVec.getLsbD_zero, Bool.false_or, List.any_map, List.any_eq_false, List.mem_range,
      Function.comp_apply, Bool.and_eq_true, beq_iff_eq, not_and]
    intro k hk line
    omega

/-- The places of a run of bits. -/
theorem filter_range_run {off n N : Nat} (h : off + n ≤ N) : (List.range N).filter (fun i => decide (off ≤ i ∧ i < off + n)) = List.range' off n := by
  have split : List.range N = List.range' 0 off ++ (List.range' off n ++ List.range' (off + n) (N - (off + n))) := by
    rw [List.range_eq_range']
    have h1 := List.range'_append_1 (s := off) (m := n) (n := N - (off + n))
    have h2 := List.range'_append_1 (s := 0) (m := off) (n := n + (N - (off + n)))
    rw [h1]
    rw [Nat.zero_add] at h2
    rw [h2]
    congr 1
    omega
  rw [split, List.filter_append, List.filter_append, List.filter_eq_nil_iff.2, List.filter_eq_self.2, List.filter_eq_nil_iff.2, List.nil_append, List.append_nil]
  · intro i hi; simp [List.mem_range'_1] at hi ⊢; omega
  · intro i hi; simp [List.mem_range'_1] at hi ⊢; omega
  · intro i hi; simp [List.mem_range'_1] at hi ⊢; omega

/-- The block of a run of bytes within a sector: half of it, or all of it. -/
theorem blockOf_run {m : BitVec 128} {off n : Nat} (pos : 0 < n) (fits : off % 32 + n ≤ 32) (line : off < 128)
    (bits : ∀ i, i < 128 → m.getLsbD i = decide (off ≤ i ∧ i < off + n)) :
    blockOf m = (off / 16 * 16, 16) ∨ blockOf m = (off / 32 * 32, 32) := by
  have on : (List.range 128).filter (fun i => m.getLsbD i) = List.range' off n := by
    rw [← filter_range_run (show off + n ≤ 128 by omega)]
    exact List.filter_congr (fun i hi => bits i (List.mem_range.1 hi))
  obtain ⟨k, rfl⟩ := Nat.exists_eq_add_of_lt pos
  have last : (List.range' off (0 + k + 1)).getLastD 0 = off + k := by
    rw [List.range'_concat]
    simp
  unfold blockOf
  dsimp only
  rw [on, last, List.range'_succ, List.headD_cons]
  by_cases half : off / 16 = (off + k) / 16
  · left
    simp [List.find?, half]
  · right
    have whole : off / 32 = (off + k) / 32 := by omega
    simp [List.find?, beq_false_of_ne half, whole]

theorem sectors_of_half : ∀ b : Fin 8, (List.range 4).filter (fun k => (sectorMask (b.val * 16) 16).getLsbD k) = [b.val / 2] := by decide

theorem sectors_of_whole : ∀ b : Fin 4, (List.range 4).filter (fun k => (sectorMask (b.val * 32) 32).getLsbD k) = [b.val] := by decide

theorem sectorMask_mod (pa n : Nat) : sectorMask (pa % 128) n = sectorMask pa n := by
  unfold sectorMask
  rw [Nat.mod_mod]

/-- The request of such an access is for the sector that it lies in. -/
theorem request_sectors {pa n : Nat} (pos : 0 < n) (fits : pa % 32 + n ≤ 32) :
    let r := Cover.request (Cover.add [] ((List.range n).map (pa + ·))) pa n
    (List.range 4).filter (fun k => (sectorMask r.1 r.2).getLsbD k) = [pa % 128 / 32] := by
  intro r
  have bits (i : Nat) (hi : i < 128) := Cover.mask_alone (pa := pa) (n := n) hi
  have hr : r = (pa / 128 * 128 + (blockOf (Cover.mask (Cover.add [] ((List.range n).map (pa + ·))) pa n)).1,
    (blockOf (Cover.mask (Cover.add [] ((List.range n).map (pa + ·))) pa n)).2) := rfl
  rcases blockOf_run pos (show pa % 128 % 32 + n ≤ 32 by omega) (Nat.mod_lt _ (by decide)) bits with half | whole
  · rw [hr, half, ← sectorMask_mod, show (pa / 128 * 128 + pa % 128 / 16 * 16) % 128 = pa % 128 / 16 * 16 by omega,
      sectors_of_half ⟨pa % 128 / 16, by omega⟩]
    congr 1
    show pa % 128 / 16 / 2 = _
    omega
  · rw [hr, whole, ← sectorMask_mod, show (pa / 128 * 128 + pa % 128 / 32 * 32) % 128 = pa % 128 / 32 * 32 by omega,
      sectors_of_whole ⟨pa % 128 / 32, by omega⟩]

end Sys2Proof.Machine
end
section
namespace Sys2Proof.Machine
open Sys2Proof Sys2Proof.Claims

/-! ## Reads of memory of which no core holds a copy (08 R179, 09 R201) -/

section
variable {s : State} {core lid ctx pa n hint w : Nat} {leaf : DWord}

/-- A read at the point of coherence finds no line of its launch to be written back and none to be sent. -/
theorem readPoc_uncopied (uncopied : NoCopies s (pa / 128)) (hw : s.readPa ctx (leafMac leaf) pa n = .ok w) (cover : Cover) :
    ∃ z, s.readPoc core lid ctx leaf pa n hint cover = (z, .ok w) ∧ Reads core s z := by
  have flushed : s.flushLine core lid (pa / 128) false = s := by simp only [State.flushLine, noCopies_line? uncopied]
  refine ⟨_, ?_, (Reads.of_modCore (f := (·.noteRead ctx pa n w)) (cached_noteRead _ ctx pa n w)).trans (Reads.of_slices (slicesOnly_l2Read _ (cover.request pa n).1 (cover.request pa n).2
    (lsReq leaf hint)))⟩
  simp only [State.readPoc, flushed, State.pull_quiet (noCopies_quiet uncopied), hw]

/-- The bytes of a line that a fill of an empty one has brought. -/
theorem lineBytes_fill {l : Line} {off : Nat} (empty : l.data = 0#1024) (clean : l.dirty = 0) (line : off < 128) (fits : off % 32 + n ≤ 32) :
    lineBytes (l.fill (off / 32) w).data off n = w / 256 ^ (off % 32) % 256 ^ n := by
  have mask : (List.range 32).foldl (fun m i => if l.dirty.getLsbD (off / 32 * 32 + i) then m ||| (0xFF#256 <<< (8 * i)) else m) 0#256 = 0#256 := by
    rw [clean]
    simp
  have data : (l.fill (off / 32) w).data = BitVec.ofNat 1024 (w % 2 ^ 256 * 256 ^ (off / 32 * 32)) := by
    unfold Line.fill
    dsimp only
    rw [mask, empty]
    have kept : (w % 2 ^ 256) % 256 ^ 32 = w % 2 ^ 256 := Nat.mod_eq_of_lt (Nat.mod_lt _ (by decide))
    rw [BitVec.and_zero, BitVec.zero_or, BitVec.not_zero, BitVec.and_allOnes, BitVec.toNat_ofNat, lineSet, BitVec.zero_and, BitVec.zero_or, kept]
  have size : w % 2 ^ 256 * 256 ^ (off / 32 * 32) < 2 ^ 1024 := by
    have k : off / 32 * 32 ≤ 96 := by omega
    calc w % 2 ^ 256 * 256 ^ (off / 32 * 32) < 2 ^ 256 * 256 ^ (off / 32 * 32) := (Nat.mul_lt_mul_right (Nat.pow_pos (by decide))).2 (Nat.mod_lt _ (by decide))
      _ ≤ 2 ^ 256 * 256 ^ 96 := Nat.mul_le_mul_left _ (Nat.pow_le_pow_right (by decide) k)
      _ = 2 ^ 1024 := by rw [show (256 : Nat) ^ 96 = 2 ^ 768 from by rw [show (256 : Nat) = 2 ^ 8 from rfl, ← Nat.pow_mul], ← Nat.pow_add]
  have place : (256 : Nat) ^ off = 256 ^ (off / 32 * 32) * 256 ^ (off % 32) := by
    rw [← Nat.pow_add]
    congr 1
    omega
  have sector : (2 : Nat) ^ 256 = 256 ^ (off % 32) * 256 ^ (32 - off % 32) := by
    rw [← Nat.pow_add, Nat.add_sub_cancel' (by omega)]
    norm_num
  unfold lineBytes
  rw [data, BitVec.toNat_ofNat, Nat.mod_eq_of_lt size, place, ← Nat.div_div_eq_div_mul, Nat.mul_div_cancel _ (Nat.pow_pos (by decide)), sector,
    Nat.mod_mul_right_div_self, Nat.mod_mod_of_dvd _ (Nat.pow_dvd_pow 256 (by omega))]

/-- The line that a miss of a load enters. -/
def Line.entering (lid addr ctx hint : Nat) (leaf : DWord) : Line := { Line.new lid addr ctx with retain := hint == 2, leaf := leaf }

theorem Line.readable_entering (lid addr ctx hint : Nat) (leaf : DWord) : (Line.entering lid addr ctx hint leaf).readable = 0 := by
  simp [Line.readable, Line.entering, Line.new, List.range_succ]

theorem Line.current_entering (lid addr ctx hint : Nat) (leaf : DWord) : (Line.entering lid addr ctx hint leaf).current = 0 := by
  simp [Line.current, Line.entering, Line.new]

/-- A read that misses in its share brings in the sector that it lies in. -/
theorem readL1_miss (uncopied : NoCopies s (pa / 128)) (way : (s.core core).l1Out lid (pa / 128) = none) (pos : 0 < n) (fits : pa % 32 + n ≤ 32)
    (hw : s.readPa ctx (leafMac leaf) (pa / 32 * 32) 32 = .ok w) :
    ∃ z, s.readL1 core lid ctx leaf pa n hint (Cover.add [] ((List.range n).map (pa + ·))) = (z, .ok (w / 256 ^ (pa % 32) % 256 ^ n, false)) ∧
      Reads core s z := by
  have absent := noCopies_line? uncopied core lid
  have asks : Cover.mask (Cover.add [] ((List.range n).map (pa + ·))) pa n &&& ~~~(Line.entering lid (pa / 128) ctx hint leaf).readable ≠ 0 := by
    intro none
    have bit := congrArg (fun m : BitVec 128 => m.getLsbD (pa % 128)) none
    have here : pa % 128 < 128 := Nat.mod_lt _ (by decide)
    have asked : pa % 128 ≤ pa % 128 ∧ pa % 128 < pa % 128 + n := ⟨Nat.le_refl _, by omega⟩
    simp only [BitVec.getLsbD_and, Cover.mask_alone here, Line.readable_entering, decide_eq_true asked] at bit
    rw [show ~~~(0 : BitVec 128) = BitVec.allOnes 128 from by decide, BitVec.getLsbD_allOnes, decide_eq_true here] at bit
    simp at bit
  have sectors : (List.range 4).filter (fun k => (sectorMask (Cover.request (Cover.add [] ((List.range n).map (pa + ·))) pa n).1
      (Cover.request (Cover.add [] ((List.range n).map (pa + ·))) pa n).2).getLsbD k &&
      !(Line.entering lid (pa / 128) ctx hint leaf).current.getLsbD k) = [pa % 128 / 32] := by
    rw [← request_sectors pos fits]
    refine List.filter_congr (fun k _ => ?_)
    rw [Line.current_entering]
    simp
  have sector : pa / 128 * 128 + pa % 128 / 32 * 32 = pa / 32 * 32 := by omega
  have bytes := lineBytes_fill (l := Line.entering lid (pa / 128) ctx hint leaf) (w := w) (n := n) (off := pa % 128) rfl rfl
    (Nat.mod_lt _ (by decide)) (by omega)
  have place : pa % 128 % 32 = pa % 32 := by omega
  rw [place] at bytes
  have filled : s.fillSectors ctx leaf (Line.entering lid (pa / 128) ctx hint leaf) [pa % 128 / 32] =
      .ok ((Line.entering lid (pa / 128) ctx hint leaf).fill (pa % 128 / 32) w) := by
    have at_ : (Line.entering lid (pa / 128) ctx hint leaf).addr = pa / 128 := rfl
    rw [State.fillSectors, at_, sector, hw]
    rfl
  have stays : s.makeWay core lid (pa / 128) = s := by simp only [State.makeWay, way]
  have cached := (cached_enterLine (s.core core) ((Line.entering lid (pa / 128) ctx hint leaf).fill (pa % 128 / 32) w) hint).trans
    (cached_noteRead _ ctx pa n (w / 256 ^ (pa % 32) % 256 ^ n))
  refine ⟨_, ?_, (Reads.of_modCore (f := fun c => (c.enterLine _ hint).noteRead ctx pa n _) cached).trans
    (Reads.of_slices (slicesOnly_l2Read _ (Cover.request (Cover.add [] ((List.range n).map (pa + ·))) pa n).1
      (Cover.request (Cover.add [] ((List.range n).map (pa + ·))) pa n).2 (lsReq leaf hint)))⟩
  unfold State.readL1
  have enters : Line.entering lid (pa / 128) ctx hint leaf = { Line.new lid (pa / 128) ctx with retain := hint == 2, leaf := leaf } := rfl
  dsimp only at enters
  simp only [absent, Option.getD_none]
  rw [← enters, if_neg asks]
  simp only [stays, State.pull_quiet (noCopies_quiet uncopied), sectors, filled, bytes]

end
end Sys2Proof.Machine
end
section
namespace Sys2Proof.Machine
open Sys2Proof Sys2Proof.Claims

/-! ## LD (21 R416) -/

section
variable {s : State} {core slot : Nat} {t : Thread} {x : XOps} {ptr : DWord} {target : Target} {e : Option Tlb}

/-- The bytes that a group of one thread touches (09 R205). -/
theorem State.coverOf_solo (h : Solo s core slot t) {g : Guard} (on : t.guard g = true) {f : Nat → Nat → Thread → Option (Target × Nat)} {n : Nat}
    (hf : f core slot t = some (target, n)) : s.coverOf g f = Cover.add [] (target.asked n) := by
  obtain ⟨lid, pc, hc⟩ := h.cur
  simp only [State.coverOf, hc, List.foldl_cons, List.foldl_nil, h.thread, on, hf, ↓reduceIte]

/-- The address of an LD that is ready (21 R416, R419). -/
theorem State.loadArgs_ok (r : Ready s core slot t x (bytesOfAccess x) x.imm.toInt ptr (if x.d = 0xF8 then [] else codesOf x.d (bytesOfAccess x))) :
    s.loadArgs core slot t x = .ok ptr := by
  have size : sizeOf_ x = bytesOfAccess x := rfl
  have free : t.tregFree x = .ok () := by
    unfold Thread.tregFree
    rw [if_neg]
    rintro ⟨te, pending⟩
    rw [r.free te] at pending
    cases pending
  simp only [State.loadArgs, size, Core.checkMapped_ok r.mapped, r.address, needAligned, r.aligned, free, ↓reduceIte, bind, Except.bind]

theorem destsOf_lead (x : XOps) (n : Nat) : destsOf x.d n true = loadDests x n := by
  simp [destsOf, loadDests]

/-- A load enters with what its read has found. -/
theorem loads_loadFrom {y z : State} {n v src : Nat} {dests : List (BitVec 8 × Nat)} {cover : Cover} (ht : s.thread? core slot = some t)
    (before : Reads core (s.modCore core (·.advance slot x.len)) y) (near : ∀ w off, target ≠ .fabric w off)
    (found : y.readTarget core t target n (hintOf x) cover = (z, .ok (v, src))) (reads : Reads core y z) :
    Loads core slot t x .ld ptr dests (some (loadValue n (x.sub.getLsbD 3) v)) s (y.loadFrom core slot t x false ptr n dests target cover) := by
  have enters (cause : Option Nat) : Loads core slot t x .ld ptr dests (some (loadValue n (x.sub.getLsbD 3) v)) s
      (z.issueShared core slot t x .ld ptr dests (some (extend n (x.sub.getLsbD 3) v)) src (target.request cover n) target.leaf cause []).1 := by
    unfold State.issueShared
    dsimp only
    split <;> exact loads_issueLoad ht (before.trans reads) .ld ptr dests _ _ _ _ _ _ _
  unfold State.loadFrom
  simp only [Bool.false_eq_true, ↓reduceIte, found]
  cases target with
  | fabric w off => exact absurd rfl (near w off)
  | mem pa leaf => exact enters _
  | elem frame e leaf => exact enters _
  | store c off => exact enters _
  | control die off => exact enters _

theorem State.above_relatch (l : List (Nat × BitVec 8 × Nat)) (u : Thread) : (s.relatch core l).above core u = s.above core u := by
  unfold State.above State.heldStores
  rw [State.core_relatch_self]
  rfl

/-- The stores that lie over memory for a thread follow from its core's blocks. -/
theorem State.above_congr {z : State} (blocks : (z.core core).blocks = (s.core core).blocks) (u : Thread) : z.above core u = s.above core u := by
  unfold State.above State.heldStores
  rw [Core.block?_congr blocks]

/-- A pointer that resolves to a core store for a load. -/
theorem State.resolve_store {lid ctx n c off : Nat} {tlb : List Tlb} {priv : Bool} {a : Acc}
    (h : s.resolve core lid ctx tlb priv .ldst ptr n a .ls = .ok (.store c off, e)) :
    0x00FE000000000000 ≤ (ptr.extractLsb' 0 56).toNat ∧ windowAt core (ptr.extractLsb' 0 56).toNat = (c, off) := by
  unfold State.resolve at h
  dsimp only at h
  split at h <;> rename_i above
  · rw [if_neg nofun] at h
    split at h
    · cases h
      exact ⟨above, rfl⟩
    · cases h
  · split at h
    · split at h <;> cases h
    · split at h
      · cases h
      · exact absurd (congrArg Prod.fst (Except.ok.inj h)) (Tlb.target_ne_store _ _ _ _)

end
end Sys2Proof.Machine
end
section
namespace Sys2Proof.Machine
open Sys2Proof Sys2Proof.Claims

section
variable {s : State} {core slot : Nat} {t : Thread} {x : XOps} {ptr : DWord} {target : Target} {e : Option Tlb} {c off : Nat}

theorem State.loadBy_store (hr : s.resolveLoad core t x false ptr = .ok (.store c off, e)) (sound : (s.core c).badIn off (bytesOfAccess x) = none)
    (lead : Bool) (cover : Cover) : s.loadBy core slot t x false lead cover (.ok ptr) =
      .ok (fun y => y.loadFrom core slot t x false ptr (bytesOfAccess x) (destsOf x.d (bytesOfAccess x) lead) (.store c off) cover) := by
  have size : sizeOf_ x = bytesOfAccess x := rfl
  simp only [State.loadBy, hr, size, sound, bind, Except.bind]

theorem State.loadBy_mem {pa : Nat} {leaf : DWord} (hr : s.resolveLoad core t x false ptr = .ok (.mem pa leaf, e)) (lead : Bool) (cover : Cover) :
    s.loadBy core slot t x false lead cover (.ok ptr) = .ok (fun y => (y.fillTlb core e).loadFrom core slot t x false ptr (bytesOfAccess x)
      (destsOf x.d (bytesOfAccess x) lead) (.mem pa leaf) cover) := by
  have size : sizeOf_ x = bytesOfAccess x := rfl
  simp only [State.loadBy, hr, size, bind, Except.bind]

/-- A load of a core store enters with the bytes there, under those of its thread's stores (08 R175). -/
theorem ldOne_store (h : Solo s core slot t) (r : Ready s core slot t x (bytesOfAccess x) x.imm.toInt ptr
    (if x.d = 0xF8 then [] else codesOf x.d (bytesOfAccess x))) (hr : s.resolveLoad core t x false ptr = .ok (.store c off, e))
    (sound : (s.core c).badIn off (bytesOfAccess x) = none) (cover : Cover) :
    Loads core slot t x .ld ptr (loadDests x (bytesOfAccess x)) (some (loadValue (bytesOfAccess x) (x.sub.getLsbD 3)
      (overlay (laidOver core (s.above core t) (.store c off) (bytesOfAccess x)) (bytesOfAccess x) ((s.core c).store.getN off (bytesOfAccess x)))))
      s (ldOne x s cover s core slot t) := by
  have stores : ((s.modCore core (·.advance slot x.len)).core c).store = (s.core c).store :=
    core_rel_modCore (R := fun k k' => k'.store = k.store) (fun _ => rfl) (fun k => k.advance_store slot x.len) s core c
  have above : (s.modCore core (·.advance slot x.len)).above core t = s.above core t := State.above_congr (by
    rw [State.core_modCore_self]
    exact Core.advance_blocks _ slot x.len) t
  simp only [ldOne, State.loadArgs_ok r, State.loadBy_store hr sound, State.finish, State.leads_solo h, destsOf_lead]
  refine loads_loadFrom h.thread (Reads.refl core _) nofun (src := if c = core then 0 else 8 + c) ?_ (Reads.refl core _)
  rw [State.readTarget]
  rw [stores, above]

/-- The state in which a load reads: its thread has advanced, and its translation stands in the TLB. -/
structure Translated (core : Nat) (s z y : State) : Prop where
  reads : Reads core z y
  walks : SameWalks s y
  lines : (y.core core).lines = (s.core core).lines
  shares : (y.core core).shares = (s.core core).shares
  blocks : (y.core core).blocks = (s.core core).blocks
  record : ∀ lid, y.rcd lid = s.rcd lid

theorem translated_fillTlb (h : Solo s core slot t) (clear : WalkClear s e) (len : Nat) :
    Translated core s (s.modCore core (·.advance slot len)) ((s.modCore core (·.advance slot len)).fillTlb core e) := by
  have now : (s.modCore core (·.advance slot len)).thread? core slot = some { t.past len with park := none } := by
    have ht := h.thread
    unfold State.thread? at ht ⊢
    rw [State.core_modCore_self, Core.thread?_advance, if_pos rfl, ht]
    rfl
  obtain ⟨w, p, slices, filled⟩ := State.fillTlb_clear now (walkClear_congr (SameWalks.advance s core slot len) clear)
  rw [filled]
  have same : ((w.modCore core (·.withTlb p)).core core) = ((s.core core).advance slot len).withTlb p := by
    rw [State.core_modCore_self, State.core_congr (Traffic.of_slices slices).cores, State.core_modCore_self]
  have reads : Reads core (s.modCore core (·.advance slot len)) (w.modCore core (·.withTlb p)) :=
    (Reads.of_slices slices).trans (Reads.of_modCore (f := (·.withTlb p)) rfl)
  refine ⟨reads, ((SameWalks.advance s core slot len).trans (SameWalks.of_traffic (Traffic.of_slices slices))).trans (SameWalks.modCore rfl), ?_, ?_, ?_,
    fun lid => ?_⟩
  · rw [same]; exact Core.advance_lines _ slot len
  · rw [same]; exact Core.advance_shares _ slot len
  · rw [same]; exact Core.advance_blocks _ slot len
  · obtain ⟨-, -, -, launches⟩ := reads.1.fields
    unfold State.rcd State.launch?
    rw [launches]
    rfl

theorem Core.l1Out_congr {k k' : Core} (lines : k'.lines = k.lines) (shares : k'.shares = k.shares) (lid addr : Nat) : k'.l1Out lid addr = k.l1Out lid addr := by
  have same : k'.sameSet = k.sameSet := by
    funext lid a b
    simp only [Core.sameSet, Core.l1Sets, shares]
  unfold Core.l1Out Core.line? Core.l1Ways
  rw [lines, same]

/-- A load of memory at the point of coherence (08 R179). -/
theorem ldOne_bypass {pa v : Nat} {leaf : DWord} (h : Solo s core slot t) (r : Ready s core slot t x (bytesOfAccess x) x.imm.toInt ptr
    (if x.d = 0xF8 then [] else codesOf x.d (bytesOfAccess x))) (hr : s.resolveLoad core t x false ptr = .ok (.mem pa leaf, e)) (clear : WalkClear s e)
    (bare : s.above core t = []) (uncopied : NoCopies s (pa / 128)) (bypass : x.sub.extractLsb' 4 2 = 3)
    (hv : s.readPa (s.ctxOf t) (leafMac leaf) pa (bytesOfAccess x) = .ok v) (cover : Cover) :
    Loads core slot t x .ld ptr (loadDests x (bytesOfAccess x)) (some (loadValue (bytesOfAccess x) (x.sub.getLsbD 3) v))
      s (ldOne x s cover s core slot t) := by
  simp only [ldOne, State.loadArgs_ok r, State.loadBy_mem hr, State.finish, State.leads_solo h, destsOf_lead]
  have k := translated_fillTlb h clear x.len
  obtain ⟨z, found, reads⟩ := readPoc_uncopied (core := core) (lid := t.lid) (hint := hintOf x) (k.walks.noCopies uncopied)
    ((State.readPa_congr k.walks.poc (s.ctxOf t) (leafMac leaf) pa (bytesOfAccess x)).trans hv) cover
  refine loads_loadFrom h.thread k.reads nofun (src := leafSource leaf) ?_ reads
  have hint : hintOf x = 3 := congrArg BitVec.toNat bypass
  have poc : atPoc (s.rcd t.lid).det leaf (hintOf x) = true := by rw [hint]; rfl
  simp only [State.readTarget, k.record, poc, ↓reduceIte]
  rw [State.ctxOf] at found
  simp only [found, State.above_congr k.blocks, bare, laidOver_nil, overlay_nil]

/-- A load of memory that misses in its share (09 R201). -/
theorem ldOne_miss {pa w : Nat} {leaf : DWord} (h : Solo s core slot t) (r : Ready s core slot t x (bytesOfAccess x) x.imm.toInt ptr
    (if x.d = 0xF8 then [] else codesOf x.d (bytesOfAccess x))) (hr : s.resolveLoad core t x false ptr = .ok (.mem pa leaf, e)) (clear : WalkClear s e)
    (bare : s.above core t = []) (uncopied : NoCopies s (pa / 128)) (cached : x.sub.extractLsb' 4 2 ≠ 3) (det : (s.rcd t.lid).det = false)
    (fits : pa % 32 + bytesOfAccess x ≤ 32) (way : (s.core core).l1Out t.lid (pa / 128) = none)
    (hw : s.readPa (s.ctxOf t) (leafMac leaf) (pa / 32 * 32) 32 = .ok w) :
    Loads core slot t x .ld ptr (loadDests x (bytesOfAccess x)) (some (loadValue (bytesOfAccess x) (x.sub.getLsbD 3) (w / 256 ^ (pa % 32))))
      s (ldOne x s (s.loadCover x false) s core slot t) := by
  have size : sizeOf_ x = bytesOfAccess x := rfl
  have alone : s.loadCover x false = Cover.add [] ((List.range (bytesOfAccess x)).map (pa + ·)) :=
    State.coverOf_solo h r.guard (target := .mem pa leaf) (n := bytesOfAccess x) (by simp only [State.loadArgs_ok r, hr, size])
  simp only [ldOne, State.loadArgs_ok r, State.loadBy_mem hr, State.finish, State.leads_solo h, destsOf_lead, alone]
  have k := translated_fillTlb h clear x.len
  obtain ⟨z, found, reads⟩ := readL1_miss (core := core) (lid := t.lid) (hint := hintOf x) (k.walks.noCopies uncopied)
    ((Core.l1Out_congr k.lines k.shares t.lid (pa / 128)).trans way) (Nat.two_pow_pos _) fits
    ((State.readPa_congr k.walks.poc (s.ctxOf t) (leafMac leaf) (pa / 32 * 32) 32).trans hw)
  rw [← loadValue_mod]
  refine loads_loadFrom h.thread k.reads nofun (src := leafSource leaf) ?_ reads
  have hint : hintOf x ≠ 3 := fun same => cached (BitVec.eq_of_toNat_eq same)
  have share : atPoc (s.rcd t.lid).det leaf (hintOf x) = false := by rw [atPoc, det, beq_false_of_ne hint]; rfl
  simp only [State.readTarget, k.record, share, Bool.false_eq_true, ↓reduceIte]
  rw [State.ctxOf] at found
  simp only [bytesOfAccess] at found ⊢
  simp only [found, State.above_congr k.blocks, bare, laidOver_nil, overlay_nil, Bool.false_eq_true, ↓reduceIte]

end
end Sys2Proof.Machine
end

section
open Sys2Proof Sys2Proof.Machine Sys2Proof.Claims

/-- Settles O29: the load reads at its issue the core store under its thread's stores, the point of coherence, or the sector that its miss brings in. -/
theorem loadResult : Obligations.LoadResult := by
  intro x s core slot t ptr target e h ready hr clear n enters
  have resolves (l) : (s.relatch core l).resolveLoad core t x false ptr = .ok (target, e) := by
    unfold State.resolveLoad
    rw [State.core_relatch_self]
    exact State.resolve_relatch clear hr l
  have run (v : Nat) (acts : ∀ l, Loads core slot t x .ld ptr (loadDests x n) (some (loadValue n (x.sub.getLsbD 3) v)) (s.relatch core l)
      (ldOne x (s.relatch core l) ((s.relatch core l).loadCover x false) (s.relatch core l) core slot t)) : enters v :=
    completes_of_heldSeq (f := fun s => ldOne x s (s.loadCover x false)) (LatchBlind.loads t x .ld ptr _ _) h ready.guard rfl acts
  have clears (l) := walkClear_congr (SameWalks.relatch s core l) clear
  have above (l) : (s.relatch core l).above core t = s.above core t := State.above_relatch l t
  refine ⟨?_, ?_⟩
  · rintro c off rfl sound
    have stored (l) : ((s.relatch core l).core c).store = (s.core c).store := by rw [State.core_relatch]
    have whole (l) : ((s.relatch core l).core c).badIn off n = none := by
      rw [State.core_relatch]
      exact sound
    have reads (v : Nat) (laid : loadValue n (x.sub.getLsbD 3) (overlay (laidOver core (s.above core t) (.store c off) n) n ((s.core c).store.getN off n)) =
        loadValue n (x.sub.getLsbD 3) v) : enters v := by
      refine run v (fun l => ?_)
      have k := ldOne_store (h.relatch l) (ready_relatch ready l) (resolves l) (whole l) ((s.relatch core l).loadCover x false)
      rw [above, stored, laid] at k
      exact k
    refine ⟨fun bare => reads _ (by rw [bare, laidOver_nil, overlay_nil]), fun pre b last va size plain => reads _ ?_⟩
    obtain ⟨window, place⟩ := State.resolve_store hr
    have there : b.target core = .store c off := by
      unfold Buffered.target
      dsimp only
      rw [va, if_pos window, place]
    have pos : 0 < n := Nat.two_pow_pos _
    rw [last, laidOver_last there plain size, overlay_all pos, loadValue_mod]
  · rintro pa leaf rfl bare uncopied
    have uncopies (l) := (SameWalks.relatch s core l).noCopies uncopied
    have bares (l) : (s.relatch core l).above core t = [] := (above l).trans bare
    refine ⟨fun v bypass hv => run v (fun l => ?_), fun w cached det fits way hw => run _ (fun l => ?_)⟩
    · exact ldOne_bypass (h.relatch l) (ready_relatch ready l) (resolves l) (clears l) (bares l) (uncopies l) bypass hv _
    · have ways : ((s.relatch core l).core core).l1Out t.lid (pa / 128) = none := by
        rw [State.core_relatch_self]
        exact way
      exact ldOne_miss (h.relatch l) (ready_relatch ready l) (resolves l) (clears l) (bares l) (uncopies l) cached det fits ways hw

end
